-- ==== Sys2Proof/Word.lean ====
section
/-!
DEFINITION. The word types of the block and their plainest arithmetic. Registers, tokens and memory are read as
little-endian 32-bit words; time values are 64-bit counts of tk.
-/

namespace Sys2Proof

abbrev Byte := BitVec 8
abbrev Word := BitVec 32
abbrev Dword := BitVec 64

end Sys2Proof
end

