-- ==== Sys2Proof/Syntax.lean ====
section
/-!
DEFINITION. The commands the block takes: one constructor for each row of the table of operations and events, with the
operands that come with it from outside (an access of the control port, a frame of a fabric port, a probe word, a value
on pins, a context that issues an instruction).
-/

namespace Sys2Proof

/-- A control-port access (R466, R467): the initiator's number and the level presented with the access
(1 L1, 2 L2, 3 L3; 0 is taken as L3). -/
structure Access where
  init : Nat
  lvl  : Nat
  deriving DecidableEq, Repr

/-- A frame taken from a fabric port (R471 to R475): port pair, whether tl_fip_err was set with its eof, and the bytes of
its beats in order. -/
structure RxFrame where
  pair  : Nat
  err   : Bool
  bytes : List Byte
  deriving DecidableEq, Repr

/-- A frame taken from a management network (R483): EtherType, whether rx_err was set, and the payload. -/
structure MgmtFrame where
  etype : Nat
  err   : Bool
  bytes : List Byte
  deriving DecidableEq, Repr

/-- Domains of posted writes (Table 17-3, R495). -/
inductive Domain where
  | time | sensor | flash | auth | model (n : Nat) | update
  deriving DecidableEq, Repr

/-- How a verification by the security core ends: accepted, or refused with the reason its chapter numbers. -/
inductive Verdict where
  | ok
  | refuse (reason : Nat)
  deriving DecidableEq, Repr

/-- What the codeword of an SRAM word shows when it is read (R5, R355): clean, a corrected single-bit error or an
uncorrectable error, with its syndrome. -/
inductive EccOutcome where
  | clean
  | corrected (syn : Nat)
  | uncorrectable (syn : Nat)
  deriving DecidableEq, Repr

/-- The commands of the block: one constructor per row of the spec's table of operations and events. A command of a
Dexey instruction names the context that issues it; a control-port command names the access. -/
inductive Instr where
  /-- RESET_ASSERT (R465): tl_rst_n falls; within 2 tclk every output takes its reset value, requests in flight are abandoned and tl_ready falls. -/
  | resetAssert
  /-- RESET_RELEASE (R465): Reset is released at the second tclk edge after tl_rst_n rises; the FRC starts at zero and stage S0 begins. -/
  | resetRelease
  /-- STAGE_ADVANCE (R441): A waiting bring-up stage meets its condition, writes its report and the next stage begins. -/
  | stageAdvance
  /-- CORE_REPORT_TIMEOUT (R442): A released firmware core has not reported within 100 ms and S2 fails with code 0x0203. -/
  | coreReportTimeout (x : Nat)
  /-- BOOT_GO (R443): A write of 1 to BOOT_GO ends the wait at S2 and stage S3 begins. -/
  | bootGo (a : Access) (v : Word)
  /-- VERSION_CHECK (R414): A write of FWC_HOST_VER repeats the host and firmware interface version check. -/
  | versionCheck (a : Access) (v : Word)
  /-- TRAINING_DONE (R480): The host strobes training done with settings for a port, and the block drops the request. -/
  | trainingDone (k : Nat) (cfg : BitVec 256)
  /-- TRAINING_FAIL (R480): The host strobes training fail; a failed fast start is retried as full training. -/
  | trainingFail (k : Nat)
  /-- TRAINING_TIMEOUT (R480): No training answer comes within 5 ms or 250 ms, and it counts as fail. -/
  | trainingTimeout (k : Nat)
  /-- BOOT_RERUN (R450): The guarded BOOT_RERUN re-runs bring-up from stage 4, 5 or 7, or is refused while a collection is active. -/
  | bootRerun (a : Access) (v : Word)
  /-- ATTACH_REQUEST (R447): A parent takes an ATTACH request, checks place, limits, duplicates and partition, and answers. -/
  | attachRequest (f : RxFrame)
  /-- ATTACH_REPLY (R447): An attaching instance takes an ATTACH reply and passes or waits at S7. -/
  | attachReply (f : RxFrame)
  /-- ATTACH_RETRY (R447): Every 100 ms without an acceptance, the attach frame is sent again. -/
  | attachRetry
  /-- PEER_TABLE (R448): A span instance takes a PEER TABLE frame, enters the sender in its table and answers TABLE_ACK. -/
  | peerTable (f : RxFrame)
  /-- PEER_TABLE_ACK (R448): A span instance takes a TABLE_ACK from a peer it has sent its table to. -/
  | peerTableAck (f : RxFrame)
  /-- PEER_TABLE_REPEAT (R448): Every 100 ms a span instance sends its TABLE frame again to each peer that has not answered. -/
  | peerTableRepeat
  /-- SPAN_WAIT_EXPIRE (R448): BOOT_SPAN_WAIT passes at S7, and the span instance passes S7 once every ready peer has answered. -/
  | spanWaitExpire
  /-- PRIMARY_FRAME (R32): A tray or standby span instance takes a PRIMARY frame and adopts the sender with the greatest epoch as primary. -/
  | primaryFrame (f : RxFrame)
  /-- PRIMARY_REPEAT (R32): Every 100 ms a primary span instance sends its PRIMARY frame again. -/
  | primaryRepeat
  /-- REGISTER_WRITE (R492): A control-port write to a register with no row of its own is checked and takes effect by its access code. -/
  | registerWrite (a : Access) (addr : Nat) (v : Word)
  /-- READ_CLEAR (R496): A read of an RC register returns its value and clears it, keeping a count made in the same tclk. -/
  | readClear (a : Access) (addr : Nat)
  /-- BIT_ALIAS_WRITE (R500): A write in the bit-alias window changes one bit of its target register according to the target's access code. -/
  | bitAliasWrite (a : Access) (addr : Nat) (v : Word)
  /-- POSTED_WRITE_APPLY (R495): A posted RWP write has been applied in its domain and BUSY clears. -/
  | postedWriteApply (d : Domain)
  /-- TREF_LOST (R46): No tref edge arrives for 16 tclk; TREF_LOST is set, the FRC runs from tclk and holdover begins. -/
  | trefLost
  /-- TREF_RETURN (R46): After 16 consecutive good tref edges the FRC resumes counting tref. -/
  | trefReturn
  /-- SERVO_OFFSET_POST (R57): A write of TIM_SERVO_OFS_LO posts a measured offset, which the servo applies, refuses or ignores. -/
  | servoOffsetPost (a : Access) (v : Word)
  /-- RATE_NOM_WRITE (R57): A write of TIM_RATE_NOM changes RATE with the y in force, continuously under R45. -/
  | rateNomWrite (a : Access) (hi : Bool) (v : Word)
  /-- HOLD_ENTER (R62): A write of 1 to TIM_CTRL.HOLD_ENTER enters holdover. -/
  | holdEnter (a : Access) (v : Word)
  /-- HOLD_TIMEOUT (R62): TIM_HOLD_TMO passes with no accepted measurement and the block enters holdover. -/
  | holdTimeout
  /-- TIME_STEP (R61): The guarded TIM_STEP pair adds a signed step to OFFSET, adjusts tracker stamps and fires or keeps time triggers. -/
  | timeStep (a : Access) (v : Word)
  /-- LEAP_AT_WRITE (R50): A write of TIM_LEAP_AT_LO applies the staged leap instant and checks it, setting or clearing ERR. -/
  | leapAtWrite (a : Access) (v : Word)
  /-- LEAP_KIND_WRITE (R50): A write of TIM_LEAP_CTRL.KIND sets the leap kind, clears DONE and ERR and checks the instant. -/
  | leapKindWrite (a : Access) (v : Word)
  /-- LEAP_INSTANT (R50): T64 reaches TIM_LEAP_AT; TIM_TAI_OFFSET changes by one second and DONE is set. -/
  | leapInstant
  /-- PPS_OUT_START (R51): At each whole second of T64 a pulse begins on tl_pps_out. -/
  | ppsOutStart
  /-- PPS_OUT_END (R51): TIM_PPS_W after its start, the pulse on tl_pps_out ends. -/
  | ppsOutEnd
  /-- PPS_IN (R482): A rising edge of tl_pps_in is stamped as port 62. -/
  | ppsIn
  /-- STAMP_CAPTURE (R52): A stamp presented on TS is captured, corrected and queued in the stamp FIFO, or dropped when bad or full. -/
  | stampCapture (port : Nat) (egr : Bool) (fine : Nat) (tag : BitVec 16)
  /-- STAMP_FIFO_POP (R53): A write of 1 to TIM_TSF_POP removes the head stamp. -/
  | stampFifoPop (a : Access) (v : Word)
  /-- TRIGGER_ARM (R77): A write of TIM_TTn_TIME_LO arms a time trigger with the new time. -/
  | triggerArm (a : Access) (n : Nat) (v : Word)
  /-- TIME_TRIGGER_FIRE (R77): T64 reaches a time trigger's time; it fires, posts its token, drives strobes and sets its next time. -/
  | timeTriggerFire (n : Nat)
  /-- STROBE_END (R80): The strobe width passes and the strobe falls. -/
  | strobeEnd (n : Nat)
  /-- TRN_MARK (R67): A write of TRN_MARK is a register-source marker for the tracker, or is counted as ignored. -/
  | trnMark (a : Access) (t : Nat) (v : Word)
  /-- TURN_OVERRUN (R73): Elapsed time in a turn reaches its prediction; the angle holds at 0xFFFF and the turn is flagged and counted. -/
  | turnOverrun (t : Nat)
  /-- TURN_STALL (R71): TRN_STALL passes with no marker; STALL is set and logged once. -/
  | turnStall (t : Nat)
  /-- TRACKER_ENABLE (R68): Setting TRN_CTRL.EN makes the tracker idle until its first marker. -/
  | trackerEnable (a : Access) (t : Nat) (v : Word)
  /-- TRACKER_DISABLE (R69): Clearing TRN_CTRL.EN abandons the current turn at once and raises TRN_DISABLED. -/
  | trackerDisable (a : Access) (t : Nat) (v : Word)
  /-- ANGLE_TRIGGER_FIRE (R77): A tracker's angle reaches a trigger slot's angle; it fires once in the turn, posting its token and driving strobes. -/
  | angleTriggerFire (t n : Nat)
  /-- PROBE_BEGIN (R92): A BEGIN event word is accepted and takes a pairing-store entry. -/
  | probeBegin (lane : Nat) (w : BitVec 128)
  /-- PROBE_END (R93): An END event word is accepted and forms a command record from its pair. -/
  | probeEnd (lane : Nat) (w : BitVec 128)
  /-- PROBE_LOSS (R92): A LOSS word closes the channel's pending entries and forms a loss record. -/
  | probeLoss (lane : Nat) (w : BitVec 128)
  /-- PROBE_BYTES (R104): A BYTES word adds to the current bandwidth window count of its port and direction. -/
  | probeBytes (lane : Nat) (w : BitVec 128)
  /-- COUNTER_WRAP (R96): A probe-group counter wraps modulo 2^48, setting its overflow bit and raising PRB_CNT_WRAP. -/
  | counterWrap (g k : Nat) (n : Nat)
  /-- COUNTER_WRITE (R97): A write of a counter LO register completes the staged value into the counter. -/
  | counterWrite (a : Access) (g k : Nat) (v : Word)
  /-- GROUP_CLEAR (R98): A write of 0xFE to a group's OWNER clears its counters, latched set and LSEQ. -/
  | groupClear (a : Access) (g : Nat) (v : Word)
  /-- PROBE_ENABLE (R111): Setting PRB_CTRL.EN starts the acceptance of probe words. -/
  | probeEnable (a : Access) (v : Word)
  /-- PROBE_DISABLE (R92): Clearing PRB_CTRL.EN closes every pending pairing entry as begin-only. -/
  | probeDisable (a : Access) (v : Word)
  /-- CHANNEL_DISABLE (R92): Clearing a channel's enable bit closes its pending entries as begin-only. -/
  | channelDisable (a : Access) (i : Nat) (v : Word)
  /-- DIGEST_STORE_CLEAR (R109): Clearing PRB_CTRL.DIG_EN empties the digest store. -/
  | digestStoreClear (a : Access) (v : Word)
  /-- SAMPLER_ENABLE (R102): A rise of PRB_SMP_CTRL.EN loads the LFSR from the seed and reloads the down-count. -/
  | samplerEnable (a : Access) (v : Word)
  /-- SAMPLE_DRAIN (R103): The sample buffer hands its oldest entry to the record path, which forms its SMP record. -/
  | sampleDrain
  /-- BW_WINDOW_CLOSE (R104): A bandwidth window ends; counts go to PRB_BW_LAST and PEAK, a BW record forms and counts clear. -/
  | bwWindowClose
  /-- SENSOR_SAMPLE (R105): At each 10 us multiple of T64 the sensor inputs are sampled and sensor records formed where due. -/
  | sensorSample (ts vs : List (Nat × BitVec 16))
  /-- ANALOG_UPDATE (R108): A host monitor strobes an analog-derived input, which is latched and forms a sensor record with its calibration age. -/
  | analogUpdate (i : Nat) (v : Word)
  /-- FRAME_FLUSH_TIMEOUT (R122): RCP_FLUSH passes since a frame's first record and the frame closes. -/
  | frameFlushTimeout (m : Nat)
  /-- RECORD_FRAME_SEND (R128): A waiting record frame leaves for the fabric or a local queue as credits or room arrive. -/
  | recordFrameSend
  /-- RECORD_PATH_ENABLE (R128): Setting RCP_CTRL.EN releases waiting frames in order. -/
  | recordPathEnable (a : Access) (v : Word)
  /-- HT_ENABLE (R130): A write of RCP_CTRL.HT_EN starts command-trace copying and clears HT_FULL. -/
  | htEnable (a : Access) (v : Word)
  /-- LOCAL_QUEUE_WRITE (R127): A write of RCP_LQ(c) is staged when it names a local queue of collection c, or refused otherwise. -/
  | localQueueWrite (a : Access) (c : Nat) (v : Word)
  /-- RECORD_FRAME_RECEIVE (R132): A tray takes a record frame from a member die, writes it to the flight window and decodes it. -/
  | recordFrameReceive (f : RxFrame)
  /-- FW_FREEZE (R134): A write of 1 to RCP_FW_FREEZE freezes the flight window stamped at the write. -/
  | fwFreeze (a : Access) (v : Word)
  /-- FW_FREEZE_END (R134): Arrival reaches the alarm time plus 4 s, or the ring fills; writing stops and FW_FROZEN is set. -/
  | fwFreezeEnd
  /-- FW_RELEASE (R135): A write of 1 to RCP_FW_RELEASE clears FW_FROZEN and writing resumes. -/
  | fwRelease (a : Access) (v : Word)
  /-- HISTORY_WRITE (R137): The history of a turn is written as felt streams to the history region, discarding the oldest turns. -/
  | historyWrite (c : Nat)
  /-- TRACE_ENABLE (R146): A write of 1 to CTR_CTRL.EN restarts a trace buffer at offset 0 and clears FULL. -/
  | traceEnable (a : Access) (b : Nat) (v : Word)
  /-- DEBUG_AUTH_GO (R139): A write of CTR_AUTH_GO has the security core verify the debug authorisation in the mailbox. -/
  | debugAuthGo (a : Access) (v : Word)
  /-- DEBUG_AUTH_RESULT (R434): Verification ends; on success the grants take force and CTR_GRANT is raised, else a reason is given. -/
  | debugAuthResult (r : Verdict)
  /-- DEBUG_GRANT_EXPIRE (R434): T64 reaches NOT_AFTER, or a backward step occurs, and the grants end. -/
  | debugGrantExpire
  /-- DEBUG_GRANT_REVOKE (R434): A write of CTR_AUTH_REVOKE ends every grant. -/
  | debugGrantRevoke (a : Access) (v : Word)
  /-- ADD (R190): Scalar add modulo 2^64. -/
  | add (c : Nat)
  /-- SUB (R190): Scalar subtract modulo 2^64. -/
  | sub (c : Nat)
  /-- MUL (R190): Low 64 bits of the scalar product. -/
  | mul (c : Nat)
  /-- AND (R190): Scalar bitwise AND. -/
  | and (c : Nat)
  /-- OR (R190): Scalar bitwise OR. -/
  | or (c : Nat)
  /-- XOR (R190): Scalar bitwise XOR. -/
  | xor (c : Nat)
  /-- SLL (R190): Scalar shift left by sb[5:0]. -/
  | sll (c : Nat)
  /-- SRL (R190): Scalar logical shift right. -/
  | srl (c : Nat)
  /-- SRA (R190): Scalar arithmetic shift right. -/
  | sra (c : Nat)
  /-- SLT (R190): Set 1 if sa is less than sb, signed. -/
  | slt (c : Nat)
  /-- SLTU (R190): Set 1 if sa is less than sb, unsigned. -/
  | sltu (c : Nat)
  /-- VADD (R190): Masked per-lane add modulo 2^32. -/
  | vadd (c : Nat)
  /-- VSUB (R190): Masked per-lane subtract. -/
  | vsub (c : Nat)
  /-- VMUL (R190): Masked per-lane multiply, low 32 bits. -/
  | vmul (c : Nat)
  /-- VAND (R190): Masked per-lane bitwise AND. -/
  | vand (c : Nat)
  /-- VOR (R190): Masked per-lane bitwise OR. -/
  | vor (c : Nat)
  /-- VXOR (R190): Masked per-lane bitwise XOR. -/
  | vxor (c : Nat)
  /-- VSLL (R190): Masked per-lane shift left. -/
  | vsll (c : Nat)
  /-- VSRL (R190): Masked per-lane logical shift right. -/
  | vsrl (c : Nat)
  /-- VSRA (R190): Masked per-lane arithmetic shift right. -/
  | vsra (c : Nat)
  /-- VMIN (R190): Masked per-lane signed minimum. -/
  | vmin (c : Nat)
  /-- VMAX (R190): Masked per-lane signed maximum. -/
  | vmax (c : Nat)
  /-- VFADD (R194): Masked per-lane float add in binary32 or packed 16-bit types. -/
  | vfadd (c : Nat)
  /-- VFSUB (R194): Masked per-lane float subtract. -/
  | vfsub (c : Nat)
  /-- VFMUL (R194): Masked per-lane float multiply. -/
  | vfmul (c : Nat)
  /-- VFMA (R194): Masked per-lane fused multiply-add rounded once. -/
  | vfma (c : Nat)
  /-- VFMIN (R194): Masked per-lane float minimum, NaN when either operand is NaN. -/
  | vfmin (c : Nat)
  /-- VFMAX (R194): Masked per-lane float maximum. -/
  | vfmax (c : Nat)
  /-- VCVTIF (R196): Convert signed 32-bit integers to binary32, rounding to nearest even. -/
  | vcvtif (c : Nat)
  /-- VCVTFI (R196): Convert binary32 to saturating signed 32-bit integers. -/
  | vcvtfi (c : Nat)
  /-- VWIDL (R196): Widen element 0 of each lane to binary32. -/
  | vwidl (c : Nat)
  /-- VWIDH (R196): Widen element 1 of each lane to binary32. -/
  | vwidh (c : Nat)
  /-- VNARR (R196): Narrow two binary32 lanes into one packed lane. -/
  | vnarr (c : Nat)
  /-- VCMPEQ (R197): Per-lane integer equality into a mask. -/
  | vcmpeq (c : Nat)
  /-- VCMPLT (R197): Per-lane signed less-than into a mask. -/
  | vcmplt (c : Nat)
  /-- VFCMPEQ (R197): Per-lane float equality into a mask. -/
  | vfcmpeq (c : Nat)
  /-- VFCMPLT (R197): Per-lane float less-than into a mask. -/
  | vfcmplt (c : Nat)
  /-- VFCMPLE (R197): Per-lane float less-or-equal into a mask. -/
  | vfcmple (c : Nat)
  /-- VFCMPUN (R197): Per-lane unordered test into a mask. -/
  | vfcmpun (c : Nat)
  /-- PAND (R190): Bitwise AND of masks. -/
  | pand (c : Nat)
  /-- POR (R190): Bitwise OR of masks. -/
  | por (c : Nat)
  /-- PXOR (R190): Bitwise XOR of masks. -/
  | pxor (c : Nat)
  /-- MOVSP (R190): Move a scalar's low 16 bits into a mask. -/
  | movsp (c : Nat)
  /-- MOVPS (R190): Move a mask into a scalar, zero-extended. -/
  | movps (c : Nat)
  /-- VSPLAT (R190): Write a scalar into every enabled lane. -/
  | vsplat (c : Nat)
  /-- VEXT (R190): Extract one lane into a scalar. -/
  | vext (c : Nat)
  /-- VRSUM (R190): Exact signed sum of the enabled lanes into a scalar. -/
  | vrsum (c : Nat)
  /-- JR (R192): Jump to a register target, saving the return address. -/
  | jr (c : Nat)
  /-- FLD (R211): Load features of an entity's row into vector lanes, converting from ordered keys. -/
  | fld (c : Nat)
  /-- FST (R211): Store vector lanes into an entity's row as ordered keys. -/
  | fst (c : Nat)
  /-- ADDI (R192): Add a sign-extended immediate. -/
  | addi (c : Nat)
  /-- ANDI (R192): AND with a zero-extended immediate. -/
  | andi (c : Nat)
  /-- ORI (R192): OR with a zero-extended immediate. -/
  | ori (c : Nat)
  /-- SLLI (R192): Shift left by an immediate. -/
  | slli (c : Nat)
  /-- SRLI (R192): Logical shift right by an immediate. -/
  | srli (c : Nat)
  /-- SRAI (R192): Arithmetic shift right by an immediate. -/
  | srai (c : Nat)
  /-- MOVI (R192): Load a sign-extended immediate. -/
  | movi (c : Nat)
  /-- SHORI (R192): Shift left 16 and OR in an immediate. -/
  | shori (c : Nat)
  /-- LBU (R192): Load one byte, zero-extended. -/
  | lbu (c : Nat)
  /-- LHU (R192): Load two bytes, zero-extended. -/
  | lhu (c : Nat)
  /-- LW (R192): Load four bytes, sign-extended. -/
  | lw (c : Nat)
  /-- LWU (R192): Load four bytes, zero-extended. -/
  | lwu (c : Nat)
  /-- LD (R192): Load eight bytes. -/
  | ld (c : Nat)
  /-- VLD (R192): Load 64 bytes into a vector register. -/
  | vld (c : Nat)
  /-- SB (R192): Store one byte. -/
  | sb (c : Nat)
  /-- SH (R192): Store two bytes. -/
  | sh (c : Nat)
  /-- SW (R192): Store four bytes. -/
  | sw (c : Nat)
  /-- SD (R192): Store eight bytes. -/
  | sd (c : Nat)
  /-- VST (R192): Store a vector register as 64 bytes. -/
  | vst (c : Nat)
  /-- MFS (R216): Read an engine state word into a scalar. -/
  | mfs (c : Nat)
  /-- MTS (R216): Write an engine state word, such as HSTAT to end a handler. -/
  | mts (c : Nat)
  /-- EVT (R213): Raise a program event code at the event recorder. -/
  | evt (c : Nat)
  /-- RECV (R160): Take the oldest token of an input slot's queue, or block until one is present or the deadline passes. -/
  | recv (c : Nat)
  /-- SEND (R161): Enqueue one token on an output slot, or block until the slot holds a credit. -/
  | send (c : Nat)
  /-- WSADD (R202): Convert source values exactly to W320 and add them to a wide register. -/
  | wsadd (c : Nat)
  /-- WSMRG (R203): Add one wide register to another and OR the flags. -/
  | wsmrg (c : Nat)
  /-- WSZ (R203): Clear a wide register, its flags and poison. -/
  | wsz (c : Nat)
  /-- WSLD (R203): Read a 48-byte W320 image into a wide register. -/
  | wsld (c : Nat)
  /-- WSST (R203): Write a wide register as a 48-byte image. -/
  | wsst (c : Nat)
  /-- WSPK (R204): Write a wide register in sparse-limb wire form and give the word count. -/
  | wspk (c : Nat)
  /-- WSUPK (R204): Read a sparse-limb wire form into a wide register. -/
  | wsupk (c : Nat)
  /-- WSRND (R205): Round a wide register once to binary32, binary64 or int64. -/
  | wsrnd (c : Nat)
  /-- WAITA (R164): Wait for an angle in a turn, releasing at once when it has passed or the turn is later. -/
  | waita (c : Nat)
  /-- WAITT (R165): Wait for a T64 time, releasing at once with LATE when it has passed. -/
  | waitt (c : Nat)
  /-- WAITB (R166): Wait for the boundary that closes a turn. -/
  | waitb (c : Nat)
  /-- STAMP (R167): Read T64, turn and angle in one tclk. -/
  | stamp (c : Nat)
  /-- SKINS (R208): Launch insertion of enabled lanes into a histogram or top-k list. -/
  | skins (c : Nat)
  /-- SKMRG (R208): Launch a sketch merge, export or drift-sample merge. -/
  | skmrg (c : Nat)
  /-- SKQ (R208): Launch quantile extraction or drift-table reading. -/
  | skq (c : Nat)
  /-- TOPK (R208): Launch insertion of a key array into a top-k list. -/
  | topk (c : Nat)
  /-- TSCORE (R209): Launch a tree-ensemble scoring job over an entity range or list. -/
  | tscore (c : Nat)
  /-- PACK (R210): Launch a compression job on a Fuller engine. -/
  | pack (c : Nat)
  /-- UNPACK (R210): Launch a decompression job on a Fuller engine. -/
  | unpack (c : Nat)
  /-- FENCE (R215): Block until every earlier store of the context is performed. -/
  | fence (c : Nat)
  /-- SNAP (R214): Raise the snapshot trigger with an argument. -/
  | snap (c : Nat)
  /-- BRA (R192): Branch unconditionally. -/
  | bra (c : Nat)
  /-- JAL (R192): Branch and save the return address. -/
  | jal (c : Nat)
  /-- BEQZ (R192): Branch when the register is zero. -/
  | beqz (c : Nat)
  /-- BNEZ (R192): Branch when the register is non-zero. -/
  | bnez (c : Nat)
  /-- BLTZ (R192): Branch when the register is negative. -/
  | bltz (c : Nat)
  /-- BGEZ (R192): Branch when the register is zero or positive. -/
  | bgez (c : Nat)
  /-- BPANY (R192): Branch when any bit of a mask is set. -/
  | bpany (c : Nat)
  /-- BPALL (R192): Branch when all 16 bits of a mask are set. -/
  | bpall (c : Nat)
  /-- RECV_TAKE (R160): A token arrives for a blocked RECV, which takes it and returns a credit. -/
  | recvTake (c : Nat)
  /-- RECV_DEADLINE (R160): T64 reaches a blocked RECV's deadline and it completes with an empty header. -/
  | recvDeadline (c : Nat)
  /-- SEND_ENQUEUE (R161): A credit arrives for a blocked SEND, which enqueues its token. -/
  | sendEnqueue (c : Nat)
  /-- LAUNCH_CREDIT (R207): A blocked launch obtains its unit and completion credits and issues its job. -/
  | launchCredit (c : Nat)
  /-- FENCE_DONE (R153): Every earlier store of a fenced context is performed and the context resumes. -/
  | fenceDone (c : Nat)
  /-- CREDIT_TIMEOUT (R175): A SEND or launch timeout expires; a handler takes it or the collection faults. -/
  | creditTimeout (c : Nat)
  /-- WAITA_RELEASE (R164): The angle of the awaited turn reaches a blocked WAITA's angle and it releases. -/
  | waitaRelease (c : Nat)
  /-- WAITT_RELEASE (R165): T64 reaches a blocked WAITT's time, or a forward step passes it, and it releases. -/
  | waittRelease (c : Nat)
  /-- CONTRIBUTION_RECEIVE (R229): A reducer takes a contribution, dropping duplicates, stale or late ones, and holds it for its turn. -/
  | contributionReceive (f : RxFrame)
  /-- DIE_CUT (R236): A tray's die cut passes and it forms its tray result with what it holds, listing the missing. -/
  | dieCut (c r : Nat)
  /-- TREE_CUT (R236): A tray's cut for tree A or B passes and it forms and sends its half-partial. -/
  | treeCut (c r : Nat) (treeB : Bool)
  /-- HALF_PARTIAL_RECEIVE (R233): A tray takes a child's half-partial and, when all are present, forms and sends its own. -/
  | halfPartialReceive (f : RxFrame)
  /-- SITE_HALF_RECEIVE (R241): A primary span instance takes a site half from a crown or another primary and forwards it. -/
  | siteHalfReceive (f : RxFrame)
  /-- LEAD_WAIT_EXPIRE (R241): WSR_SPAN_WAIT passes at the lead, which forms and sends the list of the turn. -/
  | leadWaitExpire (c r : Nat) (turn : Word)
  /-- LIST_RECEIVE (R242): A primary takes a LIST frame, relays the first for a turn, and combines the listed halves. -/
  | listReceive (f : RxFrame)
  /-- SPAN_HOLD_EXPIRE (R242): A listed site half is still absent WSR_SPAN_HOLD after the list, and it is requested from the lead. -/
  | spanHoldExpire (c r : Nat) (turn : Word)
  /-- FETCH_REQUEST (R245): An instance takes a FETCH request and sends the half it holds, or requests it in turn. -/
  | fetchRequest (f : RxFrame)
  /-- FETCH_REPLY (R245): An instance takes a FETCH reply carrying a missing half. -/
  | fetchReply (f : RxFrame)
  /-- BROADCAST_HALF_RECEIVE (R244): A tray takes a broadcast half from its parent, passes it to its children and delivers when whole. -/
  | broadcastHalfReceive (f : RxFrame)
  /-- BC_WAIT_EXPIRE (R245): A tray holding one half for WSR_BC_WAIT requests the other through the tree. -/
  | bcWaitExpire (c r : Nat) (turn : Word)
  /-- BC_HOLD_EXPIRE (R245): A tray still lacking a half after WSR_BC_HOLD delivers the result with that half absent. -/
  | bcHoldExpire (c r : Nat) (turn : Word)
  /-- RESULT_DELIVER (R246): A result is enqueued as KIND 0x05 tokens in turn order when its queue has credit, and sent to member dies. -/
  | resultDeliver (c r : Nat)
  /-- LATENESS_CUT (R262): LCUT after the tray's marker passes and the lateness stage forms with censored dies. -/
  | latenessCut (c : Nat)
  /-- SKETCH_JOB_DONE (R259): A sketch job ends and its completion token is enqueued with its status. -/
  | sketchJobDone (k : Nat)
  /-- LINK_REPORT (R277): A write of SKU_LINK_REPORT raises LANE_FEWER and writes the feature and token where enabled. -/
  | linkReport (a : Access) (v : Word)
  /-- TSCORE_JOB_DONE (R301): A scoring job ends and its completion token is enqueued. -/
  | tscoreJobDone (k : Nat)
  /-- ALARM_ENQUEUE (R299): A waiting alarm token is enqueued on its alarm queue when credit allows, raising TRE_ALARM. -/
  | alarmEnqueue (n : Nat)
  /-- MODEL_LOAD (R305): A write of TRE_En_LOAD starts reading, checking and staging an ensemble image. -/
  | modelLoad (a : Access) (n : Nat) (v : Word)
  /-- MODEL_LOAD_DONE (R305): An ensemble load ends; LSTAT is set and READY when OK. -/
  | modelLoadDone (n : Nat)
  /-- FULLER_JOB_START (R329): A waiting Fuller job obtains a free engine and starts. -/
  | fullerJobStart
  /-- FULLER_JOB_DONE (R321): A Fuller job ends with DONE, a stop or an error and its completion token is enqueued. -/
  | fullerJobDone (e : Nat)
  /-- TOKEN_FRAME_CLOSE (R334): QSC_PACK_NS passes since an egress frame's first token and the frame closes. -/
  | tokenFrameClose (q : Nat)
  /-- SCHEDULER_PICK (R338): A port can begin a frame and its scheduler picks one by strict class and deficit round robin. -/
  | schedulerPick (p : Nat)
  /-- SHAPER_SLOT (R341): A calendar wheel slot begins and shaped queues in it move to the fine wheel or become eligible. -/
  | shaperSlot
  /-- QUEUE_SAMPLE (R342): 10 us pass without a sample and a weighted queue's depth and delay are sampled. -/
  | queueSample (q : Nat)
  /-- CREDIT_ADVERTISE (R345): A receiver sends a credit frame when LIMIT has advanced enough or 100 us have passed. -/
  | creditAdvertise (i : Nat)
  /-- CREDIT_RECEIVE (R345): A sender takes a CREDIT frame and updates the LIMIT of its flow context. -/
  | creditReceive (f : RxFrame)
  /-- TOKEN_FRAME_RECEIVE (R334): A TOKEN frame is taken and its tokens delivered into local queues. -/
  | tokenFrameReceive (f : RxFrame)
  /-- TIME_FRAME_RECEIVE (R476): A class-C1 TIME frame is taken and stamped as port 60 or 61 for firmware. -/
  | timeFrameReceive (f : RxFrame)
  /-- REKEY_MAXT (R350): QSC_REKEY_MAXT passes since the last re-key and the block re-keys. -/
  | rekeyMaxt
  /-- REKEY_NOW (R350): A write of 1 to QSC_REKEY_NOW re-keys at once. -/
  | rekeyNow (a : Access) (v : Word)
  /-- SKEW_WINDOW_END (R351): A 1 s skew window ends; an overloaded bank raises QSC_SKEW and may trigger a re-key. -/
  | skewWindowEnd
  /-- SCRUB_READ (R356): The scrubber reads an SRAM word and corrects or poisons it. -/
  | scrubRead (u inst addr : Nat) (o : EccOutcome)
  /-- UNIT_RESET (R360): The guarded ERR_UNIT_RESET returns a unit's state to its reset values. -/
  | unitReset (a : Access) (v : Word)
  /-- XM_READ_RESPONSE (R478): Read data for an XM request arrives, poisoned when marked or in error. -/
  | xmReadResponse (tag : Nat) (poi err : Bool)
  /-- XM_WRITE_COMPLETE (R478): A write completion for an XM request arrives. -/
  | xmWriteComplete (tag : Nat) (err : Bool)
  /-- XM_REQUEST_TIMEOUT (R479): An XM request is unanswered for 1 ms and is treated as an error, raising PORT_XM_TMO. -/
  | xmRequestTimeout (tag : Nat)
  /-- EVENT_INJECT (R372): A write of EVR_INJ_CODE raises a host event, or is refused below 0xC000. -/
  | eventInject (a : Access) (v : Word)
  /-- FLUSH_NOW (R376): A write of 1 to EVR_FLUSH_NOW triggers a flush of the event ring. -/
  | flushNow (a : Access) (v : Word)
  /-- FLUSH_COMPLETE (R377): A flush writes its header, raises EVR_FLUSH and any held flush starts. -/
  | flushComplete
  /-- POWER_WARNING (R376): tl_pwr_warn_n falls; a flush starts or extends and EMERG is set. -/
  | powerWarning
  /-- SNAPSHOT_TRIGGER (R379): A write of SNP_TRIG latches the snapshot set, or is counted while frozen. -/
  | snapshotTrigger (a : Access) (v : Word)
  /-- TL_SNAP (R379): A rising edge of tl_snap triggers a snapshot while TLSNAP_EN is set. -/
  | tlSnap
  /-- SNAPSHOT_RELEASE (R380): The guarded SNP_RELEASE unfreezes the snapshot set. -/
  | snapshotRelease (a : Access) (v : Word)
  /-- TEST_DUE (R389): An engine's test due time passes and the tray orders a field test, sending the pattern set when needed. -/
  | testDue (place : Word) (chan : Nat)
  /-- TEST_PLACE (R390): The die is hot enough and not in emergency, and raises the test request with stress lines. -/
  | testPlace (chan : Nat)
  /-- HOT_WAIT_EXPIRE (R390): HLT_HOT_WAIT passes without heat and the test is placed and recorded COOL. -/
  | hotWaitExpire (chan : Nat)
  /-- TEST_GRANT (R391): The host grants a test request once the engine is idle and stressed. -/
  | testGrant (k : Nat)
  /-- TEST_DONE (R391): The host strobes done with a signature; the die drops the request and reports PASS or FAIL. -/
  | testDone (k : Nat) (sig : Dword)
  /-- TEST_ABORT (R391): The host strobes abort; the test ends ABORT reason 1. -/
  | testAbort (k : Nat)
  /-- GRANT_TIMEOUT (R391): No grant within HLT_GNT_TMO; the request is withdrawn with NOGRANT. -/
  | grantTimeout (k : Nat)
  /-- RUN_TIMEOUT (R391): No done within HLT_RUN_TMO of the grant; the test ends ABORT reason 2. -/
  | runTimeout (k : Nat)
  /-- MANUAL_STRESS (R392): The guarded HLT_STRESS raises or withdraws a manual stress request. -/
  | manualStress (a : Access) (v : Word)
  /-- PATTERN_SET_RECEIVE (R388): A die takes a pattern-set part and stores it at HLT_PAT_BASE. -/
  | patternSetReceive (f : RxFrame)
  /-- ENGINE_TYPES_RECEIVE (R388): A tray takes a die's engine-type report. -/
  | engineTypesReceive (f : RxFrame)
  /-- WATCH_ADD (R393): A write of HLT_WL_ADD_LO places an entity on the watch list. -/
  | watchAdd (a : Access) (v : Word)
  /-- CLEAN_DAY (R394): A 24 h period ends; clean days are counted and entries with enough leave with WATCH_OUT. -/
  | cleanDay
  /-- CE_REPORT (R396): A write of HLT_CE_REPORT adds a corrected-error count to the entity's daily total. -/
  | ceReport (a : Access) (v : Word)
  /-- CE_DAY_END (R396): A UTC day ends and a CE record is written for each entity with a non-zero total. -/
  | ceDayEnd
  /-- HISTORY_RECORD_RECEIVE (R398): A span instance takes history records, counts failures and writes CLASS and RETIRE_PROP. -/
  | historyRecordReceive (f : RxFrame)
  /-- RETIRE_CONFIRM (R398): A write of HLT_RETIRE_LO writes RETIRED, removes the watch entry and ends tests. -/
  | retireConfirm (a : Access) (v : Word)
  /-- GUARD_EPOCH_END (R401): A guard epoch ends and the member sends chunk deltas to the parity holders. -/
  | guardEpochEnd
  /-- GUARD_DELTA_RECEIVE (R401): A parity holder stages a delta and acknowledges it. -/
  | guardDeltaReceive (f : RxFrame)
  /-- GUARD_ACK_RECEIVE (R401): A member takes a delta acknowledgement and sends its commit once all are in. -/
  | guardAckReceive (f : RxFrame)
  /-- GUARD_COMMIT_RECEIVE (R401): A holder applies a member's staged deltas on its commit. -/
  | guardCommitReceive (f : RxFrame)
  /-- GUARD_REBUILD (R402): A write of HLT_GRD_REBUILD starts rebuilding one or two lost members. -/
  | guardRebuild (a : Access) (v : Word)
  /-- REBUILD_DONE (R402): A rebuild finishes its last stripe, or ends when another member is lost. -/
  | rebuildDone
  /-- HEARTBEAT_SEND (R403): Every 1 ms a heartbeat is sent on M0 and M1, with any notice repeats. -/
  | heartbeatSend
  /-- HEARTBEAT_RECEIVE (R403): A heartbeat is taken from M0 or M1 and its sender's votes counted. -/
  | heartbeatReceive (n : Nat) (f : MgmtFrame)
  /-- PEER_SILENT (R404): No heartbeat from a peer for HLT_HB_SILENT on either network; the peer is silent and voted for. -/
  | peerSilent (place : Word)
  /-- FENCE_NOTICE_RECEIVE (R407): A fence or lift notice on M0 or M1 is applied or counted as a repeat. -/
  | fenceNoticeReceive (n : Nat) (f : MgmtFrame)
  /-- FENCE_FRAME_RECEIVE (R406): A class-C2 FENCE frame is applied or counted as a repeat. -/
  | fenceFrameReceive (f : RxFrame)
  /-- HOST_FENCE (R409): The guarded HLT_FENCE with OP 1 fences a place and sends notices. -/
  | hostFence (a : Access) (v : Word)
  /-- HOST_LIFT (R409): The guarded HLT_FENCE with OP 0 lifts a fence and sends lift notices. -/
  | hostLift (a : Access) (v : Word)
  /-- UPDATE_GO (R417): A write of FWC_UPD_GO has the security core copy and check a firmware bundle. -/
  | updateGo (a : Access) (v : Word)
  /-- UPDATE_STAGED (R417): Bundle verification ends with STAGED or a failure status. -/
  | updateStaged (r : Verdict)
  /-- SVN_RAISE (R416): A bundle has run 24 h without reverting and SVN_MIN is raised to its SVN. -/
  | svnRaise
  /-- POWER_TICK (R423): Every 100 us the power core reads sensors, sets operating points and transient tags. -/
  | powerTick (ts : List (Nat × BitVec 16))
  /-- CLAMP_SAMPLE (R425): Every 10 us the clamp compares each sensor with its value 100 us earlier. -/
  | clampSample (ts : List (Nat × BitVec 16))
  /-- CLAMP_HOLD_END (R425): PWR_CLAMP_HOLD passes since a cluster's last trip and control returns to the power core. -/
  | clampHoldEnd (k : Nat)
  /-- EMERG_CALM (R426): No emergency condition has held for PWR_CALM and the power core clears EMERG. -/
  | emergCalm
  /-- SUPPLY_FAULT (R426): tl_sup_fault rises and EMERG is set. -/
  | supplyFault
  /-- VREQ_ACK (R481): The host acknowledges a supply request and the cluster's new point takes effect. -/
  | vreqAck
  /-- VREQ_TIMEOUT (R481): A supply request is unanswered for 1 ms; it is withdrawn and PORT_VREQ_TMO raised. -/
  | vreqTimeout
  /-- NAP_ENTRY (R427): PWR_NAP_IDLE passes with every context blocked and the cluster naps, marking trace. -/
  | napEntry (k : Nat)
  /-- WAKE_GRANT (R427): The wake arbiter grants the oldest request within N per WIN and the cluster wakes. -/
  | wakeGrant
  /-- CLUSTER_DISABLE (R428): The guarded PWR_CL_DISABLE takes a cluster out of service and faults its collections. -/
  | clusterDisable (a : Access) (v : Word)
  /-- CORE_WATCHDOG (R429): A core's watchdog expires; the core restarts, or reverts after an update. -/
  | coreWatchdog (x : Nat)
  /-- CORE_CRASH (R429): A machine-mode fault or uncorrectable error crashes a core, which restarts and flushes events. -/
  | coreCrash (x : Nat) (cause : Word)
  /-- CORE_RESTART_DONE (R429): A crashed core has restarted and takes its held work in order. -/
  | coreRestartDone (x : Nat)
  /-- COMPONENT_FAULT (R413): A firmware component accesses outside its regions and is restarted alone. -/
  | componentFault (x : Nat) (comp : Nat)
  /-- CC_DEADLINE (R430): A crashed control core is not back by the turn deadline and its collections fault. -/
  | ccDeadline (k : Nat)
  /-- LICENCE_INSTALL (R433): The guarded LIC_INSTALL has the security core verify and store the licence. -/
  | licenceInstall (a : Access) (v : Word)
  /-- LICENCE_RESULT (R433): Licence verification ends; a valid licence is stored pending reset, else refused. -/
  | licenceResult (r : Verdict)
  /-- COLLECTION_START_REQUEST (R453): A write of BOOT_CS_GO checks the descriptor and forwards the start to the coordinator. -/
  | collectionStartRequest (a : Access) (v : Word)
  /-- COLLCTL_START (R455): An instance takes START, forwards it, checks the descriptor and takes the start's resources. -/
  | collctlStart (f : RxFrame)
  /-- COLLCTL_ACK (R455): A node takes an acknowledgement and acknowledges upward when all children have. -/
  | collctlAck (f : RxFrame)
  /-- COLLCTL_WAIT (R456): A node takes a WAIT from a child with a pending teardown. -/
  | collctlWait (f : RxFrame)
  /-- START_WAIT_REPEAT (R456): Every 1 ms an instance with a pending teardown sends WAIT again. -/
  | startWaitRepeat (c : Nat)
  /-- REREACH_TIMEOUT (R457): A child is silent for BOOT_RR; its subtree is re-reached through crown B or fenced. -/
  | rereachTimeout (c : Nat) (child : Word)
  /-- COLLCTL_REREACH (R457): Crown B takes REREACH and sends START down tree B to the silent subtree. -/
  | collctlRereach (f : RxFrame)
  /-- START_TIMEOUT (R458): BOOT_CS_TMO passes without final answers and the coordinator aborts with TIMEOUT. -/
  | startTimeout (c : Nat)
  /-- COLLCTL_COMMIT (R459): An instance takes COMMIT, rebuilds its trees and sets START to STURN. -/
  | collctlCommit (f : RxFrame)
  /-- COLLCTL_ABORT (R458): An instance takes ABORT and frees what the start took. -/
  | collctlAbort (f : RxFrame)
  /-- OUTCOME_TIMEOUT (R459): An acknowledged instance without COMMIT or ABORT after BOOT_RR asks its parents. -/
  | outcomeTimeout (c : Nat)
  /-- COLLCTL_OUTCOME (R459): A parent takes OUTCOME and answers with COMMIT or ABORT. -/
  | collctlOutcome (f : RxFrame)
  /-- COLLCTL_EFFECTIVE (R408): An instance takes EFFECTIVE and rebuilds its trees without the fenced place from that turn. -/
  | collctlEffective (f : RxFrame)
  /-- TEARDOWN_REQUEST (R460): A write of BOOT_TD starts the teardown of a collection. -/
  | teardownRequest (a : Access) (v : Word)
  /-- COLLCTL_TEARDOWN (R460): An instance takes TEARDOWN, stops contexts, frees units and empties queues. -/
  | collctlTeardown (f : RxFrame)
  /-- COLLCTL_TD_DONE (R460): A node takes TD_DONE and aggregates it upward. -/
  | collctlTdDone (f : RxFrame)
  /-- TEARDOWN_FORCE_CLOSE (R460): BOOT_TD_TMO passes and unreclaimed contexts are closed by force. -/
  | teardownForceClose (c : Nat)
  /-- REGISTER_READ (R359): A control-port read that is not of an RC register is checked and answered, recording a violation on a NAK, recording a poisoned word, and breaking a held guarded pair of its initiator. -/
  | registerRead (a : Access) (addr : Nat)
  /-- TL_PWR_WARN_N_HIGH (R378): tl_pwr_warn_n has been high for 10 ms after a power-warning flush, and flushes may start again. -/
  | tlPwrWarnNHigh
  /-- TL_MN_UP_CHANGE (R483): The tl_mn_up input of M0 or M1 changes and drives HLT_STAT.M0_DOWN or M1_DOWN. -/
  | tlMnUpChange (n : Nat) (up : Bool)
  /-- HANDOVER_COMPLETE (R419): A core's new image has read its handover state within 2 ms of activation, its cluster resumes, and the later power handover becomes possible. -/
  | handoverComplete (x : Nat)
  /-- MEMBER_DETACH (R26): A tray learns that a member die has detached or lost tl_ready; the die stops being a member and its tests end ABORT reason 4. -/
  | memberDetach (place : Word)
  /-- SPAN_PEER_SILENT (R29): A span instance has been silent on both M0 and M1 for 10 ms; it leaves the peer tables and the next span instance may become primary. -/
  | spanPeerSilent (place : Word)
  /-- TEST_RESULT_RECEIVE (R392): A tray takes a die's TEST history record, or a CLASS or RETIRE_PROP record from its span instance; it writes the record, updates due times and clean days, and places a FAIL on the watch list. -/
  | testResultReceive (f : RxFrame)
  deriving DecidableEq, Repr

end Sys2Proof
end

