-- ==== Sys2Proof/Decode.lean ====
section
/-!
DEFINITION. Decoding of table words. spec/opcode_table.json gives no row any bits: the commands of the block are accesses, frames,
strobes and events, not words of a program, so no word spells a command.
-/

namespace Sys2Proof

/-- The command that a table word spells: none, as no row of the table has bits. -/
def decodeTableWord (_nbits _w : Nat) : Option Instr := none

end Sys2Proof
end

