-- ==== Sys2Proof/Config.lean ====
section
/-!
DEFINITION. What one instance fixes: its configuration (Toltus D or Toltus A64, R1, R6, R7), its role (R2), and the
free values, which the spec leaves open and nothing in this model evaluates.
-/

namespace Sys2Proof

/-- The two configurations of the block (R6). -/
inductive Conf where
  | d | a64
  deriving DecidableEq, Repr

/-- The three roles of an instance (R2). -/
inductive Role where
  | die | tray | span
  deriving DecidableEq, Repr

namespace Conf

/-- Collections (R505, R507): 16 in D, 64 in A64. -/
def colls : Conf → Nat | .d => 16 | .a64 => 64
/-- Turn trackers (R86): 4 in D, 64 in A64. -/
def trackers : Conf → Nat | .d => 4 | .a64 => 64
/-- Dexey contexts (R149, R183): 16 in D, 1,024 in A64. -/
def contexts : Conf → Nat | .d => 16 | .a64 => 1024
/-- Logical clusters at most: one in D, 64 in A64. -/
def clusters : Conf → Nat | .d => 1 | .a64 => 64
/-- Hardware queues (R332): 256 in D, 16,384 in A64. -/
def queues : Conf → Nat | .d => 256 | .a64 => 16384
/-- Core-trace buffers (R146): 1 in D, 65 in A64. -/
def traceBufs : Conf → Nat | .d => 1 | .a64 => 65
/-- Event-recorder code slots (R373): 128 in D, 1,024 in A64. -/
def codeSlots : Conf → Nat | .d => 128 | .a64 => 1024
/-- Ensemble slots (R302): 256 in A64; D has no tree units. -/
def slots : Conf → Nat | .d => 0 | .a64 => 256
/-- Time-trigger slots (R77): 8 in D, 16 in A64. -/
def timeTriggers : Conf → Nat | .d => 8 | .a64 => 16
/-- Size of the control window in bytes (R489). -/
def window : Conf → Nat | .d => 0x400000 | .a64 => 0x4000000
/-- Fabric port pairs (R471): one in D, two in A64. -/
def pairs : Conf → Nat | .d => 1 | .a64 => 2
/-- XM channels (R477): one in D, four in A64. -/
def xmChannels : Conf → Nat | .d => 1 | .a64 => 4
/-- tclk per microsecond (Table 16-2). -/
def tclkPerUs : Conf → Nat | .d => 1000 | .a64 => 1600

end Conf

namespace Config

/-- Free values: the `n`-th value that the spec leaves open in a run (a salt draw of the random source, a latch offset,
a choice of firmware). Nothing constrains it. -/
opaque free : Nat → Nat

/-- The keyed placement hash H of R349, whose values are not part of compatibility (R14): salt, number hashed, index. -/
opaque placeHash : Nat → Nat → Nat → Nat

/-- Whether a trace buffer's input is congested at the `n`-th packet offered, so that the packet is lost (R143). -/
opaque congested : Nat → Bool

/-- Whether a firmware core (SRC 4 to 7 of Table 4-10) runs machine-mode code in a tclk: its program is not of the spec (R139, R413). -/
opaque machineMode : Nat → Nat → Bool

/-- On-chip share of a queue, in 64-byte units, that the scheduler core sets from its CAP and class (R347). -/
opaque queueShare : Nat → Nat → Nat

/-- What a firmware core's image leaves in the handover block at the `n`-th handover: component tag, state version and state of each of its
components; the state of firmware is not of the spec (R420). -/
opaque handover : Nat → List (Nat × Nat × List (BitVec 8))

/-- Whether the new image of a handover accepts a component's state version (R420): the draw, the tag and the version. -/
opaque accepts : Nat → Nat → Nat → Bool

/-- Member dies of a collection at another tray, by the tray's place: the fleet's die map (R29), which the host fills. -/
opaque diesOf : Nat → Nat

end Config
end Sys2Proof
end

