-- ==== Sys2Proof/Machine/Regs.lean ====
section
/-!
DEFINITION. The register interface of the block: every register of the chapters' register tables, with its byte
address in the control window (R489, R490), its access code (R492), its value after reset, the bits a write can
change, and the levels that may read and write it (R504, R506). One inductive per region of Table 17-1.
-/

namespace Sys2Proof.Machine

/-- The access codes of Table 17-2 (R492). -/
inductive Acc where
  | ro | rw | rwb | rwp | w1c | rc | wg
  deriving DecidableEq, Repr

/-- What an ownership condition refers to (R505): the "owner" of a collection, or of something assigned to one. -/
inductive Own where
  | coll (c : Nat) | tracker (t : Nat) | group (g : Nat) | sampler | slot (n : Nat) | buf (b : Nat)
  | queue (q : Nat) | ctx (c : Nat)
  deriving DecidableEq, Repr

/-- A required level (R504): every level numbered at most `n`; L1, or L2 as the owner of something (R505); or the
initiator itself at any level, and any L1 initiator (R507). -/
inductive Perm where
  | upTo (n : Nat) | owner (o : Own) | init (i : Nat)
  deriving DecidableEq, Repr

/-- One register as its table gives it. `mask` holds the bits that a write can change. -/
structure RegInfo where
  addr : Nat
  acc  : Acc
  rst  : BitVec 32
  mask : BitVec 32
  rd   : Perm
  wr   : Perm
  deriving DecidableEq, Repr

/-- Reset class quanta of Table 11-1, in 64-byte units (R336). -/
def classQuantumReset : Nat → Nat
  | 3 => 256 | 4 => 512 | 5 => 64 | 6 => 128 | 7 => 64 | _ => 0

/-- Reset grants of the classes, in 64-byte units (QSC_CRINIT, Table 11-3). -/
def classGrantReset : Nat → Nat
  | 0 | 1 | 2 => 128 | 3 => 1024 | 4 => 4096 | 5 | 6 | 7 => 512 | _ => 0

/-- Reset SLOTS of operating point k (Table 14-9, R439). -/
def oppSlotsReset : Nat → Nat
  | 0 => 1 | 7 => 7 | k => k + 1

/-- Index of `off` in an array of `n` registers at `base` with the given stride. -/
def idx? (off base stride n : Nat) : Option Nat :=
  if base ≤ off ∧ (off - base) % stride = 0 ∧ (off - base) / stride < n then some ((off - base) / stride) else none

/-- Element and offset within the element of `off` in an array of `n` register groups. -/
def arr? (off base stride n : Nat) : Option (Nat × Nat) :=
  if base ≤ off ∧ (off - base) / stride < n then some ((off - base) / stride, (off - base) % stride) else none

/-- Registers of the CPI_ region (R507, Table 17-6). -/
inductive CpiReg where
  | CPI_ID
  | CPI_CFG
  | CPI_PROD
  | CPI_REV
  | CPI_VIOL_ADDR
  | CPI_VIOL_INFO
  | CPI_VIOL_CNT
  | CPI_PEND
  | CPI_BA_BASE (i : Nat)
  | CPI_PEND_SEL (i : Nat)
  | CPI_INIT_TEN (i : Nat)
  | CPI_Cc_OWNER (c : Nat)
  deriving DecidableEq, Repr

/-- Table rows of the CPI_ registers (R507, Table 17-6). -/
def CpiReg.info (_cf : Conf) : CpiReg → RegInfo
  | .CPI_ID => ⟨0x10000, .ro, 0x150000, 0x0, .upTo 3, .upTo 3⟩
  | .CPI_CFG => ⟨0x10004, .ro, 0, 0x0, .upTo 3, .upTo 3⟩
  | .CPI_PROD => ⟨0x10008, .ro, 0, 0x0, .upTo 3, .upTo 3⟩
  | .CPI_REV => ⟨0x1000C, .ro, 0x10000, 0x0, .upTo 3, .upTo 3⟩
  | .CPI_VIOL_ADDR => ⟨0x10010, .ro, 0, 0x0, .upTo 1, .upTo 1⟩
  | .CPI_VIOL_INFO => ⟨0x10014, .ro, 0, 0x0, .upTo 1, .upTo 1⟩
  | .CPI_VIOL_CNT => ⟨0x10018, .rc, 0, 0x0, .upTo 1, .upTo 1⟩
  | .CPI_PEND => ⟨0x1001C, .ro, 0, 0x0, .upTo 3, .upTo 3⟩
  | .CPI_BA_BASE i => ⟨0x10040 + 0x4 * i, .rw, 0x10000, 0x3FFF800, .init i, .init i⟩
  | .CPI_PEND_SEL i => ⟨0x10080 + 0x4 * i, .rw, 0, 0x3FFFFFC, .init i, .init i⟩
  | .CPI_INIT_TEN i => ⟨0x100C0 + 0x4 * i, .rw, 0, 0xFF, .upTo 1, .upTo 1⟩
  | .CPI_Cc_OWNER c => ⟨0x10100 + 0x4 * c, .rw, 0xFE, 0xFF, .owner (.coll c), .upTo 1⟩

/-- Scalar registers of the CPI_ region by offset. -/
def CpiReg.scalarAt : Nat → Option CpiReg
  | 0x0 => some .CPI_ID
  | 0x4 => some .CPI_CFG
  | 0x8 => some .CPI_PROD
  | 0xC => some .CPI_REV
  | 0x10 => some .CPI_VIOL_ADDR
  | 0x14 => some .CPI_VIOL_INFO
  | 0x18 => some .CPI_VIOL_CNT
  | 0x1C => some .CPI_PEND
  | _ => none

/-- The register at byte offset `off` of the CPI_ region (R490). -/
def CpiReg.at (cf : Conf) (off : Nat) : Option CpiReg :=
  if let some r := CpiReg.scalarAt off then some r else
  if let some i := idx? off 0x40 0x4 16 then some (.CPI_BA_BASE i) else
  if let some i := idx? off 0x80 0x4 16 then some (.CPI_PEND_SEL i) else
  if let some i := idx? off 0xC0 0x4 16 then some (.CPI_INIT_TEN i) else
  if let some c := idx? off 0x100 0x4 cf.colls then some (.CPI_Cc_OWNER c) else
  none

/-- Registers of the TIM_ region (R85, Table 2-2). -/
inductive TimReg where
  | TIM_ID
  | TIM_CTRL
  | TIM_STAT
  | TIM_FRC_HI
  | TIM_FRC_LO
  | TIM_T64_HI
  | TIM_T64_LO
  | TIM_OFFSET_HI
  | TIM_OFFSET_LO
  | TIM_OFFSET_FRAC
  | TIM_RATE_HI
  | TIM_RATE_LO
  | TIM_RATE_NOM_HI
  | TIM_RATE_NOM_LO
  | TIM_SERVO_OFS_HI
  | TIM_SERVO_OFS_LO
  | TIM_SERVO_GAIN
  | TIM_SERVO_Y
  | TIM_SERVO_I
  | TIM_LOCK_THR
  | TIM_STEP_THR
  | TIM_HOLD_TMO
  | TIM_HOLD_AGE
  | TIM_HOLD_LAST
  | TIM_STEP_HI
  | TIM_STEP_LO
  | TIM_EPOCH_TAI_HI
  | TIM_EPOCH_TAI_LO
  | TIM_TAI_OFFSET
  | TIM_LEAP_AT_HI
  | TIM_LEAP_AT_LO
  | TIM_LEAP_CTRL
  | TIM_PPS_W
  | TIM_STRB_W0
  | TIM_STRB_W1
  | TIM_TSF_STAT
  | TIM_TSF_W0
  | TIM_TSF_W1
  | TIM_TSF_W2
  | TIM_TSF_POP
  | TIM_TTn_CTRL (n : Nat)
  | TIM_TTn_STAT (n : Nat)
  | TIM_TTn_TIME_HI (n : Nat)
  | TIM_TTn_TIME_LO (n : Nat)
  | TIM_TTn_PER_HI (n : Nat)
  | TIM_TTn_PER_LO (n : Nat)
  | TIM_TTn_MISS (n : Nat)
  | TIM_PC_IN (p : Nat)
  | TIM_PC_EG (p : Nat)
  deriving DecidableEq, Repr

/-- Table rows of the TIM_ registers (R85, Table 2-2). -/
def TimReg.info (_cf : Conf) : TimReg → RegInfo
  | .TIM_ID => ⟨0x20000, .ro, 0x10000, 0x0, .upTo 3, .upTo 3⟩
  | .TIM_CTRL => ⟨0x20004, .rwp, 0, 0x7, .upTo 3, .upTo 1⟩
  | .TIM_STAT => ⟨0x20008, .ro, 0, 0x0, .upTo 3, .upTo 3⟩
  | .TIM_FRC_HI => ⟨0x20010, .ro, 0, 0x0, .upTo 3, .upTo 3⟩
  | .TIM_FRC_LO => ⟨0x20014, .ro, 0, 0x0, .upTo 3, .upTo 3⟩
  | .TIM_T64_HI => ⟨0x20018, .ro, 0, 0x0, .upTo 3, .upTo 3⟩
  | .TIM_T64_LO => ⟨0x2001C, .ro, 0, 0x0, .upTo 3, .upTo 3⟩
  | .TIM_OFFSET_HI => ⟨0x20020, .ro, 0, 0x0, .upTo 3, .upTo 3⟩
  | .TIM_OFFSET_LO => ⟨0x20024, .ro, 0, 0x0, .upTo 3, .upTo 3⟩
  | .TIM_OFFSET_FRAC => ⟨0x20028, .ro, 0, 0x0, .upTo 3, .upTo 3⟩
  | .TIM_RATE_HI => ⟨0x20030, .ro, 0x10, 0x0, .upTo 3, .upTo 3⟩
  | .TIM_RATE_LO => ⟨0x20034, .ro, 0, 0x0, .upTo 3, .upTo 3⟩
  | .TIM_RATE_NOM_HI => ⟨0x20038, .rwp, 0x10, 0xFF, .upTo 3, .upTo 1⟩
  | .TIM_RATE_NOM_LO => ⟨0x2003C, .rwp, 0, 0xFFFFFFFF, .upTo 3, .upTo 1⟩
  | .TIM_SERVO_OFS_HI => ⟨0x20040, .rw, 0, 0xFFFFFFFF, .upTo 3, .upTo 1⟩
  | .TIM_SERVO_OFS_LO => ⟨0x20044, .rwp, 0, 0xFFFFFFFF, .upTo 3, .upTo 1⟩
  | .TIM_SERVO_GAIN => ⟨0x20048, .rwp, 0x2001000, 0xFFFFFFFF, .upTo 3, .upTo 1⟩
  | .TIM_SERVO_Y => ⟨0x2004C, .ro, 0, 0x0, .upTo 3, .upTo 3⟩
  | .TIM_SERVO_I => ⟨0x20050, .ro, 0, 0x0, .upTo 3, .upTo 3⟩
  | .TIM_LOCK_THR => ⟨0x20054, .rw, 0xA0, 0xFFFFFFFF, .upTo 3, .upTo 1⟩
  | .TIM_STEP_THR => ⟨0x20058, .rw, 0xF42400, 0xFFFFFFFF, .upTo 3, .upTo 1⟩
  | .TIM_HOLD_TMO => ⟨0x2005C, .rw, 0xBB8, 0xFFFFFFFF, .upTo 3, .upTo 1⟩
  | .TIM_HOLD_AGE => ⟨0x20060, .ro, 0, 0x0, .upTo 3, .upTo 3⟩
  | .TIM_HOLD_LAST => ⟨0x20064, .ro, 0, 0x0, .upTo 3, .upTo 3⟩
  | .TIM_STEP_HI => ⟨0x20068, .rw, 0, 0xFFFFFFFF, .upTo 3, .upTo 1⟩
  | .TIM_STEP_LO => ⟨0x2006C, .wg, 0, 0xFFFFFFFF, .upTo 3, .upTo 1⟩
  | .TIM_EPOCH_TAI_HI => ⟨0x20070, .rwp, 0, 0xFF, .upTo 3, .upTo 1⟩
  | .TIM_EPOCH_TAI_LO => ⟨0x20074, .rwp, 0, 0xFFFFFFFF, .upTo 3, .upTo 1⟩
  | .TIM_TAI_OFFSET => ⟨0x20078, .rwp, 0, 0xFFFFFFFF, .upTo 3, .upTo 1⟩
  | .TIM_LEAP_AT_HI => ⟨0x20080, .rwp, 0, 0xFFFFFFFF, .upTo 3, .upTo 1⟩
  | .TIM_LEAP_AT_LO => ⟨0x20084, .rwp, 0, 0xFFFFFFFF, .upTo 3, .upTo 1⟩
  | .TIM_LEAP_CTRL => ⟨0x20088, .rwp, 0, 0x3, .upTo 3, .upTo 1⟩
  | .TIM_PPS_W => ⟨0x2008C, .rw, 0x186A0, 0xFFFFF, .upTo 3, .upTo 1⟩
  | .TIM_STRB_W0 => ⟨0x20090, .rw, 0x10, 0xFFFF, .upTo 3, .upTo 1⟩
  | .TIM_STRB_W1 => ⟨0x20094, .rw, 0x10, 0xFFFF, .upTo 3, .upTo 1⟩
  | .TIM_TSF_STAT => ⟨0x200A0, .rc, 0, 0x0, .upTo 1, .upTo 1⟩
  | .TIM_TSF_W0 => ⟨0x200A4, .ro, 0, 0x0, .upTo 3, .upTo 3⟩
  | .TIM_TSF_W1 => ⟨0x200A8, .ro, 0, 0x0, .upTo 3, .upTo 3⟩
  | .TIM_TSF_W2 => ⟨0x200AC, .ro, 0, 0x0, .upTo 3, .upTo 3⟩
  | .TIM_TSF_POP => ⟨0x200B0, .rw, 0, 0x0, .upTo 3, .upTo 1⟩
  | .TIM_TTn_CTRL n => ⟨0x20200 + 0x20 * n, .rw, 0, 0xF8003FFF, .upTo 3, .upTo 1⟩
  | .TIM_TTn_STAT n => ⟨0x20204 + 0x20 * n, .w1c, 0, 0x3, .upTo 3, .upTo 1⟩
  | .TIM_TTn_TIME_HI n => ⟨0x20208 + 0x20 * n, .rw, 0, 0xFFFFFFFF, .upTo 3, .upTo 1⟩
  | .TIM_TTn_TIME_LO n => ⟨0x2020C + 0x20 * n, .rwp, 0, 0xFFFFFFFF, .upTo 3, .upTo 1⟩
  | .TIM_TTn_PER_HI n => ⟨0x20210 + 0x20 * n, .rw, 0, 0xFFFF, .upTo 3, .upTo 1⟩
  | .TIM_TTn_PER_LO n => ⟨0x20214 + 0x20 * n, .rw, 0, 0xFFFFFFFF, .upTo 3, .upTo 1⟩
  | .TIM_TTn_MISS n => ⟨0x20218 + 0x20 * n, .rc, 0, 0x0, .upTo 3, .upTo 3⟩
  | .TIM_PC_IN p => ⟨0x20400 + 0x8 * p, .rwp, 0, 0xFFFFFFFF, .upTo 3, .upTo 1⟩
  | .TIM_PC_EG p => ⟨0x20404 + 0x8 * p, .rwp, 0, 0xFFFFFFFF, .upTo 3, .upTo 1⟩

/-- Scalar registers of the TIM_ region by offset. -/
def TimReg.scalarAt : Nat → Option TimReg
  | 0x0 => some .TIM_ID
  | 0x4 => some .TIM_CTRL
  | 0x8 => some .TIM_STAT
  | 0x10 => some .TIM_FRC_HI
  | 0x14 => some .TIM_FRC_LO
  | 0x18 => some .TIM_T64_HI
  | 0x1C => some .TIM_T64_LO
  | 0x20 => some .TIM_OFFSET_HI
  | 0x24 => some .TIM_OFFSET_LO
  | 0x28 => some .TIM_OFFSET_FRAC
  | 0x30 => some .TIM_RATE_HI
  | 0x34 => some .TIM_RATE_LO
  | 0x38 => some .TIM_RATE_NOM_HI
  | 0x3C => some .TIM_RATE_NOM_LO
  | 0x40 => some .TIM_SERVO_OFS_HI
  | 0x44 => some .TIM_SERVO_OFS_LO
  | 0x48 => some .TIM_SERVO_GAIN
  | 0x4C => some .TIM_SERVO_Y
  | 0x50 => some .TIM_SERVO_I
  | 0x54 => some .TIM_LOCK_THR
  | 0x58 => some .TIM_STEP_THR
  | 0x5C => some .TIM_HOLD_TMO
  | 0x60 => some .TIM_HOLD_AGE
  | 0x64 => some .TIM_HOLD_LAST
  | 0x68 => some .TIM_STEP_HI
  | 0x6C => some .TIM_STEP_LO
  | 0x70 => some .TIM_EPOCH_TAI_HI
  | 0x74 => some .TIM_EPOCH_TAI_LO
  | 0x78 => some .TIM_TAI_OFFSET
  | 0x80 => some .TIM_LEAP_AT_HI
  | 0x84 => some .TIM_LEAP_AT_LO
  | 0x88 => some .TIM_LEAP_CTRL
  | 0x8C => some .TIM_PPS_W
  | 0x90 => some .TIM_STRB_W0
  | 0x94 => some .TIM_STRB_W1
  | 0xA0 => some .TIM_TSF_STAT
  | 0xA4 => some .TIM_TSF_W0
  | 0xA8 => some .TIM_TSF_W1
  | 0xAC => some .TIM_TSF_W2
  | 0xB0 => some .TIM_TSF_POP
  | _ => none

/-- The register at byte offset `off` of the TIM_ region (R490). -/
def TimReg.at (cf : Conf) (off : Nat) : Option TimReg :=
  if let some r := TimReg.scalarAt off then some r else
  if let some n := idx? off 0x200 0x20 cf.timeTriggers then some (.TIM_TTn_CTRL n) else
  if let some n := idx? off 0x204 0x20 cf.timeTriggers then some (.TIM_TTn_STAT n) else
  if let some n := idx? off 0x208 0x20 cf.timeTriggers then some (.TIM_TTn_TIME_HI n) else
  if let some n := idx? off 0x20C 0x20 cf.timeTriggers then some (.TIM_TTn_TIME_LO n) else
  if let some n := idx? off 0x210 0x20 cf.timeTriggers then some (.TIM_TTn_PER_HI n) else
  if let some n := idx? off 0x214 0x20 cf.timeTriggers then some (.TIM_TTn_PER_LO n) else
  if let some n := idx? off 0x218 0x20 cf.timeTriggers then some (.TIM_TTn_MISS n) else
  if let some p := idx? off 0x400 0x8 64 then some (.TIM_PC_IN p) else
  if let some p := idx? off 0x404 0x8 64 then some (.TIM_PC_EG p) else
  none

/-- Registers of the TRN_ region (R86, Table 2-5). -/
inductive TrnReg where
  | TRN_ID
  | TRN_COUNT
  | TRN_CTRL (t : Nat)
  | TRN_STAT (t : Nat)
  | TRN_MARK (t : Nat)
  | TRN_TURN (t : Nat)
  | TRN_TURN_BASE (t : Nat)
  | TRN_ANGLE (t : Nat)
  | TRN_MSTAMP_HI (t : Nat)
  | TRN_MSTAMP_LO (t : Nat)
  | TRN_PRED_HI (t : Nat)
  | TRN_PRED_LO (t : Nat)
  | TRN_PRED_INIT_HI (t : Nat)
  | TRN_PRED_INIT_LO (t : Nat)
  | TRN_LASTDUR_HI (t : Nat)
  | TRN_LASTDUR_LO (t : Nat)
  | TRN_MIN_GAP (t : Nat)
  | TRN_STALL (t : Nat)
  | TRN_EVT (t : Nat)
  | TRN_DUP_CNT (t : Nat)
  | TRN_SEQERR_CNT (t : Nat)
  | TRN_OVR_CNT (t : Nat)
  | TRN_IGN_CNT (t : Nat)
  | TRN_ATn (t n : Nat)
  | TRN_ATn_CNT (t n : Nat)
  deriving DecidableEq, Repr

/-- Table rows of the TRN_ registers (R86, Table 2-5). CHAN, 'D only' in Table 2-6, keeps what is written in A64 too (DESIGN CHOICE,
log 47). -/
def TrnReg.info (cf : Conf) : TrnReg → RegInfo
  | .TRN_ID => ⟨0x30000, .ro, 0x20000, 0x0, .upTo 3, .upTo 3⟩
  | .TRN_COUNT => ⟨0x30004, .ro, 0, 0x0, .upTo 3, .upTo 3⟩
  | .TRN_CTRL t => ⟨0x31000 + 0x100 * t, .rwb, (if cf = .d then 0 else 2), 0xF1FF0003, .upTo 3, .owner (.tracker t)⟩
  | .TRN_STAT t => ⟨0x31004 + 0x100 * t, .ro, 0, 0x0, .upTo 3, .upTo 3⟩
  | .TRN_MARK t => ⟨0x31008 + 0x100 * t, .rw, 0, 0xFFFFFFFF, .upTo 3, .owner (.tracker t)⟩
  | .TRN_TURN t => ⟨0x3100C + 0x100 * t, .ro, 0, 0x0, .upTo 3, .upTo 3⟩
  | .TRN_TURN_BASE t => ⟨0x31010 + 0x100 * t, .rw, 0, 0xFFFFFFFF, .upTo 3, .owner (.tracker t)⟩
  | .TRN_ANGLE t => ⟨0x31014 + 0x100 * t, .ro, 0, 0x0, .upTo 3, .upTo 3⟩
  | .TRN_MSTAMP_HI t => ⟨0x31018 + 0x100 * t, .ro, 0, 0x0, .upTo 3, .upTo 3⟩
  | .TRN_MSTAMP_LO t => ⟨0x3101C + 0x100 * t, .ro, 0, 0x0, .upTo 3, .upTo 3⟩
  | .TRN_PRED_HI t => ⟨0x31020 + 0x100 * t, .ro, 0, 0x0, .upTo 3, .upTo 3⟩
  | .TRN_PRED_LO t => ⟨0x31024 + 0x100 * t, .ro, 0, 0x0, .upTo 3, .upTo 3⟩
  | .TRN_PRED_INIT_HI t => ⟨0x31028 + 0x100 * t, .rw, 0, 0xFFFF, .upTo 3, .owner (.tracker t)⟩
  | .TRN_PRED_INIT_LO t => ⟨0x3102C + 0x100 * t, .rw, 0, 0xFFFFFFFF, .upTo 3, .owner (.tracker t)⟩
  | .TRN_LASTDUR_HI t => ⟨0x31030 + 0x100 * t, .ro, 0, 0x0, .upTo 3, .upTo 3⟩
  | .TRN_LASTDUR_LO t => ⟨0x31034 + 0x100 * t, .ro, 0, 0x0, .upTo 3, .upTo 3⟩
  | .TRN_MIN_GAP t => ⟨0x31038 + 0x100 * t, .rw, 0x64, 0xFFFF, .upTo 3, .owner (.tracker t)⟩
  | .TRN_STALL t => ⟨0x3103C + 0x100 * t, .rw, 0xEA60, 0xFFFFFF, .upTo 3, .owner (.tracker t)⟩
  | .TRN_EVT t => ⟨0x31040 + 0x100 * t, .w1c, 0, 0x1F, .upTo 3, .owner (.tracker t)⟩
  | .TRN_DUP_CNT t => ⟨0x31044 + 0x100 * t, .rc, 0, 0x0, .upTo 3, .upTo 3⟩
  | .TRN_SEQERR_CNT t => ⟨0x31048 + 0x100 * t, .rc, 0, 0x0, .upTo 3, .upTo 3⟩
  | .TRN_OVR_CNT t => ⟨0x3104C + 0x100 * t, .rc, 0, 0x0, .upTo 3, .upTo 3⟩
  | .TRN_IGN_CNT t => ⟨0x31050 + 0x100 * t, .rc, 0, 0x0, .upTo 3, .upTo 3⟩
  | .TRN_ATn t n => ⟨0x31080 + 0x100 * t + 0x8 * n, .rwb, 0, 0xFFFF3FFF, .upTo 3, .owner (.tracker t)⟩
  | .TRN_ATn_CNT t n => ⟨0x31084 + 0x100 * t + 0x8 * n, .rc, 0, 0x0, .upTo 3, .upTo 3⟩

/-- Scalar registers of the TRN_ region by offset. -/
def TrnReg.scalarAt : Nat → Option TrnReg
  | 0x0 => some .TRN_ID
  | 0x4 => some .TRN_COUNT
  | _ => none

/-- Register at an offset within element t of the TRN_ region. -/
def TrnReg.elemAt (t : Nat) (off : Nat) : Option TrnReg :=
  match off with
  | 0x0 => some (.TRN_CTRL t)
  | 0x4 => some (.TRN_STAT t)
  | 0x8 => some (.TRN_MARK t)
  | 0xC => some (.TRN_TURN t)
  | 0x10 => some (.TRN_TURN_BASE t)
  | 0x14 => some (.TRN_ANGLE t)
  | 0x18 => some (.TRN_MSTAMP_HI t)
  | 0x1C => some (.TRN_MSTAMP_LO t)
  | 0x20 => some (.TRN_PRED_HI t)
  | 0x24 => some (.TRN_PRED_LO t)
  | 0x28 => some (.TRN_PRED_INIT_HI t)
  | 0x2C => some (.TRN_PRED_INIT_LO t)
  | 0x30 => some (.TRN_LASTDUR_HI t)
  | 0x34 => some (.TRN_LASTDUR_LO t)
  | 0x38 => some (.TRN_MIN_GAP t)
  | 0x3C => some (.TRN_STALL t)
  | 0x40 => some (.TRN_EVT t)
  | 0x44 => some (.TRN_DUP_CNT t)
  | 0x48 => some (.TRN_SEQERR_CNT t)
  | 0x4C => some (.TRN_OVR_CNT t)
  | 0x50 => some (.TRN_IGN_CNT t)
  | off =>
    if let some n := idx? off 0x80 0x8 8 then some (.TRN_ATn t n) else
    if let some n := idx? off 0x84 0x8 8 then some (.TRN_ATn_CNT t n) else
    none

/-- The register at byte offset `off` of the TRN_ region (R490). -/
def TrnReg.at (cf : Conf) (off : Nat) : Option TrnReg :=
  if let some r := TrnReg.scalarAt off then some r else
  if let some (t, o) := arr? off 0x1000 0x100 cf.trackers then TrnReg.elemAt t o else
  none

/-- Registers of the PRB_ region (R112, Table 3-6). -/
inductive PrbReg where
  | PRB_ID
  | PRB_CFG
  | PRB_CTRL
  | PRB_STAT
  | PRB_DISC_CNT
  | PRB_BADWORD_CNT
  | PRB_PAIR_OVF_CNT
  | PRB_NOBEGIN_CNT
  | PRB_NOEND_CNT
  | PRB_LOSS_CNT
  | PRB_RDYLOW_CNT
  | PRB_CH_EN (i : Nat)
  | PRB_CH_MAP (c : Nat)
  | PRB_Gg_CTRL (g : Nat)
  | PRB_Gg_LATCH (g : Nat)
  | PRB_Gg_SELc (g c : Nat)
  | PRB_Gg_OVF (g : Nat)
  | PRB_Gg_STAT (g : Nat)
  | PRB_Gg_FIX_HI (g : Nat)
  | PRB_Gg_FIX_LO (g : Nat)
  | PRB_Gg_CNTc_HI (g c : Nat)
  | PRB_Gg_CNTc_LO (g c : Nat)
  | PRB_Gg_LFIX_HI (g : Nat)
  | PRB_Gg_LFIX_LO (g : Nat)
  | PRB_Gg_LCNTc_HI (g c : Nat)
  | PRB_Gg_LCNTc_LO (g c : Nat)
  | PRB_Gg_LT64_HI (g : Nat)
  | PRB_Gg_LT64_LO (g : Nat)
  | PRB_Gg_LTURN (g : Nat)
  | PRB_Gg_LINFO (g : Nat)
  | PRB_Gg_LSEQ (g : Nat)
  | PRB_SMP_CTRL
  | PRB_SMP_PERIOD
  | PRB_SMP_CHAN
  | PRB_SMP_LATMIN
  | PRB_SMP_SEED
  | PRB_SMP_STAT
  | PRB_SMP_TAKEN
  | PRB_SMP_MISS
  | PRB_BW_WIN
  | PRB_BW_EN_LO
  | PRB_BW_EN_HI
  | PRB_BW_LAST (p d : Nat)
  | PRB_BW_PEAK (p d : Nat)
  | PRB_SNS_CTRL
  | PRB_SNS_DB
  | PRB_SNS_TRANS_LO
  | PRB_SNS_TRANS_HI
  | PRB_SNS_T (i : Nat)
  | PRB_SNS_V (i : Nat)
  | PRB_AN_CFG (a : Nat)
  | PRB_AN_VAL (a : Nat)
  | PRB_AN_CAL_HI (a : Nat)
  | PRB_AN_CAL_LO (a : Nat)
  | PRB_DIG_STAT
  | PRB_DIG_MATCH
  | PRB_DIG_MISM
  | PRB_DIG_NOORIG
  deriving DecidableEq, Repr

/-- Table rows of the PRB_ registers (R112, Table 3-6). -/
def PrbReg.info (_cf : Conf) : PrbReg → RegInfo
  | .PRB_ID => ⟨0x40000, .ro, 0x30000, 0x0, .upTo 3, .upTo 3⟩
  | .PRB_CFG => ⟨0x40004, .ro, 0, 0x0, .upTo 3, .upTo 3⟩
  | .PRB_CTRL => ⟨0x40008, .rw, 0, 0xF, .upTo 1, .upTo 1⟩
  | .PRB_STAT => ⟨0x4000C, .ro, 0, 0x0, .upTo 1, .upTo 1⟩
  | .PRB_DISC_CNT => ⟨0x40010, .rc, 0, 0x0, .upTo 1, .upTo 1⟩
  | .PRB_BADWORD_CNT => ⟨0x40014, .rc, 0, 0x0, .upTo 1, .upTo 1⟩
  | .PRB_PAIR_OVF_CNT => ⟨0x40018, .rc, 0, 0x0, .upTo 1, .upTo 1⟩
  | .PRB_NOBEGIN_CNT => ⟨0x4001C, .rc, 0, 0x0, .upTo 1, .upTo 1⟩
  | .PRB_NOEND_CNT => ⟨0x40020, .rc, 0, 0x0, .upTo 1, .upTo 1⟩
  | .PRB_LOSS_CNT => ⟨0x40024, .rc, 0, 0x0, .upTo 1, .upTo 1⟩
  | .PRB_RDYLOW_CNT => ⟨0x40028, .rc, 0, 0x0, .upTo 1, .upTo 1⟩
  | .PRB_CH_EN i => ⟨0x40040 + 0x4 * i, .rw, 0, 0xFFFFFFFF, .upTo 1, .upTo 1⟩
  | .PRB_CH_MAP c => ⟨0x40800 + 0x4 * c, .rw, 0xFF, 0x3F00FF, .upTo 1, .upTo 1⟩
  | .PRB_Gg_CTRL g => ⟨0x42000 + 0x100 * g, .rw, 0xFE00, 0xC000FF00, .owner (.group g), .owner (.group g)⟩
  | .PRB_Gg_LATCH g => ⟨0x42004 + 0x100 * g, .rwb, 0, 0xB300000F, .owner (.group g), .owner (.group g)⟩
  | .PRB_Gg_SELc g c => ⟨0x42008 + 0x100 * g + 0x4 * c, .rwb, 0, 0xBF00001F, .owner (.group g), .owner (.group g)⟩
  | .PRB_Gg_OVF g => ⟨0x42028 + 0x100 * g, .w1c, 0, 0x1FF, .owner (.group g), .owner (.group g)⟩
  | .PRB_Gg_STAT g => ⟨0x4202C + 0x100 * g, .ro, 0, 0x0, .owner (.group g), .owner (.group g)⟩
  | .PRB_Gg_FIX_HI g => ⟨0x42030 + 0x100 * g, .rw, 0, 0xFFFF, .owner (.group g), .owner (.group g)⟩
  | .PRB_Gg_FIX_LO g => ⟨0x42034 + 0x100 * g, .rw, 0, 0xFFFFFFFF, .owner (.group g), .owner (.group g)⟩
  | .PRB_Gg_CNTc_HI g c => ⟨0x42038 + 0x100 * g + 0x8 * c, .rw, 0, 0xFFFF, .owner (.group g), .owner (.group g)⟩
  | .PRB_Gg_CNTc_LO g c => ⟨0x4203C + 0x100 * g + 0x8 * c, .rw, 0, 0xFFFFFFFF, .owner (.group g), .owner (.group g)⟩
  | .PRB_Gg_LFIX_HI g => ⟨0x42080 + 0x100 * g, .ro, 0, 0x0, .owner (.group g), .owner (.group g)⟩
  | .PRB_Gg_LFIX_LO g => ⟨0x42084 + 0x100 * g, .ro, 0, 0x0, .owner (.group g), .owner (.group g)⟩
  | .PRB_Gg_LCNTc_HI g c => ⟨0x42088 + 0x100 * g + 0x8 * c, .ro, 0, 0x0, .owner (.group g), .owner (.group g)⟩
  | .PRB_Gg_LCNTc_LO g c => ⟨0x4208C + 0x100 * g + 0x8 * c, .ro, 0, 0x0, .owner (.group g), .owner (.group g)⟩
  | .PRB_Gg_LT64_HI g => ⟨0x420C8 + 0x100 * g, .ro, 0, 0x0, .owner (.group g), .owner (.group g)⟩
  | .PRB_Gg_LT64_LO g => ⟨0x420CC + 0x100 * g, .ro, 0, 0x0, .owner (.group g), .owner (.group g)⟩
  | .PRB_Gg_LTURN g => ⟨0x420D0 + 0x100 * g, .ro, 0, 0x0, .owner (.group g), .owner (.group g)⟩
  | .PRB_Gg_LINFO g => ⟨0x420D4 + 0x100 * g, .ro, 0, 0x0, .owner (.group g), .owner (.group g)⟩
  | .PRB_Gg_LSEQ g => ⟨0x420D8 + 0x100 * g, .ro, 0, 0x0, .owner (.group g), .owner (.group g)⟩
  | .PRB_SMP_CTRL => ⟨0x46000, .rw, 0xFE00, 0xFF70FF0F, .owner .sampler, .owner .sampler⟩
  | .PRB_SMP_PERIOD => ⟨0x46004, .rw, 0x3E8, 0xFFFFFFFF, .owner .sampler, .owner .sampler⟩
  | .PRB_SMP_CHAN => ⟨0x46008, .rw, 0x1FF0000, 0x1FF01FF, .owner .sampler, .owner .sampler⟩
  | .PRB_SMP_LATMIN => ⟨0x4600C, .rw, 0, 0xFFFFFFFF, .owner .sampler, .owner .sampler⟩
  | .PRB_SMP_SEED => ⟨0x46010, .rw, 0xACE1, 0xFFFF, .owner .sampler, .owner .sampler⟩
  | .PRB_SMP_STAT => ⟨0x46014, .ro, 0, 0x0, .owner .sampler, .owner .sampler⟩
  | .PRB_SMP_TAKEN => ⟨0x46018, .rc, 0, 0x0, .owner .sampler, .owner .sampler⟩
  | .PRB_SMP_MISS => ⟨0x4601C, .rc, 0, 0x0, .owner .sampler, .owner .sampler⟩
  | .PRB_BW_WIN => ⟨0x46100, .rw, 0x64, 0x30FFFF, .upTo 1, .upTo 1⟩
  | .PRB_BW_EN_LO => ⟨0x46108, .rw, 0, 0xFFFFFFFF, .upTo 1, .upTo 1⟩
  | .PRB_BW_EN_HI => ⟨0x4610C, .rw, 0, 0xFFFFFFFF, .upTo 1, .upTo 1⟩
  | .PRB_BW_LAST p d => ⟨0x46200 + 0x8 * p + 0x4 * d, .ro, 0, 0x0, .upTo 1, .upTo 1⟩
  | .PRB_BW_PEAK p d => ⟨0x46400 + 0x8 * p + 0x4 * d, .ro, 0, 0x0, .upTo 1, .upTo 1⟩
  | .PRB_SNS_CTRL => ⟨0x47000, .rw, 0x64, 0x8000FFFF, .upTo 1, .upTo 1⟩
  | .PRB_SNS_DB => ⟨0x47004, .rw, 0xA0040, 0xFFFFFFFF, .upTo 1, .upTo 1⟩
  | .PRB_SNS_TRANS_LO => ⟨0x47008, .rwp, 0, 0xFFFFFFFF, .upTo 1, .upTo 1⟩
  | .PRB_SNS_TRANS_HI => ⟨0x4700C, .rwp, 0, 0xFFFFFFFF, .upTo 1, .upTo 1⟩
  | .PRB_SNS_T i => ⟨0x47100 + 0x4 * i, .ro, 0, 0x0, .upTo 2, .upTo 2⟩
  | .PRB_SNS_V i => ⟨0x47200 + 0x4 * i, .ro, 0, 0x0, .upTo 2, .upTo 2⟩
  | .PRB_AN_CFG a => ⟨0x47300 + 0x10 * a, .rw, 0, 0x87003FFF, .upTo 1, .upTo 1⟩
  | .PRB_AN_VAL a => ⟨0x47304 + 0x10 * a, .ro, 0, 0x0, .upTo 2, .upTo 2⟩
  | .PRB_AN_CAL_HI a => ⟨0x47308 + 0x10 * a, .rwp, 0, 0xFFFFFFFF, .upTo 1, .upTo 1⟩
  | .PRB_AN_CAL_LO a => ⟨0x4730C + 0x10 * a, .rwp, 0, 0xFFFFFFFF, .upTo 1, .upTo 1⟩
  | .PRB_DIG_STAT => ⟨0x47800, .ro, 0, 0x0, .upTo 1, .upTo 1⟩
  | .PRB_DIG_MATCH => ⟨0x47804, .rc, 0, 0x0, .upTo 1, .upTo 1⟩
  | .PRB_DIG_MISM => ⟨0x47808, .rc, 0, 0x0, .upTo 1, .upTo 1⟩
  | .PRB_DIG_NOORIG => ⟨0x4780C, .rc, 0, 0x0, .upTo 1, .upTo 1⟩

/-- Scalar registers of the PRB_ region by offset. -/
def PrbReg.scalarAt : Nat → Option PrbReg
  | 0x0 => some .PRB_ID
  | 0x4 => some .PRB_CFG
  | 0x8 => some .PRB_CTRL
  | 0xC => some .PRB_STAT
  | 0x10 => some .PRB_DISC_CNT
  | 0x14 => some .PRB_BADWORD_CNT
  | 0x18 => some .PRB_PAIR_OVF_CNT
  | 0x1C => some .PRB_NOBEGIN_CNT
  | 0x20 => some .PRB_NOEND_CNT
  | 0x24 => some .PRB_LOSS_CNT
  | 0x28 => some .PRB_RDYLOW_CNT
  | 0x6000 => some .PRB_SMP_CTRL
  | 0x6004 => some .PRB_SMP_PERIOD
  | 0x6008 => some .PRB_SMP_CHAN
  | 0x600C => some .PRB_SMP_LATMIN
  | 0x6010 => some .PRB_SMP_SEED
  | 0x6014 => some .PRB_SMP_STAT
  | 0x6018 => some .PRB_SMP_TAKEN
  | 0x601C => some .PRB_SMP_MISS
  | 0x6100 => some .PRB_BW_WIN
  | 0x6108 => some .PRB_BW_EN_LO
  | 0x610C => some .PRB_BW_EN_HI
  | 0x7000 => some .PRB_SNS_CTRL
  | 0x7004 => some .PRB_SNS_DB
  | 0x7008 => some .PRB_SNS_TRANS_LO
  | 0x700C => some .PRB_SNS_TRANS_HI
  | 0x7800 => some .PRB_DIG_STAT
  | 0x7804 => some .PRB_DIG_MATCH
  | 0x7808 => some .PRB_DIG_MISM
  | 0x780C => some .PRB_DIG_NOORIG
  | _ => none

/-- Register at an offset within element g of the PRB_ region. -/
def PrbReg.elemAt0 (g : Nat) (off : Nat) : Option PrbReg :=
  match off with
  | 0x0 => some (.PRB_Gg_CTRL g)
  | 0x4 => some (.PRB_Gg_LATCH g)
  | 0x28 => some (.PRB_Gg_OVF g)
  | 0x2C => some (.PRB_Gg_STAT g)
  | 0x30 => some (.PRB_Gg_FIX_HI g)
  | 0x34 => some (.PRB_Gg_FIX_LO g)
  | 0x80 => some (.PRB_Gg_LFIX_HI g)
  | 0x84 => some (.PRB_Gg_LFIX_LO g)
  | 0xC8 => some (.PRB_Gg_LT64_HI g)
  | 0xCC => some (.PRB_Gg_LT64_LO g)
  | 0xD0 => some (.PRB_Gg_LTURN g)
  | 0xD4 => some (.PRB_Gg_LINFO g)
  | 0xD8 => some (.PRB_Gg_LSEQ g)
  | off =>
    if let some c := idx? off 0x8 0x4 8 then some (.PRB_Gg_SELc g c) else
    if let some c := idx? off 0x38 0x8 8 then some (.PRB_Gg_CNTc_HI g c) else
    if let some c := idx? off 0x3C 0x8 8 then some (.PRB_Gg_CNTc_LO g c) else
    if let some c := idx? off 0x88 0x8 8 then some (.PRB_Gg_LCNTc_HI g c) else
    if let some c := idx? off 0x8C 0x8 8 then some (.PRB_Gg_LCNTc_LO g c) else
    none

/-- Register at an offset within element a of the PRB_ region. -/
def PrbReg.elemAt1 (a : Nat) (off : Nat) : Option PrbReg :=
  match off with
  | 0x0 => some (.PRB_AN_CFG a)
  | 0x4 => some (.PRB_AN_VAL a)
  | 0x8 => some (.PRB_AN_CAL_HI a)
  | 0xC => some (.PRB_AN_CAL_LO a)
  | _ => none

/-- The register at byte offset `off` of the PRB_ region (R490). -/
def PrbReg.at (_cf : Conf) (off : Nat) : Option PrbReg :=
  if let some r := PrbReg.scalarAt off then some r else
  if let some i := idx? off 0x40 0x4 16 then some (.PRB_CH_EN i) else
  if let some c := idx? off 0x800 0x4 512 then some (.PRB_CH_MAP c) else
  if let some i := idx? off 0x6200 0x4 128 then some (.PRB_BW_LAST (i / 2) (i % 2)) else
  if let some i := idx? off 0x6400 0x4 128 then some (.PRB_BW_PEAK (i / 2) (i % 2)) else
  if let some i := idx? off 0x7100 0x4 64 then some (.PRB_SNS_T i) else
  if let some i := idx? off 0x7200 0x4 32 then some (.PRB_SNS_V i) else
  if let some (g, o) := arr? off 0x2000 0x100 64 then PrbReg.elemAt0 g o else
  if let some (a, o) := arr? off 0x7300 0x10 16 then PrbReg.elemAt1 a o else
  none

/-- Registers of the RCP_ region (R145, Table 4-12). -/
inductive RcpReg where
  | RCP_ID
  | RCP_CFG
  | RCP_CTRL
  | RCP_STAT
  | RCP_FLUSH
  | RCP_DECERR
  | RCP_ROUTE (c : Nat)
  | RCP_LQ (c : Nat)
  | RCP_HT_BASE_HI
  | RCP_HT_BASE_LO
  | RCP_HT_SIZE
  | RCP_HT_MASK
  | RCP_HT_WPTR
  | RCP_HT_LAPS
  | RCP_HT_DROP
  | RCP_BL_BASE_HI
  | RCP_BL_BASE_LO
  | RCP_BL_SIZE
  | RCP_BL_RSV
  | RCP_BL_USED
  | RCP_SHED_REC
  | RCP_SHED_OTH
  | RCP_FW_BASE_HI
  | RCP_FW_BASE_LO
  | RCP_FW_SIZE
  | RCP_FW_SPAN
  | RCP_FW_OLDEST_HI
  | RCP_FW_OLDEST_LO
  | RCP_FW_NEXT_HI
  | RCP_FW_NEXT_LO
  | RCP_FW_FRZ_START_HI
  | RCP_FW_FRZ_START_LO
  | RCP_FW_FRZ_END_HI
  | RCP_FW_FRZ_END_LO
  | RCP_FW_ALM_T64_HI
  | RCP_FW_ALM_T64_LO
  | RCP_FW_FREEZE
  | RCP_FW_RELEASE
  | RCP_FW_ALMS
  | RCP_FW_MISSED
  | RCP_FW_SKIP
  | RCP_FW_FRZ_EN_LO
  | RCP_FW_FRZ_EN_HI
  | RCP_HIST_BASE_HI
  | RCP_HIST_BASE_LO
  | RCP_HIST_SIZE
  | RCP_HIST_QUOTA (c : Nat)
  | RCP_HIST_TURNS (c : Nat)
  deriving DecidableEq, Repr

/-- Table rows of the RCP_ registers (R145, Table 4-12). -/
def RcpReg.info (_cf : Conf) : RcpReg → RegInfo
  | .RCP_ID => ⟨0x50000, .ro, 0x40000, 0x0, .upTo 3, .upTo 3⟩
  | .RCP_CFG => ⟨0x50004, .ro, 0, 0x0, .upTo 3, .upTo 3⟩
  | .RCP_CTRL => ⟨0x50008, .rw, 0, 0x37, .upTo 1, .upTo 1⟩
  | .RCP_STAT => ⟨0x5000C, .ro, 0, 0x0, .upTo 1, .upTo 1⟩
  | .RCP_FLUSH => ⟨0x50010, .rw, 0x7D0, 0xFFFF, .upTo 1, .upTo 1⟩
  | .RCP_DECERR => ⟨0x50014, .rc, 0, 0x0, .upTo 1, .upTo 1⟩
  | .RCP_ROUTE c => ⟨0x50100 + 0x4 * c, .rwb, 0, 0xFFFFFFFF, .upTo 1, .owner (.coll c)⟩
  | .RCP_LQ c => ⟨0x50200 + 0x4 * c, .rwb, 0, 0xFF, .upTo 1, .owner (.coll c)⟩
  | .RCP_HT_BASE_HI => ⟨0x50400, .rw, 0, 0xFFFFFFFF, .upTo 1, .upTo 1⟩
  | .RCP_HT_BASE_LO => ⟨0x50404, .rw, 0, 0xFFFFF000, .upTo 1, .upTo 1⟩
  | .RCP_HT_SIZE => ⟨0x50408, .rw, 0, 0x7FFFFF, .upTo 1, .upTo 1⟩
  | .RCP_HT_MASK => ⟨0x5040C, .rw, 0, 0x1FFFF, .upTo 1, .upTo 1⟩
  | .RCP_HT_WPTR => ⟨0x50410, .ro, 0, 0x0, .upTo 1, .upTo 1⟩
  | .RCP_HT_LAPS => ⟨0x50414, .ro, 0, 0x0, .upTo 1, .upTo 1⟩
  | .RCP_HT_DROP => ⟨0x50418, .rc, 0, 0x0, .upTo 1, .upTo 1⟩
  | .RCP_BL_BASE_HI => ⟨0x50420, .rw, 0, 0xFFFFFFFF, .upTo 1, .upTo 1⟩
  | .RCP_BL_BASE_LO => ⟨0x50424, .rw, 0, 0xFFFFF000, .upTo 1, .upTo 1⟩
  | .RCP_BL_SIZE => ⟨0x50428, .rw, 0, 0x7FFFFF, .upTo 1, .upTo 1⟩
  | .RCP_BL_RSV => ⟨0x5042C, .rw, 0x1000, 0x7FFFFF, .upTo 1, .upTo 1⟩
  | .RCP_BL_USED => ⟨0x50430, .ro, 0, 0x0, .upTo 1, .upTo 1⟩
  | .RCP_SHED_REC => ⟨0x50434, .rc, 0, 0x0, .upTo 1, .upTo 1⟩
  | .RCP_SHED_OTH => ⟨0x50438, .rc, 0, 0x0, .upTo 1, .upTo 1⟩
  | .RCP_FW_BASE_HI => ⟨0x50800, .rw, 0, 0xFFFFFFFF, .upTo 1, .upTo 1⟩
  | .RCP_FW_BASE_LO => ⟨0x50804, .rw, 0, 0xC0000000, .upTo 1, .upTo 1⟩
  | .RCP_FW_SIZE => ⟨0x50808, .rw, 0, 0x3FF, .upTo 1, .upTo 1⟩
  | .RCP_FW_SPAN => ⟨0x5080C, .ro, 0, 0x0, .upTo 1, .upTo 1⟩
  | .RCP_FW_OLDEST_HI => ⟨0x50810, .ro, 0, 0x0, .upTo 1, .upTo 1⟩
  | .RCP_FW_OLDEST_LO => ⟨0x50814, .ro, 0, 0x0, .upTo 1, .upTo 1⟩
  | .RCP_FW_NEXT_HI => ⟨0x50818, .ro, 0, 0x0, .upTo 1, .upTo 1⟩
  | .RCP_FW_NEXT_LO => ⟨0x5081C, .ro, 0, 0x0, .upTo 1, .upTo 1⟩
  | .RCP_FW_FRZ_START_HI => ⟨0x50820, .ro, 0, 0x0, .upTo 1, .upTo 1⟩
  | .RCP_FW_FRZ_START_LO => ⟨0x50824, .ro, 0, 0x0, .upTo 1, .upTo 1⟩
  | .RCP_FW_FRZ_END_HI => ⟨0x50828, .ro, 0, 0x0, .upTo 1, .upTo 1⟩
  | .RCP_FW_FRZ_END_LO => ⟨0x5082C, .ro, 0, 0x0, .upTo 1, .upTo 1⟩
  | .RCP_FW_ALM_T64_HI => ⟨0x50830, .ro, 0, 0x0, .upTo 1, .upTo 1⟩
  | .RCP_FW_ALM_T64_LO => ⟨0x50834, .ro, 0, 0x0, .upTo 1, .upTo 1⟩
  | .RCP_FW_FREEZE => ⟨0x50838, .rw, 0, 0x0, .upTo 1, .upTo 1⟩
  | .RCP_FW_RELEASE => ⟨0x5083C, .rw, 0, 0x0, .upTo 1, .upTo 1⟩
  | .RCP_FW_ALMS => ⟨0x50840, .rc, 0, 0x0, .upTo 1, .upTo 1⟩
  | .RCP_FW_MISSED => ⟨0x50844, .rc, 0, 0x0, .upTo 1, .upTo 1⟩
  | .RCP_FW_SKIP => ⟨0x50848, .rc, 0, 0x0, .upTo 1, .upTo 1⟩
  | .RCP_FW_FRZ_EN_LO => ⟨0x50900, .rw, 0, 0xFFFFFFFF, .upTo 1, .upTo 1⟩
  | .RCP_FW_FRZ_EN_HI => ⟨0x50904, .rw, 0, 0xFFFFFFFF, .upTo 1, .upTo 1⟩
  | .RCP_HIST_BASE_HI => ⟨0x50A00, .rw, 0, 0xFFFFFFFF, .upTo 1, .upTo 1⟩
  | .RCP_HIST_BASE_LO => ⟨0x50A04, .rw, 0, 0xC0000000, .upTo 1, .upTo 1⟩
  | .RCP_HIST_SIZE => ⟨0x50A08, .rw, 0, 0x3FF, .upTo 1, .upTo 1⟩
  | .RCP_HIST_QUOTA c => ⟨0x50C00 + 0x8 * c, .rw, 0, 0xFFFFFFFF, .upTo 1, .upTo 1⟩
  | .RCP_HIST_TURNS c => ⟨0x50C04 + 0x8 * c, .ro, 0, 0x0, .upTo 1, .upTo 1⟩

/-- Scalar registers of the RCP_ region by offset. -/
def RcpReg.scalarAt : Nat → Option RcpReg
  | 0x0 => some .RCP_ID
  | 0x4 => some .RCP_CFG
  | 0x8 => some .RCP_CTRL
  | 0xC => some .RCP_STAT
  | 0x10 => some .RCP_FLUSH
  | 0x14 => some .RCP_DECERR
  | 0x400 => some .RCP_HT_BASE_HI
  | 0x404 => some .RCP_HT_BASE_LO
  | 0x408 => some .RCP_HT_SIZE
  | 0x40C => some .RCP_HT_MASK
  | 0x410 => some .RCP_HT_WPTR
  | 0x414 => some .RCP_HT_LAPS
  | 0x418 => some .RCP_HT_DROP
  | 0x420 => some .RCP_BL_BASE_HI
  | 0x424 => some .RCP_BL_BASE_LO
  | 0x428 => some .RCP_BL_SIZE
  | 0x42C => some .RCP_BL_RSV
  | 0x430 => some .RCP_BL_USED
  | 0x434 => some .RCP_SHED_REC
  | 0x438 => some .RCP_SHED_OTH
  | 0x800 => some .RCP_FW_BASE_HI
  | 0x804 => some .RCP_FW_BASE_LO
  | 0x808 => some .RCP_FW_SIZE
  | 0x80C => some .RCP_FW_SPAN
  | 0x810 => some .RCP_FW_OLDEST_HI
  | 0x814 => some .RCP_FW_OLDEST_LO
  | 0x818 => some .RCP_FW_NEXT_HI
  | 0x81C => some .RCP_FW_NEXT_LO
  | 0x820 => some .RCP_FW_FRZ_START_HI
  | 0x824 => some .RCP_FW_FRZ_START_LO
  | 0x828 => some .RCP_FW_FRZ_END_HI
  | 0x82C => some .RCP_FW_FRZ_END_LO
  | 0x830 => some .RCP_FW_ALM_T64_HI
  | 0x834 => some .RCP_FW_ALM_T64_LO
  | 0x838 => some .RCP_FW_FREEZE
  | 0x83C => some .RCP_FW_RELEASE
  | 0x840 => some .RCP_FW_ALMS
  | 0x844 => some .RCP_FW_MISSED
  | 0x848 => some .RCP_FW_SKIP
  | 0x900 => some .RCP_FW_FRZ_EN_LO
  | 0x904 => some .RCP_FW_FRZ_EN_HI
  | 0xA00 => some .RCP_HIST_BASE_HI
  | 0xA04 => some .RCP_HIST_BASE_LO
  | 0xA08 => some .RCP_HIST_SIZE
  | _ => none

/-- The register at byte offset `off` of the RCP_ region (R490). -/
def RcpReg.at (cf : Conf) (off : Nat) : Option RcpReg :=
  if let some r := RcpReg.scalarAt off then some r else
  if let some c := idx? off 0x100 0x4 cf.colls then some (.RCP_ROUTE c) else
  if let some c := idx? off 0x200 0x4 cf.colls then some (.RCP_LQ c) else
  if let some c := idx? off 0xC00 0x8 cf.colls then some (.RCP_HIST_QUOTA c) else
  if let some c := idx? off 0xC04 0x8 cf.colls then some (.RCP_HIST_TURNS c) else
  none

/-- Registers of the DXE_ region (R183, Table 5-12). -/
inductive DxeReg where
  | DXE_ID
  | DXE_CFG
  | DXE_CTX_USED
  | DXE_FLT_CNT
  | DXE_LF_CTX
  | DXE_LF_PC
  | DXE_LF_CAUSE
  | DXE_LF_ADDR_HI
  | DXE_LF_ADDR_LO
  | DXE_CXc_STAT (c : Nat)
  | DXE_CXc_PC (c : Nat)
  | DXE_CXc_CAUSE (c : Nat)
  | DXE_CXc_EADDR (c : Nat)
  | DXE_CXc_RET_HI (c : Nat)
  | DXE_CXc_RET_LO (c : Nat)
  | DXE_CXc_BLK (c : Nat)
  deriving DecidableEq, Repr

/-- Table rows of the DXE_ registers (R183, Table 5-12). -/
def DxeReg.info (_cf : Conf) : DxeReg → RegInfo
  | .DXE_ID => ⟨0x60000, .ro, 0x60000, 0x0, .upTo 3, .upTo 3⟩
  | .DXE_CFG => ⟨0x60004, .ro, 0, 0x0, .upTo 3, .upTo 3⟩
  | .DXE_CTX_USED => ⟨0x60008, .ro, 0, 0x0, .upTo 1, .upTo 1⟩
  | .DXE_FLT_CNT => ⟨0x60010, .rc, 0, 0x0, .upTo 1, .upTo 1⟩
  | .DXE_LF_CTX => ⟨0x60014, .ro, 0, 0x0, .upTo 1, .upTo 1⟩
  | .DXE_LF_PC => ⟨0x60018, .ro, 0, 0x0, .upTo 1, .upTo 1⟩
  | .DXE_LF_CAUSE => ⟨0x6001C, .ro, 0, 0x0, .upTo 1, .upTo 1⟩
  | .DXE_LF_ADDR_HI => ⟨0x60020, .ro, 0, 0x0, .upTo 1, .upTo 1⟩
  | .DXE_LF_ADDR_LO => ⟨0x60024, .ro, 0, 0x0, .upTo 1, .upTo 1⟩
  | .DXE_CXc_STAT c => ⟨0x61000 + 0x20 * c, .ro, 0, 0x0, .owner (.ctx c), .owner (.ctx c)⟩
  | .DXE_CXc_PC c => ⟨0x61004 + 0x20 * c, .ro, 0, 0x0, .owner (.ctx c), .owner (.ctx c)⟩
  | .DXE_CXc_CAUSE c => ⟨0x61008 + 0x20 * c, .ro, 0, 0x0, .owner (.ctx c), .owner (.ctx c)⟩
  | .DXE_CXc_EADDR c => ⟨0x6100C + 0x20 * c, .ro, 0, 0x0, .owner (.ctx c), .owner (.ctx c)⟩
  | .DXE_CXc_RET_HI c => ⟨0x61010 + 0x20 * c, .ro, 0, 0x0, .owner (.ctx c), .owner (.ctx c)⟩
  | .DXE_CXc_RET_LO c => ⟨0x61014 + 0x20 * c, .ro, 0, 0x0, .owner (.ctx c), .owner (.ctx c)⟩
  | .DXE_CXc_BLK c => ⟨0x61018 + 0x20 * c, .rc, 0, 0x0, .owner (.ctx c), .owner (.ctx c)⟩

/-- Scalar registers of the DXE_ region by offset. -/
def DxeReg.scalarAt : Nat → Option DxeReg
  | 0x0 => some .DXE_ID
  | 0x4 => some .DXE_CFG
  | 0x8 => some .DXE_CTX_USED
  | 0x10 => some .DXE_FLT_CNT
  | 0x14 => some .DXE_LF_CTX
  | 0x18 => some .DXE_LF_PC
  | 0x1C => some .DXE_LF_CAUSE
  | 0x20 => some .DXE_LF_ADDR_HI
  | 0x24 => some .DXE_LF_ADDR_LO
  | _ => none

/-- Register at an offset within element c of the DXE_ region. -/
def DxeReg.elemAt (c : Nat) (off : Nat) : Option DxeReg :=
  match off with
  | 0x0 => some (.DXE_CXc_STAT c)
  | 0x4 => some (.DXE_CXc_PC c)
  | 0x8 => some (.DXE_CXc_CAUSE c)
  | 0xC => some (.DXE_CXc_EADDR c)
  | 0x10 => some (.DXE_CXc_RET_HI c)
  | 0x14 => some (.DXE_CXc_RET_LO c)
  | 0x18 => some (.DXE_CXc_BLK c)
  | _ => none

/-- The register at byte offset `off` of the DXE_ region (R490). -/
def DxeReg.at (cf : Conf) (off : Nat) : Option DxeReg :=
  if let some r := DxeReg.scalarAt off then some r else
  if let some (c, o) := arr? off 0x1000 0x20 cf.contexts then DxeReg.elemAt c o else
  none

/-- Registers of the SKU_ region (R279, Table 8-8). -/
inductive SkuReg where
  | SKU_ID
  | SKU_CFG
  | SKU_CTRL
  | SKU_JOB_CNT
  | SKU_BAD_CNT
  | SKU_SAT_CNT
  | SKU_DRIFT_MISS
  | SKU_SKIP_TRANS
  | SKU_SKIP_STALE
  | SKU_SETTLE_DEF
  | SKU_SPARE_DB
  | SKU_HORIZON
  | SKU_LINK_ENT_HI
  | SKU_LINK_ENT_LO
  | SKU_LINK_REPORT
  | SKU_LINK_Q
  | SKU_LANES_FIDX
  | SKU_LT_CTRL (c : Nat)
  | SKU_LT_TURN (c : Nat)
  | SKU_LT_MED_HI (c : Nat)
  | SKU_LT_MED_LO (c : Nat)
  | SKU_LT_COUNT (c : Nat)
  | SKU_LT_IQR (c : Nat)
  | SKU_LT_OFS_HI (c : Nat)
  | SKU_LT_OFS_LO (c : Nat)
  | SKU_LT_CENS_CNT (c : Nat)
  | SKU_LT_STRAG_CNT (c : Nat)
  deriving DecidableEq, Repr

/-- Table rows of the SKU_ registers (R279, Table 8-8). -/
def SkuReg.info (_cf : Conf) : SkuReg → RegInfo
  | .SKU_ID => ⟨0x70000, .ro, 0x80000, 0x0, .upTo 3, .upTo 3⟩
  | .SKU_CFG => ⟨0x70004, .ro, 0, 0x0, .upTo 3, .upTo 3⟩
  | .SKU_CTRL => ⟨0x70008, .rw, 0, 0x1, .upTo 1, .upTo 1⟩
  | .SKU_JOB_CNT => ⟨0x70010, .rc, 0, 0x0, .upTo 1, .upTo 1⟩
  | .SKU_BAD_CNT => ⟨0x70014, .rc, 0, 0x0, .upTo 1, .upTo 1⟩
  | .SKU_SAT_CNT => ⟨0x70018, .rc, 0, 0x0, .upTo 1, .upTo 1⟩
  | .SKU_DRIFT_MISS => ⟨0x7001C, .rc, 0, 0x0, .upTo 1, .upTo 1⟩
  | .SKU_SKIP_TRANS => ⟨0x70020, .rc, 0, 0x0, .upTo 1, .upTo 1⟩
  | .SKU_SKIP_STALE => ⟨0x70024, .rc, 0, 0x0, .upTo 1, .upTo 1⟩
  | .SKU_SETTLE_DEF => ⟨0x70040, .rw, 0x4E20, 0xFFFFFFFF, .upTo 1, .upTo 1⟩
  | .SKU_SPARE_DB => ⟨0x70044, .rw, 0x3200C8, 0xFFFFFFFF, .upTo 1, .upTo 1⟩
  | .SKU_HORIZON => ⟨0x70048, .rw, 0x3F480, 0xFFFFFFFF, .upTo 1, .upTo 1⟩
  | .SKU_LINK_ENT_HI => ⟨0x70050, .rw, 0, 0xFFFF, .upTo 1, .upTo 1⟩
  | .SKU_LINK_ENT_LO => ⟨0x70054, .rw, 0, 0xFFFFFFFF, .upTo 1, .upTo 1⟩
  | .SKU_LINK_REPORT => ⟨0x70058, .rw, 0, 0x1F, .upTo 1, .upTo 1⟩
  | .SKU_LINK_Q => ⟨0x7005C, .rw, 0, 0x80003FFF, .upTo 1, .upTo 1⟩
  | .SKU_LANES_FIDX => ⟨0x70060, .rw, 0, 0x800000FF, .upTo 1, .upTo 1⟩
  | .SKU_LT_CTRL c => ⟨0x71000 + 0x40 * c, .ro, 0, 0x0, .owner (.coll c), .owner (.coll c)⟩
  | .SKU_LT_TURN c => ⟨0x71004 + 0x40 * c, .ro, 0, 0x0, .owner (.coll c), .owner (.coll c)⟩
  | .SKU_LT_MED_HI c => ⟨0x71008 + 0x40 * c, .ro, 0, 0x0, .owner (.coll c), .owner (.coll c)⟩
  | .SKU_LT_MED_LO c => ⟨0x7100C + 0x40 * c, .ro, 0, 0x0, .owner (.coll c), .owner (.coll c)⟩
  | .SKU_LT_COUNT c => ⟨0x71010 + 0x40 * c, .ro, 0, 0x0, .owner (.coll c), .owner (.coll c)⟩
  | .SKU_LT_IQR c => ⟨0x71014 + 0x40 * c, .ro, 0, 0x0, .owner (.coll c), .owner (.coll c)⟩
  | .SKU_LT_OFS_HI c => ⟨0x71018 + 0x40 * c, .ro, 0, 0x0, .owner (.coll c), .owner (.coll c)⟩
  | .SKU_LT_OFS_LO c => ⟨0x7101C + 0x40 * c, .ro, 0, 0x0, .owner (.coll c), .owner (.coll c)⟩
  | .SKU_LT_CENS_CNT c => ⟨0x71020 + 0x40 * c, .rc, 0, 0x0, .owner (.coll c), .owner (.coll c)⟩
  | .SKU_LT_STRAG_CNT c => ⟨0x71024 + 0x40 * c, .rc, 0, 0x0, .owner (.coll c), .owner (.coll c)⟩

/-- Scalar registers of the SKU_ region by offset. -/
def SkuReg.scalarAt : Nat → Option SkuReg
  | 0x0 => some .SKU_ID
  | 0x4 => some .SKU_CFG
  | 0x8 => some .SKU_CTRL
  | 0x10 => some .SKU_JOB_CNT
  | 0x14 => some .SKU_BAD_CNT
  | 0x18 => some .SKU_SAT_CNT
  | 0x1C => some .SKU_DRIFT_MISS
  | 0x20 => some .SKU_SKIP_TRANS
  | 0x24 => some .SKU_SKIP_STALE
  | 0x40 => some .SKU_SETTLE_DEF
  | 0x44 => some .SKU_SPARE_DB
  | 0x48 => some .SKU_HORIZON
  | 0x50 => some .SKU_LINK_ENT_HI
  | 0x54 => some .SKU_LINK_ENT_LO
  | 0x58 => some .SKU_LINK_REPORT
  | 0x5C => some .SKU_LINK_Q
  | 0x60 => some .SKU_LANES_FIDX
  | _ => none

/-- Register at an offset within element c of the SKU_ region. -/
def SkuReg.elemAt (c : Nat) (off : Nat) : Option SkuReg :=
  match off with
  | 0x0 => some (.SKU_LT_CTRL c)
  | 0x4 => some (.SKU_LT_TURN c)
  | 0x8 => some (.SKU_LT_MED_HI c)
  | 0xC => some (.SKU_LT_MED_LO c)
  | 0x10 => some (.SKU_LT_COUNT c)
  | 0x14 => some (.SKU_LT_IQR c)
  | 0x18 => some (.SKU_LT_OFS_HI c)
  | 0x1C => some (.SKU_LT_OFS_LO c)
  | 0x20 => some (.SKU_LT_CENS_CNT c)
  | 0x24 => some (.SKU_LT_STRAG_CNT c)
  | _ => none

/-- The register at byte offset `off` of the SKU_ region (R490). -/
def SkuReg.at (cf : Conf) (off : Nat) : Option SkuReg :=
  if let some r := SkuReg.scalarAt off then some r else
  if let some (c, o) := arr? off 0x1000 0x40 cf.colls then SkuReg.elemAt c o else
  none

/-- Registers of the WSR_ region (R247, Table 7-5). -/
inductive WsrReg where
  | WSR_ID
  | WSR_CFG
  | WSR_CTRL
  | WSR_STAT
  | WSR_SPAN_WAIT
  | WSR_SPAN_HOLD
  | WSR_BC_WAIT
  | WSR_BC_HOLD
  | WSR_LATE_CNT
  | WSR_DUP_CNT
  | WSR_STALE_CNT
  | WSR_MALF_CNT
  | WSR_REREACH_CNT
  | WSR_LIST_CNT
  | WSR_RD_CTRL (c r : Nat)
  | WSR_RD_DLINE (c r : Nat)
  | WSR_RD_HOP (c r : Nat)
  | WSR_RD_EXP (c r : Nat)
  | WSR_RD_DEPTH (c r : Nat)
  | WSR_RD_PAR_A (c r : Nat)
  | WSR_RD_PAR_B (c r : Nat)
  | WSR_RD_OPEN (c r : Nat)
  | WSR_RD_LAST (c r : Nat)
  | WSR_RD_CUT_HI (c r : Nat)
  | WSR_RD_CUT_LO (c r : Nat)
  | WSR_RD_PRES_A (c r : Nat)
  | WSR_RD_PRES_B (c r : Nat)
  | WSR_RD_MISS (c r : Nat)
  | WSR_RD_LATE (c r : Nat)
  deriving DecidableEq, Repr

/-- Table rows of the WSR_ registers (R247, Table 7-5). -/
def WsrReg.info (_cf : Conf) : WsrReg → RegInfo
  | .WSR_ID => ⟨0x80000, .ro, 0x70000, 0x0, .upTo 3, .upTo 3⟩
  | .WSR_CFG => ⟨0x80004, .ro, 0, 0x0, .upTo 3, .upTo 3⟩
  | .WSR_CTRL => ⟨0x80008, .rw, 0, 0x1, .upTo 1, .upTo 1⟩
  | .WSR_STAT => ⟨0x8000C, .ro, 0, 0x0, .upTo 1, .upTo 1⟩
  | .WSR_SPAN_WAIT => ⟨0x80010, .rw, 0x4E20, 0xFFFFFFFF, .upTo 1, .upTo 1⟩
  | .WSR_SPAN_HOLD => ⟨0x80014, .rw, 0x186A0, 0xFFFFFFFF, .upTo 1, .upTo 1⟩
  | .WSR_BC_WAIT => ⟨0x80018, .rw, 0x7D0, 0xFFFFFFFF, .upTo 1, .upTo 1⟩
  | .WSR_BC_HOLD => ⟨0x8001C, .rw, 0x4E20, 0xFFFFFFFF, .upTo 1, .upTo 1⟩
  | .WSR_LATE_CNT => ⟨0x80020, .rc, 0, 0x0, .upTo 1, .upTo 1⟩
  | .WSR_DUP_CNT => ⟨0x80024, .rc, 0, 0x0, .upTo 1, .upTo 1⟩
  | .WSR_STALE_CNT => ⟨0x80028, .rc, 0, 0x0, .upTo 1, .upTo 1⟩
  | .WSR_MALF_CNT => ⟨0x8002C, .rc, 0, 0x0, .upTo 1, .upTo 1⟩
  | .WSR_REREACH_CNT => ⟨0x80030, .rc, 0, 0x0, .upTo 1, .upTo 1⟩
  | .WSR_LIST_CNT => ⟨0x80034, .rc, 0, 0x0, .upTo 1, .upTo 1⟩
  | .WSR_RD_CTRL c r => ⟨0x81000 + 0x400 * c + 0x40 * r, .ro, 0, 0x0, .owner (.coll c), .owner (.coll c)⟩
  | .WSR_RD_DLINE c r => ⟨0x81004 + 0x400 * c + 0x40 * r, .ro, 0, 0x0, .owner (.coll c), .owner (.coll c)⟩
  | .WSR_RD_HOP c r => ⟨0x81008 + 0x400 * c + 0x40 * r, .ro, 0, 0x0, .owner (.coll c), .owner (.coll c)⟩
  | .WSR_RD_EXP c r => ⟨0x8100C + 0x400 * c + 0x40 * r, .ro, 0, 0x0, .owner (.coll c), .owner (.coll c)⟩
  | .WSR_RD_DEPTH c r => ⟨0x81010 + 0x400 * c + 0x40 * r, .ro, 0, 0x0, .owner (.coll c), .owner (.coll c)⟩
  | .WSR_RD_PAR_A c r => ⟨0x81014 + 0x400 * c + 0x40 * r, .ro, 0, 0x0, .owner (.coll c), .owner (.coll c)⟩
  | .WSR_RD_PAR_B c r => ⟨0x81018 + 0x400 * c + 0x40 * r, .ro, 0, 0x0, .owner (.coll c), .owner (.coll c)⟩
  | .WSR_RD_OPEN c r => ⟨0x8101C + 0x400 * c + 0x40 * r, .ro, 0, 0x0, .owner (.coll c), .owner (.coll c)⟩
  | .WSR_RD_LAST c r => ⟨0x81020 + 0x400 * c + 0x40 * r, .ro, 0, 0x0, .owner (.coll c), .owner (.coll c)⟩
  | .WSR_RD_CUT_HI c r => ⟨0x81024 + 0x400 * c + 0x40 * r, .ro, 0, 0x0, .owner (.coll c), .owner (.coll c)⟩
  | .WSR_RD_CUT_LO c r => ⟨0x81028 + 0x400 * c + 0x40 * r, .ro, 0, 0x0, .owner (.coll c), .owner (.coll c)⟩
  | .WSR_RD_PRES_A c r => ⟨0x8102C + 0x400 * c + 0x40 * r, .ro, 0, 0x0, .owner (.coll c), .owner (.coll c)⟩
  | .WSR_RD_PRES_B c r => ⟨0x81030 + 0x400 * c + 0x40 * r, .ro, 0, 0x0, .owner (.coll c), .owner (.coll c)⟩
  | .WSR_RD_MISS c r => ⟨0x81034 + 0x400 * c + 0x40 * r, .ro, 0, 0x0, .owner (.coll c), .owner (.coll c)⟩
  | .WSR_RD_LATE c r => ⟨0x81038 + 0x400 * c + 0x40 * r, .rc, 0, 0x0, .owner (.coll c), .owner (.coll c)⟩

/-- Scalar registers of the WSR_ region by offset. -/
def WsrReg.scalarAt : Nat → Option WsrReg
  | 0x0 => some .WSR_ID
  | 0x4 => some .WSR_CFG
  | 0x8 => some .WSR_CTRL
  | 0xC => some .WSR_STAT
  | 0x10 => some .WSR_SPAN_WAIT
  | 0x14 => some .WSR_SPAN_HOLD
  | 0x18 => some .WSR_BC_WAIT
  | 0x1C => some .WSR_BC_HOLD
  | 0x20 => some .WSR_LATE_CNT
  | 0x24 => some .WSR_DUP_CNT
  | 0x28 => some .WSR_STALE_CNT
  | 0x2C => some .WSR_MALF_CNT
  | 0x30 => some .WSR_REREACH_CNT
  | 0x34 => some .WSR_LIST_CNT
  | _ => none

/-- Register at an offset within element c, r of the WSR_ region. -/
def WsrReg.elemAt (c r : Nat) (off : Nat) : Option WsrReg :=
  match off with
  | 0x0 => some (.WSR_RD_CTRL c r)
  | 0x4 => some (.WSR_RD_DLINE c r)
  | 0x8 => some (.WSR_RD_HOP c r)
  | 0xC => some (.WSR_RD_EXP c r)
  | 0x10 => some (.WSR_RD_DEPTH c r)
  | 0x14 => some (.WSR_RD_PAR_A c r)
  | 0x18 => some (.WSR_RD_PAR_B c r)
  | 0x1C => some (.WSR_RD_OPEN c r)
  | 0x20 => some (.WSR_RD_LAST c r)
  | 0x24 => some (.WSR_RD_CUT_HI c r)
  | 0x28 => some (.WSR_RD_CUT_LO c r)
  | 0x2C => some (.WSR_RD_PRES_A c r)
  | 0x30 => some (.WSR_RD_PRES_B c r)
  | 0x34 => some (.WSR_RD_MISS c r)
  | 0x38 => some (.WSR_RD_LATE c r)
  | _ => none

/-- The register at byte offset `off` of the WSR_ region (R490). -/
def WsrReg.at (cf : Conf) (off : Nat) : Option WsrReg :=
  if let some r := WsrReg.scalarAt off then some r else
  if let some (c, o) := arr? off 0x1000 0x400 cf.colls then
    (if let some (r, o2) := arr? o 0x0 0x40 16 then WsrReg.elemAt c r o2 else none) else
  none

/-- Registers of the TRE_ region (R310, Table 9-9). -/
inductive TreReg where
  | TRE_ID
  | TRE_CFG
  | TRE_CTRL
  | TRE_JOB_CNT
  | TRE_PAIRS_HI
  | TRE_PAIRS_LO
  | TRE_ALQ_PAUSE
  | TRE_FREE_MIN
  | TRE_ECC_CNT
  | TRE_En_CTRL (n : Nat)
  | TRE_En_STAT (n : Nat)
  | TRE_En_ADDR_HI (n : Nat)
  | TRE_En_ADDR_LO (n : Nat)
  | TRE_En_LOAD (n : Nat)
  | TRE_En_BLOCK (n : Nat)
  | TRE_En_BTURN (n : Nat)
  | TRE_En_VER (n : Nat)
  | TRE_En_ID (n : Nat)
  | TRE_En_SID (n : Nat)
  | TRE_En_SHAPE (n : Nat)
  | TRE_En_ALQ (n : Nat)
  | TRE_En_NANCNT (n : Nat)
  | TRE_En_ALMCNT (n : Nat)
  | TRE_En_JOBCNT (n : Nat)
  | TRE_En_POICNT (n : Nat)
  deriving DecidableEq, Repr

/-- Table rows of the TRE_ registers (R310, Table 9-9). -/
def TreReg.info (_cf : Conf) : TreReg → RegInfo
  | .TRE_ID => ⟨0xA0000, .ro, 0x90000, 0x0, .upTo 3, .upTo 3⟩
  | .TRE_CFG => ⟨0xA0004, .ro, 0, 0x0, .upTo 3, .upTo 3⟩
  | .TRE_CTRL => ⟨0xA0008, .rw, 0, 0x1, .upTo 1, .upTo 1⟩
  | .TRE_JOB_CNT => ⟨0xA0010, .rc, 0, 0x0, .upTo 1, .upTo 1⟩
  | .TRE_PAIRS_HI => ⟨0xA0014, .ro, 0, 0x0, .upTo 1, .upTo 1⟩
  | .TRE_PAIRS_LO => ⟨0xA0018, .ro, 0, 0x0, .upTo 1, .upTo 1⟩
  | .TRE_ALQ_PAUSE => ⟨0xA001C, .rc, 0, 0x0, .upTo 1, .upTo 1⟩
  | .TRE_FREE_MIN => ⟨0xA0020, .ro, 0x800, 0x0, .upTo 1, .upTo 1⟩
  | .TRE_ECC_CNT => ⟨0xA0024, .rc, 0, 0x0, .upTo 1, .upTo 1⟩
  | .TRE_En_CTRL n => ⟨0xA1000 + 0x40 * n, .rw, 0xFE, 0xFFFF00FF, .owner (.slot n), .upTo 1⟩
  | .TRE_En_STAT n => ⟨0xA1004 + 0x40 * n, .ro, 0, 0x0, .owner (.slot n), .owner (.slot n)⟩
  | .TRE_En_ADDR_HI n => ⟨0xA1008 + 0x40 * n, .rw, 0, 0xFFFFFFFF, .owner (.slot n), .owner (.slot n)⟩
  | .TRE_En_ADDR_LO n => ⟨0xA100C + 0x40 * n, .rw, 0, 0xFFFFFFF8, .owner (.slot n), .owner (.slot n)⟩
  | .TRE_En_LOAD n => ⟨0xA1010 + 0x40 * n, .rwp, 0, 0x0, .owner (.slot n), .owner (.slot n)⟩
  | .TRE_En_BLOCK n => ⟨0xA1014 + 0x40 * n, .rw, 0, 0xC0000000, .owner (.slot n), .owner (.slot n)⟩
  | .TRE_En_BTURN n => ⟨0xA1018 + 0x40 * n, .rw, 0, 0xFFFFFFFF, .owner (.slot n), .owner (.slot n)⟩
  | .TRE_En_VER n => ⟨0xA101C + 0x40 * n, .ro, 0, 0x0, .owner (.slot n), .owner (.slot n)⟩
  | .TRE_En_ID n => ⟨0xA1020 + 0x40 * n, .ro, 0, 0x0, .owner (.slot n), .owner (.slot n)⟩
  | .TRE_En_SID n => ⟨0xA1024 + 0x40 * n, .ro, 0, 0x0, .owner (.slot n), .owner (.slot n)⟩
  | .TRE_En_SHAPE n => ⟨0xA1028 + 0x40 * n, .ro, 0, 0x0, .owner (.slot n), .owner (.slot n)⟩
  | .TRE_En_ALQ n => ⟨0xA102C + 0x40 * n, .rw, 0, 0x3FFF, .owner (.slot n), .upTo 1⟩
  | .TRE_En_NANCNT n => ⟨0xA1030 + 0x40 * n, .rc, 0, 0x0, .owner (.slot n), .owner (.slot n)⟩
  | .TRE_En_ALMCNT n => ⟨0xA1034 + 0x40 * n, .rc, 0, 0x0, .owner (.slot n), .owner (.slot n)⟩
  | .TRE_En_JOBCNT n => ⟨0xA1038 + 0x40 * n, .rc, 0, 0x0, .owner (.slot n), .owner (.slot n)⟩
  | .TRE_En_POICNT n => ⟨0xA103C + 0x40 * n, .rc, 0, 0x0, .owner (.slot n), .owner (.slot n)⟩

/-- Scalar registers of the TRE_ region by offset. -/
def TreReg.scalarAt : Nat → Option TreReg
  | 0x0 => some .TRE_ID
  | 0x4 => some .TRE_CFG
  | 0x8 => some .TRE_CTRL
  | 0x10 => some .TRE_JOB_CNT
  | 0x14 => some .TRE_PAIRS_HI
  | 0x18 => some .TRE_PAIRS_LO
  | 0x1C => some .TRE_ALQ_PAUSE
  | 0x20 => some .TRE_FREE_MIN
  | 0x24 => some .TRE_ECC_CNT
  | _ => none

/-- Register at an offset within element n of the TRE_ region. -/
def TreReg.elemAt (n : Nat) (off : Nat) : Option TreReg :=
  match off with
  | 0x0 => some (.TRE_En_CTRL n)
  | 0x4 => some (.TRE_En_STAT n)
  | 0x8 => some (.TRE_En_ADDR_HI n)
  | 0xC => some (.TRE_En_ADDR_LO n)
  | 0x10 => some (.TRE_En_LOAD n)
  | 0x14 => some (.TRE_En_BLOCK n)
  | 0x18 => some (.TRE_En_BTURN n)
  | 0x1C => some (.TRE_En_VER n)
  | 0x20 => some (.TRE_En_ID n)
  | 0x24 => some (.TRE_En_SID n)
  | 0x28 => some (.TRE_En_SHAPE n)
  | 0x2C => some (.TRE_En_ALQ n)
  | 0x30 => some (.TRE_En_NANCNT n)
  | 0x34 => some (.TRE_En_ALMCNT n)
  | 0x38 => some (.TRE_En_JOBCNT n)
  | 0x3C => some (.TRE_En_POICNT n)
  | _ => none

/-- The register at byte offset `off` of the TRE_ region (R490). -/
def TreReg.at (cf : Conf) (off : Nat) : Option TreReg :=
  if let some r := TreReg.scalarAt off then some r else
  if let some (n, o) := arr? off 0x1000 0x40 cf.slots then TreReg.elemAt n o else
  none

/-- Registers of the FEA_ region (R311, Table 9-12). -/
inductive FeaReg where
  | FEA_ID
  | FEA_CFG
  | FEA_AREA
  | FEA_USED
  | FEA_MISS_CNT
  | FEA_Tc_NENT (c : Nat)
  | FEA_Tc_NFEAT (c : Nat)
  | FEA_Tc_NPOOL (c : Nat)
  | FEA_Tc_STAT (c : Nat)
  | FEA_Tc_RELOAD (c : Nat)
  | FEA_Tc_MISS (c : Nat)
  | FEA_Tc_TMIS (c : Nat)
  | FEA_Tc_FSTRO (c : Nat)
  | FEA_Tc_STMISS (c : Nat)
  | FEA_Tc_SPILLRD (c : Nat)
  | FEA_Tc_POI (c : Nat)
  deriving DecidableEq, Repr

/-- Table rows of the FEA_ registers (R311, Table 9-12). -/
def FeaReg.info (_cf : Conf) : FeaReg → RegInfo
  | .FEA_ID => ⟨0xB0000, .ro, 0xA0000, 0x0, .upTo 3, .upTo 3⟩
  | .FEA_CFG => ⟨0xB0004, .ro, 0, 0x0, .upTo 3, .upTo 3⟩
  | .FEA_AREA => ⟨0xB0008, .rw, 0x40, 0x7F, .upTo 1, .upTo 1⟩
  | .FEA_USED => ⟨0xB000C, .ro, 0, 0x0, .upTo 1, .upTo 1⟩
  | .FEA_MISS_CNT => ⟨0xB0010, .rc, 0, 0x0, .upTo 1, .upTo 1⟩
  | .FEA_Tc_NENT c => ⟨0xB1000 + 0x40 * c, .ro, 0, 0x0, .owner (.coll c), .owner (.coll c)⟩
  | .FEA_Tc_NFEAT c => ⟨0xB1004 + 0x40 * c, .ro, 0, 0x0, .owner (.coll c), .owner (.coll c)⟩
  | .FEA_Tc_NPOOL c => ⟨0xB1008 + 0x40 * c, .ro, 0, 0x0, .owner (.coll c), .owner (.coll c)⟩
  | .FEA_Tc_STAT c => ⟨0xB100C + 0x40 * c, .ro, 0, 0x0, .owner (.coll c), .owner (.coll c)⟩
  | .FEA_Tc_RELOAD c => ⟨0xB1010 + 0x40 * c, .rwb, 0, 0x1, .owner (.coll c), .owner (.coll c)⟩
  | .FEA_Tc_MISS c => ⟨0xB1014 + 0x40 * c, .rc, 0, 0x0, .owner (.coll c), .owner (.coll c)⟩
  | .FEA_Tc_TMIS c => ⟨0xB1018 + 0x40 * c, .rc, 0, 0x0, .owner (.coll c), .owner (.coll c)⟩
  | .FEA_Tc_FSTRO c => ⟨0xB101C + 0x40 * c, .rc, 0, 0x0, .owner (.coll c), .owner (.coll c)⟩
  | .FEA_Tc_STMISS c => ⟨0xB1020 + 0x40 * c, .rc, 0, 0x0, .owner (.coll c), .owner (.coll c)⟩
  | .FEA_Tc_SPILLRD c => ⟨0xB1024 + 0x40 * c, .rc, 0, 0x0, .owner (.coll c), .owner (.coll c)⟩
  | .FEA_Tc_POI c => ⟨0xB1028 + 0x40 * c, .rc, 0, 0x0, .owner (.coll c), .owner (.coll c)⟩

/-- Scalar registers of the FEA_ region by offset. -/
def FeaReg.scalarAt : Nat → Option FeaReg
  | 0x0 => some .FEA_ID
  | 0x4 => some .FEA_CFG
  | 0x8 => some .FEA_AREA
  | 0xC => some .FEA_USED
  | 0x10 => some .FEA_MISS_CNT
  | _ => none

/-- Register at an offset within element c of the FEA_ region. -/
def FeaReg.elemAt (c : Nat) (off : Nat) : Option FeaReg :=
  match off with
  | 0x0 => some (.FEA_Tc_NENT c)
  | 0x4 => some (.FEA_Tc_NFEAT c)
  | 0x8 => some (.FEA_Tc_NPOOL c)
  | 0xC => some (.FEA_Tc_STAT c)
  | 0x10 => some (.FEA_Tc_RELOAD c)
  | 0x14 => some (.FEA_Tc_MISS c)
  | 0x18 => some (.FEA_Tc_TMIS c)
  | 0x1C => some (.FEA_Tc_FSTRO c)
  | 0x20 => some (.FEA_Tc_STMISS c)
  | 0x24 => some (.FEA_Tc_SPILLRD c)
  | 0x28 => some (.FEA_Tc_POI c)
  | _ => none

/-- The register at byte offset `off` of the FEA_ region (R490). -/
def FeaReg.at (cf : Conf) (off : Nat) : Option FeaReg :=
  if let some r := FeaReg.scalarAt off then some r else
  if let some (c, o) := arr? off 0x1000 0x40 cf.colls then FeaReg.elemAt c o else
  none

/-- Registers of the FUL_ region (R331, Table 10-6). -/
inductive FulReg where
  | FUL_ID
  | FUL_CFG
  | FUL_CTRL
  | FUL_STAT
  | FUL_JOB_CNT
  | FUL_STOP_CNT
  | FUL_ERR_CNT
  | FUL_POI_CNT
  | FUL_IN_HI
  | FUL_IN_LO
  | FUL_OUT_HI
  | FUL_OUT_LO
  | FUL_Ee_STAT (e : Nat)
  | FUL_Ee_JOBS (e : Nat)
  | FUL_Ee_LERR (e : Nat)
  | FUL_Ee_LBIT_HI (e : Nat)
  | FUL_Ee_LBIT_LO (e : Nat)
  | FUL_Ee_BUSYT (e : Nat)
  deriving DecidableEq, Repr

/-- Table rows of the FUL_ registers (R331, Table 10-6). -/
def FulReg.info (_cf : Conf) : FulReg → RegInfo
  | .FUL_ID => ⟨0xC0000, .ro, 0xB0000, 0x0, .upTo 3, .upTo 3⟩
  | .FUL_CFG => ⟨0xC0004, .ro, 0, 0x0, .upTo 3, .upTo 3⟩
  | .FUL_CTRL => ⟨0xC0008, .rw, 0x201, 0xF01, .upTo 1, .upTo 1⟩
  | .FUL_STAT => ⟨0xC000C, .ro, 0, 0x0, .upTo 1, .upTo 1⟩
  | .FUL_JOB_CNT => ⟨0xC0010, .rc, 0, 0x0, .upTo 1, .upTo 1⟩
  | .FUL_STOP_CNT => ⟨0xC0014, .rc, 0, 0x0, .upTo 1, .upTo 1⟩
  | .FUL_ERR_CNT => ⟨0xC0018, .rc, 0, 0x0, .upTo 1, .upTo 1⟩
  | .FUL_POI_CNT => ⟨0xC001C, .rc, 0, 0x0, .upTo 1, .upTo 1⟩
  | .FUL_IN_HI => ⟨0xC0020, .ro, 0, 0x0, .upTo 1, .upTo 1⟩
  | .FUL_IN_LO => ⟨0xC0024, .ro, 0, 0x0, .upTo 1, .upTo 1⟩
  | .FUL_OUT_HI => ⟨0xC0028, .ro, 0, 0x0, .upTo 1, .upTo 1⟩
  | .FUL_OUT_LO => ⟨0xC002C, .ro, 0, 0x0, .upTo 1, .upTo 1⟩
  | .FUL_Ee_STAT e => ⟨0xC1000 + 0x40 * e, .ro, 0, 0x0, .upTo 1, .upTo 1⟩
  | .FUL_Ee_JOBS e => ⟨0xC1004 + 0x40 * e, .rc, 0, 0x0, .upTo 1, .upTo 1⟩
  | .FUL_Ee_LERR e => ⟨0xC1008 + 0x40 * e, .ro, 0, 0x0, .upTo 1, .upTo 1⟩
  | .FUL_Ee_LBIT_HI e => ⟨0xC100C + 0x40 * e, .ro, 0, 0x0, .upTo 1, .upTo 1⟩
  | .FUL_Ee_LBIT_LO e => ⟨0xC1010 + 0x40 * e, .ro, 0, 0x0, .upTo 1, .upTo 1⟩
  | .FUL_Ee_BUSYT e => ⟨0xC1014 + 0x40 * e, .rc, 0, 0x0, .upTo 1, .upTo 1⟩

/-- Scalar registers of the FUL_ region by offset. -/
def FulReg.scalarAt : Nat → Option FulReg
  | 0x0 => some .FUL_ID
  | 0x4 => some .FUL_CFG
  | 0x8 => some .FUL_CTRL
  | 0xC => some .FUL_STAT
  | 0x10 => some .FUL_JOB_CNT
  | 0x14 => some .FUL_STOP_CNT
  | 0x18 => some .FUL_ERR_CNT
  | 0x1C => some .FUL_POI_CNT
  | 0x20 => some .FUL_IN_HI
  | 0x24 => some .FUL_IN_LO
  | 0x28 => some .FUL_OUT_HI
  | 0x2C => some .FUL_OUT_LO
  | _ => none

/-- Register at an offset within element e of the FUL_ region. -/
def FulReg.elemAt (e : Nat) (off : Nat) : Option FulReg :=
  match off with
  | 0x0 => some (.FUL_Ee_STAT e)
  | 0x4 => some (.FUL_Ee_JOBS e)
  | 0x8 => some (.FUL_Ee_LERR e)
  | 0xC => some (.FUL_Ee_LBIT_HI e)
  | 0x10 => some (.FUL_Ee_LBIT_LO e)
  | 0x14 => some (.FUL_Ee_BUSYT e)
  | _ => none

/-- The register at byte offset `off` of the FUL_ region (R490). -/
def FulReg.at (_cf : Conf) (off : Nat) : Option FulReg :=
  if let some r := FulReg.scalarAt off then some r else
  if let some (e, o) := arr? off 0x1000 0x40 8 then FulReg.elemAt e o else
  none

/-- Registers of the ERR_ region (R382, Table 12-10). -/
inductive ErrReg where
  | ERR_ID
  | ERR_CTRL
  | ERR_STAT
  | ERR_CE_CNT
  | ERR_UE_CNT
  | ERR_CE_SRC
  | ERR_CE_ADDR
  | ERR_UE_SRC
  | ERR_UE_ADDR
  | ERR_CE_HOT_THR
  | ERR_SCRUB_PER
  | ERR_XM_POI_IN
  | ERR_XM_POI_OUT
  | ERR_CPI_POI_ADDR
  | ERR_ALM_LATE
  | ERR_RST_MAX
  | ERR_RST_WIN
  | ERR_UNIT_RESET
  | ERR_Cc_STAT (c : Nat)
  | ERR_Cc_CAUSE (c : Nat)
  | ERR_Cc_PC (c : Nat)
  | ERR_Cc_ACK (c : Nat)
  | ERR_Cc_START (c : Nat)
  | ERR_Cc_RST_CNT (c : Nat)
  | ERR_Cc_GAP (c : Nat)
  | ERR_Cc_POI (c : Nat)
  deriving DecidableEq, Repr

/-- Table rows of the ERR_ registers (R382, Table 12-10). -/
def ErrReg.info (_cf : Conf) : ErrReg → RegInfo
  | .ERR_ID => ⟨0xD0000, .ro, 0xD0000, 0x0, .upTo 3, .upTo 3⟩
  | .ERR_CTRL => ⟨0xD0004, .rw, 1, 0x1, .upTo 1, .upTo 1⟩
  | .ERR_STAT => ⟨0xD0008, .w1c, 0, 0x3, .upTo 1, .upTo 1⟩
  | .ERR_CE_CNT => ⟨0xD0010, .rc, 0, 0x0, .upTo 1, .upTo 1⟩
  | .ERR_UE_CNT => ⟨0xD0014, .rc, 0, 0x0, .upTo 1, .upTo 1⟩
  | .ERR_CE_SRC => ⟨0xD0018, .ro, 0, 0x0, .upTo 1, .upTo 1⟩
  | .ERR_CE_ADDR => ⟨0xD001C, .ro, 0, 0x0, .upTo 1, .upTo 1⟩
  | .ERR_UE_SRC => ⟨0xD0020, .ro, 0, 0x0, .upTo 1, .upTo 1⟩
  | .ERR_UE_ADDR => ⟨0xD0024, .ro, 0, 0x0, .upTo 1, .upTo 1⟩
  | .ERR_CE_HOT_THR => ⟨0xD0028, .rw, 0x10, 0xFFFF, .upTo 1, .upTo 1⟩
  | .ERR_SCRUB_PER => ⟨0xD002C, .rw, 0xE10, 0xFFFFFFFF, .upTo 1, .upTo 1⟩
  | .ERR_XM_POI_IN => ⟨0xD0030, .rc, 0, 0x0, .upTo 1, .upTo 1⟩
  | .ERR_XM_POI_OUT => ⟨0xD0034, .rc, 0, 0x0, .upTo 1, .upTo 1⟩
  | .ERR_CPI_POI_ADDR => ⟨0xD0038, .ro, 0, 0x0, .upTo 1, .upTo 1⟩
  | .ERR_ALM_LATE => ⟨0xD003C, .rc, 0, 0x0, .upTo 1, .upTo 1⟩
  | .ERR_RST_MAX => ⟨0xD0040, .rw, 4, 0xFF, .upTo 1, .upTo 1⟩
  | .ERR_RST_WIN => ⟨0xD0044, .rw, 0x3C, 0xFFFFFFFF, .upTo 1, .upTo 1⟩
  | .ERR_UNIT_RESET => ⟨0xD0048, .wg, 0, 0xFFFFFF, .upTo 1, .upTo 1⟩
  | .ERR_Cc_STAT c => ⟨0xD1000 + 0x40 * c, .ro, 0, 0x0, .owner (.coll c), .owner (.coll c)⟩
  | .ERR_Cc_CAUSE c => ⟨0xD1004 + 0x40 * c, .ro, 0, 0x0, .owner (.coll c), .owner (.coll c)⟩
  | .ERR_Cc_PC c => ⟨0xD1008 + 0x40 * c, .ro, 0, 0x0, .owner (.coll c), .owner (.coll c)⟩
  | .ERR_Cc_ACK c => ⟨0xD100C + 0x40 * c, .ro, 0, 0x0, .owner (.coll c), .owner (.coll c)⟩
  | .ERR_Cc_START c => ⟨0xD1010 + 0x40 * c, .ro, 0, 0x0, .owner (.coll c), .owner (.coll c)⟩
  | .ERR_Cc_RST_CNT c => ⟨0xD1014 + 0x40 * c, .rc, 0, 0x0, .owner (.coll c), .owner (.coll c)⟩
  | .ERR_Cc_GAP c => ⟨0xD1018 + 0x40 * c, .rc, 0, 0x0, .owner (.coll c), .owner (.coll c)⟩
  | .ERR_Cc_POI c => ⟨0xD101C + 0x40 * c, .rc, 0, 0x0, .owner (.coll c), .owner (.coll c)⟩

/-- Scalar registers of the ERR_ region by offset. -/
def ErrReg.scalarAt : Nat → Option ErrReg
  | 0x0 => some .ERR_ID
  | 0x4 => some .ERR_CTRL
  | 0x8 => some .ERR_STAT
  | 0x10 => some .ERR_CE_CNT
  | 0x14 => some .ERR_UE_CNT
  | 0x18 => some .ERR_CE_SRC
  | 0x1C => some .ERR_CE_ADDR
  | 0x20 => some .ERR_UE_SRC
  | 0x24 => some .ERR_UE_ADDR
  | 0x28 => some .ERR_CE_HOT_THR
  | 0x2C => some .ERR_SCRUB_PER
  | 0x30 => some .ERR_XM_POI_IN
  | 0x34 => some .ERR_XM_POI_OUT
  | 0x38 => some .ERR_CPI_POI_ADDR
  | 0x3C => some .ERR_ALM_LATE
  | 0x40 => some .ERR_RST_MAX
  | 0x44 => some .ERR_RST_WIN
  | 0x48 => some .ERR_UNIT_RESET
  | _ => none

/-- Register at an offset within element c of the ERR_ region. -/
def ErrReg.elemAt (c : Nat) (off : Nat) : Option ErrReg :=
  match off with
  | 0x0 => some (.ERR_Cc_STAT c)
  | 0x4 => some (.ERR_Cc_CAUSE c)
  | 0x8 => some (.ERR_Cc_PC c)
  | 0xC => some (.ERR_Cc_ACK c)
  | 0x10 => some (.ERR_Cc_START c)
  | 0x14 => some (.ERR_Cc_RST_CNT c)
  | 0x18 => some (.ERR_Cc_GAP c)
  | 0x1C => some (.ERR_Cc_POI c)
  | _ => none

/-- The register at byte offset `off` of the ERR_ region (R490). -/
def ErrReg.at (cf : Conf) (off : Nat) : Option ErrReg :=
  if let some r := ErrReg.scalarAt off then some r else
  if let some (c, o) := arr? off 0x1000 0x40 cf.colls then ErrReg.elemAt c o else
  none

/-- Registers of the HLT_ region (R411, Table 13-7). -/
inductive HltReg where
  | HLT_ID
  | HLT_CTRL
  | HLT_STAT
  | HLT_INT_NORM
  | HLT_INT_WATCH
  | HLT_WL_CLEAN
  | HLT_PERM
  | HLT_REPEAT
  | HLT_HOT
  | HLT_HOT_WAIT
  | HLT_GNT_TMO
  | HLT_RUN_TMO
  | HLT_RETRY
  | HLT_CE_THR
  | HLT_MAXPAR
  | HLT_STRESS
  | HLT_FENCE
  | HLT_FENCE_CNT
  | HLT_HB_SILENT
  | HLT_VOTE
  | HLT_HB_ETYPE
  | HLT_HB_DMAC_HI
  | HLT_HB_DMAC_LO
  | HLT_HB_MISS0
  | HLT_HB_MISS1
  | HLT_RSEQ
  | HLT_HIST_BASE_HI
  | HLT_HIST_BASE_LO
  | HLT_HIST_SIZE
  | HLT_FLOG_BASE
  | HLT_FLOG_SIZE
  | HLT_PAT_DIR
  | HLT_PAT_BASE_HI
  | HLT_PAT_BASE_LO
  | HLT_PAT_SIZE
  | HLT_WL_COUNT
  | HLT_WL_ADD_HI
  | HLT_WL_ADD_LO
  | HLT_RETIRE_HI
  | HLT_RETIRE_LO
  | HLT_CE_ENT_HI
  | HLT_CE_ENT_LO
  | HLT_CE_REPORT
  | HLT_DIG_OK
  | HLT_DIG_NOORIG
  | HLT_TEST_CNT
  | HLT_GRD_ID
  | HLT_GRD_CHUNKS
  | HLT_GRD_EPOCH
  | HLT_GRD_CEPOCH
  | HLT_GRD_PAR_BASE_HI
  | HLT_GRD_PAR_BASE_LO
  | HLT_GRD_REBUILD
  | HLT_GRD_RB_STAT
  | HLT_GRD_RB_OUT_HI
  | HLT_GRD_RB_OUT_LO
  | HLT_GRD_MEM (r : Nat)
  | HLT_GRD_SRC_HI (i : Nat)
  | HLT_GRD_SRC_LO (i : Nat)
  | HLT_GRD_SRC_LEN (i : Nat)
  | HLT_TEMP_MAP_LO (c : Nat)
  | HLT_TEMP_MAP_HI (c : Nat)
  | HLT_ETYPE (c : Nat)
  deriving DecidableEq, Repr

/-- Table rows of the HLT_ registers (R411, Table 13-7). -/
def HltReg.info (_cf : Conf) : HltReg → RegInfo
  | .HLT_ID => ⟨0xE0000, .ro, 0x100000, 0x0, .upTo 3, .upTo 3⟩
  | .HLT_CTRL => ⟨0xE0004, .rw, 0, 0x1F, .upTo 1, .upTo 1⟩
  | .HLT_STAT => ⟨0xE0008, .ro, 0, 0x0, .upTo 1, .upTo 1⟩
  | .HLT_INT_NORM => ⟨0xE0010, .rw, 0x15180, 0xFFFFFFFF, .upTo 1, .upTo 1⟩
  | .HLT_INT_WATCH => ⟨0xE0014, .rw, 0xE10, 0xFFFFFFFF, .upTo 1, .upTo 1⟩
  | .HLT_WL_CLEAN => ⟨0xE0018, .rw, 0xE, 0xFF, .upTo 1, .upTo 1⟩
  | .HLT_PERM => ⟨0xE001C, .rw, 0x1E0002, 0xFFFFFFFF, .upTo 1, .upTo 1⟩
  | .HLT_REPEAT => ⟨0xE0020, .rw, 0x15180, 0xFFFFFFFF, .upTo 1, .upTo 1⟩
  | .HLT_HOT => ⟨0xE0024, .rw, 0x2A80, 0xFFFF, .upTo 1, .upTo 1⟩
  | .HLT_HOT_WAIT => ⟨0xE0028, .rw, 0x708, 0xFFFFFFFF, .upTo 1, .upTo 1⟩
  | .HLT_GNT_TMO => ⟨0xE002C, .rw, 0x2710, 0xFFFFFFFF, .upTo 1, .upTo 1⟩
  | .HLT_RUN_TMO => ⟨0xE0030, .rw, 0x7D0, 0xFFFFFFFF, .upTo 1, .upTo 1⟩
  | .HLT_RETRY => ⟨0xE0034, .rw, 0x12C, 0xFFFFFFFF, .upTo 1, .upTo 1⟩
  | .HLT_CE_THR => ⟨0xE0038, .rw, 0x64, 0xFFFFFFFF, .upTo 1, .upTo 1⟩
  | .HLT_MAXPAR => ⟨0xE003C, .rw, 1, 0xF, .upTo 1, .upTo 1⟩
  | .HLT_STRESS => ⟨0xE0040, .wg, 0, 0x81FF0003, .upTo 1, .upTo 1⟩
  | .HLT_FENCE => ⟨0xE0044, .wg, 0, 0x8FFFFFFF, .upTo 1, .upTo 1⟩
  | .HLT_FENCE_CNT => ⟨0xE0048, .rc, 0, 0x0, .upTo 1, .upTo 1⟩
  | .HLT_HB_SILENT => ⟨0xE0050, .rw, 3, 0xFF, .upTo 1, .upTo 1⟩
  | .HLT_VOTE => ⟨0xE0054, .rw, 0x70004, 0xFFFFF, .upTo 1, .upTo 1⟩
  | .HLT_HB_ETYPE => ⟨0xE0058, .rw, 0x88B5, 0xFFFF, .upTo 1, .upTo 1⟩
  | .HLT_HB_DMAC_HI => ⟨0xE005C, .rw, 0, 0xFFFF, .upTo 1, .upTo 1⟩
  | .HLT_HB_DMAC_LO => ⟨0xE0060, .rw, 0, 0xFFFFFFFF, .upTo 1, .upTo 1⟩
  | .HLT_HB_MISS0 => ⟨0xE0064, .rc, 0, 0x0, .upTo 1, .upTo 1⟩
  | .HLT_HB_MISS1 => ⟨0xE0068, .rc, 0, 0x0, .upTo 1, .upTo 1⟩
  | .HLT_RSEQ => ⟨0xE0070, .ro, 0, 0x0, .upTo 1, .upTo 1⟩
  | .HLT_HIST_BASE_HI => ⟨0xE0074, .rw, 0, 0xFFFFFFFF, .upTo 1, .upTo 1⟩
  | .HLT_HIST_BASE_LO => ⟨0xE0078, .rw, 0, 0xFFFFF000, .upTo 1, .upTo 1⟩
  | .HLT_HIST_SIZE => ⟨0xE007C, .rw, 0, 0xFFFF, .upTo 1, .upTo 1⟩
  | .HLT_FLOG_BASE => ⟨0xE0080, .rwp, 0, 0xFFFFFFFF, .upTo 1, .upTo 1⟩
  | .HLT_FLOG_SIZE => ⟨0xE0084, .rwp, 0, 0xFFFFFF, .upTo 1, .upTo 1⟩
  | .HLT_PAT_DIR => ⟨0xE0088, .rwp, 0, 0xFFFFFFFF, .upTo 1, .upTo 1⟩
  | .HLT_PAT_BASE_HI => ⟨0xE008C, .rw, 0, 0xFFFFFFFF, .upTo 1, .upTo 1⟩
  | .HLT_PAT_BASE_LO => ⟨0xE0090, .rw, 0, 0xFFFFF000, .upTo 1, .upTo 1⟩
  | .HLT_PAT_SIZE => ⟨0xE0094, .rw, 0, 0xFFFF, .upTo 1, .upTo 1⟩
  | .HLT_WL_COUNT => ⟨0xE00A0, .ro, 0, 0x0, .upTo 1, .upTo 1⟩
  | .HLT_WL_ADD_HI => ⟨0xE00A4, .rw, 0, 0xFFFF, .upTo 1, .upTo 1⟩
  | .HLT_WL_ADD_LO => ⟨0xE00A8, .rw, 0, 0xFFFFFFFF, .upTo 1, .upTo 1⟩
  | .HLT_RETIRE_HI => ⟨0xE00AC, .rw, 0, 0xFFFF, .upTo 1, .upTo 1⟩
  | .HLT_RETIRE_LO => ⟨0xE00B0, .rw, 0, 0xFFFFFFFF, .upTo 1, .upTo 1⟩
  | .HLT_CE_ENT_HI => ⟨0xE00B4, .rw, 0, 0xFFFF, .upTo 1, .upTo 1⟩
  | .HLT_CE_ENT_LO => ⟨0xE00B8, .rw, 0, 0xFFFFFFFF, .upTo 1, .upTo 1⟩
  | .HLT_CE_REPORT => ⟨0xE00BC, .rw, 0, 0xFFFFFFFF, .upTo 1, .upTo 1⟩
  | .HLT_DIG_OK => ⟨0xE00C0, .rc, 0, 0x0, .upTo 1, .upTo 1⟩
  | .HLT_DIG_NOORIG => ⟨0xE00C4, .rc, 0, 0x0, .upTo 1, .upTo 1⟩
  | .HLT_TEST_CNT => ⟨0xE00C8, .rc, 0, 0x0, .upTo 1, .upTo 1⟩
  | .HLT_GRD_ID => ⟨0xE0100, .rw, 0, 0xFFF, .upTo 3, .upTo 1⟩
  | .HLT_GRD_CHUNKS => ⟨0xE0104, .rw, 0, 0xFFFFFFFF, .upTo 1, .upTo 1⟩
  | .HLT_GRD_EPOCH => ⟨0xE0108, .rw, 0x64, 0xFFFF, .upTo 1, .upTo 1⟩
  | .HLT_GRD_CEPOCH => ⟨0xE010C, .ro, 0, 0x0, .upTo 1, .upTo 1⟩
  | .HLT_GRD_PAR_BASE_HI => ⟨0xE0110, .rw, 0, 0xFFFFFFFF, .upTo 1, .upTo 1⟩
  | .HLT_GRD_PAR_BASE_LO => ⟨0xE0114, .rw, 0, 0xFFFFF000, .upTo 1, .upTo 1⟩
  | .HLT_GRD_REBUILD => ⟨0xE0118, .rw, 0, 0x8FF90000, .upTo 1, .upTo 1⟩
  | .HLT_GRD_RB_STAT => ⟨0xE011C, .ro, 0, 0x0, .upTo 1, .upTo 1⟩
  | .HLT_GRD_RB_OUT_HI => ⟨0xE0120, .rw, 0, 0xFFFFFFFF, .upTo 1, .upTo 1⟩
  | .HLT_GRD_RB_OUT_LO => ⟨0xE0124, .rw, 0, 0xFFFFF000, .upTo 1, .upTo 1⟩
  | .HLT_GRD_MEM r => ⟨0xE0140 + 0x4 * r, .rw, 0, 0xFFFFFFFF, .upTo 1, .upTo 1⟩
  | .HLT_GRD_SRC_HI i => ⟨0xE0180 + 0x10 * i, .rw, 0, 0xFFFFFFFF, .upTo 1, .upTo 1⟩
  | .HLT_GRD_SRC_LO i => ⟨0xE0184 + 0x10 * i, .rw, 0, 0xFFFFF000, .upTo 1, .upTo 1⟩
  | .HLT_GRD_SRC_LEN i => ⟨0xE0188 + 0x10 * i, .rw, 0, 0xFFFFFFFF, .upTo 1, .upTo 1⟩
  | .HLT_TEMP_MAP_LO c => ⟨0xE0400 + 0x4 * c, .rw, 0, 0xFFFFFFFF, .upTo 1, .upTo 1⟩
  | .HLT_TEMP_MAP_HI c => ⟨0xE1400 + 0x4 * c, .rw, 0, 0xFFFFFFFF, .upTo 1, .upTo 1⟩
  | .HLT_ETYPE c => ⟨0xE2400 + 0x4 * c, .rw, 0, 0xFFFF, .upTo 1, .upTo 1⟩

/-- Scalar registers of the HLT_ region by offset. -/
def HltReg.scalarAt : Nat → Option HltReg
  | 0x0 => some .HLT_ID
  | 0x4 => some .HLT_CTRL
  | 0x8 => some .HLT_STAT
  | 0x10 => some .HLT_INT_NORM
  | 0x14 => some .HLT_INT_WATCH
  | 0x18 => some .HLT_WL_CLEAN
  | 0x1C => some .HLT_PERM
  | 0x20 => some .HLT_REPEAT
  | 0x24 => some .HLT_HOT
  | 0x28 => some .HLT_HOT_WAIT
  | 0x2C => some .HLT_GNT_TMO
  | 0x30 => some .HLT_RUN_TMO
  | 0x34 => some .HLT_RETRY
  | 0x38 => some .HLT_CE_THR
  | 0x3C => some .HLT_MAXPAR
  | 0x40 => some .HLT_STRESS
  | 0x44 => some .HLT_FENCE
  | 0x48 => some .HLT_FENCE_CNT
  | 0x50 => some .HLT_HB_SILENT
  | 0x54 => some .HLT_VOTE
  | 0x58 => some .HLT_HB_ETYPE
  | 0x5C => some .HLT_HB_DMAC_HI
  | 0x60 => some .HLT_HB_DMAC_LO
  | 0x64 => some .HLT_HB_MISS0
  | 0x68 => some .HLT_HB_MISS1
  | 0x70 => some .HLT_RSEQ
  | 0x74 => some .HLT_HIST_BASE_HI
  | 0x78 => some .HLT_HIST_BASE_LO
  | 0x7C => some .HLT_HIST_SIZE
  | 0x80 => some .HLT_FLOG_BASE
  | 0x84 => some .HLT_FLOG_SIZE
  | 0x88 => some .HLT_PAT_DIR
  | 0x8C => some .HLT_PAT_BASE_HI
  | 0x90 => some .HLT_PAT_BASE_LO
  | 0x94 => some .HLT_PAT_SIZE
  | 0xA0 => some .HLT_WL_COUNT
  | 0xA4 => some .HLT_WL_ADD_HI
  | 0xA8 => some .HLT_WL_ADD_LO
  | 0xAC => some .HLT_RETIRE_HI
  | 0xB0 => some .HLT_RETIRE_LO
  | 0xB4 => some .HLT_CE_ENT_HI
  | 0xB8 => some .HLT_CE_ENT_LO
  | 0xBC => some .HLT_CE_REPORT
  | 0xC0 => some .HLT_DIG_OK
  | 0xC4 => some .HLT_DIG_NOORIG
  | 0xC8 => some .HLT_TEST_CNT
  | 0x100 => some .HLT_GRD_ID
  | 0x104 => some .HLT_GRD_CHUNKS
  | 0x108 => some .HLT_GRD_EPOCH
  | 0x10C => some .HLT_GRD_CEPOCH
  | 0x110 => some .HLT_GRD_PAR_BASE_HI
  | 0x114 => some .HLT_GRD_PAR_BASE_LO
  | 0x118 => some .HLT_GRD_REBUILD
  | 0x11C => some .HLT_GRD_RB_STAT
  | 0x120 => some .HLT_GRD_RB_OUT_HI
  | 0x124 => some .HLT_GRD_RB_OUT_LO
  | _ => none

/-- The register at byte offset `off` of the HLT_ region (R490). -/
def HltReg.at (_cf : Conf) (off : Nat) : Option HltReg :=
  if let some r := HltReg.scalarAt off then some r else
  if let some r := idx? off 0x140 0x4 12 then some (.HLT_GRD_MEM r) else
  if let some i := idx? off 0x180 0x10 8 then some (.HLT_GRD_SRC_HI i) else
  if let some i := idx? off 0x184 0x10 8 then some (.HLT_GRD_SRC_LO i) else
  if let some i := idx? off 0x188 0x10 8 then some (.HLT_GRD_SRC_LEN i) else
  if let some c := idx? off 0x400 0x4 512 then some (.HLT_TEMP_MAP_LO c) else
  if let some c := idx? off 0x1400 0x4 512 then some (.HLT_TEMP_MAP_HI c) else
  if let some c := idx? off 0x2400 0x4 512 then some (.HLT_ETYPE c) else
  none

/-- Registers of the FWC_ region (R438, Table 14-7). -/
inductive FwcReg where
  | FWC_ID
  | FWC_CFG
  | FWC_FW_VER
  | FWC_HOST_VER
  | FWC_STAT
  | FWC_FWVER
  | FWC_SVN_MIN
  | FWC_UPD_ADDR_HI
  | FWC_UPD_ADDR_LO
  | FWC_UPD_GO
  | FWC_UPD_STAT
  | FWC_UPD_ARM
  | FWC_UPD_TURN
  | FWC_HO_BASE_HI
  | FWC_HO_BASE_LO
  | FWC_CC_GRACE
  | FWC_CRASH_LIM
  | FWC_COREx_STAT (x : Nat)
  | FWC_COREx_CAUSE (x : Nat)
  | FWC_COREx_CRASHES (x : Nat)
  | FWC_COREx_IMG (x : Nat)
  deriving DecidableEq, Repr

/-- Table rows of the FWC_ registers (R438, Table 14-7). -/
def FwcReg.info (_cf : Conf) : FwcReg → RegInfo
  | .FWC_ID => ⟨0xF0000, .ro, 0x110000, 0x0, .upTo 3, .upTo 3⟩
  | .FWC_CFG => ⟨0xF0004, .ro, 0, 0x0, .upTo 3, .upTo 3⟩
  | .FWC_FW_VER => ⟨0xF0008, .ro, 0, 0x0, .upTo 1, .upTo 1⟩
  | .FWC_HOST_VER => ⟨0xF000C, .rw, 0, 0xFFFFFFFF, .upTo 1, .upTo 1⟩
  | .FWC_STAT => ⟨0xF0010, .ro, 0, 0x0, .upTo 1, .upTo 1⟩
  | .FWC_FWVER => ⟨0xF0014, .ro, 0, 0x0, .upTo 1, .upTo 1⟩
  | .FWC_SVN_MIN => ⟨0xF0018, .ro, 0, 0x0, .upTo 1, .upTo 1⟩
  | .FWC_UPD_ADDR_HI => ⟨0xF0020, .rw, 0, 0xFFFFFFFF, .upTo 1, .upTo 1⟩
  | .FWC_UPD_ADDR_LO => ⟨0xF0024, .rw, 0, 0xFFFFFFF8, .upTo 1, .upTo 1⟩
  | .FWC_UPD_GO => ⟨0xF0028, .rwp, 0, 0x0, .upTo 1, .upTo 1⟩
  | .FWC_UPD_STAT => ⟨0xF002C, .ro, 0, 0x0, .upTo 1, .upTo 1⟩
  | .FWC_UPD_ARM => ⟨0xF0030, .rw, 0, 0xC03F0000, .upTo 1, .upTo 1⟩
  | .FWC_UPD_TURN => ⟨0xF0034, .rw, 0, 0xFFFFFFFF, .upTo 1, .upTo 1⟩
  | .FWC_HO_BASE_HI => ⟨0xF0038, .rw, 0, 0xFFFFFFFF, .upTo 1, .upTo 1⟩
  | .FWC_HO_BASE_LO => ⟨0xF003C, .rw, 0, 0xFFFFF000, .upTo 1, .upTo 1⟩
  | .FWC_CC_GRACE => ⟨0xF0040, .rw, 0x4E20, 0xFFFFFFFF, .upTo 1, .upTo 1⟩
  | .FWC_CRASH_LIM => ⟨0xF0044, .rw, 0x3003C, 0xFFFFFF, .upTo 1, .upTo 1⟩
  | .FWC_COREx_STAT x => ⟨0xF1000 + 0x20 * x, .ro, 0, 0x0, .upTo 1, .upTo 1⟩
  | .FWC_COREx_CAUSE x => ⟨0xF1004 + 0x20 * x, .ro, 0, 0x0, .upTo 1, .upTo 1⟩
  | .FWC_COREx_CRASHES x => ⟨0xF1008 + 0x20 * x, .rc, 0, 0x0, .upTo 1, .upTo 1⟩
  | .FWC_COREx_IMG x => ⟨0xF100C + 0x20 * x, .ro, 0, 0x0, .upTo 1, .upTo 1⟩

/-- Scalar registers of the FWC_ region by offset. -/
def FwcReg.scalarAt : Nat → Option FwcReg
  | 0x0 => some .FWC_ID
  | 0x4 => some .FWC_CFG
  | 0x8 => some .FWC_FW_VER
  | 0xC => some .FWC_HOST_VER
  | 0x10 => some .FWC_STAT
  | 0x14 => some .FWC_FWVER
  | 0x18 => some .FWC_SVN_MIN
  | 0x20 => some .FWC_UPD_ADDR_HI
  | 0x24 => some .FWC_UPD_ADDR_LO
  | 0x28 => some .FWC_UPD_GO
  | 0x2C => some .FWC_UPD_STAT
  | 0x30 => some .FWC_UPD_ARM
  | 0x34 => some .FWC_UPD_TURN
  | 0x38 => some .FWC_HO_BASE_HI
  | 0x3C => some .FWC_HO_BASE_LO
  | 0x40 => some .FWC_CC_GRACE
  | 0x44 => some .FWC_CRASH_LIM
  | _ => none

/-- Register at an offset within element x of the FWC_ region. -/
def FwcReg.elemAt (x : Nat) (off : Nat) : Option FwcReg :=
  match off with
  | 0x0 => some (.FWC_COREx_STAT x)
  | 0x4 => some (.FWC_COREx_CAUSE x)
  | 0x8 => some (.FWC_COREx_CRASHES x)
  | 0xC => some (.FWC_COREx_IMG x)
  | _ => none

/-- The register at byte offset `off` of the FWC_ region (R490). -/
def FwcReg.at (_cf : Conf) (off : Nat) : Option FwcReg :=
  if let some r := FwcReg.scalarAt off then some r else
  if let some (x, o) := arr? off 0x1000 0x20 128 then FwcReg.elemAt x o else
  none

/-- Registers of the PWR_ region (R439, Table 14-8). -/
inductive PwrReg where
  | PWR_ID
  | PWR_CTRL
  | PWR_STAT
  | PWR_TEMP_LIM
  | PWR_TRANS
  | PWR_CLAMP_HOLD
  | PWR_CALM
  | PWR_WAKE
  | PWR_WAKE_Q
  | PWR_WAKE_CNT
  | PWR_NAP_IDLE
  | PWR_CLAMP_CNT
  | PWR_CLAMP_SEL_LO
  | PWR_CLAMP_SEL_HI
  | PWR_CL_DISABLE
  | PWR_OPP (k : Nat)
  | PWR_CLk_STAT (k : Nat)
  | PWR_CLk_CAP (k : Nat)
  | PWR_CLk_TEMP (k : Nat)
  | PWR_CLk_NAPS (k : Nat)
  deriving DecidableEq, Repr

/-- Table rows of the PWR_ registers (R439, Table 14-8). -/
def PwrReg.info (_cf : Conf) : PwrReg → RegInfo
  | .PWR_ID => ⟨0x100000, .ro, 0x120000, 0x0, .upTo 3, .upTo 3⟩
  | .PWR_CTRL => ⟨0x100004, .rw, 3, 0x3, .upTo 2, .upTo 1⟩
  | .PWR_STAT => ⟨0x100008, .ro, 0, 0x0, .upTo 2, .upTo 2⟩
  | .PWR_TEMP_LIM => ⟨0x10000C, .rw, 0x39803480, 0xFFFFFFFF, .upTo 2, .upTo 1⟩
  | .PWR_TRANS => ⟨0x100010, .rw, 0x3E80080, 0xFFFFFFFF, .upTo 2, .upTo 1⟩
  | .PWR_CLAMP_HOLD => ⟨0x100014, .rw, 0x3E8, 0xFFFFFFFF, .upTo 2, .upTo 1⟩
  | .PWR_CALM => ⟨0x100018, .rw, 0x64, 0xFFFF, .upTo 2, .upTo 1⟩
  | .PWR_WAKE => ⟨0x10001C, .rw, 0x40014, 0xFFFFFF, .upTo 2, .upTo 1⟩
  | .PWR_WAKE_Q => ⟨0x100020, .ro, 0, 0x0, .upTo 2, .upTo 2⟩
  | .PWR_WAKE_CNT => ⟨0x100024, .rc, 0, 0x0, .upTo 2, .upTo 2⟩
  | .PWR_NAP_IDLE => ⟨0x100028, .rw, 0x32, 0xFFFF, .upTo 2, .upTo 1⟩
  | .PWR_CLAMP_CNT => ⟨0x10002C, .rc, 0, 0x0, .upTo 2, .upTo 2⟩
  | .PWR_CLAMP_SEL_LO => ⟨0x100030, .rw, 0xFFFFFFFF, 0xFFFFFFFF, .upTo 2, .upTo 1⟩
  | .PWR_CLAMP_SEL_HI => ⟨0x100034, .rw, 0xFFFFFFFF, 0xFFFFFFFF, .upTo 2, .upTo 1⟩
  | .PWR_CL_DISABLE => ⟨0x100038, .wg, 0, 0x3F, .upTo 2, .upTo 1⟩
  | .PWR_OPP k => ⟨0x100100 + 0x4 * k, .rw, (.ofNat 32 (oppSlotsReset k <<< 24)), 0x700FFFF, .upTo 2, .upTo 1⟩
  | .PWR_CLk_STAT k => ⟨0x101000 + 0x10 * k, .ro, 0, 0x0, .upTo 2, .upTo 2⟩
  | .PWR_CLk_CAP k => ⟨0x101004 + 0x10 * k, .rw, 7, 0x7, .upTo 2, .upTo 1⟩
  | .PWR_CLk_TEMP k => ⟨0x101008 + 0x10 * k, .ro, 0, 0x0, .upTo 2, .upTo 2⟩
  | .PWR_CLk_NAPS k => ⟨0x10100C + 0x10 * k, .rc, 0, 0x0, .upTo 2, .upTo 2⟩

/-- Scalar registers of the PWR_ region by offset. -/
def PwrReg.scalarAt : Nat → Option PwrReg
  | 0x0 => some .PWR_ID
  | 0x4 => some .PWR_CTRL
  | 0x8 => some .PWR_STAT
  | 0xC => some .PWR_TEMP_LIM
  | 0x10 => some .PWR_TRANS
  | 0x14 => some .PWR_CLAMP_HOLD
  | 0x18 => some .PWR_CALM
  | 0x1C => some .PWR_WAKE
  | 0x20 => some .PWR_WAKE_Q
  | 0x24 => some .PWR_WAKE_CNT
  | 0x28 => some .PWR_NAP_IDLE
  | 0x2C => some .PWR_CLAMP_CNT
  | 0x30 => some .PWR_CLAMP_SEL_LO
  | 0x34 => some .PWR_CLAMP_SEL_HI
  | 0x38 => some .PWR_CL_DISABLE
  | _ => none

/-- Register at an offset within element k of the PWR_ region. -/
def PwrReg.elemAt (k : Nat) (off : Nat) : Option PwrReg :=
  match off with
  | 0x0 => some (.PWR_CLk_STAT k)
  | 0x4 => some (.PWR_CLk_CAP k)
  | 0x8 => some (.PWR_CLk_TEMP k)
  | 0xC => some (.PWR_CLk_NAPS k)
  | _ => none

/-- The register at byte offset `off` of the PWR_ region (R490). -/
def PwrReg.at (cf : Conf) (off : Nat) : Option PwrReg :=
  if let some r := PwrReg.scalarAt off then some r else
  if let some k := idx? off 0x100 0x4 8 then some (.PWR_OPP k) else
  if let some (k, o) := arr? off 0x1000 0x10 cf.clusters then PwrReg.elemAt k o else
  none

/-- Registers of the LIC_ region (R440, Table 14-10). -/
inductive LicReg where
  | LIC_ID
  | LIC_STAT
  | LIC_SERIAL
  | LIC_INSTALL
  | LIC_RESULT
  | LIC_LOGICAL
  | LIC_DEVID (i : Nat)
  | LIC_PHYS (i : Nat)
  | LIC_MBOX (w : Nat)
  deriving DecidableEq, Repr

/-- Table rows of the LIC_ registers (R440, Table 14-10). -/
def LicReg.info (_cf : Conf) : LicReg → RegInfo
  | .LIC_ID => ⟨0x110000, .ro, 0x130000, 0x0, .upTo 3, .upTo 3⟩
  | .LIC_STAT => ⟨0x110004, .ro, 0, 0x0, .upTo 3, .upTo 3⟩
  | .LIC_SERIAL => ⟨0x110008, .ro, 0, 0x0, .upTo 3, .upTo 3⟩
  | .LIC_INSTALL => ⟨0x11000C, .wg, 0, 0x1, .upTo 3, .upTo 1⟩
  | .LIC_RESULT => ⟨0x110010, .ro, 0, 0x0, .upTo 3, .upTo 3⟩
  | .LIC_LOGICAL => ⟨0x110014, .ro, 0, 0x0, .upTo 3, .upTo 3⟩
  | .LIC_DEVID i => ⟨0x110020 + 0x4 * i, .ro, 0, 0x0, .upTo 3, .upTo 3⟩
  | .LIC_PHYS i => ⟨0x110040 + 0x4 * i, .ro, 0, 0x0, .upTo 3, .upTo 3⟩
  | .LIC_MBOX w => ⟨0x110400 + 0x4 * w, .rw, 0, 0xFFFFFFFF, .upTo 3, .upTo 1⟩

/-- Scalar registers of the LIC_ region by offset. -/
def LicReg.scalarAt : Nat → Option LicReg
  | 0x0 => some .LIC_ID
  | 0x4 => some .LIC_STAT
  | 0x8 => some .LIC_SERIAL
  | 0xC => some .LIC_INSTALL
  | 0x10 => some .LIC_RESULT
  | 0x14 => some .LIC_LOGICAL
  | _ => none

/-- The register at byte offset `off` of the LIC_ region (R490). -/
def LicReg.at (_cf : Conf) (off : Nat) : Option LicReg :=
  if let some r := LicReg.scalarAt off then some r else
  if let some i := idx? off 0x20 0x4 8 then some (.LIC_DEVID i) else
  if let some i := idx? off 0x40 0x4 64 then some (.LIC_PHYS i) else
  if let some w := idx? off 0x400 0x4 48 then some (.LIC_MBOX w) else
  none

/-- Registers of the BOOT_ region (R463, Table 15-7). -/
inductive BootReg where
  | BOOT_ID
  | BOOT_STAT
  | BOOT_REPORT
  | BOOT_DETAIL
  | BOOT_GO
  | BOOT_RERUN
  | BOOT_PLACE
  | BOOT_PARENT
  | BOOT_PART
  | BOOT_NV_BASE_HI
  | BOOT_NV_BASE_LO
  | BOOT_TRAIN
  | BOOT_CS_ADDR_HI
  | BOOT_CS_ADDR_LO
  | BOOT_CS_GO
  | BOOT_CS_STAT
  | BOOT_CS_PLACE
  | BOOT_CS_EXCL
  | BOOT_CS_TURN
  | BOOT_CS_PRIV
  | BOOT_TD
  | BOOT_TD_STAT
  | BOOT_RR
  | BOOT_CS_TMO
  | BOOT_TD_TMO
  | BOOT_STALE_CNT
  | BOOT_SPAN_WAIT
  | BOOT_PRIMARY
  | BOOT_SITE_SPAN (s : Nat)
  | BOOT_Cc_STAT (c : Nat)
  | BOOT_Cc_LASTGEN (c : Nat)
  | BOOT_Cc_CA_BASE_HI (c : Nat)
  | BOOT_Cc_CA_BASE_LO (c : Nat)
  | BOOT_Cc_CA_SIZE (c : Nat)
  | BOOT_Cc_CA_GEN (c : Nat)
  deriving DecidableEq, Repr

/-- Table rows of the BOOT_ registers (R463, Table 15-7). -/
def BootReg.info (_cf : Conf) : BootReg → RegInfo
  | .BOOT_ID => ⟨0x120000, .ro, 0x140000, 0x0, .upTo 3, .upTo 3⟩
  | .BOOT_STAT => ⟨0x120004, .ro, 0, 0x0, .upTo 3, .upTo 3⟩
  | .BOOT_REPORT => ⟨0x120008, .ro, 0, 0x0, .upTo 3, .upTo 3⟩
  | .BOOT_DETAIL => ⟨0x12000C, .ro, 0, 0x0, .upTo 3, .upTo 3⟩
  | .BOOT_GO => ⟨0x120010, .rw, 0, 0x0, .upTo 3, .upTo 1⟩
  | .BOOT_RERUN => ⟨0x120014, .wg, 0, 0xF, .upTo 3, .upTo 1⟩
  | .BOOT_PLACE => ⟨0x120018, .rw, 0, 0xFFFFFFFF, .upTo 3, .upTo 1⟩
  | .BOOT_PARENT => ⟨0x12001C, .rw, 0xFFFFFFFF, 0xFFFFFFFF, .upTo 3, .upTo 1⟩
  | .BOOT_PART => ⟨0x120020, .rw, 0, 0xFFF, .upTo 3, .upTo 1⟩
  | .BOOT_NV_BASE_HI => ⟨0x120024, .rw, 0, 0xFFFFFFFF, .upTo 3, .upTo 1⟩
  | .BOOT_NV_BASE_LO => ⟨0x120028, .rw, 0, 0xFFFFF000, .upTo 3, .upTo 1⟩
  | .BOOT_TRAIN => ⟨0x12002C, .ro, 0, 0x0, .upTo 3, .upTo 3⟩
  | .BOOT_CS_ADDR_HI => ⟨0x120100, .rw, 0, 0xFFFFFFFF, .upTo 3, .upTo 2⟩
  | .BOOT_CS_ADDR_LO => ⟨0x120104, .rw, 0, 0xFFFFFF00, .upTo 3, .upTo 2⟩
  | .BOOT_CS_GO => ⟨0x120108, .rw, 0, 0x0, .upTo 3, .upTo 2⟩
  | .BOOT_CS_STAT => ⟨0x12010C, .ro, 0, 0x0, .upTo 3, .upTo 3⟩
  | .BOOT_CS_PLACE => ⟨0x120110, .ro, 0, 0x0, .upTo 3, .upTo 3⟩
  | .BOOT_CS_EXCL => ⟨0x120114, .ro, 0, 0x0, .upTo 3, .upTo 3⟩
  | .BOOT_CS_TURN => ⟨0x120118, .ro, 0, 0x0, .upTo 3, .upTo 3⟩
  | .BOOT_CS_PRIV => ⟨0x12011C, .rw, 0, 0x3, .upTo 3, .upTo 1⟩
  | .BOOT_TD => ⟨0x120120, .rw, 0, 0x803FFFFF, .upTo 3, .upTo 2⟩
  | .BOOT_TD_STAT => ⟨0x120124, .ro, 0, 0x0, .upTo 3, .upTo 3⟩
  | .BOOT_RR => ⟨0x120128, .rw, 0x7D0, 0xFFFF, .upTo 3, .upTo 1⟩
  | .BOOT_CS_TMO => ⟨0x12012C, .rw, 0x2710, 0xFFFFFFFF, .upTo 3, .upTo 2⟩
  | .BOOT_TD_TMO => ⟨0x120130, .rw, 0x3E8, 0xFFFFFFFF, .upTo 3, .upTo 1⟩
  | .BOOT_STALE_CNT => ⟨0x120134, .rc, 0, 0x0, .upTo 3, .upTo 3⟩
  | .BOOT_SPAN_WAIT => ⟨0x120138, .rw, 0x64, 0xFFFF, .upTo 3, .upTo 1⟩
  | .BOOT_PRIMARY => ⟨0x12013C, .ro, 0xFFFFFFFF, 0x0, .upTo 3, .upTo 3⟩
  | .BOOT_SITE_SPAN s => ⟨0x120140 + 0x4 * s, .rw, 0xFFFFFFFF, 0xFFFFFFFF, .upTo 3, .upTo 1⟩
  | .BOOT_Cc_STAT c => ⟨0x121000 + 0x20 * c, .ro, 0, 0x0, .upTo 3, .upTo 3⟩
  | .BOOT_Cc_LASTGEN c => ⟨0x121004 + 0x20 * c, .ro, 0, 0x0, .upTo 3, .upTo 3⟩
  | .BOOT_Cc_CA_BASE_HI c => ⟨0x121008 + 0x20 * c, .rw, 0, 0xFFFFFFFF, .upTo 3, .upTo 2⟩
  | .BOOT_Cc_CA_BASE_LO c => ⟨0x12100C + 0x20 * c, .rw, 0, 0xFFFFF000, .upTo 3, .upTo 2⟩
  | .BOOT_Cc_CA_SIZE c => ⟨0x121010 + 0x20 * c, .rw, 0, 0xFFFFFFFF, .upTo 3, .upTo 2⟩
  | .BOOT_Cc_CA_GEN c => ⟨0x121014 + 0x20 * c, .rw, 0, 0xFFFF, .upTo 3, .upTo 2⟩

/-- Scalar registers of the BOOT_ region by offset. -/
def BootReg.scalarAt : Nat → Option BootReg
  | 0x0 => some .BOOT_ID
  | 0x4 => some .BOOT_STAT
  | 0x8 => some .BOOT_REPORT
  | 0xC => some .BOOT_DETAIL
  | 0x10 => some .BOOT_GO
  | 0x14 => some .BOOT_RERUN
  | 0x18 => some .BOOT_PLACE
  | 0x1C => some .BOOT_PARENT
  | 0x20 => some .BOOT_PART
  | 0x24 => some .BOOT_NV_BASE_HI
  | 0x28 => some .BOOT_NV_BASE_LO
  | 0x2C => some .BOOT_TRAIN
  | 0x100 => some .BOOT_CS_ADDR_HI
  | 0x104 => some .BOOT_CS_ADDR_LO
  | 0x108 => some .BOOT_CS_GO
  | 0x10C => some .BOOT_CS_STAT
  | 0x110 => some .BOOT_CS_PLACE
  | 0x114 => some .BOOT_CS_EXCL
  | 0x118 => some .BOOT_CS_TURN
  | 0x11C => some .BOOT_CS_PRIV
  | 0x120 => some .BOOT_TD
  | 0x124 => some .BOOT_TD_STAT
  | 0x128 => some .BOOT_RR
  | 0x12C => some .BOOT_CS_TMO
  | 0x130 => some .BOOT_TD_TMO
  | 0x134 => some .BOOT_STALE_CNT
  | 0x138 => some .BOOT_SPAN_WAIT
  | 0x13C => some .BOOT_PRIMARY
  | _ => none

/-- Register at an offset within element c of the BOOT_ region. -/
def BootReg.elemAt (c : Nat) (off : Nat) : Option BootReg :=
  match off with
  | 0x0 => some (.BOOT_Cc_STAT c)
  | 0x4 => some (.BOOT_Cc_LASTGEN c)
  | 0x8 => some (.BOOT_Cc_CA_BASE_HI c)
  | 0xC => some (.BOOT_Cc_CA_BASE_LO c)
  | 0x10 => some (.BOOT_Cc_CA_SIZE c)
  | 0x14 => some (.BOOT_Cc_CA_GEN c)
  | _ => none

/-- The register at byte offset `off` of the BOOT_ region (R490). -/
def BootReg.at (cf : Conf) (off : Nat) : Option BootReg :=
  if let some r := BootReg.scalarAt off then some r else
  if let some s := idx? off 0x140 0x4 8 then some (.BOOT_SITE_SPAN s) else
  if let some (c, o) := arr? off 0x1000 0x20 cf.colls then BootReg.elemAt c o else
  none

/-- Registers of the SNP_ region (R384, Table 12-12). -/
inductive SnpReg where
  | SNP_ID
  | SNP_CTRL
  | SNP_STAT
  | SNP_TRIG
  | SNP_TRIG_ARG
  | SNP_RELEASE
  | SNP_T64_HI
  | SNP_T64_LO
  | SNP_ARG
  | SNP_IGN
  | SNP_CNT
  | SNP_TRKt_TURN (t : Nat)
  | SNP_TRKt_ANGLE (t : Nat)
  | SNP_SKEW (u : Nat)
  deriving DecidableEq, Repr

/-- Table rows of the SNP_ registers (R384, Table 12-12). -/
def SnpReg.info (_cf : Conf) : SnpReg → RegInfo
  | .SNP_ID => ⟨0x140000, .ro, 0xF0000, 0x0, .upTo 3, .upTo 3⟩
  | .SNP_CTRL => ⟨0x140004, .rw, 1, 0x3, .upTo 1, .upTo 1⟩
  | .SNP_STAT => ⟨0x140008, .ro, 0, 0x0, .upTo 1, .upTo 1⟩
  | .SNP_TRIG => ⟨0x14000C, .rw, 0, 0x0, .upTo 1, .upTo 1⟩
  | .SNP_TRIG_ARG => ⟨0x140010, .rw, 0, 0xFFFFFFFF, .upTo 1, .upTo 1⟩
  | .SNP_RELEASE => ⟨0x140014, .wg, 0, 0x1, .upTo 1, .upTo 1⟩
  | .SNP_T64_HI => ⟨0x140018, .ro, 0, 0x0, .upTo 1, .upTo 1⟩
  | .SNP_T64_LO => ⟨0x14001C, .ro, 0, 0x0, .upTo 1, .upTo 1⟩
  | .SNP_ARG => ⟨0x140020, .ro, 0, 0x0, .upTo 1, .upTo 1⟩
  | .SNP_IGN => ⟨0x140024, .rc, 0, 0x0, .upTo 1, .upTo 1⟩
  | .SNP_CNT => ⟨0x140028, .ro, 0, 0x0, .upTo 1, .upTo 1⟩
  | .SNP_TRKt_TURN t => ⟨0x140100 + 0x8 * t, .ro, 0, 0x0, .upTo 1, .upTo 1⟩
  | .SNP_TRKt_ANGLE t => ⟨0x140104 + 0x8 * t, .ro, 0, 0x0, .upTo 1, .upTo 1⟩
  | .SNP_SKEW u => ⟨0x140400 + 0x4 * u, .ro, 0, 0x0, .upTo 1, .upTo 1⟩

/-- Scalar registers of the SNP_ region by offset. -/
def SnpReg.scalarAt : Nat → Option SnpReg
  | 0x0 => some .SNP_ID
  | 0x4 => some .SNP_CTRL
  | 0x8 => some .SNP_STAT
  | 0xC => some .SNP_TRIG
  | 0x10 => some .SNP_TRIG_ARG
  | 0x14 => some .SNP_RELEASE
  | 0x18 => some .SNP_T64_HI
  | 0x1C => some .SNP_T64_LO
  | 0x20 => some .SNP_ARG
  | 0x24 => some .SNP_IGN
  | 0x28 => some .SNP_CNT
  | _ => none

/-- Register at an offset within element t of the SNP_ region. -/
def SnpReg.elemAt (t : Nat) (off : Nat) : Option SnpReg :=
  match off with
  | 0x0 => some (.SNP_TRKt_TURN t)
  | 0x4 => some (.SNP_TRKt_ANGLE t)
  | _ => none

/-- The register at byte offset `off` of the SNP_ region (R490). -/
def SnpReg.at (cf : Conf) (off : Nat) : Option SnpReg :=
  if let some r := SnpReg.scalarAt off then some r else
  if let some u := idx? off 0x400 0x4 32 then some (.SNP_SKEW u) else
  if let some (t, o) := arr? off 0x100 0x8 cf.trackers then SnpReg.elemAt t o else
  none

/-- Registers of the EVR_ region (R383, Table 12-11). -/
inductive EvrReg where
  | EVR_ID
  | EVR_CFG
  | EVR_CTRL
  | EVR_STAT
  | EVR_WPTR
  | EVR_LAPS
  | EVR_WCOUNT
  | EVR_SUPP_TOT
  | EVR_FLUSH_BASE_HI
  | EVR_FLUSH_BASE_LO
  | EVR_FLUSH_SEQ
  | EVR_FLUSH_NOW
  | EVR_INJ_ARG0_HI
  | EVR_INJ_ARG0_LO
  | EVR_INJ_ARG1_HI
  | EVR_INJ_ARG1_LO
  | EVR_INJ_CODE
  | EVR_SLi_CODE (i : Nat)
  | EVR_SLi_RATE (i : Nat)
  | EVR_SLi_SUPP (i : Nat)
  deriving DecidableEq, Repr

/-- Table rows of the EVR_ registers (R383, Table 12-11). -/
def EvrReg.info (_cf : Conf) : EvrReg → RegInfo
  | .EVR_ID => ⟨0x200000, .ro, 0xE0000, 0x0, .upTo 3, .upTo 3⟩
  | .EVR_CFG => ⟨0x200004, .ro, 0, 0x0, .upTo 3, .upTo 3⟩
  | .EVR_CTRL => ⟨0x200008, .rw, 3, 0x3, .upTo 1, .upTo 1⟩
  | .EVR_STAT => ⟨0x20000C, .ro, 0, 0x0, .upTo 1, .upTo 1⟩
  | .EVR_WPTR => ⟨0x200010, .ro, 0, 0x0, .upTo 1, .upTo 1⟩
  | .EVR_LAPS => ⟨0x200014, .ro, 0, 0x0, .upTo 1, .upTo 1⟩
  | .EVR_WCOUNT => ⟨0x200018, .ro, 0, 0x0, .upTo 1, .upTo 1⟩
  | .EVR_SUPP_TOT => ⟨0x20001C, .rc, 0, 0x0, .upTo 1, .upTo 1⟩
  | .EVR_FLUSH_BASE_HI => ⟨0x200020, .rw, 0, 0xFFFFFFFF, .upTo 1, .upTo 1⟩
  | .EVR_FLUSH_BASE_LO => ⟨0x200024, .rw, 0, 0xFFFFF000, .upTo 1, .upTo 1⟩
  | .EVR_FLUSH_SEQ => ⟨0x200028, .ro, 0, 0x0, .upTo 1, .upTo 1⟩
  | .EVR_FLUSH_NOW => ⟨0x20002C, .rw, 0, 0x0, .upTo 1, .upTo 1⟩
  | .EVR_INJ_ARG0_HI => ⟨0x200040, .rw, 0, 0xFFFFFFFF, .upTo 1, .upTo 2⟩
  | .EVR_INJ_ARG0_LO => ⟨0x200044, .rw, 0, 0xFFFFFFFF, .upTo 1, .upTo 2⟩
  | .EVR_INJ_ARG1_HI => ⟨0x200048, .rw, 0, 0xFFFF, .upTo 1, .upTo 2⟩
  | .EVR_INJ_ARG1_LO => ⟨0x20004C, .rw, 0, 0xFFFFFFFF, .upTo 1, .upTo 2⟩
  | .EVR_INJ_CODE => ⟨0x200050, .rw, 0, 0xFFFF, .upTo 1, .upTo 2⟩
  | .EVR_SLi_CODE i => ⟨0x201000 + 0x10 * i, .rw, (if i = 0 then 0x80000000 else 0), 0xE000FFFF, .upTo 1, .upTo 1⟩
  | .EVR_SLi_RATE i => ⟨0x201004 + 0x10 * i, .rw, (if i = 0 then 0x4003E8 else 0), 0xFFFFFFFF, .upTo 1, .upTo 1⟩
  | .EVR_SLi_SUPP i => ⟨0x201008 + 0x10 * i, .ro, 0, 0x0, .upTo 1, .upTo 1⟩

/-- Scalar registers of the EVR_ region by offset. -/
def EvrReg.scalarAt : Nat → Option EvrReg
  | 0x0 => some .EVR_ID
  | 0x4 => some .EVR_CFG
  | 0x8 => some .EVR_CTRL
  | 0xC => some .EVR_STAT
  | 0x10 => some .EVR_WPTR
  | 0x14 => some .EVR_LAPS
  | 0x18 => some .EVR_WCOUNT
  | 0x1C => some .EVR_SUPP_TOT
  | 0x20 => some .EVR_FLUSH_BASE_HI
  | 0x24 => some .EVR_FLUSH_BASE_LO
  | 0x28 => some .EVR_FLUSH_SEQ
  | 0x2C => some .EVR_FLUSH_NOW
  | 0x40 => some .EVR_INJ_ARG0_HI
  | 0x44 => some .EVR_INJ_ARG0_LO
  | 0x48 => some .EVR_INJ_ARG1_HI
  | 0x4C => some .EVR_INJ_ARG1_LO
  | 0x50 => some .EVR_INJ_CODE
  | _ => none

/-- Register at an offset within element i of the EVR_ region. -/
def EvrReg.elemAt (i : Nat) (off : Nat) : Option EvrReg :=
  match off with
  | 0x0 => some (.EVR_SLi_CODE i)
  | 0x4 => some (.EVR_SLi_RATE i)
  | 0x8 => some (.EVR_SLi_SUPP i)
  | _ => none

/-- The register at byte offset `off` of the EVR_ region (R490). -/
def EvrReg.at (cf : Conf) (off : Nat) : Option EvrReg :=
  if let some r := EvrReg.scalarAt off then some r else
  if let some (i, o) := arr? off 0x1000 0x10 cf.codeSlots then EvrReg.elemAt i o else
  none

/-- Registers of the CTR_ region (R146, Table 4-13). -/
inductive CtrReg where
  | CTR_ID
  | CTR_CFG
  | CTR_AUTH_GO
  | CTR_AUTH_RESULT
  | CTR_AUTH_GRANT
  | CTR_AUTH_REVOKE
  | CTR_AUTH_END_HI
  | CTR_AUTH_END_LO
  | CTR_AUTH_MBOX (w : Nat)
  | CTR_CTRL (b : Nat)
  | CTR_STAT (b : Nat)
  | CTR_WPTR (b : Nat)
  | CTR_LAPS (b : Nat)
  | CTR_SYNC_INT (b : Nat)
  | CTR_TS_INT (b : Nat)
  | CTR_OVF_CNT (b : Nat)
  | CTR_TRIG (b : Nat)
  | CTR_OWN (b : Nat)
  | CTR_CMPi_CTRL (b i : Nat)
  | CTR_CMPi_ADDR (b i : Nat)
  | CTR_CMPi_MASK (b i : Nat)
  | CTR_RNGj_CTRL (b j : Nat)
  | CTR_RNGj_LO (b j : Nat)
  | CTR_RNGj_HI (b j : Nat)
  deriving DecidableEq, Repr

/-- Table rows of the CTR_ registers (R146, Table 4-13). -/
def CtrReg.info (_cf : Conf) : CtrReg → RegInfo
  | .CTR_ID => ⟨0x240000, .ro, 0x50000, 0x0, .upTo 3, .upTo 3⟩
  | .CTR_CFG => ⟨0x240004, .ro, 0, 0x0, .upTo 3, .upTo 3⟩
  | .CTR_AUTH_GO => ⟨0x240010, .rwp, 0, 0x1, .upTo 1, .upTo 1⟩
  | .CTR_AUTH_RESULT => ⟨0x240014, .ro, 0, 0x0, .upTo 1, .upTo 1⟩
  | .CTR_AUTH_GRANT => ⟨0x240018, .ro, 0, 0x0, .upTo 1, .upTo 1⟩
  | .CTR_AUTH_REVOKE => ⟨0x24001C, .rw, 0, 0x0, .upTo 1, .upTo 1⟩
  | .CTR_AUTH_END_HI => ⟨0x240020, .ro, 0, 0x0, .upTo 1, .upTo 1⟩
  | .CTR_AUTH_END_LO => ⟨0x240024, .ro, 0, 0x0, .upTo 1, .upTo 1⟩
  | .CTR_AUTH_MBOX w => ⟨0x240400 + 0x4 * w, .rw, 0, 0xFFFFFFFF, .upTo 1, .upTo 1⟩
  | .CTR_CTRL b => ⟨0x241000 + 0x100 * b, .rw, 0, 0xF000FF00, .owner (.buf b), .owner (.buf b)⟩
  | .CTR_STAT b => ⟨0x241004 + 0x100 * b, .ro, 0, 0x0, .owner (.buf b), .owner (.buf b)⟩
  | .CTR_WPTR b => ⟨0x241008 + 0x100 * b, .ro, 0, 0x0, .owner (.buf b), .owner (.buf b)⟩
  | .CTR_LAPS b => ⟨0x24100C + 0x100 * b, .ro, 0, 0x0, .owner (.buf b), .owner (.buf b)⟩
  | .CTR_SYNC_INT b => ⟨0x241010 + 0x100 * b, .rw, 0x1000, 0xFFFF, .owner (.buf b), .owner (.buf b)⟩
  | .CTR_TS_INT b => ⟨0x241014 + 0x100 * b, .rw, 0x400, 0xFFFF, .owner (.buf b), .owner (.buf b)⟩
  | .CTR_OVF_CNT b => ⟨0x241018 + 0x100 * b, .rc, 0, 0x0, .owner (.buf b), .owner (.buf b)⟩
  | .CTR_TRIG b => ⟨0x24101C + 0x100 * b, .rw, 0, 0xF3F0000F, .owner (.buf b), .owner (.buf b)⟩
  | .CTR_OWN b => ⟨0x241020 + 0x100 * b, .rw, 0xFE, 0xFF, .owner (.buf b), .upTo 1⟩
  | .CTR_CMPi_CTRL b i => ⟨0x241040 + 0x100 * b + 0x10 * i, .rw, 0, 0xF8FFFFFF, .owner (.buf b), .owner (.buf b)⟩
  | .CTR_CMPi_ADDR b i => ⟨0x241044 + 0x100 * b + 0x10 * i, .rw, 0, 0xFFFFFFFF, .owner (.buf b), .owner (.buf b)⟩
  | .CTR_CMPi_MASK b i => ⟨0x241048 + 0x100 * b + 0x10 * i, .rw, 0, 0xFFFFFFFF, .owner (.buf b), .owner (.buf b)⟩
  | .CTR_RNGj_CTRL b j => ⟨0x2410C0 + 0x100 * b + 0x10 * j, .rw, 0, 0xE0FF0000, .owner (.buf b), .owner (.buf b)⟩
  | .CTR_RNGj_LO b j => ⟨0x2410C4 + 0x100 * b + 0x10 * j, .rw, 0, 0xFFFFFFFF, .owner (.buf b), .owner (.buf b)⟩
  | .CTR_RNGj_HI b j => ⟨0x2410C8 + 0x100 * b + 0x10 * j, .rw, 0, 0xFFFFFFFF, .owner (.buf b), .owner (.buf b)⟩

/-- Scalar registers of the CTR_ region by offset. -/
def CtrReg.scalarAt : Nat → Option CtrReg
  | 0x0 => some .CTR_ID
  | 0x4 => some .CTR_CFG
  | 0x10 => some .CTR_AUTH_GO
  | 0x14 => some .CTR_AUTH_RESULT
  | 0x18 => some .CTR_AUTH_GRANT
  | 0x1C => some .CTR_AUTH_REVOKE
  | 0x20 => some .CTR_AUTH_END_HI
  | 0x24 => some .CTR_AUTH_END_LO
  | _ => none

/-- Register at an offset within element b of the CTR_ region. -/
def CtrReg.elemAt (b : Nat) (off : Nat) : Option CtrReg :=
  match off with
  | 0x0 => some (.CTR_CTRL b)
  | 0x4 => some (.CTR_STAT b)
  | 0x8 => some (.CTR_WPTR b)
  | 0xC => some (.CTR_LAPS b)
  | 0x10 => some (.CTR_SYNC_INT b)
  | 0x14 => some (.CTR_TS_INT b)
  | 0x18 => some (.CTR_OVF_CNT b)
  | 0x1C => some (.CTR_TRIG b)
  | 0x20 => some (.CTR_OWN b)
  | off =>
    if let some i := idx? off 0x40 0x10 8 then some (.CTR_CMPi_CTRL b i) else
    if let some i := idx? off 0x44 0x10 8 then some (.CTR_CMPi_ADDR b i) else
    if let some i := idx? off 0x48 0x10 8 then some (.CTR_CMPi_MASK b i) else
    if let some j := idx? off 0xC0 0x10 4 then some (.CTR_RNGj_CTRL b j) else
    if let some j := idx? off 0xC4 0x10 4 then some (.CTR_RNGj_LO b j) else
    if let some j := idx? off 0xC8 0x10 4 then some (.CTR_RNGj_HI b j) else
    none

/-- The register at byte offset `off` of the CTR_ region (R490). -/
def CtrReg.at (cf : Conf) (off : Nat) : Option CtrReg :=
  if let some r := CtrReg.scalarAt off then some r else
  if let some w := idx? off 0x400 0x4 256 then some (.CTR_AUTH_MBOX w) else
  if let some (b, o) := arr? off 0x1000 0x100 cf.traceBufs then CtrReg.elemAt b o else
  none

/-- Registers of the QSC_ region (R354, Table 11-3). -/
inductive QscReg where
  | QSC_ID
  | QSC_CFG
  | QSC_CTRL
  | QSC_STAT
  | QSC_CW (c : Nat)
  | QSC_CRINIT (c : Nat)
  | QSC_CRED_NS
  | QSC_PACK_NS
  | QSC_QSTORE
  | QSC_SPILL_BASE_HI
  | QSC_SPILL_BASE_LO
  | QSC_SPILL_SIZE
  | QSC_SPILL_USED
  | QSC_SPILL_BYTES_HI
  | QSC_SPILL_BYTES_LO
  | QSC_SALT_EPOCH
  | QSC_REKEY_INT
  | QSC_REKEY_MAXT
  | QSC_REKEY_NOW
  | QSC_SKEW_STAT
  | QSC_SKEW_CNT
  | QSC_NOCRED_DROP
  | QSC_FC_SEL
  | QSC_FC_STAT
  | QSC_FC_PEER
  | QSC_FC_SENT
  | QSC_FC_LIMIT
  | QSC_Qq_CFG (q : Nat)
  | QSC_Qq_QUANT (q : Nat)
  | QSC_Qq_RATE (q : Nat)
  | QSC_Qq_BURST (q : Nat)
  | QSC_Qq_CAP (q : Nat)
  | QSC_Qq_DEPTH (q : Nat)
  | QSC_Qq_DELAY (q : Nat)
  | QSC_Qq_HWM (q : Nat)
  | QSC_Qq_SPILL (q : Nat)
  deriving DecidableEq, Repr

/-- Table rows of the QSC_ registers (R354, Table 11-3). -/
def QscReg.info (cf : Conf) : QscReg → RegInfo
  | .QSC_ID => ⟨0x260000, .ro, 0xC0000, 0x0, .upTo 3, .upTo 3⟩
  | .QSC_CFG => ⟨0x260004, .ro, 0, 0x0, .upTo 3, .upTo 3⟩
  | .QSC_CTRL => ⟨0x260008, .rw, 3, 0x3, .upTo 1, .upTo 1⟩
  | .QSC_STAT => ⟨0x26000C, .ro, 0, 0x0, .upTo 1, .upTo 1⟩
  | .QSC_CW c => ⟨0x260040 + 0x4 * c, .rw, (if c < 3 then 0 else .ofNat 32 (classQuantumReset c)), (if c < 3 then 0 else 0xFFFF), .upTo 1, .upTo 1⟩
  | .QSC_CRINIT c => ⟨0x260060 + 0x4 * c, .rw, (.ofNat 32 (classGrantReset c)), 0xFFFFF, .upTo 1, .upTo 1⟩
  | .QSC_CRED_NS => ⟨0x260080, .rw, 0x3E8, 0xFFFF, .upTo 1, .upTo 1⟩
  | .QSC_PACK_NS => ⟨0x260084, .rw, 0x7D0, 0xFFFF, .upTo 1, .upTo 1⟩
  | .QSC_QSTORE => ⟨0x260088, .rw, (if cf = .d then 512 else 32768), 0xFFFFF, .upTo 1, .upTo 1⟩
  | .QSC_SPILL_BASE_HI => ⟨0x260090, .rw, 0, 0xFFFFFFFF, .upTo 1, .upTo 1⟩
  | .QSC_SPILL_BASE_LO => ⟨0x260094, .rw, 0, 0xC0000000, .upTo 1, .upTo 1⟩
  | .QSC_SPILL_SIZE => ⟨0x260098, .rw, 0, 0x3FF, .upTo 1, .upTo 1⟩
  | .QSC_SPILL_USED => ⟨0x26009C, .ro, 0, 0x0, .upTo 1, .upTo 1⟩
  | .QSC_SPILL_BYTES_HI => ⟨0x2600A0, .ro, 0, 0x0, .upTo 1, .upTo 1⟩
  | .QSC_SPILL_BYTES_LO => ⟨0x2600A4, .ro, 0, 0x0, .upTo 1, .upTo 1⟩
  | .QSC_SALT_EPOCH => ⟨0x2600B0, .ro, 0, 0x0, .upTo 1, .upTo 1⟩
  | .QSC_REKEY_INT => ⟨0x2600B4, .rw, 0x1000, 0x3FFFFF, .upTo 1, .upTo 1⟩
  | .QSC_REKEY_MAXT => ⟨0x2600B8, .rw, 0xE10, 0xFFFFFFFF, .upTo 1, .upTo 1⟩
  | .QSC_REKEY_NOW => ⟨0x2600BC, .rw, 0, 0x0, .upTo 1, .upTo 1⟩
  | .QSC_SKEW_STAT => ⟨0x2600C0, .ro, 0, 0x0, .upTo 1, .upTo 1⟩
  | .QSC_SKEW_CNT => ⟨0x2600C4, .rc, 0, 0x0, .upTo 1, .upTo 1⟩
  | .QSC_NOCRED_DROP => ⟨0x2600D0, .rc, 0, 0x0, .upTo 1, .upTo 1⟩
  | .QSC_FC_SEL => ⟨0x2600D4, .rw, 0, 0xFFFF, .upTo 1, .upTo 1⟩
  | .QSC_FC_STAT => ⟨0x2600D8, .ro, 0, 0x0, .upTo 1, .upTo 1⟩
  | .QSC_FC_PEER => ⟨0x2600DC, .ro, 0, 0x0, .upTo 1, .upTo 1⟩
  | .QSC_FC_SENT => ⟨0x2600E0, .ro, 0, 0x0, .upTo 1, .upTo 1⟩
  | .QSC_FC_LIMIT => ⟨0x2600E4, .ro, 0, 0x0, .upTo 1, .upTo 1⟩
  | .QSC_Qq_CFG q => ⟨0x270000 + 0x20 * q, .rw, 0xFE0000, 0xFFFF3FFF, .owner (.queue q), .upTo 1⟩
  | .QSC_Qq_QUANT q => ⟨0x270004 + 0x20 * q, .rw, 0x40, 0x3FFF, .owner (.queue q), .owner (.queue q)⟩
  | .QSC_Qq_RATE q => ⟨0x270008 + 0x20 * q, .rw, 0, 0xFFFFF, .owner (.queue q), .owner (.queue q)⟩
  | .QSC_Qq_BURST q => ⟨0x27000C + 0x20 * q, .rw, 0x80, 0xFFFFF, .owner (.queue q), .owner (.queue q)⟩
  | .QSC_Qq_CAP q => ⟨0x270010 + 0x20 * q, .rw, 0x40, 0xFFFF, .owner (.queue q), .owner (.queue q)⟩
  | .QSC_Qq_DEPTH q => ⟨0x270014 + 0x20 * q, .ro, 0, 0x0, .owner (.queue q), .owner (.queue q)⟩
  | .QSC_Qq_DELAY q => ⟨0x270018 + 0x20 * q, .ro, 0, 0x0, .owner (.queue q), .owner (.queue q)⟩
  | .QSC_Qq_HWM q => ⟨0x27001C + 0x20 * q, .rc, 0, 0x0, .owner (.queue q), .owner (.queue q)⟩
  | .QSC_Qq_SPILL q => ⟨0x2F0000 + 0x4 * q, .rc, 0, 0x0, .owner (.queue q), .owner (.queue q)⟩

/-- Scalar registers of the QSC_ region by offset. -/
def QscReg.scalarAt : Nat → Option QscReg
  | 0x0 => some .QSC_ID
  | 0x4 => some .QSC_CFG
  | 0x8 => some .QSC_CTRL
  | 0xC => some .QSC_STAT
  | 0x80 => some .QSC_CRED_NS
  | 0x84 => some .QSC_PACK_NS
  | 0x88 => some .QSC_QSTORE
  | 0x90 => some .QSC_SPILL_BASE_HI
  | 0x94 => some .QSC_SPILL_BASE_LO
  | 0x98 => some .QSC_SPILL_SIZE
  | 0x9C => some .QSC_SPILL_USED
  | 0xA0 => some .QSC_SPILL_BYTES_HI
  | 0xA4 => some .QSC_SPILL_BYTES_LO
  | 0xB0 => some .QSC_SALT_EPOCH
  | 0xB4 => some .QSC_REKEY_INT
  | 0xB8 => some .QSC_REKEY_MAXT
  | 0xBC => some .QSC_REKEY_NOW
  | 0xC0 => some .QSC_SKEW_STAT
  | 0xC4 => some .QSC_SKEW_CNT
  | 0xD0 => some .QSC_NOCRED_DROP
  | 0xD4 => some .QSC_FC_SEL
  | 0xD8 => some .QSC_FC_STAT
  | 0xDC => some .QSC_FC_PEER
  | 0xE0 => some .QSC_FC_SENT
  | 0xE4 => some .QSC_FC_LIMIT
  | _ => none

/-- Register at an offset within element q of the QSC_ region. -/
def QscReg.elemAt (q : Nat) (off : Nat) : Option QscReg :=
  match off with
  | 0x0 => some (.QSC_Qq_CFG q)
  | 0x4 => some (.QSC_Qq_QUANT q)
  | 0x8 => some (.QSC_Qq_RATE q)
  | 0xC => some (.QSC_Qq_BURST q)
  | 0x10 => some (.QSC_Qq_CAP q)
  | 0x14 => some (.QSC_Qq_DEPTH q)
  | 0x18 => some (.QSC_Qq_DELAY q)
  | 0x1C => some (.QSC_Qq_HWM q)
  | _ => none

/-- The register at byte offset `off` of the QSC_ region (R490). -/
def QscReg.at (cf : Conf) (off : Nat) : Option QscReg :=
  if let some r := QscReg.scalarAt off then some r else
  if let some c := idx? off 0x40 0x4 8 then some (.QSC_CW c) else
  if let some c := idx? off 0x60 0x4 8 then some (.QSC_CRINIT c) else
  if let some q := idx? off 0x90000 0x4 cf.queues then some (.QSC_Qq_SPILL q) else
  if let some (q, o) := arr? off 0x10000 0x20 cf.queues then QscReg.elemAt q o else
  none

/-- Any register of the control window (Table 17-1). -/
inductive Reg where
  | cpi (r : CpiReg)
  | tim (r : TimReg)
  | trn (r : TrnReg)
  | prb (r : PrbReg)
  | rcp (r : RcpReg)
  | dxe (r : DxeReg)
  | sku (r : SkuReg)
  | wsr (r : WsrReg)
  | tre (r : TreReg)
  | fea (r : FeaReg)
  | ful (r : FulReg)
  | err (r : ErrReg)
  | hlt (r : HltReg)
  | fwc (r : FwcReg)
  | pwr (r : PwrReg)
  | lic (r : LicReg)
  | boot (r : BootReg)
  | snp (r : SnpReg)
  | evr (r : EvrReg)
  | ctr (r : CtrReg)
  | qsc (r : QscReg)
  deriving DecidableEq, Repr

/-- The table row of a register. -/
def Reg.info (cf : Conf) : Reg → RegInfo
  | .cpi r => r.info cf
  | .tim r => r.info cf
  | .trn r => r.info cf
  | .prb r => r.info cf
  | .rcp r => r.info cf
  | .dxe r => r.info cf
  | .sku r => r.info cf
  | .wsr r => r.info cf
  | .tre r => r.info cf
  | .fea r => r.info cf
  | .ful r => r.info cf
  | .err r => r.info cf
  | .hlt r => r.info cf
  | .fwc r => r.info cf
  | .pwr r => r.info cf
  | .lic r => r.info cf
  | .boot r => r.info cf
  | .snp r => r.info cf
  | .evr r => r.info cf
  | .ctr r => r.info cf
  | .qsc r => r.info cf

/-- Byte address of a register in the control window. -/
def Reg.addr (cf : Conf) (r : Reg) : Nat := (r.info cf).addr

/-- The register at a byte address of the window; none where Table 17-1 gives no register (R491). -/
def Reg.at (cf : Conf) (a : Nat) : Option Reg :=
  if 0x10000 ≤ a ∧ a < 0x20000 then (CpiReg.at cf (a - 0x10000)).map .cpi else
  if 0x20000 ≤ a ∧ a < 0x30000 then (TimReg.at cf (a - 0x20000)).map .tim else
  if 0x30000 ≤ a ∧ a < 0x40000 then (TrnReg.at cf (a - 0x30000)).map .trn else
  if 0x40000 ≤ a ∧ a < 0x50000 then (PrbReg.at cf (a - 0x40000)).map .prb else
  if 0x50000 ≤ a ∧ a < 0x60000 then (RcpReg.at cf (a - 0x50000)).map .rcp else
  if 0x60000 ≤ a ∧ a < 0x70000 then (DxeReg.at cf (a - 0x60000)).map .dxe else
  if 0x70000 ≤ a ∧ a < 0x80000 then (SkuReg.at cf (a - 0x70000)).map .sku else
  if 0x80000 ≤ a ∧ a < 0xA0000 then (WsrReg.at cf (a - 0x80000)).map .wsr else
  if 0xA0000 ≤ a ∧ a < 0xB0000 then (TreReg.at cf (a - 0xA0000)).map .tre else
  if 0xB0000 ≤ a ∧ a < 0xC0000 then (FeaReg.at cf (a - 0xB0000)).map .fea else
  if 0xC0000 ≤ a ∧ a < 0xD0000 then (FulReg.at cf (a - 0xC0000)).map .ful else
  if 0xD0000 ≤ a ∧ a < 0xE0000 then (ErrReg.at cf (a - 0xD0000)).map .err else
  if 0xE0000 ≤ a ∧ a < 0xF0000 then (HltReg.at cf (a - 0xE0000)).map .hlt else
  if 0xF0000 ≤ a ∧ a < 0x100000 then (FwcReg.at cf (a - 0xF0000)).map .fwc else
  if 0x100000 ≤ a ∧ a < 0x110000 then (PwrReg.at cf (a - 0x100000)).map .pwr else
  if 0x110000 ≤ a ∧ a < 0x120000 then (LicReg.at cf (a - 0x110000)).map .lic else
  if 0x120000 ≤ a ∧ a < 0x130000 then (BootReg.at cf (a - 0x120000)).map .boot else
  if 0x140000 ≤ a ∧ a < 0x150000 then (SnpReg.at cf (a - 0x140000)).map .snp else
  if 0x200000 ≤ a ∧ a < 0x210000 then (EvrReg.at cf (a - 0x200000)).map .evr else
  if 0x240000 ≤ a ∧ a < 0x250000 then (CtrReg.at cf (a - 0x240000)).map .ctr else
  if 0x260000 ≤ a ∧ a < 0x300000 then (QscReg.at cf (a - 0x260000)).map .qsc else
  none

end Sys2Proof.Machine
end

