-- ==== Sys2Proof/Machine/State.lean ====
section
/-!
DEFINITION. The state of the block, as plain data: everything the spec gives it, its registers and its memories, and the
queue of the commands that wait. `State.reset` is the block right after reset.
-/

namespace Sys2Proof.Machine

/-- A sparse table from keys to values, as a list of pairs with strictly rising keys. What an unlisted key reads as
is the default its user names; an entry equal to that default is never listed (`Store.wf` in Machine/Store.lean). -/
abbrev Store (α : Type) := List (Nat × α)

/-- The memory of a region: addresses to bytes; an unlisted byte reads 0. -/
abbrev Mem := Store Byte

/-- Why a step stops with a fault. No meaning of this model raises one: the block has no architectural stop, every
error of a command is answered by the block itself (a NAK, an event, a restart of a collection). -/
inductive Fault where
  /-- An access to a byte address outside every memory the spec gives the block. Raised by nobody today; safe. -/
  | unmapped (addr : Nat)
  deriving DecidableEq, Repr

/-- Why a step refuses a command. -/
inductive Refusal where
  /-- The command has no meaning in this model. Raised by `exec`'s arm of that command only; safe. -/
  | notModelled (mnemonic : String)
  deriving DecidableEq, Repr

/-! ### Control port -/

/-- Responses of the control port (Table 12-6, R370). -/
inductive Resp where
  | ack | nakPriv | nakAddr | nakGuard | nakBusy
  deriving DecidableEq, Repr


/-- The first write of a guarded pair that an initiator holds (R501). -/
structure FirstWrite where
  addr  : Nat
  value : Word
  deriving DecidableEq, Repr

/-- The control port: held first writes by initiator (R501), domains whose BUSY is 1 (R495), the last response with
its data and poison line (Table 16-3), and the count of violations since reset (Table 17-7). -/
structure CpState where
  first : Store FirstWrite
  busy  : List Domain
  resp  : Option Resp
  rdata : Word
  rpoi  : Bool
  viols : Nat
  /-- High words in force of the pairs whose high word is staged, by the high word's address (R498). -/
  highs : Store Word
  deriving DecidableEq, Repr

/-! ### Events, the recorder and the snapshot network -/

/-- A raised event (R371, Table 12-3): code, source word, arguments, and whether an argument is poisoned. -/
structure Ev where
  code : BitVec 16
  src  : Word
  arg0 : Dword
  arg1 : BitVec 48
  poi  : Bool
  deriving DecidableEq, Repr

/-- One code slot's token bucket (R373): what has been taken from the full bucket and not yet refilled, in units of
1/16,000,000,000 record, the T64 of the last refill, and the pending count of suppressed events. -/
structure Bucket where
  used  : Nat
  last  : Nat
  pend  : Nat
  deriving DecidableEq, Repr

/-- A running or held flush (R376, R377, R378). `first` is the count of its oldest record, `next` the count after its
last; `start` is the tclk of the trigger. -/
structure Flush where
  cause : BitVec 4
  code  : BitVec 16
  t64   : Dword
  first : Nat
  next  : Nat
  pw    : Bool
  start : Nat
  /-- An XM write error has been seen during the flush (R378). -/
  err   : Bool
  deriving DecidableEq, Repr

/-- A held flush (R378): the OR of the cause bits, the first event code there is, and the T64 of the first trigger. -/
structure HeldFlush where
  cause : BitVec 4
  code  : BitVec 16
  t64   : Dword
  deriving DecidableEq, Repr

/-- The event recorder (R371 to R378). -/
structure EvrState where
  buckets   : Store Bucket
  ring      : Store (BitVec 256)
  /-- Records written since reset; EVR_WCOUNT, EVR_WPTR and EVR_LAPS read it. -/
  wcount    : Nat
  flush     : Option Flush
  held      : Option HeldFlush
  flushedPw : Bool
  flushErr  : Bool
  /-- Flushes completed; the next flush's number (R377). -/
  flushSeq  : Nat
  /-- Events suppressed since EVR_SUPP_TOT was last read, saturating. -/
  suppTot   : Word
  deriving DecidableEq, Repr

/-! ### Time unit -/

/-- A stamp of the stamp FIFO (R52, R53). -/
structure Stamp where
  port : Nat
  egr  : Bool
  tag  : BitVec 16
  t64  : Dword
  deriving DecidableEq, Repr

/-- The time unit (R43 to R64). Real spans are counted in tclk; T64 is formed from `frc`, `offset` and `rate`. -/
structure TimeState where
  frc       : Dword
  /-- Fraction of the FRC's advance from tclk, in eighths (R46). -/
  frcFrac   : Nat
  offset    : BitVec 96
  rate      : BitVec 40
  trefLost  : Bool
  /-- Servo terms, in units of 2^-40 of the nominal rate (R57). -/
  servoI    : Int
  servoY    : Int
  /-- Consecutive accepted measurements within, and measurements above, TIM_LOCK_THR (R59). -/
  within    : Nat
  above     : Nat
  lock      : Bool
  /-- |e| of the last measurement, saturating at 48 bits: argument 1 of TIM_LOCK (R87). -/
  lastE     : Nat
  hold      : Bool
  bigofs    : Bool
  /-- STEPPED, and the trackers that must still pass a boundary or be disabled before it clears; none of them listed
  and `steppedAny` set: any tracker's next boundary clears it (R61). -/
  stepped   : Bool
  stepWait  : List Nat
  steppedAny : Bool
  /-- tclk from which the holdover timeout runs, and whether a measurement has been accepted since SERVO_EN rose. -/
  measAt    : Nat
  measSeen  : Bool
  /-- tclk from which TIM_HOLD_AGE counts while in holdover. -/
  holdFrom  : Nat
  /-- Sum of the steps applied, so that calendar time is T64 with the steps removed (R340). -/
  stepSum   : Int
  leapAt    : Dword
  leapDone  : Bool
  leapErr   : Bool
  fifo      : List Stamp
  tsfDrop   : Nat
  tsfBad    : Nat
  tsfEvAt   : Option Nat
  /-- Next time of each time trigger (R77). -/
  ttNext    : Store Dword
  /-- tclk at which each strobe falls; none while low (R80). -/
  strobe0   : Option Nat
  strobe1   : Option Nat
  /-- tclk at which tl_pps_out falls, none while low; the whole second of the last pulse; tclk of the last taken edge of
  tl_pps_in (R51, R482). -/
  ppsFall   : Option Nat
  ppsSec    : Option Nat
  ppsInAt   : Option Nat
  deriving DecidableEq, Repr

/-! ### Turn trackers -/

/-- One turn tracker (R67 to R76). `running` is set from its first marker: an enabled tracker that is not running is
idle. Prediction and duration are 48-bit counts of tk. -/
structure Tracker where
  running : Bool
  turn    : Word
  mstamp  : Dword
  /-- Stamp of the marker before the last. -/
  prevM   : Dword
  /-- Marker stamps and numbers of the turns closed, latest first, of which the model keeps 8 (log 47). -/
  past    : List (Dword × Word)
  pred    : Nat
  lastDur : Nat
  /-- Turn number of the last record taken as a marker from below (R67). -/
  below   : Option Word
  overrun : Bool
  stall   : Bool
  hold    : Bool
  step    : Bool
  seqerr  : Bool
  early   : Bool
  /-- Angle slots that have fired in this turn (R77). -/
  fired   : List Nat
  deriving DecidableEq, Repr

/-! ### Tokens, frames, queues and flow contexts -/

/-- Who receives a credit when an entry leaves its queue: an output slot of a context (R333), or the units of a frame
of a receive flow context (R345), or nobody. -/
inductive Credit where
  | none
  | slot (ctx slot : Nat)
  | frame (fc id : Nat)
  deriving DecidableEq, Repr

/-- A token (Table 5-5): payload words, KIND, CONT, PCH, the SEQ assigned at enqueue; and the model's own bookkeeping:
whose credit it holds and the calendar time of its enqueue. -/
structure Token where
  kind  : Nat
  cont  : Bool
  pch   : BitVec 8
  seq   : Word
  words : List Word
  from_ : Credit
  at_   : Int
  /-- Units of the spill area that hold it (R347), and banks of the queue store in which its units lie (R349). -/
  spilled : Option (List Nat)
  banks : List Nat
  /-- What ends with this token (R362): a result of a reduction (key 4 RID + level) or a lateness token (none), and its turn. -/
  ack   : Option (Option Nat × Word)
  /-- Of a token that a SEND has enqueued: the context, and the number that its stores visible to the token's consumer lie below
  (R153). -/
  via   : Option (Nat × Nat) := none
  deriving DecidableEq, Repr

/-- A Toltus frame (Table 16-6). `credits` lists the slot credits that return when it leaves its egress queue (R334);
`at_` is the calendar time of its enqueue. -/
structure Frame where
  dst   : Word
  src   : Word
  drole : Nat
  srole : Nat
  cls   : Nat
  lh    : Bool
  ftype : Nat
  own   : Bool
  part  : Nat
  coll  : Nat
  gen   : Nat
  dq    : Nat
  sent  : Word
  limit : Word
  lv    : Bool
  poim  : Dword
  payload : List Byte
  credits : List Credit
  /-- Turn of the result or of the latest alarm it carries, for the gate of R369. -/
  turn    : Option Word
  at_     : Int
  /-- Units of the spill area that hold it (R347), and banks of the queue store in which its units lie (R349). -/
  spilled : Option (List Nat)
  banks   : List Nat
  deriving DecidableEq, Repr

/-- One hardware queue (R332 to R342). A local queue holds `toks`; an egress queue holds the closed frames and the
tokens of the frame still open. Class, port, owner, kind and logical queue stand in QSC_Qq_CFG. -/
structure Queue where
  toks    : List Token
  frames  : List Frame
  openToks : List Token
  /-- tclk of the first token of the open frame. -/
  openAt  : Nat
  nextSeq : Nat
  /-- CAP in force for the assignment (R354: CAP takes effect only at the next start). -/
  cap     : Nat
  /-- Peer of an egress queue: place address and role code. -/
  peer    : Word
  peerRole : Nat
  /-- Logical queue at the peer (LQR of Table 15-3). -/
  dq      : Nat
  /-- Deficit in bytes, visited mark (R338), eligibility time E in tk of calendar time (R340) and the wheel slot in
  which it waits, of the fine wheel (false) or the coarse one (true) (R341). -/
  deficit : Nat
  visited : Bool
  elig    : Option Int
  wheel   : Option (Bool × Nat)
  /-- Dequeues since the last sample, tclk of the last sample, last samples, largest since the last read (R342). -/
  deqs    : Nat
  sampAt  : Nat
  depth   : Nat
  delay   : Nat
  hwmDepth : Nat
  hwmDelay : Nat
  /-- Units written to the queue so far: the unit index of the placement hash (R349). -/
  unitIx  : Nat
  deriving DecidableEq, Repr

/-- One flow context (R343 to R345). For a send context `sent` and `limit` are SENT and the LIMIT in force; for a receive
context `sent` is SEEN. `frames` holds, for each frame received and not yet freed, the entries left and its units. -/
structure Flow where
  recv  : Bool
  cls   : Nat
  peer  : Word
  peerRole : Nat
  port  : Nat
  grant : Nat
  sent  : Word
  held  : Nat
  limit : Word
  /-- LIMIT last advertised and the tclk of that advertisement. -/
  advLimit : Word
  advAt : Nat
  frames : Store (Nat × Nat)
  nextId : Nat
  /-- Collections that use the context; `own` for the block's own streams. -/
  colls : List Nat
  own   : Bool
  deriving DecidableEq, Repr

/-- One member of a port's round (R338): a visited mark and a deficit of a weighted class. -/
structure ClassRound where
  deficit : Nat
  visited : Bool
  deriving DecidableEq, Repr

/-- The queue scheduler. -/
structure QscState where
  queues : Store Queue
  flows  : Store Flow
  /-- Active list of queues of port p and class c, at key 8p + c (R338). -/
  active : Store (List Nat)
  /-- Active list of the weighted classes of port p. -/
  classes : Store (List Nat)
  rounds : Store ClassRound
  /-- FI credits that the host holds for each pair (R472): none before the end of S5. -/
  fiCrd  : Store Nat
  spillBytes : Nat
  spillEvAt : Option Nat
  /-- The salt (R350), the tclk of the last re-key and the boundaries since. -/
  salt   : Dword
  rekeyAt : Nat
  rekeyBounds : Nat
  skew   : Bool
  /-- Units written to and read from each bank in the current window (R351). -/
  banks  : Store Nat
  /-- Number of the present skew window: calendar time in whole seconds. -/
  skewWin : Int
  /-- Tokens in the ingress reservation that wait until the old member of their hashed group is clear of their source
  (R350): source place, new member, token. -/
  waitIn : List (Word × Nat × Token)
  deriving DecidableEq, Repr

/-! ### Dexey engines -/

/-- A W320 accumulator: 320-bit two's complement integer in units of 2^-160, with its sticky flags (R218). -/
structure W320 where
  val  : BitVec 320
  pinf : Bool
  ninf : Bool
  nan  : Bool
  deriving DecidableEq, Repr

/-- The memories that a context or a job addresses (R150, R152): the DS slice of context c, the CSM of cluster k, the
shared pool and XM. -/
inductive Space where
  | ds (c : Nat) | csm (k : Nat) | pool | xm
  deriving DecidableEq, Repr

/-- A segment of a collection (R152): where it maps, from which byte, its size and rights. A CSM segment maps the CSM of
the context's own cluster. -/
inductive SegKind where
  | csm | pool | xm
  deriving DecidableEq, Repr

structure Segment where
  kind : SegKind
  base : Nat
  size : Nat
  rd   : Bool
  wr   : Bool
  deriving DecidableEq, Repr

/-- A store a context has made that is not yet visible to other observers (R153): where it goes and its bytes with their
poison. -/
structure BufStore where
  sp   : Space
  addr : Nat
  data : List (Byte × Bool)
  deriving DecidableEq, Repr

/-- A store that a SEND or a launch of its context has made visible to some observers, and no FENCE yet to all (R153): the context and
its collection, the number of that SEND or launch, where it goes and its bytes with their poison, and the observers that see it:
contexts by number, units by `Job.observer`. -/
structure SeenStore where
  ctx  : Nat
  coll : Nat
  n    : Nat
  sp   : Space
  addr : Nat
  data : List (Byte × Bool)
  seen : List Nat
  deriving DecidableEq, Repr

/-- A bound stream slot of a context (R157): direction, hardware queue, timeout in µs. -/
structure Slot where
  out : Bool
  q   : Nat
  tmo : Nat
  deriving DecidableEq, Repr

/-- The operations that a context launches (R171, R206). -/
inductive JobOp where
  | skins | skmrg | skq | topk | tscore | pack | unpack
  deriving DecidableEq, Repr

/-- A launched job (R171, R206 to R210): the operation, the launching context, its collection and cluster, the tag and
completion slot, the turn of the launch and the ensemble version and the prediction of the collection's tracker then (TSCORE,
SKQ), the descriptor words with their poison, and for SKINS the lanes. -/
structure Job where
  op    : JobOp
  ctx   : Nat
  coll  : Nat
  gen   : Nat
  cluster : Nat
  tag   : BitVec 16
  slot  : Option Nat
  turn  : Word
  ver   : Word
  pred  : Nat
  desc  : List Word
  descPoi : List Bool
  lanes : List Word
  lanePoi : BitVec 16
  mask  : BitVec 16
  /-- FSTs of the launching context that others do not yet see (TSCORE, R212), and whether the job runs on for a collection that has
  stopped, so that its output and token are discarded (R182, R363). -/
  feats : List (Nat × Word × Bool)
  dead  : Bool
  /-- tclk in which the job entered its unit's queue. -/
  at_   : Nat
  /-- A job of the history writer: the turn, and its bytes with their poison (R137, R329). -/
  hist  : Option (Word × List (Byte × Bool))
  deriving DecidableEq, Repr

/-- What a context waits for (Table 5-13). `since` is a tclk; `passed` is a WAITB whose boundary has passed and that is released with `v` in
the next tclk (R166). -/
inductive Blocked where
  | no
  | recv (slot : Nat) (deadline : Option Dword)
  | send (slot : Nat) (since : Nat)
  | waita (turn : Word) (angle : Nat) (rd : Nat)
  | waitt (time : Dword) (rd : Nat)
  | waitb (turn : Word) (rd : Nat)
  | passed (rd : Nat) (v : Dword)
  | launch (job : Job) (since : Nat)
  | fence
  | faulted
  deriving DecidableEq, Repr

/-- A context as it stood before its release from a wait in tclk `at_`, which a fault of its collection in that tclk takes back (R200). -/
structure Released where
  at_   : Nat
  pc    : Nat
  rd    : Nat
  val   : Dword
  poi   : Bool
  retired : Nat
  blocked : Blocked
  blockAt : Nat
  deriving DecidableEq, Repr

/-- One Dexey context (R148, R154, R157, R171, R181). Vector lane i of register r is at key 16 r + i. -/
structure Ctx where
  coll  : Nat
  prog  : Nat
  inst  : Nat
  insts : Nat
  cluster : Nat
  engine : Nat
  im    : List Word
  /-- Words of the image that are marked poisoned, by index (R355). -/
  imPoi : Store Bool
  dsLen : Nat
  handler : Option Nat
  ltmo  : Nat
  units : BitVec 8
  pc    : Nat
  sreg  : Store Dword
  spoi  : BitVec 32
  vreg  : Store Word
  vpoi  : BitVec 256
  preg  : Store (BitVec 16)
  ppoi  : BitVec 8
  wreg  : Store W320
  wpoi  : BitVec 8
  slots : Store Slot
  credits : Store Nat
  /-- Launch credits in use, by unit: tree, sketch, Fuller; 4 each (R171). -/
  usedTree : Nat
  usedSketch : Nat
  usedFuller : Nat
  sbuf  : List BufStore
  /-- FSTs not yet visible to others: key of the feature word, ordered key, poison, tclk of the FST (R212). -/
  fbuf  : List (Nat × Word × Bool × Nat)
  /-- Lines of XM that have been read for the instruction at the pc: line number, bytes, poison. -/
  got   : List (Nat × List Byte × Bool)
  blocked : Blocked
  blockAt : Nat
  rel   : Option Released
  inHandler : Bool
  epc   : Nat
  ecause : Word
  /-- Instructions retired (DXE_CXc_RET). -/
  retired : Nat
  start : Word
  restart : Bool
  deriving DecidableEq, Repr

/-! ### Memories -/

/-- An outstanding request on the XM port (R478): tag, line number, direction, the tclk of its acceptance, whether it has
timed out (R479), the context that waits for it, its collection, and, for a read, the line as it stood when the request was
accepted with its poison bit then (requests to one line take effect in the order accepted). -/
structure XmReq where
  tag   : Nat
  line  : Nat
  write : Bool
  at_   : Nat
  late  : Bool
  ctx   : Option Nat
  coll  : Nat
  data  : List Byte
  poi   : Bool
  deriving DecidableEq, Repr

/-- What PACK has formed of a stream (R325): its bits, their number and their value; the input that they code; and whether the last
block and the trailer are among them. -/
structure FulForm where
  n      : Nat
  v      : Nat
  at_    : Nat
  closed : Bool
  deriving DecidableEq, Repr

/-- What the state area of a stopped Fuller stream holds (R323): operation, format, the whole bytes of input taken so far, the
bits already used of the next byte and their number, what PACK has formed, the bytes written so far, the first poisoned input byte,
whether the stream has ended, and the content of the area in memory, as one number. -/
structure FulStream where
  pack  : Bool
  defl  : Bool
  input : List Byte
  held  : Nat
  heldN : Nat
  form  : FulForm
  outN  : Nat
  poiAt : Option Nat
  ended : Bool
  mark  : Nat
  deriving DecidableEq, Repr

/-- The memories (Table 5-2, R151, R152): XM by byte address with its poisoned lines by line number (R357); the shared
pool; the CSM of cluster k from 2^24 k; the DS slice of context c from 2^20 c; the flash device. Poison of on-chip
memory is by 32-bit word number (R155). `areas` says what the state areas of stopped Fuller streams hold, by their content, which
memory keeps (R323; log 18). What stands in the memories is what every observer sees; `seen` lists, in the order of their SENDs and
launches, the stores that only some see, and `sends` counts those SENDs and launches (R153). -/
structure MemState where
  xm     : Mem
  xmPoi  : Store Bool
  pool   : Mem
  poolPoi : Store Bool
  csm    : Mem
  csmPoi : Store Bool
  ds     : Mem
  dsPoi  : Store Bool
  flash  : Mem
  reqs   : List XmReq
  areas  : List FulStream
  seen   : List SeenStore
  sends  : Nat
  deriving DecidableEq, Repr


/-! ### Probe array -/

/-- A record (R114): its units of 32 bytes, unit 0 first. -/
structure Record where
  units : List (BitVec 256)
  deriving DecidableEq, Repr

/-- A pending BEGIN of the pairing store (R92, R94): its stamp, the tclk of acceptance, and the nine counter values of its
group then (fixed counter first). -/
structure Pair where
  stamp : Dword
  tclk  : Nat
  opc   : BitVec 16
  mark  : Bool
  rpl   : Bool
  qaddr : BitVec 48
  cseq  : Word
  group : Nat
  vals  : List Nat
  /-- Poison of the nine values. -/
  poi   : List Bool
  deriving DecidableEq, Repr

/-- One probe group (R96 to R98): the nine 48-bit counters (key 8 is the fixed counter), the event increments x′ of the
tclk before, the counters whose selection was applied in this tclk, and the tclk of the last restart or host write. `added` is what
`cnt` already holds of this tclk's additions (R94, R99). -/
structure Group where
  cnt   : Store Nat
  added : Store Nat
  prev  : Store Nat
  applied : List Nat
  markAt : Option Nat
  deriving DecidableEq, Repr

/-- A digest-store entry (R109). -/
structure Digest where
  cseq  : Word
  chan  : Nat
  value : Word
  deriving DecidableEq, Repr

/-- What was last recorded of a sensor input, and the samples since (R106). -/
structure SensorLast where
  value : BitVec 16
  valid : Bool
  trans : Bool
  since : Nat
  deriving DecidableEq, Repr

/-- The probe array (R88 to R112). Pairs are at key 256 CHAN + TAG; bandwidth counts, of the window j windows after the open one, at key
128 j + 2 PORT + DIR; thermal input i
at key i and voltage input i at key 64 + i. -/
structure ProbeState where
  /-- Words in the input FIFO, and whether ready is low in this tclk (R91). -/
  fifo    : Nat
  rdyLow  : Bool
  pairs   : Store Pair
  lastStamp : Store Dword
  /-- The store has refused a BEGIN since it last had room (R113). -/
  ovfSeen : Bool
  groups  : Store Group
  /-- Increments and cycles that the host presents now: key 32 g + e, and 2048 + g for cycles (R96). -/
  pins    : Store Nat
  smpD    : Nat
  smpLfsr : BitVec 16
  smpBuf  : List (Nat × Record)
  digests : List Digest
  bwCnt   : Store Nat
  bwWin   : Nat
  sensors : Store SensorLast
  snsAt   : Option Nat
  deriving DecidableEq, Repr

/-! ### Record path -/

/-- One stream of the record path (R118, R122): collection c's record stream is stream 2c, its turn stream 2c + 1, and
the global stream is stream 128. -/
structure Stream where
  seq     : Word
  /-- The open frame: sequence number of its first record, coded bytes, records, coder state (R123), tclk of its first
  record. -/
  seq0    : Word
  coded   : List Byte
  nrec    : Nat
  /-- Bytes of the open frame's payload, first and number, that hold poisoned records (R131). -/
  poiAt   : List (Nat × Nat)
  pStamp  : BitVec 48
  pChan   : Nat
  pOpc    : BitVec 16
  pQaddr  : BitVec 48
  pCseq   : Word
  openAt  : Nat
  /-- BASE: STAMP of the last record of the previous frame, and of the last record placed. -/
  base    : BitVec 48
  lastSt  : BitVec 48
  /-- Records dropped in the present shedding episode, with the stamps of the first and last (R129). -/
  shedRec : Nat
  shedOth : Nat
  /-- Route bits of the records dropped: [0] stream, [1] local queue. -/
  shedVia : Nat
  shedFirst : BitVec 48
  shedLast : BitVec 48
  /-- Records shed in the current turn, and whether a poisoned record lies in it (R121, R129). -/
  turnShed : Nat
  turnPoi : Bool
  deriving DecidableEq, Repr

/-- What waits in the output buffer or the backlog (R128): a closed frame for the parent, or a record for a local queue.
The oldest 128 KiB stand in the output buffer, the rest in the backlog ring. `poim` marks 64-byte chunks of a frame that an
uncorrectable error has struck (R355). -/
inductive RecOut where
  | frame (m : Nat) (cls : Nat) (poim : Dword) (payload : List Byte)
  | loc (c : Nat) (q : Nat) (r : Record)
  deriving DecidableEq, Repr

/-- An entry of the flight window (R132): its offset, its whole length, arrival T64, source place, stream, generation, first
sequence number and number of records. -/
structure FwEntry where
  off   : Nat
  len   : Nat
  arr   : Dword
  place : Word
  strm  : Nat
  gen   : Nat
  seq0  : Word
  nrec  : Nat
  deriving DecidableEq, Repr

/-- One turn of a collection's history (R137): its turn number, and its offset in the history region and stored bytes. -/
structure HistTurn where
  turn  : Word
  off   : Nat
  bytes : Nat
  deriving DecidableEq, Repr

/-- What the tray knows of one source stream (R132, R364): the sequence number of the first record seen and the one after the last,
and by turn the number of the turn's last record in the stream, from its turn headers. -/
structure SrcStream where
  place  : Word
  strm   : Nat
  first  : Word
  next   : Word
  seqEnd : Store Word
  deriving DecidableEq, Repr

/-- The record path, the flight window and the history (R114 to R137). -/
structure RecState where
  streams : Store Stream
  out     : List RecOut
  /-- Records are shed (R129). -/
  shed    : Bool
  htFull  : Bool
  fwEnts  : List FwEntry
  fwNext  : Nat
  fwClosing : Bool
  fwFrozen : Bool
  fwFrzShort : Bool
  fwShortAt : Option Nat
  fwSkipB : Nat
  /-- Turns whose history the region holds, and the offset that the next is written at. -/
  hist    : Store (List HistTurn)
  histNext : Nat
  /-- Offset in the backlog ring that the next spilled entry is written at (R128). -/
  blNext  : Nat
  /-- Turns whose history is to be written, per collection: bytes of THDR and results with their poison. -/
  histPend : Store (List (Nat × List (Byte × Bool)))
  srcs    : List SrcStream
  /-- Record frames that arrived while RCP_CTRL.EN was 0, with their receive contexts (R128). -/
  ingress : List (Frame × Option Nat)
  deriving DecidableEq, Repr

/-! ### Core trace -/

/-- One source of a trace buffer (R141, R142): whether it is traced now, its bases and the instructions retired since the
base; `gate` is a GATE reason held for the exit from a nap; `lost` packets wait to be told in an OVF (R143). -/
structure TraceSrc where
  lost  : Nat
  on    : Bool
  base  : Nat
  dbase : Nat
  count : Nat
  /-- Address of the next instruction the source retires, and whether the code last seen is excluded. -/
  next  : Nat
  excl  : Bool
  gate  : Option Nat
  deriving DecidableEq, Repr

/-- One trace buffer (R138 to R144): `napIn` while a NAP entry packet waits for its exit; `ovf` is CTR_OVF_CNT. -/
structure TraceBuf where
  active : Bool
  full   : Bool
  nap    : Bool
  napIn  : Bool
  ovf    : Nat
  wptr   : Nat
  laps   : Nat
  bytes  : Mem
  /-- Bytes since the last ALIGN; T64 and tclk of the last stamp; tclk of the last stop event. -/
  sinceAlign : Nat
  stampT : Dword
  stampAt : Nat
  stopAt : Option Nat
  srcs   : Store TraceSrc
  deriving DecidableEq, Repr

/-- A debug authorisation under check (Table 14-11): whether its identity differs (reason 2) or a field is bad (reason 3),
0 for neither; its grants, serial and validity. -/
structure AuthCheck where
  bad    : Nat
  grants : BitVec 3
  serial : Word
  from_  : Dword
  until_ : Dword
  deriving DecidableEq, Repr

/-- Core trace and the debug grants (R139, R434). -/
structure TraceState where
  bufs   : Store TraceBuf
  /-- Packets offered to the buffers: the free value that says which ones congestion refuses is taken at it (log 73). -/
  packets : Nat
  /-- Grants in force: [0] SEC, [1] PRIV, [2] XTEN; their end and the serial of the authorisation. -/
  grants : BitVec 3
  endT   : Dword
  serial : Word
  /-- The authorisation that the security core is verifying. -/
  checking : Option AuthCheck
  deriving DecidableEq, Repr


/-! ### Reductions -/

/-- A histogram (R248): its H word and its counts by word number of Table 8-1, an unlisted count being zero; poisoned
words by number. A histogram part of a reduction holds one range only. -/
structure Hist where
  h   : Word
  cnt : Store Word
  poi : Store Bool
  deriving DecidableEq, Repr

/-- A key of a top-k list (R253). -/
structure Key where
  val   : Dword
  place : Word
  seq   : Word
  poi   : Bool
  deriving DecidableEq, Repr

/-- A top-k list (R253, R254): its keys in rank order; `poi` marks NHELD and SEEN, `npoi` NANC. -/
structure TopK where
  h    : Word
  keys : List Key
  seen : Dword
  nanc : Word
  poi  : Bool
  npoi : Bool
  deriving DecidableEq, Repr

/-- One element of a contribution or result (Table 7-2): an exact sum, a 96-bit sum, a MIN or MAX with its source word
(R226) or EMPTY, a histogram part, or a top-k list. -/
inductive Elem where
  | sum (v : W320)
  | i96 (v : BitVec 96)
  | ext (empty : Bool) (v : Dword) (src : Word)
  | hist (v : Hist)
  | topk (v : TopK)
  deriving DecidableEq, Repr

/-- An element with its poison (R234); a sketch carries its own. -/
structure ElemV where
  e   : Elem
  poi : Bool
  deriving DecidableEq, Repr

/-- A result or half: its elements, contributors present, missing entries (R239). -/
structure RHalf where
  elems  : List ElemV
  pres   : Nat
  miss   : List Word
  mtrunc : Bool
  deriving DecidableEq, Repr

/-- The broadcast halves of a result at one level (R244, R245), with the tclk of the first, whether the other has been
requested here, and who has requested each half here (place and role). -/
structure Bcast where
  a     : Option RHalf
  b     : Option RHalf
  sitesA : Nat
  sitesB : Nat
  exp   : Nat
  at_   : Nat
  asked : Bool
  done  : Bool
  reqA  : List (Word × Nat)
  reqB  : List (Word × Nat)
  deriving DecidableEq, Repr

/-- One open turn of a reduction. -/
structure RTurn where
  /-- m(n) + P(n) once the tracker has opened the turn (R235). -/
  base  : Option Nat
  own   : Option (List ElemV)
  /-- Contributions of member dies by place address. -/
  dies  : Store (List ElemV)
  tray  : Option RHalf
  /-- RHalf-partials of the children in tree A and B by place address, and the half formed here. -/
  kidsA : Store RHalf
  kidsB : Store RHalf
  halfA : Option RHalf
  halfB : Option RHalf
  site  : Bcast
  fleet : Bcast
  /-- At a primary span instance: site halves by site, the tclk of the first, the list of the turn with the tclk of its
  arrival, the handed-down mark and whether a listed half has been requested. -/
  sitesA : Store RHalf
  sitesB : Store RHalf
  siteAt : Option Nat
  list   : Option (Nat × Nat)
  listAt : Nat
  handed : Bool
  askedSpan : Bool
  /-- Replies taken to the requests of the listed halves A and B. -/
  repA  : Nat
  repB  : Nat
  deriving DecidableEq, Repr

/-- A result kept for delivery (R246, R363): level, turn, payload words with their poison, present counts and missing
count; the words enqueued so far, and `sent` once all are. -/
structure RResult where
  level : Nat
  turn  : Word
  words : List Word
  poi   : List Bool
  presA : Nat
  presB : Nat
  miss  : Nat
  mtrunc : Bool
  pos   : Nat
  sent  : Bool
  deriving DecidableEq, Repr

/-- One reduction of a running collection (Table 7-1, R223, R231). -/
structure Reduction where
  scope : Nat
  dies  : Bool
  nel   : Nat
  split : Nat
  dline : Nat
  hop   : Nat
  dlv   : Nat
  rq    : Nat
  sq    : Nat
  els   : List Nat
  exp   : Nat
  /-- Open turns by turn number, and results not yet acknowledged; m(n) + P(n) of the turns that the tracker has opened and that
  wait for one of the four (R229, R235). -/
  turns : Store RTurn
  bases : Store Nat
  results : List RResult
  /-- Last turn whose result was delivered, by level. -/
  last  : Store Word
  /-- Last turn closed at this node: later inputs of it or an earlier turn are late. -/
  closed : Option Word
  lastTurn : Word
  lastA : Nat
  lastB : Nat
  lastMiss : Nat
  lastTrunc : Bool
  deriving DecidableEq, Repr

/-- The wide-sum reducers: reductions at key 16 c + r; messages in progress, by source (R227, R238); frames with contributions
that wait behind their credits (R229, R247), with their receive context; collections with a malformed contribution in the
command in progress (R228); the collections that this primary leads, with the tclk at which it took the role (R240, R243). -/
structure RedState where
  reds   : Store Reduction
  chains : Store (List (Word × Bool))
  wait   : List (Frame × Option Nat)
  bad    : List Nat
  leadOf : Store Nat
  deriving DecidableEq, Repr


/-! ### Jobs of the units, sketches, trees and Fuller -/

/-- The lateness block of a collection (Table 8-5). -/
structure LateCfg where
  mode : Nat
  rref : Nat
  rlp  : Nat
  rln  : Nat
  rofs : Nat
  thrAbs : Nat
  thrMul : Nat
  iqrMin : Nat
  eLat : Int
  eOfs : Int
  kd   : Nat
  kt   : Nat
  fidx : Nat
  lq   : Nat
  lcut : Nat
  deriving DecidableEq, Repr

/-- One die in a formed lateness stage (R262): place, lateness, stamp, whether censored, and the HOLD flag. -/
structure LateDie where
  place : Word
  ell   : Int
  stamp : Dword
  cens  : Bool
  hold  : Bool
  strag : Bool
  deriving DecidableEq, Repr

/-- The lateness stage of one turn (R262 to R267). `mx` is the tray's own marker stamp; `stamps` holds the marker stamp (48 bits)
and HOLD of each die by place; `given` tells that the stage has contributed, `done` that it has nothing more to do. -/
structure LateTurn where
  mx     : Option Dword
  stamps : Store (Dword × Bool)
  formed : Bool
  c      : Nat
  median : Dword
  iqr    : Nat
  dies   : List LateDie
  ref    : Option Dword
  /-- The R and o of the ROFS results seen (R267): site and fleet. -/
  qs     : Option Int
  qf     : Option Int
  given  : Bool
  done   : Bool
  deriving DecidableEq, Repr

/-- The sketch units: jobs by cluster, and the lateness stage at key 2^32 c + turn. -/
structure SkState where
  jobs : Store (List Job)
  late : Store LateTurn
  deriving DecidableEq, Repr

/-- One feature table (Table 9-1, R280 to R289). Words of the rows in the pool are at key 256 row + feature; an unlisted word reads
the absent key of its type. `held` lists the pieces of the pool's feature-table area, offset and length in bytes; the rows from
`npool` on lie in XM at `xmAddr` (R283). -/
structure FTable where
  dir    : List Nat
  nfeat  : Nat
  nstat  : Nat
  stAddr : Nat
  stRows : Nat
  types  : List Nat
  npool  : Nat
  held   : List (Nat × Nat)
  xmAddr : Nat
  /-- A reload of the static features that runs: the next row, and the rows of the image, each an entity and its words with their
  poison (R285). -/
  reload : Option (Nat × List (Nat × List (Word × Bool)))
  words  : Store Word
  poi    : Store Bool
  /-- tclk and engine of the FST that last came into force at a word (R212). -/
  wrote  : Store (Nat × Nat)
  deriving DecidableEq, Repr

/-- An ensemble (Table 9-2). `trees` holds the tree blocks' bytes. -/
structure Ens where
  modelId : Word
  ntrees  : Nat
  depth   : Nat
  scale   : BitVec 8
  bias    : Int
  thr     : List (Bool × Bool × Int)
  trees   : List Byte
  /-- Words with an uncorrectable error, at key 2^26 cluster + word of `trees` (R296). -/
  treePoi : Store Bool
  shard   : Bool
  nper    : Nat
  deriving DecidableEq, Repr

/-- One ensemble slot (R305 to R308). `result` is what the running load will end with. -/
structure EnsSlot where
  active  : Option Ens
  staged  : Option Ens
  loading : Bool
  /-- tclk in which the load was accepted: it takes effect after step 4 of a boundary in that tclk (R305). -/
  loadAt  : Nat
  /-- The address of the image and TRE_En_CTRL as they stood at the LOAD (R305, R310). -/
  loadAddr : Nat
  loadCtl : Word
  /-- An armed swap missed its turn (MISSED). -/
  missed  : Bool
  lstat   : Nat
  ver     : Word
  /-- Replaced versions that running jobs still use (R307). -/
  old     : List (Word × Ens)
  deriving DecidableEq, Repr

/-- An alarm token that waits in a cluster's tree unit (R299, R300). -/
structure Alarm where
  coll  : Nat
  slot  : Nat
  turn  : Word
  ent   : Nat
  score : Int
  alarm : Nat
  /-- The score, or the turn, is poisoned. -/
  poi   : Bool
  dpoi  : Bool
  ver   : Word
  /-- T64 at which the score was formed. -/
  at_   : Dword
  deriving DecidableEq, Repr

/-- Tree units and feature tables. `scored` holds, for a cluster whose oldest job has been scored and whose alarms still wait,
the status and words of its completion token. -/
structure TreState where
  slots  : Store EnsSlot
  jobs   : Store (List Job)
  scored : Store (Nat × List Word)
  alarms : Store (List Alarm)
  tables : Store FTable
  pairs  : Nat
  deriving DecidableEq, Repr

/-- A Fuller engine (R329): the job it runs, the tclk of its start, the number of the start, which orders the jobs of a
context, and whether another running job used an overlapping state area then (R323). -/
structure FulEngine where
  job  : Option Job
  since : Nat
  ord  : Nat
  clash : Bool
  deriving DecidableEq, Repr

/-- The Fuller engines: the jobs that wait, in the order of their launches; the engines; starts so far; bytes taken and written. -/
structure FulState where
  queue   : List Job
  engines : Store FulEngine
  starts  : Nat
  inB     : Nat
  outB    : Nat
  deriving DecidableEq, Repr


/-! ### Health unit -/

/-- A field test that a die holds in a request slot (R390, R391, R470): channel, stress lines, the SETID, expected
signature and length of its set, COOL, the tclk of the request and of the grant. -/
structure DieTest where
  chan  : Nat
  v     : Bool
  f     : Bool
  setId : Nat
  exp   : Dword
  len   : Nat
  cool  : Bool
  at_   : Nat
  gntAt : Option Nat
  deriving DecidableEq, Repr

/-- A pattern set that a die holds at HLT_PAT_BASE (R387, R388). -/
structure PatSet where
  setId : Nat
  etype : Nat
  len   : Nat
  crc   : Word
  exp   : Dword
  deriving DecidableEq, Repr

/-- What a tray keeps of a tested engine (R389): calendar times, in tk, at which its last test ended and at which it is due
at once, whether that end asks a retry, and whether a test is ordered now. -/
structure DueT where
  ended : Int
  now   : Bool
  retry : Bool
  order : Bool
  deriving DecidableEq, Repr

/-- An entry of the watch list (R393 to R395). -/
structure Watch where
  perm  : Bool
  clean : Nat
  /-- Calendar time from which the present 24 h period runs, and what has happened in it. -/
  since : Int
  pass  : Bool
  bad   : Bool
  deriving DecidableEq, Repr

/-- A peer heard on the management networks (R403, R404): tclk last heard on M0 and M1, and the fields of its last
heartbeat. -/
structure Peer where
  m0    : Option Nat
  m1    : Option Nat
  role  : Nat
  ready : Bool
  fself : Bool
  part  : Nat
  grd   : Nat
  chunks : Word
  silent : Bool
  down0 : Bool
  down1 : Bool
  deriving DecidableEq, Repr

/-- A vote counted (R405): voter, target, tclk. -/
structure Vote where
  voter  : Word
  target : Word
  at_    : Nat
  deriving DecidableEq, Repr

/-- A notice to send again in later heartbeat periods (R407). -/
structure Notice where
  op     : Bool
  vote   : Bool
  target : Word
  part   : Nat
  nseq   : Word
  t64    : Dword
  left   : Nat
  deriving DecidableEq, Repr

/-- A staged guard delta (R401): the member, its epoch, chunk number, data index k, and whether it is for Q. -/
structure Delta where
  place : Word
  epoch : Word
  chunk : Nat
  k     : Nat
  q     : Bool
  half  : Nat
  data  : List Byte
  deriving DecidableEq, Repr

/-- A rebuild in progress (R402): lost ranks and target. -/
structure Rebuild where
  a      : Nat
  b      : Option Nat
  out    : Bool
  deriving DecidableEq, Repr

/-- The health unit (R385 to R411). Entities are keys of 48 bits, engines of a die are keyed by place and channel. -/
structure HltState where
  tests   : Store DieTest
  /-- Manual stress lines raised: channel, V, F (R392). -/
  manual  : Option (Nat × Bool × Bool)
  patSet  : Option PatSet
  patBuf  : List Byte
  /-- Engine types reported by member dies: key 512 place + channel. -/
  types   : Store Nat
  due     : Store DueT
  /-- SETID and CRC of the set that a member die holds, as sent to it: key is its place. -/
  sent    : Store (Nat × Word)
  retired : List Nat
  watch   : Store Watch
  /-- Calendar time of the last naming of an engine (R386). -/
  named   : Store Int
  ceTot   : Store Nat
  ceDay   : Nat
  /-- Failure times of entities, as UTC seconds (R398), and the last RSEQ taken from a place. -/
  fails   : Store (List Nat)
  rseqOf  : Store Word
  rseq    : Word
  histOff : Nat
  flogOff : Nat
  /-- Guard group: epoch of the coding, last committed epoch, deltas staged as holder, acknowledgements awaited as
  (holder, half-chunk), the holders that have deltas of the epoch, the committed contents of each chunk (zeros when
  unlisted) and the contents of the chunks in flight. -/
  epoch   : Word
  cepoch  : Word
  staged  : List Delta
  awaited : List (Word × Nat)
  holders : List Word
  shadow  : Store (List Byte)
  flight  : Store (List Byte)
  rebuild : Option Rebuild
  peers   : Store Peer
  hseq    : Word
  nseq    : Word
  votes   : List Vote
  own     : List Word
  notices : List Notice
  /-- Places fenced in this instance's partition (R37). -/
  fenced  : List Word
  /-- Places of other partitions that this instance has fenced by a notice of its own (R37, R405). -/
  fencedOut : List Word
  fencedSelf : Bool
  grdInvalid : Bool
  grdLost : Bool
  m0Down  : Bool
  m1Down  : Bool
  wlFull  : Bool
  deriving DecidableEq, Repr

/-! ### Firmware cores, power and licence -/

/-- Where a firmware core stands (FWC_COREx_STAT.STATE). -/
inductive CoreSt where
  | off | boot | run | restart | handover | held
  deriving DecidableEq, Repr

/-- One firmware core (R412, R421, R429, R431): its state, the image running and the previous one, the tclk at which a new
image took over, the tclk of its crashes, and the turn deadline work of a crashed control core. -/
structure FCore where
  st      : CoreSt
  img     : Word
  prevImg : Word
  onPrev  : Bool
  tookAt  : Option Nat
  crashes : List Nat
  /-- Faults of the cluster held while its control core is absent (Table 14-4), as (collection, cause, pc). -/
  held    : List (Nat × Word × Nat)
  /-- Turn deadlines of the collections on the cluster, set at the crash (R430). -/
  deadline : List (Nat × Dword)
  deriving DecidableEq, Repr

/-- A firmware bundle (Table 14-2). -/
structure Bundle where
  kinds : BitVec 4
  ifver : Word
  fwver : Word
  svn   : Word
  deriving DecidableEq, Repr

/-- The firmware complex (R412 to R421). -/
structure FwcState where
  cores   : Store FCore
  /-- The bundle in force and the tclk since which it has run without reverting. -/
  running : Bundle
  since   : Nat
  /-- The bundle under check (none in it: its format is bad), the one staged, the one armed, and the activation in progress: its bundle, whether the power image is still
  to take over. -/
  checking : Option (Option Bundle)
  staged  : Option Bundle
  armed   : Option Bundle
  active  : Option Bundle
  powerDue : Bool
  /-- Status of Table 14-3 and the core of a revert. -/
  upd     : Nat
  updCore : Nat
  svnMin  : Word
  vref    : Bool
  /-- Teardowns held while the scheduler core is absent, and re-keys deferred while the security core is. -/
  heldTd  : List (Nat × Nat)
  deferRekey : Option Nat
  /-- Components whose state a core's image left in the handover block, and those that started afresh at its takeover, by core (R420). -/
  hoTags  : Store (List Nat)
  hoFresh : Store (List Nat)
  deriving DecidableEq, Repr

/-- One cluster as the power unit sees it (R422 to R428). -/
structure Clu where
  opp     : Nat
  chosen  : Nat
  nap     : Bool
  waking  : Bool
  /-- tclk of the last clamp trip while the hold runs. -/
  clampAt : Option Nat
  disabled : Bool
  temp    : BitVec 16
  /-- tclk at which the cluster last lost a context or a job of its units (R427). -/
  idleAt  : Nat
  deriving DecidableEq, Repr

/-- A supply request (R481): cluster, code, the point that takes effect at its acknowledgement, and its tclk. -/
structure Vreq where
  cluster : Nat
  code    : BitVec 16
  opp     : Nat
  at_     : Nat
  deriving DecidableEq, Repr

/-- The power unit. Sensor histories hold the last eleven 10 µs samples, newest first. -/
structure PwrState where
  clus    : Store Clu
  vreqs   : List Vreq
  hist    : Store (List (BitVec 16))
  /-- Tick values of the sensors, and for each tagged input the µs for which the change has stayed within THR. -/
  tick    : Store (BitVec 16)
  quiet   : Store Nat
  /-- Sensors that carry the transient tag (R424, R425). -/
  tags    : List Nat
  emerg   : Bool
  /-- Conditions that hold now: supply fault, power warning, a sensor above the limit; and the tclk at which the last
  condition ended. -/
  warnLow : Bool
  supply  : Bool
  limit   : Bool
  lastCond : Nat
  pcLost  : Bool
  /-- Wake requests that wait, in order: key 64 tclk + cluster; and the tclk of the latest grants (R427). -/
  wakeQ   : List Nat
  grants  : List Nat
  deriving DecidableEq, Repr

/-- A licence (Table 14-5), by its meaning. -/
structure Licence where
  role   : Role
  tree   : Bool
  ful    : Bool
  lh     : Bool
  clus   : Nat
  serial : Word
  deriving DecidableEq, Repr

/-- The licence unit (R432, R433, R436). -/
structure LicState where
  /-- The licence in force, the one that the host's store holds, and the one under check with the first
  of the checks after the signature that it fails (0 none). -/
  force   : Option Licence
  stored  : Option Licence
  checking : Option (Nat × Option Licence)
  newer   : Bool
  degraded : Bool
  logical : Nat
  good    : Nat
  deriving DecidableEq, Repr

/-! ### Bring-up -/

/-- One port's training (R445, R480). -/
structure Train where
  req   : Bool
  full  : Bool
  done  : Bool
  at_   : Nat
  deriving DecidableEq, Repr

/-- A span instance of the peer tables (R448): its flags, and whether it has answered this instance's table. -/
structure SpanPeer where
  ready   : Bool
  primary : Bool
  acked   : Bool
  sentAt  : Nat
  deriving DecidableEq, Repr

/-- Bring-up, attachment and membership (R441 to R450, R24 to R32). -/
structure BootState where
  stage   : Nat
  result  : Nat
  code    : BitVec 16
  detail  : Word
  waitGo  : Bool
  rerunRef : Bool
  ready   : Bool
  /-- Reports formed before the event recorder has started. -/
  early   : List (Word × Word)
  stageAt : Nat
  cores   : List Nat
  trains  : Store Train
  fullAny : Bool
  recWritten : Bool
  epochSeen : Bool
  lockSeen : Bool
  attAt   : Nat
  attached : Bool
  /-- An answer has come to the attach frame last sent (R447). -/
  attAns : Bool
  /-- Member dies of a tray, by place; attached trays of a span
  instance with their partitions. -/
  members : List Word
  trays   : Store Nat
  spans   : Store SpanPeer
  /-- The site's primary in force (R32): place and epoch; whether this instance is it; tclk of its last PRIMARY frame. -/
  primary : Option (Word × Word)
  isPrimary : Bool
  epochMax : Word
  primAt  : Nat
  /-- The start that this instance has initiated (R453): collection, generation, and the tenant that asked, 0xFF at L1. -/
  csInit  : Option (Nat × BitVec 16 × Nat)
  deriving DecidableEq, Repr

/-! ### Collections -/

/-- A bound slot of a program image (Table 5-10): number, OUT, PERI, logical queue, timeout in µs. -/
structure SlotDef where
  n    : Nat
  out  : Bool
  peri : Bool
  lq   : Nat
  tmo  : Nat
  deriving DecidableEq, Repr

/-- A program of a collection (Table 15-3, Table 5-10), as the scheduler core has loaded it. -/
structure Prog where
  im     : List Word
  entry  : Nat
  handler : Option Nat
  place_ : Nat
  dsLen  : Nat
  data   : List Byte
  ltmo   : Nat
  units  : BitVec 8
  slots  : List SlotDef
  deriving DecidableEq, Repr

/-- A node whose acknowledgement is awaited (R455 to R457): place, role, tclk last heard, whether it is re-reached; its answer:
the exclusions it lists, once it has answered, and a refusal with the place listed first. -/
structure CKid where
  place   : Word
  role    : Nat
  heard   : Nat
  again   : Bool
  done    : Bool
  excl    : List Word
  refusal : Option (Nat × Word)
  deriving DecidableEq, Repr

/-- A start in progress at a node (R455 to R459). `init` is the initiator with its role; `up` the node that takes the
acknowledgement, with its role; `relay` the places whose acknowledgements crown B forwards to crown A; `own` the outcome of the
instance's own work, none while a teardown delays it; `acked` the tclk of the acknowledgement; `commitIn` the exclusions of a
COMMIT taken so far. -/
structure CStart where
  coord   : Bool
  init    : Word × Nat
  up      : Option (Word × Nat)
  ofs     : Nat
  check   : Word
  kids    : List CKid
  relay   : List Word
  own     : Option Nat
  acked   : Option Nat
  at_     : Nat
  waitAt  : Option Nat
  commitIn : List Word
  deriving DecidableEq, Repr

/-- A teardown in progress at a node (R460): tclk of its arrival, the nodes whose TD_DONE is awaited and the one that takes its
own, the contexts closed by force, and whether its own part is done. -/
structure CTear where
  at_    : Nat
  kids   : List (Word × Nat)
  up     : Option (Word × Nat)
  forced : Nat
  own    : Bool
  deriving DecidableEq, Repr

/-- Where a collection stands at this instance (BOOT_Cc_STAT, ERR_Cc_STAT). -/
inductive CollSt where
  | idle | starting | running | tearing
  deriving DecidableEq, Repr

/-- One collection at this instance. -/
structure Coll where
  st      : CollSt
  /-- A restart is under way; the collection is held (R367). -/
  restarting : Bool
  held    : Bool
  gen     : BitVec 16
  trk     : Nat
  part    : Nat
  level   : Nat
  snap    : Bool
  freeze  : Bool
  ftab    : Bool
  parts   : List Word
  excl    : List Word
  /-- Fenced participants with the turn from which they are missing (R232, R408). -/
  gone    : List (Word × Word)
  clusters : List Nat
  segs    : Store Segment
  progs   : List Prog
  /-- Hardware queue of each logical queue. -/
  queues  : Store Nat
  rlq     : Nat
  /-- Hardware queue of the reducer input (Table 15-3), and the member dies that took part in the start. -/
  redq    : Option Nat
  dies    : List Word
  /-- Member dies that have attached since the start, with the first turn to which each contributes (R26). -/
  joins   : Store Word
  late    : Option LateCfg
  ncl     : Nat
  sturn   : Word
  start   : Word
  /-- The contexts have been released (R459). -/
  begun   : Bool
  /-- This instance has been the lead since the collection's commit here (R243). -/
  firstLead : Bool
  /-- tclk of the restarts within the window (R367); tclk and context of the last fault (R366). -/
  rsts    : List Nat
  faultAt : Option (Nat × Nat)
  /-- Last turn taken of the results of each reduction and level, at key 4 RID + level; lateness tokens not yet taken, by turn;
  the last turn whose history is written (R362). -/
  taken   : Store Word
  lateOut : Store Nat
  histTo  : Option Word
  /-- At a die, the records delivered to the local queue in each turn not yet acknowledged (R364): CMD and SMP records, others,
  the stamps of the first and the last. -/
  locs    : Store (Nat × Nat × BitVec 48 × BitVec 48)
  /-- The outcome of the last start with its generation, for OUTCOME (R459): the words of COMMIT or ABORT. -/
  outcome : Option (BitVec 16 × List Word)
  cs      : Option CStart
  td      : Option CTear
  deriving DecidableEq, Repr

/-! ### Ports -/

/-- The output pins that hold a value between commands, and the totals of Table 16-13: the last frame driven on FO of each
pair, the frames that the last sending command drove on M0 and M1, in order, the totals of beats and frames dropped, and saved training settings by port. -/
structure PortState where
  fo      : Store (List Byte)
  mgmt    : List (Nat × List Byte)
  beatsDropped : Nat
  framesDropped : Nat
  /-- Frames dropped and counted under R33, R36 and R37. -/
  otherDrops : Nat
  cfgo    : Store (BitVec 256)
  ppReady : Bool
  deriving DecidableEq, Repr


/-! ### The whole state -/

/-- What the host chip, its non-volatile store and the strapping fix for one instance: device identity, wired probe inputs,
the verification outcome and DEFECT of the stored defect map (R435), the boot bundle and whether it verifies (R416),
whether tref runs at reset, and the ports whose saved settings pass the short check (R445). -/
structure InstState where
  devId    : BitVec 256
  lanes    : Nat
  channels : Nat
  analogs  : Nat
  mapFail  : Option (BitVec 16 × Word)
  defect   : BitVec 68
  bundleOk : Bool
  bundle   : Bundle
  trefSeen : Bool
  /-- The event slot table that the boot bundle's scheduler image loads at S2: slot, CODE, RATE (Table 15-1, R383). -/
  slotTab  : List (Nat × Word × Word)
  /-- A die whose only master is port 60 (R54, R446). -/
  port60   : Bool
  fastOk   : List Nat
  /-- The station address of M0 and M1 (tl_mn_sa). -/
  macs     : Nat × Nat
  deriving DecidableEq, Repr

/-- What an effect asks of the event recorder and of the snapshot network: an event (R371), a flush trigger with its CAUSE
bits and event code (R376), or a snapshot trigger with its source and argument (R379). -/
inductive Raise where
  | ev (e : Ev)
  | flush (cause : BitVec 4) (code : BitVec 16)
  | snap (src : Nat) (arg : Word)
  deriving DecidableEq, Repr

/-- The units of the block: everything but the queue of commands, the event recorder and the snapshot network. -/
structure Blk where
  conf    : Conf
  role    : Role
  inst    : InstState
  /-- Whether tl_rst_n is low. -/
  inReset : Bool
  /-- tclk since reset was released. -/
  tclk    : Nat
  /-- Draws of free values so far: the argument of the next one (the model's own field). -/
  draws   : Nat
  /-- Registers that differ from their reset value, by byte address, and RWB values staged, with the tclk of the write (R493). -/
  regs    : Store Word
  rwb     : Store (Word × Nat)
  /-- Registers and window words whose SRAM word is poisoned, by byte address (R359). -/
  regPoi  : Store Bool
  cp      : CpState
  time    : TimeState
  trk     : Store Tracker
  prb     : ProbeState
  rcp     : RecState
  trace   : TraceState
  qsc     : QscState
  ctxs    : Store Ctx
  red     : RedState
  sk      : SkState
  tre     : TreState
  ful     : FulState
  hlt     : HltState
  fwc     : FwcState
  pwr     : PwrState
  lic     : LicState
  boot    : BootState
  colls   : Store Coll
  port    : PortState
  mem     : MemState
  /-- Corrections per word address in the present scrub period, and whether ERR_CE_HOT has been raised for it there (R356): key is
  unit, instance and address. -/
  ceHot   : Store (Nat × Bool)
  scrubAt : Nat
  /-- Units that have stopped taking work until ERR_UNIT_RESET (R360): key 2^16 instance + unit code. -/
  stopped : List Nat
  /-- What the command in progress has raised so far, oldest first; empty between commands. -/
  raised  : List Raise
  deriving DecidableEq, Repr

/-- The frozen snapshot set (R379): the units and the recorder as they stood at the latch, T64, source, argument and the
offset of each unit's latch. -/
structure Latched where
  blk  : Blk
  evr  : EvrState
  t64  : Dword
  src  : Nat
  arg  : Word
  skew : Store Nat
  /-- Triggers ignored and sets latched, this one among them, at the latch. -/
  ign  : Nat
  cnt  : Nat
  deriving DecidableEq, Repr

/-- The snapshot network (R379, R380): the set last latched, whether it is frozen, sets latched since reset and triggers
ignored. -/
structure SnapState where
  set    : Option Latched
  frozen : Bool
  cnt    : Nat
  ign    : Nat
  deriving DecidableEq, Repr

/-- The state of one instance of the block: the commands that wait, first in, first out; the units; the event recorder;
the snapshot network. -/
structure State where
  pending : List Instr
  blk     : Blk
  evr     : EvrState
  snap    : SnapState
  deriving DecidableEq, Repr

/-! ### Reset -/

def CpState.reset : CpState :=
  { first := [], busy := [], resp := none, rdata := 0, rpoi := false, viols := 0, highs := [] }

def EvrState.reset : EvrState :=
  { buckets := [], ring := [], wcount := 0, flush := none, held := none, flushedPw := false, flushErr := false,
    flushSeq := 0, suppTot := 0 }

/-- The time unit after reset: FRC 0 (R43), OFFSET 0, RATE the nominal 16 tk per cycle (R44). -/
def TimeState.reset : TimeState :=
  { frc := 0, frcFrac := 0, offset := 0, rate := 0x1000000000, trefLost := false, servoI := 0, servoY := 0,
    within := 0, above := 0, lock := false, lastE := 0, hold := false, bigofs := false, stepped := false, stepWait := [],
    steppedAny := false, measAt := 0, measSeen := false, holdFrom := 0, stepSum := 0, leapAt := 0, leapDone := false,
    leapErr := false, fifo := [], tsfDrop := 0, tsfBad := 0, tsfEvAt := none, ttNext := [], strobe0 := none,
    strobe1 := none, ppsFall := none, ppsSec := none, ppsInAt := none }

/-- An idle tracker (R68). Its marker stamp and prediction read 0: the spec gives no value without a turn (DESIGN CHOICE, log 47). -/
def Tracker.idle : Tracker :=
  { running := false, turn := 0, mstamp := 0, prevM := 0, past := [], pred := 0, lastDur := 0, below := none, overrun := false,
    stall := false, hold := false, step := false, seqerr := false, early := false, fired := [] }

def ProbeState.reset : ProbeState :=
  { fifo := 0, rdyLow := false, pairs := [], lastStamp := [], ovfSeen := false, groups := [], pins := [], smpD := 0, smpLfsr := 0xACE1,
    smpBuf := [], digests := [], bwCnt := [], bwWin := 0, sensors := [], snsAt := none }

def RecState.reset : RecState :=
  { streams := [], out := [], shed := false, htFull := false, fwEnts := [], fwNext := 0,
    fwClosing := false, fwFrozen := false, fwFrzShort := false, fwShortAt := none, fwSkipB := 0,
    hist := [], histNext := 0, blNext := 0, histPend := [], srcs := [], ingress := [] }

def TraceState.reset : TraceState := { bufs := [], packets := 0, grants := 0, endT := 0, serial := 0, checking := none }

def QscState.reset : QscState :=
  { queues := [], flows := [], active := [], classes := [], rounds := [], fiCrd := [],
    spillBytes := 0, spillEvAt := none, salt := 0, rekeyAt := 0,
    rekeyBounds := 0, skew := false, banks := [], skewWin := 0, waitIn := [] }

def RedState.reset : RedState := { reds := [], chains := [], wait := [], bad := [], leadOf := [] }

def SkState.reset : SkState := { jobs := [], late := [] }

def TreState.reset : TreState := { slots := [], jobs := [], scored := [], alarms := [], tables := [], pairs := 0 }

def FulState.reset : FulState := { queue := [], engines := [], starts := 0, inB := 0, outB := 0 }

def HltState.reset : HltState :=
  { tests := [], manual := none, patSet := none, patBuf := [], types := [], due := [], sent := [], retired := [], watch := [], named := [], ceTot := [],
    ceDay := 0, fails := [], rseqOf := [], rseq := 0, histOff := 0, flogOff := 0, epoch := 0, cepoch := 0, staged := [],
    awaited := [], holders := [], shadow := [], flight := [], rebuild := none, peers := [], hseq := 0, nseq := 0, votes := [], own := [],
    notices := [], fenced := [], fencedOut := [], fencedSelf := false, grdInvalid := false, grdLost := false, m0Down := false,
    m1Down := false, wlFull := false }

def Bundle.none : Bundle := { kinds := 0, ifver := 0, fwver := 0, svn := 0 }

def FwcState.reset : FwcState :=
  { cores := [], running := Bundle.none, since := 0, checking := none, staged := none, armed := none, active := none,
    powerDue := false, upd := 0, updCore := 0, svnMin := 0, vref := false, heldTd := [], deferRekey := none, hoTags := [], hoFresh := [] }

def PwrState.reset : PwrState :=
  { clus := [], vreqs := [], hist := [], tick := [], quiet := [], tags := [], emerg := false, warnLow := false, supply := false,
    limit := false, lastCond := 0, pcLost := false, wakeQ := [], grants := [] }

def LicState.reset : LicState :=
  { force := none, stored := none, checking := none, newer := false, degraded := false, logical := 0, good := 0 }

/-- Bring-up at the release of reset: stage S0 begins (R465). -/
def BootState.reset : BootState :=
  { stage := 0, result := 0, code := 0, detail := 0, waitGo := false, rerunRef := false, ready := false, early := [],
    stageAt := 0, cores := [], trains := [], fullAny := false, recWritten := false, epochSeen := false,
    lockSeen := false, attAt := 0, attached := false, attAns := false, members := [], trays := [], spans := [],
    primary := none, isPrimary := false, epochMax := 0, primAt := 0, csInit := none }

def PortState.reset : PortState :=
  { fo := [], mgmt := [], beatsDropped := 0, framesDropped := 0, otherDrops := 0, cfgo := [], ppReady := true }

def MemState.reset : MemState :=
  { xm := [], xmPoi := [], pool := [], poolPoi := [], csm := [], csmPoi := [], ds := [], dsPoi := [], flash := [],
    reqs := [], areas := [], seen := [], sends := 0 }

/-- The host chip of `State.reset` (DESIGN CHOICE, log 2): no device number, nothing wired, a defect map without defects
and a boot bundle of all four images that both verify, tref running, no saved settings. -/
def InstState.fresh : InstState :=
  { devId := 0, lanes := 0, channels := 0, analogs := 0, mapFail := none, defect := 0, bundleOk := true,
    bundle := { kinds := 0xF, ifver := 0x10000, fwver := 1, svn := 0 }, trefSeen := true, slotTab := [], port60 := false, fastOk := [], macs := (0, 0) }

/-- The units of an instance right after reset: `lic` is the licence in the host's store, `svn` the SVN_MIN there, and what
survives a reset in the memories of the host (XM, flash) is passed on. -/
def Blk.fresh (conf : Conf) (role : Role) (inst : InstState) (lic : Option Licence) (svn : Word) (draws : Nat)
    (xm : Mem) (xmPoi : Store Bool) (flash : Mem) (areas : List FulStream) : Blk :=
  { conf := conf, role := role, inst := inst, inReset := false, tclk := 0, draws := draws, regs := [], rwb := [],
    regPoi := [], cp := .reset, time := .reset, trk := [], prb := .reset, rcp := .reset, trace := .reset, qsc := .reset,
    ctxs := [], red := .reset, sk := .reset, tre := .reset, ful := .reset, hlt := .reset,
    fwc := { FwcState.reset with svnMin := svn }, pwr := .reset, lic := { LicState.reset with stored := lic },
    boot := .reset, colls := [], port := .reset,
    mem := { MemState.reset with xm := xm, xmPoi := xmPoi, flash := flash, areas := areas },
    ceHot := [], scrubAt := 0, stopped := [], raised := [] }

def SnapState.reset : SnapState := { set := none, frozen := false, cnt := 0, ign := 0 }

/-- The tray licence of `State.reset`: 64 clusters, tree units and Fuller engines enabled, no long haul (DESIGN CHOICE,
log 2). -/
def Licence.fresh : Licence := { role := .tray, tree := true, ful := true, lh := false, clus := 64, serial := 0 }

/-- The machine right after reset: a Toltus A64 whose host holds a tray licence, at the release of reset (R465), with no
command waiting. -/
def State.reset : State :=
  { pending := [],
    blk := Blk.fresh .a64 .tray .fresh (some .fresh) 0 0 [] [] [] [],
    evr := .reset, snap := .reset }

/-- Update the `regs` part of the block. -/
def Blk.modRegs (s : Blk) (f : Store Word → Store Word) : Blk := { s with regs := f s.regs }

/-- Update the `rwb` part of the block. -/
def Blk.modRwb (s : Blk) (f : Store (Word × Nat) → Store (Word × Nat)) : Blk := { s with rwb := f s.rwb }

/-- Update the `regPoi` part of the block. -/
def Blk.modRegPoi (s : Blk) (f : Store Bool → Store Bool) : Blk := { s with regPoi := f s.regPoi }

/-- Update the `cp` part of the block. -/
def Blk.modCp (s : Blk) (f : CpState → CpState) : Blk := { s with cp := f s.cp }

/-- Update the `time` part of the block. -/
def Blk.modTime (s : Blk) (f : TimeState → TimeState) : Blk := { s with time := f s.time }

/-- Update the `trk` part of the block. -/
def Blk.modTrk (s : Blk) (f : Store Tracker → Store Tracker) : Blk := { s with trk := f s.trk }

/-- Update the `prb` part of the block. -/
def Blk.modPrb (s : Blk) (f : ProbeState → ProbeState) : Blk := { s with prb := f s.prb }

/-- Update the `rcp` part of the block. -/
def Blk.modRcp (s : Blk) (f : RecState → RecState) : Blk := { s with rcp := f s.rcp }

/-- Update the `trace` part of the block. -/
def Blk.modTrace (s : Blk) (f : TraceState → TraceState) : Blk := { s with trace := f s.trace }

/-- Update the `qsc` part of the block. -/
def Blk.modQsc (s : Blk) (f : QscState → QscState) : Blk := { s with qsc := f s.qsc }

/-- Update the `ctxs` part of the block. -/
def Blk.modCtxs (s : Blk) (f : Store Ctx → Store Ctx) : Blk := { s with ctxs := f s.ctxs }

/-- Update the `red` part of the block. -/
def Blk.modRed (s : Blk) (f : RedState → RedState) : Blk := { s with red := f s.red }

/-- Update the `sk` part of the block. -/
def Blk.modSk (s : Blk) (f : SkState → SkState) : Blk := { s with sk := f s.sk }

/-- Update the `tre` part of the block. -/
def Blk.modTre (s : Blk) (f : TreState → TreState) : Blk := { s with tre := f s.tre }

/-- Update the `ful` part of the block. -/
def Blk.modFul (s : Blk) (f : FulState → FulState) : Blk := { s with ful := f s.ful }

/-- Update the `hlt` part of the block. -/
def Blk.modHlt (s : Blk) (f : HltState → HltState) : Blk := { s with hlt := f s.hlt }

/-- Update the `fwc` part of the block. -/
def Blk.modFwc (s : Blk) (f : FwcState → FwcState) : Blk := { s with fwc := f s.fwc }

/-- Update the `pwr` part of the block. -/
def Blk.modPwr (s : Blk) (f : PwrState → PwrState) : Blk := { s with pwr := f s.pwr }

/-- Update the `lic` part of the block. -/
def Blk.modLic (s : Blk) (f : LicState → LicState) : Blk := { s with lic := f s.lic }

/-- Update the `boot` part of the block. -/
def Blk.modBoot (s : Blk) (f : BootState → BootState) : Blk := { s with boot := f s.boot }

/-- Update the `colls` part of the block. -/
def Blk.modColls (s : Blk) (f : Store Coll → Store Coll) : Blk := { s with colls := f s.colls }

/-- Update the `port` part of the block. -/
def Blk.modPort (s : Blk) (f : PortState → PortState) : Blk := { s with port := f s.port }

/-- Update the `mem` part of the block. -/
def Blk.modMem (s : Blk) (f : MemState → MemState) : Blk := { s with mem := f s.mem }

/-- Update the `blk` part of the state. -/
def State.modBlk (s : State) (f : Blk → Blk) : State := { s with blk := f s.blk }

/-- Update the `evr` part of the state. -/
def State.modEvr (s : State) (f : EvrState → EvrState) : State := { s with evr := f s.evr }

/-- Update the `snap` part of the state. -/
def State.modSnap (s : State) (f : SnapState → SnapState) : State := { s with snap := f s.snap }

end Sys2Proof.Machine
end

