-- ==== Sys2Proof/Machine/Store.lean ====
section
/-!
DEFINITION. Operations on sparse tables: look up, write and delete, in the canonical form (keys strictly rising, no
entry equal to what an unlisted key reads as). Memory, registers and every table of the block are held this way.
-/

namespace Sys2Proof.Machine

/-- The entry at key `k`, if listed. -/
def Store.look {α : Type} : Store α → Nat → Option α
  | [], _ => none
  | (k', v) :: t, k => if k' = k then some v else Store.look t k

/-- The value at key `k`; an unlisted key reads `d`. -/
def Store.get {α : Type} (d : α) (m : Store α) (k : Nat) : α := (Store.look m k).getD d

/-- Insert or replace the entry at key `k`, keeping keys rising. -/
def Store.put {α : Type} : Store α → Nat → α → Store α
  | [], k, v => [(k, v)]
  | (k', v') :: t, k, v =>
    if k' = k then (k, v) :: t
    else if k < k' then (k, v) :: (k', v') :: t
    else (k', v') :: Store.put t k v

/-- Remove the entry at key `k`. -/
def Store.del {α : Type} (m : Store α) (k : Nat) : Store α := m.filter (fun p => p.1 != k)

/-- Write `v` at key `k`, where an unlisted key reads `d`: writing `d` removes the entry. -/
def Store.set {α : Type} [DecidableEq α] (d : α) (m : Store α) (k : Nat) (v : α) : Store α :=
  if v = d then Store.del m k else Store.put m k v

/-- Keys strictly rise. -/
def Store.sorted {α : Type} : Store α → Bool
  | [] => true
  | [_] => true
  | (k, _) :: (k', v') :: t => decide (k < k') && Store.sorted ((k', v') :: t)

/-- The canonical form: keys strictly rise, and no entry equals what an unlisted key reads as. -/
def Store.wf {α : Type} [DecidableEq α] (d : α) (m : Store α) : Bool :=
  Store.sorted m && m.all (fun p => decide (p.2 ≠ d))

/-- Keys listed, in rising order. -/
def Store.keys {α : Type} (m : Store α) : List Nat := m.map Prod.fst

end Sys2Proof.Machine
end

