-- ==== Sys2Proof/Machine/Ops.lean ====
section
/-!
DEFINITION. The shared operations of every unit: bit fields, registers as stored words, the time base, events and triggers
raised, memories with their poison, CRC-32C, free values, place addresses.
-/

namespace Sys2Proof.Machine

/-! ### Bit fields and bytes -/

/-- Bits [hi:lo] of a word, as a number. -/
def fld (w : Word) (hi lo : Nat) : Nat := (w.toNat >>> lo) % 2 ^ (hi - lo + 1)

/-- Bit `i` of a word. -/
def bit (w : Word) (i : Nat) : Bool := w.getLsbD i

/-- `w` with bits [hi:lo] replaced by the low bits of `v`. -/
def setFld (w : Word) (hi lo v : Nat) : Word :=
  let m : Word := BitVec.ofNat 32 ((2 ^ (hi - lo + 1) - 1) <<< lo)
  (w &&& ~~~m) ||| (BitVec.ofNat 32 (v <<< lo) &&& m)

/-- A number as a word. -/
def w32 (n : Nat) : Word := BitVec.ofNat 32 n

/-- A flag as a number. -/
def b2n (b : Bool) : Nat := if b then 1 else 0

/-- The value of a high and a low word. -/
def hiLo (hi lo : Word) : Nat := hi.toNat * 2 ^ 32 + lo.toNat

/-- High and low word of a number. -/
def hiOf (n : Nat) : Word := w32 (n >>> 32)
def loOf (n : Nat) : Word := w32 n

/-- Signed value of the low 16 bits. -/
def s16 (n : Nat) : Int := (BitVec.ofNat 16 n).toInt

/-- The low `n` bytes of a number, lowest first (R150). -/
def leBytes : Nat → Nat → List Byte
  | 0, _ => []
  | n + 1, v => BitVec.ofNat 8 v :: leBytes n (v / 256)

/-- A little-endian number. -/
def leNat : List Byte → Nat
  | [] => 0
  | b :: t => b.toNat + 256 * leNat t

/-- `n` bytes from offset `i` of a list, padded with zeros. -/
def slice (bs : List Byte) (i n : Nat) : List Byte :=
  let p := (bs.drop i).take n
  p ++ List.replicate (n - p.length) 0

/-- The little-endian number of `n` bytes at offset `i`. -/
def leAt (bs : List Byte) (i n : Nat) : Nat := leNat (slice bs i n)

/-- Word number `i` of a payload. -/
def wordAt (bs : List Byte) (i : Nat) : Word := w32 (leAt bs (4 * i) 4)

/-- The bytes of a list of words. -/
def wordsBytes (ws : List Word) : List Byte := ws.flatMap (fun w => leBytes 4 w.toNat)

/-- The words of a list of bytes, the last padded with zeros; at most `n` words. -/
def bytesWords : Nat → List Byte → List Word
  | 0, _ => []
  | _, [] => []
  | n + 1, bs => w32 (leAt bs 0 4) :: bytesWords n (bs.drop 4)

/-- One bit of CRC-32C, reflected (R317). -/
def crcBit (c : Word) : Word := if c.getLsbD 0 then (c >>> 1) ^^^ 0x82F63B78#32 else c >>> 1

/-- One byte of CRC-32C. -/
def crcByte (c : Word) (b : Byte) : Word :=
  crcBit (crcBit (crcBit (crcBit (crcBit (crcBit (crcBit (crcBit (c ^^^ b.setWidth 32))))))))

/-- CRC-32C of a list of bytes (R317): initial value and final exclusive-or of all ones. -/
def crc32c (bs : List Byte) : Word := ~~~(bs.foldl crcByte 0xFFFFFFFF#32)

/-- Round a number up to a multiple of `m`. -/
def roundUp (n m : Nat) : Nat := (n + m - 1) / m * m

/-- Insert a number into an ascending list without repeats. -/
def insNat (n : Nat) : List Nat → List Nat
  | [] => [n]
  | a :: t => if n < a then n :: a :: t else if n = a then a :: t else a :: insNat n t

/-- Insert a place into an ascending list without repeats (R18). -/
def insPlace (p : Word) : List Word → List Word
  | [] => [p]
  | a :: t => if p.toNat < a.toNat then p :: a :: t else if p = a then a :: t else a :: insPlace p t

/-- A saturating sum of a word and a number. -/
def satAdd (w : Word) (n : Nat) : Word := w32 (min (w.toNat + n) 0xFFFFFFFF)

/-- Signed difference of two words (a − b) as an integer. -/
def sdiff (a b : Word) : Int := (a - b).toInt

/-! ### Registers as stored -/

/-- The stored value of a register. -/
def Blk.reg (s : Blk) (r : Reg) : Word := Store.get (r.info s.conf).rst s.regs (r.addr s.conf)

/-- Put a value that is computed from the old one in a register: a poison mark of its word stays (R155). -/
def Blk.putReg (s : Blk) (r : Reg) (v : Word) : Blk :=
  s.modRegs (fun m => Store.set (r.info s.conf).rst m (r.addr s.conf) v)

/-- Store a value in a register: the word is overwritten whole, and a poison mark goes (R355). -/
def Blk.setReg (s : Blk) (r : Reg) (v : Word) : Blk :=
  (s.putReg r v).modRegPoi (fun m => m.filter (fun p => decide (p.1 ≠ r.addr s.conf)))

/-- Count `n` in a counter register, saturating (R382; DESIGN CHOICE where a table does not say, log 5). -/
def Blk.count (s : Blk) (r : Reg) (n : Nat) : Blk := s.putReg r (satAdd (s.reg r) n)

/-- Count `n` in bits [hi:lo] of a register, saturating there. -/
def Blk.countFld (s : Blk) (r : Reg) (hi lo n : Nat) : Blk :=
  s.putReg r (setFld (s.reg r) hi lo (min (fld (s.reg r) hi lo + n) (2 ^ (hi - lo + 1) - 1)))

/-- Set the bits of `m` in a register. -/
def Blk.setBits (s : Blk) (r : Reg) (m : Word) : Blk := s.putReg r (s.reg r ||| m)

/-- The value of a register pair. -/
def Blk.reg2 (s : Blk) (hi lo : Reg) : Nat := hiLo (s.reg hi) (s.reg lo)

/-- Store a value in a register pair. -/
def Blk.setReg2 (s : Blk) (hi lo : Reg) (n : Nat) : Blk := (s.setReg hi (hiOf n)).setReg lo (loOf n)

/-- A low word is written whose high word is staged: both are in force from now on (R498). -/
def Blk.setLow (s : Blk) (hi lo : Reg) (v : Word) : Blk :=
  (s.setReg lo v).modCp (fun c => { c with highs := Store.set 0 c.highs (hi.addr s.conf) (s.reg hi) })

/-- The value in force of a pair whose high word is staged. -/
def Blk.pairVal (s : Blk) (hi lo : Reg) : Nat := hiLo (Store.get 0 s.cp.highs (hi.addr s.conf)) (s.reg lo)

/-- Keep the larger of the stored value and `n` in bits [hi:lo] of a register. -/
def Blk.maxFld (s : Blk) (r : Reg) (hi lo n : Nat) : Blk :=
  let n := min n (2 ^ (hi - lo + 1) - 1)
  if fld (s.reg r) hi lo < n then s.setReg r (setFld (s.reg r) hi lo n) else s

/-- Set or clear BUSY of a domain of posted writes (R495). -/
def Blk.setBusy (s : Blk) (d : Domain) : Blk :=
  if s.cp.busy.contains d then s else { s with cp := { s.cp with busy := s.cp.busy ++ [d] } }
def Blk.clearBusy (s : Blk) (d : Domain) : Blk := { s with cp := { s.cp with busy := s.cp.busy.filter (· ≠ d) } }

/-- Words of `n` bytes from `a` on that are overwritten whole lose their poison mark (R355). -/
def Blk.clearPoi (s : Blk) (a n : Nat) : Blk :=
  s.modRegPoi (fun m => m.filter (fun p => !(decide (a ≤ p.1) && decide (p.1 + 4 ≤ a + n))))

/-! ### Free values -/

/-- The next free value, and the state that has drawn it. -/
def Blk.draw (s : Blk) : Nat × Blk := (Config.free s.draws, { s with draws := s.draws + 1 })

/-! ### Time -/

/-- tclk of `n` microseconds, milliseconds, seconds and nanoseconds (Table 16-2). -/
def Blk.us (s : Blk) (n : Nat) : Nat := n * s.conf.tclkPerUs
def Blk.ms (s : Blk) (n : Nat) : Nat := s.us (1000 * n)
def Blk.sec (s : Blk) (n : Nat) : Nat := s.us (1000000 * n)
def Blk.ns (s : Blk) (n : Nat) : Nat := (n * s.conf.tclkPerUs + 999) / 1000

/-- One second, one microsecond in tk (R44, R49). -/
def tkSec : Nat := 16000000000
def tkUs : Nat := 16000

/-- T64 formed from FRC, OFFSET and RATE (R44). -/
def TimeState.t64 (t : TimeState) : Dword :=
  BitVec.ofNat 64 ((t.offset.toNat + t.frc.toNat * t.rate.toNat) / 2 ^ 32)

def Blk.t64 (s : Blk) : Dword := s.time.t64

/-- Calendar time in tk: T64 with the steps removed (R340). -/
def Blk.cal (s : Blk) : Int := (s.t64.toNat : Int) - s.time.stepSum

/-- Whether `n` tclk have passed since `at_`. -/
def Blk.passed (s : Blk) (at_ n : Nat) : Bool := decide (at_ + n ≤ s.tclk)

/-- TAI − UTC in whole seconds, signed (R49). -/
def Blk.taiOffset (s : Blk) : Int := (s.reg (.tim .TIM_TAI_OFFSET)).toInt

/-- UTC seconds, nanoseconds and the leap indication of a T64 (R49). -/
def Blk.utc (s : Blk) (t : Dword) : BitVec 40 × BitVec 30 × Bool :=
  let tai := s.reg2 (.tim .TIM_EPOCH_TAI_HI) (.tim .TIM_EPOCH_TAI_LO) + t.toNat / tkSec
  let leap := decide (fld (s.reg (.tim .TIM_LEAP_CTRL)) 1 0 = 1) && s.time.leapDone
    && decide ((t - s.time.leapAt).toNat < tkSec)
  (BitVec.ofInt 40 ((tai : Int) - s.taiOffset), BitVec.ofNat 30 (t.toNat % tkSec / 16), leap)

/-! ### Events and triggers -/

/-- Source word of a unit (Table 12-7). -/
def unitSrc (inst code : Nat) : Word := w32 (inst <<< 16 + code)
/-- Source word of a firmware core. -/
def coreSrc (x : Nat) : Word := w32 (2 <<< 30 + x)
/-- Source word of a host initiator. -/
def hostSrc (i : Nat) : Word := w32 (3 <<< 30 + i)

/-- Raise an event (R371). -/
def Blk.emitEv (s : Blk) (e : Ev) : Blk := { s with raised := s.raised ++ [.ev e] }

/-- Raise an event of a unit of instance `inst`. -/
def Blk.emitAt (s : Blk) (unit inst code a0 a1 : Nat) : Blk :=
  s.emitEv ⟨BitVec.ofNat 16 code, unitSrc inst unit, BitVec.ofNat 64 a0, BitVec.ofNat 48 a1, false⟩

/-- Raise an event of a unit. -/
def Blk.emit (s : Blk) (unit code a0 a1 : Nat) : Blk := s.emitAt unit 0 code a0 a1

/-- Raise an event of a firmware core. -/
def Blk.emitCore (s : Blk) (x code a0 a1 : Nat) : Blk :=
  s.emitEv ⟨BitVec.ofNat 16 code, coreSrc x, BitVec.ofNat 64 a0, BitVec.ofNat 48 a1, false⟩

/-- Trigger a flush of the recorder (R376): CAUSE bits and event code. -/
def Blk.flushReq (s : Blk) (cause code : Nat) : Blk :=
  { s with raised := s.raised ++ [.flush (BitVec.ofNat 4 cause) (BitVec.ofNat 16 code)] }

/-- Trigger a snapshot (R379). -/
def Blk.snapReq (s : Blk) (src : Nat) (arg : Word) : Blk := { s with raised := s.raised ++ [.snap src arg] }

/-! ### Memory -/

/-- The canonical form of a memory: addresses strictly rise and no entry is 0, what an unlisted byte reads as. -/
def Memory.wf (m : Mem) : Bool := Store.wf (0 : Byte) m

/-- The byte at an address; an unlisted byte reads 0. -/
def Mem.rd (m : Mem) (a : Nat) : Byte := Store.get 0 m a
/-- Write one byte. -/
def Mem.wr (m : Mem) (a : Nat) (b : Byte) : Mem := Store.set 0 m a b
/-- `n` bytes from an address. -/
def Mem.rdN (m : Mem) (a : Nat) : Nat → List Byte
  | 0 => []
  | n + 1 => Mem.rd m a :: Mem.rdN m (a + 1) n
/-- Write bytes from an address on. -/
def Mem.wrN (m : Mem) (a : Nat) : List Byte → Mem
  | [] => m
  | b :: t => Mem.wrN (Mem.wr m a b) (a + 1) t

/-- The largest byte address of XM (R151, R477): [51:6] of the line address. -/
def xmTop : Nat := 2 ^ 52

/-- Lines touched by `n` bytes from `a`. -/
def linesOf (a n : Nat) : List Nat :=
  if n = 0 then [] else (List.range ((a + n - 1) / 64 - a / 64 + 1)).map (· + a / 64)

/-- Lines that hold the byte ranges `rs`, counted from `a`. -/
def poiLines (a : Nat) (rs : List (Nat × Nat)) : List Nat := rs.flatMap (fun r => linesOf (a + r.1) r.2)

/-- Read `n` bytes of XM; a poisoned line poisons every word taken from it, is counted and raises ERR_XM_POISON for
collection `c` (0x3F the block) (R357). -/
def Blk.xmRead (s : Blk) (c a n : Nat) : List Byte × Bool × Blk :=
  let bad := (linesOf a n).filter (fun l => Store.get false s.mem.xmPoi l)
  let s := bad.foldl (fun s l => (s.count (.err .ERR_XM_POI_IN) 1).emit 0xD 0x0E04 (64 * l) c) s
  (Mem.rdN s.mem.xm a n, !bad.isEmpty, s)

/-- Write bytes to XM with their poison: a line written with a poisoned word has its bit set and is counted; a write of all
64 bytes of a line with unpoisoned data clears it; other writes leave it (R357). -/
def Blk.xmWrite (s : Blk) (a : Nat) (bs : List Byte) (poi : Bool) : Blk :=
  let ls := linesOf a bs.length
  let s := s.modMem (fun m => { m with xm := Mem.wrN m.xm a bs })
  if poi then
    (ls.foldl (fun s l => s.modMem (fun m => { m with xmPoi := Store.set false m.xmPoi l true })) s).count
      (.err .ERR_XM_POI_OUT) ls.length
  else
    let full := ls.filter (fun l => decide (a ≤ 64 * l ∧ 64 * l + 64 ≤ a + bs.length))
    full.foldl (fun s l => s.modMem (fun m => { m with xmPoi := Store.set false m.xmPoi l false })) s

/-- Write bytes to XM line by line, the data of the lines `pls` poisoned (R131, R357). -/
def Blk.xmWriteP (s : Blk) (a : Nat) (bs : List Byte) (pls : List Nat) : Blk :=
  (linesOf a bs.length).foldl (fun s l =>
    let lo := max a (64 * l)
    let hi := min (a + bs.length) (64 * l + 64)
    s.xmWrite lo ((bs.drop (lo - a)).take (hi - lo)) (pls.contains l)) s

/-! ### Places, entities, instances -/

/-- The place of this instance and its partition (R17, R35). -/
def Blk.place (s : Blk) : Word := s.reg (.boot .BOOT_PLACE)
def Blk.part (s : Blk) : Nat := fld (s.reg (.boot .BOOT_PART)) 11 0

/-- Site, die field and tray of a place (Table 1-2). -/
def siteOf (p : Word) : Nat := fld p 27 25
def dieOf (p : Word) : Nat := fld p 4 0
def trayOf (p : Word) : Word := p &&& 0xFFFFFFE0#32

/-- Role codes (Table 1-1). -/
def roleCode : Role → Nat | .die => 1 | .tray => 2 | .span => 3

/-- An entity identifier (Table 1-3). -/
def entity (place : Word) (kind index : Nat) : Nat := (fld place 27 0) <<< 20 + (kind % 64) <<< 14 + index % 16384

/-- Kind of an entity; a reserved kind counts as null (R22). -/
def entKind (e : Nat) : Nat :=
  let k := e >>> 14 % 64
  if (9 ≤ k ∧ k < 0x30) then 0 else k

/-- The place of an entity. -/
def entPlace (e : Nat) : Word := w32 (e >>> 20)

/-- Whether a value may stand in a place register: bits [31:28] zero, or none (R17). -/
def placeOk (none : Bool) (v : Word) : Bool := decide (fld v 31 28 = 0) || (none && v == 0xFFFFFFFF#32)

/-- Whether a unit takes new work (R360). -/
def Blk.unitUp (s : Blk) (inst code : Nat) : Bool := !s.stopped.contains (inst <<< 16 + code)

/-! ### Collections and contexts as data -/

/-- A collection that is idle (R454). -/
def Coll.idle : Coll :=
  { st := .idle, restarting := false, held := false, gen := 0, trk := 0, part := 0, level := 0, snap := false,
    freeze := false, ftab := false, parts := [], excl := [], gone := [], clusters := [], segs := [], progs := [],
    queues := [], rlq := 0, redq := none, dies := [], joins := [], late := none, ncl := 0, sturn := 0, start := 0, begun := false,
    firstLead := false, rsts := [],
    faultAt := none, taken := [], lateOut := [], histTo := none, locs := [], outcome := none, cs := none, td := none }

def Blk.coll (s : Blk) (c : Nat) : Coll := Store.get Coll.idle s.colls c
def Blk.setColl (s : Blk) (c : Nat) (v : Coll) : Blk := s.modColls (fun m => Store.set Coll.idle m c v)
def Blk.modColl (s : Blk) (c : Nat) (f : Coll → Coll) : Blk := s.setColl c (f (s.coll c))

/-- Collection `c` runs (its contexts may be restarting or held). -/
def Blk.collRuns (s : Blk) (c : Nat) : Bool := (s.coll c).st == .running

def Blk.tracker (s : Blk) (t : Nat) : Tracker := Store.get Tracker.idle s.trk t
def Blk.setTracker (s : Blk) (t : Nat) (v : Tracker) : Blk := s.modTrk (fun m => Store.set Tracker.idle m t v)

/-- Whether tracker `t` is enabled (TRN_CTRL.EN in force, R68). -/
def Blk.trkEn (s : Blk) (t : Nat) : Bool := bit (s.reg (.trn (.TRN_CTRL t))) 31

/-- Every core-side number of a place list in a payload from word `i` on. -/
def placesFrom (bs : List Byte) (i n : Nat) : List Word := (List.range n).map (fun k => wordAt bs (i + k))

end Sys2Proof.Machine
end

