-- ==== Sys2Proof/Machine/Recorder.lean ====
section
/-!
DEFINITION. The event recorder and the snapshot network (R371 to R380): what becomes of the events and triggers that a
command has raised. `settle` is the end of every command; `lift` makes a command's meaning of an effect on the units.
-/

namespace Sys2Proof.Machine

/-- Units of a token bucket's level in one record: 1 s of T64 (R373). -/
def bucketUnit : Nat := tkSec

def Bucket.full : Bucket := ⟨0, 0, 0⟩

/-- Byte address of code slot `i`'s CODE register. -/
def slotAddr (i : Nat) : Nat := 0x201000 + 0x10 * i

/-- The code slot of a code: the lowest-numbered enabled slot from 1 up whose CODE holds it, else slot 0 (R373). -/
def Blk.evSlot (s : Blk) (code : BitVec 16) : Nat :=
  match s.regs.find? (fun p => decide (slotAddr 1 ≤ p.1 ∧ p.1 < slotAddr s.conf.codeSlots ∧ (p.1 - slotAddr 0) % 16 = 0) &&
      bit p.2 31 && decide (fld p.2 15 0 = code.toNat)) with
  | some p => (p.1 - slotAddr 0) / 16
  | none => 0

/-- Fields of a code slot: EN, FLUSH, SNAP; BURST; RATE. -/
def Blk.slotEn (s : Blk) (i : Nat) : Bool := bit (s.reg (.evr (.EVR_SLi_CODE i))) 31
def Blk.slotFlush (s : Blk) (i : Nat) : Bool := s.slotEn i && bit (s.reg (.evr (.EVR_SLi_CODE i))) 30
def Blk.slotSnap (s : Blk) (i : Nat) : Bool := s.slotEn i && bit (s.reg (.evr (.EVR_SLi_CODE i))) 29
def Blk.slotBurst (s : Blk) (i : Nat) : Nat := fld (s.reg (.evr (.EVR_SLi_RATE i))) 31 16
def Blk.slotRate (s : Blk) (i : Nat) : Nat := fld (s.reg (.evr (.EVR_SLi_RATE i))) 15 0

/-- EVR_CTRL.EN and FLUSH_EN. -/
def Blk.evrEn (s : Blk) : Bool := bit (s.reg (.evr .EVR_CTRL)) 0
def Blk.flushEn (s : Blk) : Bool := bit (s.reg (.evr .EVR_CTRL)) 1

/-- A bucket refilled up to a T64 (R373). -/
def Bucket.refill (b : Bucket) (rate : Nat) (t : Dword) : Bucket :=
  { b with used := b.used - rate * (t.toNat - b.last), last := t.toNat }

/-- The 256-bit record of an event (Table 12-3). -/
def Blk.record (s : Blk) (e : Ev) (supp : Nat) : BitVec 256 :=
  let (utcS, ns, leap) := s.utc s.t64
  BitVec.ofNat 256 (e.code.toNat <<< 240 + utcS.toNat <<< 200 + ns.toNat <<< 170 + (b2n leap) <<< 169 +
    (b2n e.poi) <<< 168 + e.src.toNat <<< 136 + (min supp 0xFFFFFF) <<< 112 + e.arg1.toNat <<< 64 + e.arg0.toNat)

/-- Write one record into the ring of 8,192 records; the oldest is overwritten when it is full (R374, R375). -/
def EvrState.push (v : EvrState) (r : BitVec 256) : EvrState :=
  { v with ring := Store.put v.ring (v.wcount % 8192) r, wcount := v.wcount + 1 }

/-! ### Flush -/

/-- First byte of the slot of flush number `f` (R377). -/
def Blk.flushSlot (s : Blk) (f : Nat) : Nat :=
  s.reg2 (.evr .EVR_FLUSH_BASE_HI) (.evr .EVR_FLUSH_BASE_LO) + f % 2 * 266240

/-- Bytes of a record, lowest first (R371). -/
def recordBytes (r : BitVec 256) : List Byte := leBytes 32 r.toNat

/-- Write the records with counts `a` to `a + n − 1` to their places in the flush slot (R377). -/
def State.flushRecords (s : State) (f a n : Nat) : State :=
  let base := s.blk.flushSlot f
  (List.range n).foldl (fun s i =>
    let w := a + i
    s.modBlk (fun b => b.xmWrite (base + 64 + 32 * (w % 8192)) (recordBytes (Store.get 0 s.evr.ring (w % 8192))) false)) s

/-- Start a flush (R377): the records from the oldest held to the last written at the trigger. -/
def State.flushStart (s : State) (cause : BitVec 4) (code : BitVec 16) (t : Dword) : State :=
  let first := s.evr.wcount - 8192
  let s := s.flushRecords s.evr.flushSeq first (s.evr.wcount - first)
  s.modEvr (fun v => { v with flush := some { cause := cause, code := code, t64 := t, first := first, next := v.wcount,
                                              pw := cause.getLsbD 1, start := s.blk.tclk, err := false } })

/-- A flush trigger (R376, R378): it starts a flush, is held, or, being a power warning, extends the running flush. After a
power-warning flush no flush starts. -/
def State.flushTrigger (s : State) (cause : BitVec 4) (code : BitVec 16) : State :=
  if !s.blk.flushEn || s.evr.flushedPw then s else
  match s.evr.flush with
  | none => s.flushStart cause code s.blk.t64
  | some f =>
    if cause.getLsbD 1 then
      let s := s.flushRecords s.evr.flushSeq f.next (s.evr.wcount - f.next)
      s.modEvr (fun v => { v with flush := some { f with
        cause := f.cause ||| cause, pw := true, first := max f.first (v.wcount - 8192), next := v.wcount } })
    else
      s.modEvr (fun v => { v with held := some (match v.held with
        | none => ⟨cause, code, s.blk.t64⟩
        | some h => ⟨h.cause ||| cause, if h.code = 0 then code else h.code, h.t64⟩) })

/-- The 64-byte flush header (Table 12-8): its CRC covers the records as they stand in the slot, oldest first. -/
def State.flushHeader (s : State) (f : Flush) : List Byte :=
  let nrec := f.next - f.first
  let base := s.blk.flushSlot s.evr.flushSeq + 64
  let recs := (List.range nrec).flatMap (fun i => Mem.rdN s.blk.mem.xm (base + 32 * ((f.first + i) % 8192)) 32)
  leBytes 4 (0x4556 <<< 16 + 1) ++ leBytes 4 s.evr.flushSeq ++ leBytes 8 f.t64.toNat ++
    leBytes 4 (f.code.toNat <<< 16 + f.cause.toNat) ++ leBytes 4 nrec ++ leBytes 4 f.first ++
    leBytes 4 (crc32c recs).toNat ++ leBytes 32 0

/-! ### Snapshots -/

/-- Latch a snapshot set, or count a trigger ignored (R379, R380). The answer tells whether a set was latched. The offsets
of the unit latches are free values below 8, counted from the earliest. -/
def State.latch (s : State) (src : Nat) (arg : Word) : Bool × State :=
  if !bit (s.blk.reg (.snp .SNP_CTRL)) 0 then (false, s)
  else if s.snap.frozen then (false, s.modSnap (fun n => { n with ign := n.ign + 1 }))
  else
    let d := s.blk.draws
    let offs := (List.range 32).map (fun u => Config.free (d + u) % 8)
    let skew := (List.range 32).map (fun u => (u, offs.getD u 0 - offs.foldl min 7))
    (true, { s with
      snap := { s.snap with frozen := true, cnt := s.snap.cnt + 1,
                            set := some { blk := { s.blk with raised := [] }, evr := s.evr, t64 := s.blk.t64,
                                          src := src, arg := arg, skew := skew,
                                          ign := s.snap.ign, cnt := s.snap.cnt + 1 } },
      blk := { s.blk with draws := d + 32 } })

/-! ### Passing events -/

/-- Insert an event in ascending order of source word, then code, behind its equals (R373). -/
def insEv (e : Ev) : List Ev → List Ev
  | [] => [e]
  | a :: t =>
    if e.src.toNat < a.src.toNat ∨ (e.src = a.src ∧ e.code.toNat < a.code.toNat) then e :: a :: t
    else a :: insEv e t

/-- The bucket of code slot `i`, refilled up to now. -/
def State.bucketNow (s : State) (i : Nat) : Bucket :=
  (Store.get Bucket.full s.evr.buckets i).refill (s.blk.slotRate i) s.blk.t64

/-- Whether slot `i` lets an event pass (R373): it is enabled, and its RATE is 0 or a whole token is left. -/
def State.slotPasses (s : State) (i : Nat) : Bool :=
  s.blk.slotEn i && (decide (s.blk.slotRate i = 0) ||
    decide ((s.bucketNow i).used + bucketUnit ≤ s.blk.slotBurst i * bucketUnit))

/-- An event passes slot `i`: its record takes a token, carries the events suppressed in the slot since, and enters the ring. -/
def State.recordEv (s : State) (i : Nat) (e : Ev) : State :=
  let b := s.bucketNow i
  let r := s.blk.record e b.pend
  let s := s.modBlk (fun b => b.clearPoi (0x300000 + 32 * (s.evr.wcount % 8192)) 32)
  s.modEvr (fun v =>
    let v := v.push r
    { v with buckets := Store.set Bucket.full v.buckets i
               ⟨if s.blk.slotRate i = 0 then b.used else b.used + bucketUnit, b.last, 0⟩ })

/-- An event is suppressed in slot `i`. -/
def State.suppressEv (s : State) (i : Nat) : State :=
  let b := s.bucketNow i
  s.modEvr (fun v => { v with buckets := Store.set Bucket.full v.buckets i ⟨b.used, b.last, b.pend + 1⟩,
                              suppTot := satAdd v.suppTot 1 })

/-- One event passes its slot (R373): it takes a token and is recorded, or is suppressed. A record of a slot with FLUSH set
triggers a flush (R376). -/
def State.passEv (s : State) (e : Ev) : State :=
  if !s.blk.evrEn then s.modEvr (fun v => { v with suppTot := satAdd v.suppTot 1 }) else
  let i := s.blk.evSlot e.code
  if s.slotPasses i then
    let s := s.recordEv i e
    if s.blk.slotFlush i then s.flushTrigger 8 e.code else s
  else s.suppressEv i

/-- The events of a list of raises. -/
def raisedEvs : List Raise → List Ev
  | [] => []
  | .ev e :: t => e :: raisedEvs t
  | _ :: t => raisedEvs t

/-- Flush triggers of a list of raises, acted on in order. -/
def State.flushAll (s : State) : List Raise → State
  | [] => s
  | .flush c k :: t => State.flushAll (s.flushTrigger c k) t
  | _ :: t => State.flushAll s t

/-- Snapshot triggers of a list of raises: those of registers, pins and instructions, and those of events whose slot has
SNAP set, before their rate limit (R379). -/
def State.snapList (s : State) : List Raise → List (Nat × Word)
  | [] => []
  | .snap src arg :: t => (src, arg) :: State.snapList s t
  | .ev e :: t =>
    if s.blk.evrEn && s.blk.slotSnap (s.blk.evSlot e.code) then (2, e.code.setWidth 32) :: State.snapList s t
    else State.snapList s t
  | .flush _ _ :: t => State.snapList s t

/-- Act on snapshot triggers in order; the answer lists the SNP_TAKEN events raised. -/
def State.snapAll (s : State) : List (Nat × Word) → List Ev × State
  | [] => ([], s)
  | (src, arg) :: t =>
    match s.latch src arg with
    | (true, s) =>
      let (es, s) := State.snapAll s t
      (⟨0x0F02, unitSrc 0 0xF, BitVec.ofNat 64 src, arg.setWidth 48, false⟩ :: es, s)
    | (false, s) => State.snapAll s t

/-- What the recorder and the snapshot network make of a list of raises: flush triggers, then snapshot triggers (those of the
SNP_TAKEN events among them), then the events in the order of R373. -/
def State.takeRaised (s : State) (rs : List Raise) : State :=
  let r := (s.flushAll rs).snapAll ((s.flushAll rs).snapList rs)
  let s := (r.2.snapAll (r.2.snapList (r.1.map .ev))).2
  ((raisedEvs rs ++ r.1).foldl (fun l e => insEv e l) []).foldl State.passEv s

/-- Nothing is raised any more. -/
def Blk.calm (b : Blk) : Blk := { b with raised := [] }

/-- The end of every command: what it has raised is acted on. -/
def settle (s : State) : State :=
  if s.blk.raised.isEmpty then s else (s.modBlk Blk.calm).takeRaised s.blk.raised

/-- The meaning of a command that has the effect `f` on the units: while reset is asserted it has none (R465, R487). -/
def lift (f : Blk → Blk) (s : State) : Host.Outcome State Fault Refusal :=
  if s.blk.inReset then .next s else .next (settle { s with blk := f s.blk })

/-- The meaning of a command whose effect also reaches the recorder or the snapshot network. -/
def liftS (f : State → State) (s : State) : Host.Outcome State Fault Refusal :=
  if s.blk.inReset then .next s else .next (settle (f s))

end Sys2Proof.Machine
end

