-- ==== Sys2Proof/Machine/Felt.lean ====
section
/-!
DEFINITION. The two formats of the Fuller engines as functions on bytes (R312 to R319, R325 to R328): the felt encoder, and the
decoder of felt and raw DEFLATE streams, item by item.
-/

namespace Sys2Proof.Machine

/-! ### Alphabets (R314; RFC 1951, section 3.2.5) -/

def lenBase : List Nat :=
  [3, 4, 5, 6, 7, 8, 9, 10, 11, 13, 15, 17, 19, 23, 27, 31, 35, 43, 51, 59, 67, 83, 99, 115, 131, 163, 195, 227, 258]
def lenExtra : List Nat := [0, 0, 0, 0, 0, 0, 0, 0, 1, 1, 1, 1, 2, 2, 2, 2, 3, 3, 3, 3, 4, 4, 4, 4, 5, 5, 5, 5, 0]
def distBase (s : Nat) : Nat :=
  if 30 ≤ s then 32769 + 8192 * (s - 30) else if s < 4 then s + 1 else (2 + s % 2) * 2 ^ (s / 2 - 1) + 1
def distExtra (s : Nat) : Nat := if 30 ≤ s then 13 else if s < 4 then 0 else s / 2 - 1

/-- The last number below `n` whose base is at most `v`. -/
def lastUpTo (base : Nat → Nat) (v : Nat) : Nat → Nat
  | 0 => 0
  | n + 1 => if base n ≤ v then n else lastUpTo base v n

/-- Symbol of a match length (257 to 285), and of a distance. -/
def lenSym (l : Nat) : Nat := 257 + lastUpTo (fun i => lenBase.getD i 0) l 29
def distSym (d : Nat) : Nat := lastUpTo distBase d 34

/-! ### Canonical prefix codes (R315; RFC 1951, section 3.2.2) -/

/-- Symbols of code length `l`. -/
def countLen (lens : List Nat) (l : Nat) : Nat := (lens.filter (· == l)).length

/-- First code of length `l`, for `l` of at least 1. -/
def firstCode (lens : List Nat) : Nat → Nat
  | 0 => 0
  | 1 => 0
  | l + 2 => (firstCode lens (l + 1) + countLen lens (l + 1)) * 2

/-- The code of a symbol: its length and value. -/
def codeOf (lens : List Nat) (s : Nat) : Nat × Nat :=
  let l := lens.getD s 0
  (l, firstCode lens l + ((lens.take s).filter (· == l)).length)

/-- The `n`-th symbol of code length `l`. -/
def nthOfLen (lens : List Nat) (l n : Nat) : Nat :=
  (((List.range lens.length).filter (fun s => lens.getD s 0 == l)).getD n 0)

/-- The first number of a list of code lengths at which the code is oversubscribed. -/
def overAt : List Nat → Nat → Nat → Option Nat
  | [], _, _ => none
  | l :: t, i, sum =>
    let sum := sum + (if l = 0 then 0 else 2 ^ (15 - l))
    if 2 ^ 15 < sum then some i else overAt t (i + 1) sum

/-! ### The encoder (R313, R315, R316) -/

/-- A data symbol: a literal, or a match of a length and a distance. -/
inductive FSym where
  | lit (b : Nat)
  | mat (len dist : Nat)
  deriving DecidableEq, Repr

/-- h(p) of R316. -/
def feltHash (b : Nat → Nat) (p : Nat) : Nat :=
  ((b p + b (p + 1) <<< 8 + b (p + 2) <<< 16 + b (p + 3) <<< 24) * 0x9E3779B1 % 2 ^ 32) >>> 16

/-- Length of the match of positions `q` and `p`, at most `n`. -/
def matchLen (b : Nat → Nat) (q p : Nat) : Nat → Nat
  | 0 => 0
  | n + 1 => if b q = b p then 1 + matchLen b (q + 1) (p + 1) n else 0

/-- The best candidate, the most recent first: length and distance. -/
def bestMatch (b : Nat → Nat) (p room : Nat) : List Nat → Nat → Nat × Nat → Nat × Nat
  | [], _, best => best
  | q :: t, k, best =>
    if 65536 < p - q ∨ k = 0 then best else
    let l := matchLen b q p room
    bestMatch b p room t (k - 1) (if best.1 < l then (l, p - q) else best)

/-- Insert positions `p` to `p + n − 1` into the chains, those with four bytes after them; a chain keeps its 16 latest. -/
def insertPos (b : Nat → Nat) (len : Nat) : Nat → Nat → Store (List Nat) → Store (List Nat)
  | 0, _, m => m
  | n + 1, p, m =>
    if len < p + 4 then m
    else insertPos b len n (p + 1) (Store.put m (feltHash b p) ((p :: Store.get [] m (feltHash b p)).take 16))

/-- The symbols of a stream from position `p` on, with the position of each; while the input has not ended, those only whose
match is certain. `fuel` bounds the symbols. -/
def feltSyms (b : Nat → Nat) (len : Nat) (final : Bool) : Nat → Nat → Store (List Nat) → List (FSym × Nat)
  | 0, _, _ => []
  | fuel + 1, p, m =>
    if len ≤ p ∨ (!final ∧ len < p + 258) then [] else
    let best := if len < p + 4 then (0, 0) else bestMatch b p (min 258 (len - p)) (Store.get [] m (feltHash b p)) 16 (0, 0)
    let (sy, n) := if 4 ≤ best.1 then (FSym.mat best.1 best.2, best.1) else (FSym.lit (b p), 1)
    (sy, p) :: feltSyms b len final fuel (p + n) (insertPos b len n p m)

/-- Bits written: their number and their value, the first bit least significant. -/
structure Bits where
  n : Nat
  v : Nat
  deriving DecidableEq, Repr

/-- Append `k` bits of a number, least significant first. -/
def Bits.put (w : Bits) (k x : Nat) : Bits := ⟨w.n + k, w.v + (x % 2 ^ k) <<< w.n⟩

/-- Append a code, most significant bit first. -/
def Bits.code (w : Bits) : Nat → Nat → Bits
  | 0, _ => w
  | l + 1, x => Bits.code (w.put 1 (x >>> l % 2)) l x

/-- Length of each symbol's code from the counts (R315). -/
def feltLens (counts : List Nat) : List Nat :=
  let t := counts.sum
  counts.map (fun c => if c = 0 then 0 else ((List.range 16).find? (fun l => decide (1 ≤ l ∧ t ≤ c <<< l))).getD 15)

/-- Append a block (R313). -/
def Bits.block (w : Bits) (last : Bool) (syms : List FSym) : Bits :=
  let ls := syms.map (fun s => match s with | .lit b => b | .mat l _ => lenSym l)
  let ds := syms.filterMap (fun s => match s with | .lit _ => none | .mat _ d => some (distSym d))
  let ll := feltLens ((List.range 286).map (fun i => ls.count i + (if i = 256 then 1 else 0)))
  let dl := feltLens ((List.range 34).map (fun i => ds.count i))
  let w := (ll ++ dl).foldl (fun (w : Bits) l => w.put 4 l) (w.put 1 (b2n last))
  let w := syms.foldl (fun (w : Bits) s =>
    match s with
    | .lit b => let c := codeOf ll b; w.code c.1 c.2
    | .mat l d =>
      let sy := lenSym l
      let c := codeOf ll sy
      let w := (w.code c.1 c.2).put (lenExtra.getD (sy - 257) 0) (l - lenBase.getD (sy - 257) 0)
      let c := codeOf dl (distSym d)
      (w.code c.1 c.2).put (distExtra (distSym d)) (d - distBase (distSym d))) w
  let c := codeOf ll 256
  w.code c.1 c.2

/-- What PACK has formed: the bits, the input that they code, whether the stream is closed, and for each block formed now the bit at
which it starts and the end of the input that it codes. -/
structure Packed where
  bits   : Bits
  at_    : Nat
  closed : Bool
  blocks : List (Nat × Nat)
  deriving DecidableEq, Repr

/-- Form the blocks of the symbols left; `fuel` bounds the blocks. -/
def packBlocks (len : Nat) (final : Bool) : Nat → List (FSym × Nat) → Packed → Packed
  | 0, _, a => a
  | fuel + 1, ss, a =>
    let now := ss.take 32767
    let rest := ss.drop 32767
    if now.length < 32767 ∧ !final then a else
    let last := final && decide (now.length < 32767)
    let e := match now.getLast? with
      | some (.lit _, p) => p + 1
      | some (.mat l _, p) => p + l
      | none => len
    let a : Packed := { bits := a.bits.block last (now.map Prod.fst), at_ := e, closed := last,
                        blocks := a.blocks ++ [(a.bits.n, e)] }
    if last then a else packBlocks len final fuel rest a

/-- Nothing formed but the header (Table 10-1). -/
def packHead : FulForm := { n := 64, v := 0x46540001 + 16 * 2 ^ 32, at_ := 0, closed := false }

/-- Go on forming the felt stream of the input so far from what has been formed of it (R312 to R317, R325): every position before
it is in the chains, and with the input ended padding and trailer follow the last block. -/
def packFelt (data : List Byte) (final : Bool) (f : FulForm) : Packed :=
  let a : Packed := { bits := ⟨f.n, f.v⟩, at_ := f.at_, closed := f.closed, blocks := [] }
  if f.closed then a else
  let arr := data.toArray
  let b := fun (i : Nat) => (arr.getD i 0).toNat
  let len := data.length
  let a := packBlocks len final (len / 32767 + 2) (feltSyms b len final len f.at_ (insertPos b len f.at_ 0 [])) a
  if !a.closed then a else
  let w := a.bits.put ((8 - a.bits.n % 8) % 8) 0
  { a with bits := (w.put 32 (crc32c data).toNat).put 64 len }

/-! ### The decoder (R313, R314, R318, R319) -/

/-- Why decoding stops: the stream is complete at a bit; an item is faulty, with status and bit; more input is needed. -/
inductive DecEnd where
  | fin (b : Nat)
  | err (st b : Nat)
  | need
  deriving DecidableEq, Repr

/-- The input: its bits as a number, the first least significant, and how many there are. -/
structure DIn where
  v : Nat
  n : Nat
  deriving DecidableEq, Repr

/-- `k` bits at a position. -/
def DIn.get (i : DIn) (p k : Nat) : Except DecEnd Nat := if p + k ≤ i.n then .ok (i.v >>> p % 2 ^ k) else .error .need

/-- Decode one symbol bit by bit: the symbol and the position after it. -/
def symGo (i : DIn) (lens : List Nat) (at_ : Nat) : Nat → Nat → Nat → Nat → Except DecEnd (Nat × Nat)
  | 0, _, _, _ => .error (.err 0x10 at_)
  | fuel + 1, l, code, first =>
    match i.get (at_ + l - 1) 1 with
    | .error e => .error e
    | .ok b =>
      let code := 2 * code + b
      let n := countLen lens l
      if first ≤ code ∧ code < first + n then .ok (nthOfLen lens l (code - first), at_ + l)
      else symGo i lens at_ fuel (l + 1) code ((first + n) * 2)

def symAt (i : DIn) (lens : List Nat) (p : Nat) : Except DecEnd (Nat × Nat) := symGo i lens p (lens.foldl max 0) 1 0 0

/-- The block in progress: none, coded data or stored bytes. -/
inductive DMode where
  | none | coded | stored
  deriving DecidableEq, Repr

/-- The decoder: position, output (latest byte first) with its length, the items so far (the bit after each and the output
then, latest first), and the block in progress: whether it is the last, its codes, and its symbols so far or bytes left. -/
structure Dec where
  pos   : Nat
  out   : List Byte
  outN  : Nat
  items : List (Nat × Nat)
  head  : Bool
  mode  : DMode
  last  : Bool
  lit   : List Nat
  dist  : List Nat
  cnt   : Nat
  deriving DecidableEq, Repr

def Dec.start : Dec :=
  { pos := 0, out := [], outN := 0, items := [], head := false, mode := .none, last := false, lit := [], dist := [], cnt := 0 }

/-- Repeat the byte `d` back `n` times. -/
def copyBack (d : Nat) : Nat → List Byte → List Byte
  | 0, o => o
  | n + 1, o => copyBack d n (o.getD (d - 1) 0 :: o)

/-- An item has been decoded up to bit `b`, with `n` bytes added. -/
def Dec.item (d : Dec) (b n : Nat) (out : List Byte) : Dec :=
  { d with pos := b, out := out, outN := d.outN + n, items := (b, d.outN + n) :: d.items }

/-- One data symbol of a coded block, of felt (`ns` literal/length symbols 286, 34 distances) or DEFLATE. -/
def Dec.data (i : DIn) (felt : Bool) (d : Dec) : Except DecEnd Dec := do
  let (sy, p) ← symAt i d.lit d.pos
  if sy = 256 then return { d with pos := p, mode := .none }
  if felt ∧ d.cnt = 32767 then throw (.err 0x12 d.pos)
  let d := { d with cnt := d.cnt + 1 }
  if sy < 256 then return d.item p 1 (BitVec.ofNat 8 sy :: d.out)
  if 285 < sy then throw (.err 0x10 d.pos)
  let x ← i.get p (lenExtra.getD (sy - 257) 0)
  let l := lenBase.getD (sy - 257) 0 + x
  let p := p + lenExtra.getD (sy - 257) 0
  let (ds, q) ← symAt i d.dist p
  if !felt ∧ 29 < ds then throw (.err 0x10 p)
  let y ← i.get q (distExtra ds)
  let dist := distBase ds + y
  if d.outN < dist then throw (.err 0x11 p)
  return d.item (q + distExtra ds) l (copyBack dist l d.out)

/-- Header of a felt stream, a block of it, or its end. -/
def Dec.felt (i : DIn) (d : Dec) : Except DecEnd Dec := do
  if !d.head then
    let f ← i.get 0 32
    if f ≠ 0x46540001 then throw (.err 0x13 0)
    let w ← i.get 32 8
    if w ≠ 16 then throw (.err 0x13 32)
    let z ← i.get 40 24
    if z ≠ 0 then throw (.err 0x13 40)
    return { d with head := true, pos := 64 }
  else if d.last then
    let pad := (8 - d.pos % 8) % 8
    let z ← i.get d.pos pad
    if z ≠ 0 then throw (.err 0x13 d.pos)
    let t := d.pos + pad
    let c ← i.get t 32
    let n ← i.get (t + 32) 64
    if c ≠ (crc32c d.out.reverse).toNat then throw (.err 0x15 t)
    if n ≠ d.outN then throw (.err 0x15 (t + 32))
    throw (.fin (t + 96))
  else
    let l ← i.get d.pos 1
    let w ← i.get (d.pos + 1) 1280
    let lens := (List.range 320).map (fun k => w >>> (4 * k) % 16)
    let at_ := fun (k : Nat) => d.pos + 1 + 4 * k
    let zero := if lens.getD 256 0 = 0 then [256] else []
    match (overAt (lens.take 286) 0 0).toList ++ zero ++ ((overAt (lens.drop 286) 0 0).map (· + 286)).toList with
    | [] => return { d with pos := d.pos + 1281, mode := .coded, last := decide (l = 1), lit := lens.take 286,
                            dist := lens.drop 286, cnt := 0 }
    | k :: t => throw (.err 0x13 (at_ (t.foldl min k)))

/-- The order of the code-length code (RFC 1951, section 3.2.7). -/
def clOrder : List Nat := [16, 17, 18, 0, 8, 7, 9, 6, 10, 5, 11, 4, 12, 3, 13, 2, 14, 1, 15]

/-- Read the code lengths of a dynamic block: each with the bit at which its symbol starts. -/
def clRead (i : DIn) (cl : List Nat) (total : Nat) : Nat → Nat → List (Nat × Nat) → Except DecEnd (List (Nat × Nat) × Nat)
  | 0, p, a => .ok (a, p)
  | fuel + 1, p, a =>
    if total ≤ a.length then .ok (a, p) else do
      let (sy, q) ← symAt i cl p
      if sy < 16 then clRead i cl total fuel q (a ++ [(sy, p)]) else
      if sy = 16 ∧ a.isEmpty then throw (.err 0x13 p)
      let k := if sy = 16 then 2 else if sy = 17 then 3 else 7
      let x ← i.get q k
      let n := (if sy = 18 then 11 else 3) + x
      if total < a.length + n then throw (.err 0x12 p)
      let v := if sy = 16 then (a.getLast?.map Prod.fst).getD 0 else 0
      clRead i cl total fuel (q + k) (a ++ List.replicate n (v, p))

/-- The codes of fixed blocks. -/
def fixedLit : List Nat := List.replicate 144 8 ++ List.replicate 112 9 ++ List.replicate 24 7 ++ List.replicate 8 8
def fixedDist : List Nat := List.replicate 32 5

/-- Header of a DEFLATE block, or the end of the stream. -/
def Dec.deflate (i : DIn) (d : Dec) : Except DecEnd Dec := do
  if d.last then throw (.fin d.pos)
  let l ← i.get d.pos 1
  let ty ← i.get (d.pos + 1) 2
  let last := decide (l = 1)
  let p := d.pos + 3
  if ty = 3 then throw (.err 0x13 (d.pos + 1))
  if ty = 0 then
    let q := roundUp p 8
    let n ← i.get q 16
    let m ← i.get (q + 16) 16
    if n + m ≠ 65535 then throw (.err 0x13 q)
    return { d with pos := q + 32, mode := (if n = 0 then .none else .stored), last := last, cnt := n }
  if ty = 1 then return { d with pos := p, mode := .coded, last := last, lit := fixedLit, dist := fixedDist, cnt := 0 }
  let hlit ← i.get p 5
  if 286 < hlit + 257 then throw (.err 0x13 p)
  let hdist ← i.get (p + 5) 5
  if 30 < hdist + 1 then throw (.err 0x13 (p + 5))
  let hc ← i.get (p + 10) 4
  let w ← i.get (p + 14) (3 * (hc + 4))
  let ord := (List.range (hc + 4)).map (fun k => w >>> (3 * k) % 8)
  match overAt ord 0 0 with
  | some k => throw (.err 0x13 (p + 14 + 3 * k))
  | none =>
    let cl := (List.range 19).map (fun s => match clOrder.idxOf? s with | some k => ord.getD k 0 | none => 0)
    let total := hlit + 257 + hdist + 1
    let (ls, q) ← clRead i cl total total (p + 14 + 3 * (hc + 4)) []
    let lit := (ls.take (hlit + 257)).map Prod.fst
    let dist := (ls.drop (hlit + 257)).map Prod.fst
    let zero := if lit.getD 256 0 = 0 then [256] else []
    match (overAt lit 0 0).toList ++ zero ++ ((overAt dist 0 0).map (· + (hlit + 257))).toList with
    | [] => return { d with pos := q, mode := .coded, last := last, lit := lit, dist := dist, cnt := 0 }
    | k :: t => throw (.err 0x13 (ls.getD (t.foldl min k) (0, 0)).2)

/-- One step of the decoder. -/
def Dec.step (i : DIn) (felt : Bool) (d : Dec) : Except DecEnd Dec :=
  match d.mode with
  | .coded => Dec.data i felt d
  | .stored =>
    match i.get d.pos 8 with
    | .error e => .error e
    | .ok b =>
      let d := d.item (d.pos + 8) 1 (BitVec.ofNat 8 b :: d.out)
      .ok { d with cnt := d.cnt - 1, mode := if d.cnt ≤ 1 then .none else .stored }
  | .none => if felt then Dec.felt i d else Dec.deflate i d

/-- Decode until the stream ends, an item is faulty, or input is wanting; `fuel` bounds the steps. -/
def Dec.run (i : DIn) (felt : Bool) : Nat → Dec → Dec × DecEnd
  | 0, d => (d, .need)
  | fuel + 1, d => match d.step i felt with | .error e => (d, e) | .ok d => Dec.run i felt fuel d

/-- Decode a stream of `n` bits. -/
def decodeStream (felt : Bool) (bytes : List Byte) (n : Nat) : Dec × DecEnd :=
  Dec.run { v := leNat bytes % 2 ^ n, n := n } felt (n + 2) Dec.start

end Sys2Proof.Machine
end

