-- ==== Sys2Proof/Machine/Operands.lean ====
section
/-!
DEFINITION. The operand forms of commands that carry bytes: Toltus frames (Table 16-6), tokens on the wire (Table 5-5,
R334), management frames (R483) and the collection descriptor (Tables 15-2, 15-3).
-/

namespace Sys2Proof.Machine

/-! ### Toltus frames -/

/-- Frame types of Table 16-7. -/
def ftRecord : Nat := 1
def ftToken : Nat := 2
def ftCredit : Nat := 3
def ftReduce : Nat := 4
def ftList : Nat := 5
def ftFetch : Nat := 6
def ftTime : Nat := 7
def ftAttach : Nat := 8
def ftCollctl : Nat := 9
def ftFence : Nat := 10
def ftHealth : Nat := 11
def ftPeer : Nat := 12

/-- A frame with nothing in it. -/
def Frame.empty : Frame :=
  { dst := 0, src := 0, drole := 0, srole := 0, cls := 0, lh := false, ftype := 0, own := true, part := 0, coll := 0,
    gen := 0, dq := 0, sent := 0, limit := 0, lv := false, poim := 0, payload := [], credits := [], turn := none,
    at_ := 0, spilled := none, banks := [] }

/-- Units of 64 bytes that a frame occupies on the port (R473). -/
def Frame.units (f : Frame) : Nat := 1 + (f.payload.length + 63) / 64

/-- The 64-byte header with SENT, LIMIT and LV as given, up to FCRC (Table 16-6). -/
def Frame.head (f : Frame) (sent limit : Word) (lv : Bool) : List Byte :=
  leBytes 4 f.dst.toNat ++ leBytes 4 f.src.toNat ++
  leBytes 1 (f.drole % 4 + 4 * (f.srole % 4) + 16 * (f.cls % 8) + 128 * b2n f.lh) ++
  leBytes 1 (f.ftype % 32 + 32 * b2n f.own) ++ leBytes 2 (f.part % 4096) ++
  leBytes 1 (if f.own then 0 else f.coll % 64) ++ leBytes 1 0 ++ leBytes 2 (if f.own then 0 else f.gen) ++
  leBytes 2 f.payload.length ++ leBytes 2 (if f.ftype = ftToken then f.dq % 16384 else 0) ++
  leBytes 4 sent.toNat ++ leBytes 4 limit.toNat ++ leBytes 4 (b2n lv) ++ leBytes 8 f.poim.toNat ++ leBytes 20 0

/-- The bytes of a frame on the port: header with FCRC, payload padded to a multiple of 64 bytes (R473, R474). -/
def Frame.wire (f : Frame) (sent limit : Word) (lv : Bool) : List Byte :=
  let h := f.head sent limit lv
  h ++ leBytes 4 (crc32c (h ++ f.payload)).toNat ++
    slice f.payload 0 (roundUp f.payload.length 64)

/-- What a receiver makes of the bytes of a frame: the number of the first cause of R475 (1 to 4) with SRC, or the frame.
Cause 5 and 6 are decided by the instance. -/
inductive Parsed where
  | bad (cause : Nat) (src : Word)
  | ok (f : Frame)
  deriving DecidableEq, Repr

/-- The fields of the header (Table 16-6). -/
def frameOf (b : List Byte) : Frame :=
  let b8 := leAt b 8 1
  let b9 := leAt b 9 1
  let plen := leAt b 16 2
  { dst := w32 (leAt b 0 4), src := w32 (leAt b 4 4), drole := b8 % 4, srole := b8 / 4 % 4, cls := b8 / 16 % 8,
    lh := decide (b8 / 128 = 1), ftype := b9 % 32, own := decide (b9 / 32 % 2 = 1), part := leAt b 10 2 % 4096,
    coll := leAt b 12 1 % 64, gen := leAt b 14 2, dq := leAt b 18 2 % 16384, sent := w32 (leAt b 20 4),
    limit := w32 (leAt b 24 4), lv := decide (leAt b 28 1 % 2 = 1), poim := BitVec.ofNat 64 (leAt b 32 8),
    payload := slice b 64 plen, credits := [], turn := none, at_ := 0, spilled := none, banks := [] }

/-- Whether every zero field of the header is zero (R475, cause 4; R17). -/
def zerosOk (b : List Byte) : Bool :=
  let f := frameOf b
  decide (fld f.dst 31 28 = 0) && decide (fld f.src 31 28 = 0) && decide (leAt b 9 1 / 64 = 0) &&
  decide (leAt b 10 2 / 4096 = 0) && decide (leAt b 12 1 / 64 = 0) && decide (leAt b 13 1 = 0) &&
  decide (leAt b 18 2 / 16384 = 0) && decide (leAt b 28 4 / 2 = 0) && decide (leAt b 40 20 = 0) &&
  (!f.own || (decide (f.coll = 0) && decide (f.gen = 0))) &&
  (decide (f.ftype = ftToken) || decide (f.dq = 0)) && (decide (f.ftype ≠ ftCredit) || f.sent == 0)

/-- Take the bytes of a frame apart, in the order of R475. -/
def parseFrame (r : RxFrame) : Parsed :=
  let b := r.bytes
  let f := frameOf b
  let plen := leAt b 16 2
  if r.err then .bad 1 0xFFFFFFFF#32 else
  if b.length < 64 ∨ 4096 < plen ∨ b.length ≠ 64 * (1 + (plen + 63) / 64) ∨
      leAt b 60 4 ≠ (crc32c (slice b 0 60 ++ f.payload)).toNat then .bad 2 0xFFFFFFFF#32 else
  if f.ftype = 0 ∨ 12 < f.ftype ∨ f.drole = 0 ∨ f.srole = 0 then .bad 3 f.src else
  if !zerosOk b then .bad 4 f.src else .ok f

/-- The words of a payload that are place addresses (Tables 16-7, 16-8). -/
def Frame.placeWords (f : Frame) : List Word :=
  let w := fun i => wordAt f.payload i
  let rest := fun (k step : Nat) => (List.range (f.payload.length / 4 - k)).filterMap (fun i =>
    if i % step = 0 then some (w (k + i)) else none)
  if f.ftype = ftFence then [w 1]
  else if f.ftype = ftPeer then
    match fld (w 0) 7 0 with
    | 1 => (rest 3 2).take (w 2).toNat
    | 3 => [w 1]
    | _ => []
  else if f.ftype = ftCollctl then
    match fld (w 0) 7 0 with
    | 1 => [w 5]
    | 2 => rest 3 1
    | 4 => rest 3 1
    | 5 => [w 2]
    | 8 => [w 1]
    | 0xA => [w 1]
    | _ => []
  else []

/-- Whether every place that the payload of a frame carries has zero bits [31:28] (R17). -/
def Frame.placesOk (f : Frame) : Bool := f.placeWords.all (fun p => decide (fld p 31 28 = 0))

/-- Whether byte `i` of a payload is poisoned (POIM). -/
def Frame.poiAt (f : Frame) (i : Nat) : Bool := f.poim.getLsbD (i / 64)

/-- POIM of a payload, given which bytes are poisoned. -/
def poimOf (n : Nat) (p : Nat → Bool) : Dword :=
  (List.range ((n + 63) / 64)).foldl (fun m i =>
    if (List.range 64).any (fun j => decide (64 * i + j < n) && p (64 * i + j)) then m ||| BitVec.ofNat 64 (2 ^ i) else m) 0

/-! ### Tokens on the wire -/

/-- Bytes of a token (R335). -/
def Token.size (t : Token) : Nat := 8 + 4 * t.words.length

/-- The header of a token as a number (Table 5-5). -/
def Token.header (t : Token) : Nat :=
  t.kind <<< 56 + t.words.length <<< 49 + t.pch.toNat <<< 41 + (b2n t.cont) <<< 40 + t.seq.toNat

/-- A token in a frame: its header, its words, padded to 8 bytes (R334). -/
def Token.wire (t : Token) : List Byte :=
  leBytes 8 t.header ++ wordsBytes t.words ++ (if t.words.length % 2 = 1 then leBytes 4 0 else [])

/-- Poison of a chunk of a token (PCH). -/
def Token.poiChunk (t : Token) (i : Nat) : Bool := t.pch.getLsbD i

/-- The tokens of a TOKEN frame, in order; poison of marked chunks of the frame is added to PCH. `fuel` bounds the count. -/
def tokensOf (f : Frame) : Nat → Nat → List Token
  | 0, _ => []
  | fuel + 1, i =>
    if f.payload.length < i + 8 then [] else
    let h := leAt f.payload i 8
    let len := h >>> 49 % 128
    let pch := (List.range 8).foldl (fun (m : BitVec 8) k =>
      if (List.range 32).any (fun j => decide (32 * k + j < 4 * len) && f.poiAt (i + 8 + 32 * k + j)) then
        m ||| BitVec.ofNat 8 (2 ^ k) else m) (BitVec.ofNat 8 (h >>> 41))
    let t : Token := { kind := h >>> 56 % 256, cont := decide (h >>> 40 % 2 = 1), pch := pch, seq := w32 h,
                       words := (List.range len).map (fun k => w32 (leAt f.payload (i + 8 + 4 * k) 4)),
                       from_ := .none, at_ := 0, spilled := none, banks := [], ack := none }
    t :: tokensOf f fuel (i + 8 + 8 * ((len + 1) / 2))

/-! ### Management frames (Tables 13-5, 13-8) -/

/-- Whether a management frame is accepted (R483): EtherType, 64-byte payload, FMT, no error. -/
def mgmtFmt (f : MgmtFrame) (etype : Nat) : Option Nat :=
  if f.err ∨ f.etype ≠ etype ∨ f.bytes.length ≠ 64 then none
  else if leAt f.bytes 0 2 = 0x4842 ∨ leAt f.bytes 0 2 = 0x464E then some (leAt f.bytes 0 2) else none

/-! ### The collection descriptor (Tables 15-2 and 15-3) -/

/-- A queue entry of the descriptor. -/
structure DQueue where
  cls   : Nat
  spill : Bool
  hashed : Bool
  peer  : Nat
  lqr   : Nat
  cap   : Nat
  quant : Nat
  rate  : Nat
  burst : Nat
  roles : BitVec 3
  z     : Bool
  deriving DecidableEq, Repr

/-- A segment entry. -/
structure DSeg where
  k      : Nat
  region : Nat
  rd     : Bool
  wr     : Bool
  roles  : BitVec 3
  size   : Nat
  ofs    : Nat
  deriving DecidableEq, Repr

/-- An ensemble entry. -/
structure DEns where
  slot  : Nat
  shard : Bool
  nper  : Nat
  alq   : Nat
  deriving DecidableEq, Repr

/-- A collection descriptor as read. `hdr` keeps the header bytes for the blocks that other chapters lay out. -/
structure Desc where
  hdr   : List Byte
  fmt   : Word
  coll  : Nat
  trk   : Nat
  gen   : BitVec 16
  part  : Nat
  nprog : Nat
  nred  : Nat
  nq    : Nat
  nseg  : Nat
  nens  : Nat
  npl   : Nat
  rights : Nat
  ncl   : Nat
  rlq   : Nat
  route : Word
  histq : Word
  places : List Word
  progs : List (Nat × BitVec 3)
  queues : List DQueue
  segs  : List DSeg
  ens   : List DEns
  reds  : List (List Byte)
  checkOk : Bool
  check : Word
  /-- Reserved bytes and bits of the header, and of the tables. -/
  zerosOk : Bool
  tabsOk : Bool
  deriving DecidableEq, Repr

/-- Parse a queue entry. -/
def dQueueOf (b : List Byte) : DQueue :=
  { cls := leAt b 0 1 % 8, spill := decide (leAt b 0 1 / 8 % 2 = 1), hashed := decide (leAt b 0 1 / 16 % 2 = 1),
    peer := leAt b 1 1, lqr := leAt b 2 2, cap := leAt b 4 2, quant := leAt b 6 2, rate := leAt b 8 4,
    burst := leAt b 12 2, roles := BitVec.ofNat 3 (leAt b 14 1), z := decide (leAt b 15 1 = 0) }

/-- Parse a segment entry. -/
def dSegOf (b : List Byte) : DSeg :=
  { k := leAt b 0 1, region := leAt b 1 1, rd := decide (leAt b 2 1 % 2 = 1), wr := decide (leAt b 2 1 / 2 % 2 = 1),
    roles := BitVec.ofNat 3 (leAt b 3 1), size := leAt b 4 4 * 4096, ofs := leAt b 8 8 }

/-- Parse an ensemble entry. -/
def dEnsOf (b : List Byte) : DEns :=
  { slot := leAt b 0 1, shard := decide (leAt b 1 1 % 2 = 1), nper := leAt b 2 2 + 1, alq := leAt b 4 2 }

/-- Parse a descriptor whose bytes are `rd offset length` (R451): CHECK covers header bytes 0 to 251 and then every named
table in the order of the header. -/
def descOf (rd : Nat → Nat → List Byte) : Desc :=
  let h := rd 0 256
  let npl := leAt h 16 4
  let nprog := leAt h 10 1
  let nq := leAt h 12 2
  let nseg := leAt h 14 1
  let nens := leAt h 15 1
  let nred := leAt h 11 1
  let tab := fun (at_ : Nat) (n sz : Nat) => rd (leAt h at_ 8) (n * sz)
  let pl := tab 32 npl 4
  let pr := tab 40 nprog 16
  let qt := tab 48 nq 16
  let sg := tab 56 nseg 16
  let et := tab 64 nens 8
  let rt := tab 72 nred 80
  let cut := fun (b : List Byte) (n sz : Nat) => (List.range n).map (fun i => slice b (i * sz) sz)
  { hdr := h, fmt := w32 (leAt h 0 4), coll := leAt h 4 1, trk := leAt h 5 1, gen := BitVec.ofNat 16 (leAt h 6 2),
    part := leAt h 8 2, nprog := nprog, nred := nred, nq := nq, nseg := nseg, nens := nens, npl := npl,
    rights := leAt h 20 1, ncl := leAt h 21 1, rlq := leAt h 22 2, route := w32 (leAt h 24 4), histq := w32 (leAt h 28 4),
    places := (cut pl npl 4).map (fun b => w32 (leNat b)),
    progs := (cut pr nprog 16).map (fun b => (leAt b 0 8, BitVec.ofNat 3 (leAt b 8 1))),
    queues := (cut qt nq 16).map dQueueOf, segs := (cut sg nseg 16).map dSegOf, ens := (cut et nens 8).map dEnsOf,
    reds := cut rt nred 80, check := w32 (leAt h 252 4),
    checkOk := decide (crc32c (slice h 0 252 ++ pl ++ pr ++ qt ++ sg ++ et ++ rt) = w32 (leAt h 252 4)),
    zerosOk := decide (leAt h 80 16 = 0) && decide (leAt h 224 28 = 0) && decide (leAt h 96 1 / 16 % 2 = 0) &&
      decide (leAt h 97 1 < 16 ∧ leAt h 98 1 < 16 ∧ leAt h 99 1 < 16) && decide (leAt h 120 8 = 0),
    tabsOk := (cut pr nprog 16).all (fun b => decide (leAt b 8 1 < 8) && decide (leAt b 9 7 = 0)) &&
      (cut qt nq 16).all (fun b => decide (leAt b 0 1 < 32) && decide (leAt b 14 1 < 8) && decide (leAt b 15 1 = 0)) &&
      (cut sg nseg 16).all (fun b => decide (leAt b 0 1 < 8) && decide (leAt b 1 1 < 3) && decide (leAt b 2 1 < 4) &&
        decide (leAt b 3 1 < 8)) &&
      (cut et nens 8).all (fun b => decide (leAt b 1 1 < 2) && decide (leAt b 6 2 = 0)) }

/-- Strictly ascending places. -/
def ascending : List Word → Bool
  | a :: b :: t => decide (a.toNat < b.toNat) && ascending (b :: t)
  | _ => true

end Sys2Proof.Machine
end

