-- ==== Sys2Proof/Machine/Queue.lean ====
section
/-!
DEFINITION. Hardware queues, credits, flow contexts and frames between instances (R332 to R348, R472 to R475): the shared
operations that enqueue and take tokens, form and send frames, and take frames from a port.
-/

namespace Sys2Proof.Machine

/-! ### Queues -/

/-- A queue that holds nothing. -/
def Queue.fresh : Queue :=
  { toks := [], frames := [], openToks := [], openAt := 0, nextSeq := 0, cap := 64, peer := 0, peerRole := 0, dq := 0,
    deficit := 0, visited := false, elig := none, wheel := none, deqs := 0, sampAt := 0, depth := 0, delay := 0,
    hwmDepth := 0, hwmDelay := 0, unitIx := 0 }

def Blk.q (s : Blk) (q : Nat) : Queue := Store.get Queue.fresh s.qsc.queues q
def Blk.setQ (s : Blk) (q : Nat) (v : Queue) : Blk :=
  s.modQsc (fun m => { m with queues := Store.set Queue.fresh m.queues q v })
def Blk.modQ (s : Blk) (q : Nat) (f : Queue → Queue) : Blk := s.setQ q (f (s.q q))

/-- The fields of QSC_Qq_CFG (Table 11-4). -/
def Blk.qCfg (s : Blk) (q : Nat) : Word := s.reg (.qsc (.QSC_Qq_CFG q))
def Blk.qEn (s : Blk) (q : Nat) : Bool := bit (s.qCfg q) 31
def Blk.qEgress (s : Blk) (q : Nat) : Bool := bit (s.qCfg q) 30
def Blk.qHashed (s : Blk) (q : Nat) : Bool := bit (s.qCfg q) 28
def Blk.qCls (s : Blk) (q : Nat) : Nat := fld (s.qCfg q) 27 25
def Blk.qPort (s : Blk) (q : Nat) : Nat := fld (s.qCfg q) 24 24
def Blk.qOwner (s : Blk) (q : Nat) : Nat := fld (s.qCfg q) 23 16
def Blk.qLq (s : Blk) (q : Nat) : Nat := fld (s.qCfg q) 13 0
/-- Whether the queue may spill now: SPILL of a class C3 to C7, and a spill area (R347, Table 11-4). -/
def Blk.qSpills (s : Blk) (q : Nat) : Bool :=
  bit (s.qCfg q) 29 && decide (3 ≤ s.qCls q) && decide (fld (s.reg (.qsc .QSC_SPILL_SIZE)) 9 0 ≠ 0)

/-- QSC_Qq_CFG of an assignment. -/
def qCfgWord (egress spill hashed : Bool) (cls port owner lq : Nat) : Word :=
  w32 (2 ^ 31 + (b2n egress) <<< 30 + (b2n spill) <<< 29 + (b2n hashed) <<< 28 + (cls % 8) <<< 25 + (port % 2) <<< 24 +
    (owner % 256) <<< 16 + lq % 16384)

/-- Quantum of a queue in bytes; 0 taken as 1 unit (Table 11-3). -/
def Blk.qQuantum (s : Blk) (q : Nat) : Nat := 64 * max 1 (fld (s.reg (.qsc (.QSC_Qq_QUANT q))) 13 0)

/-- Units of 64 bytes of a token or a frame in the queue store (R335). -/
def Token.units (t : Token) : Nat := (t.size + 63) / 64

/-- Depth of a queue in units (R342). -/
def Queue.depthNow (v : Queue) : Nat :=
  ((v.toks ++ v.openToks).map Token.units).sum + (v.frames.map Frame.units).sum

/-- Entries that CAP counts (R333, R334). -/
def Queue.entries (v : Queue) : Nat :=
  v.toks.length + v.openToks.length + (v.frames.map (fun f => f.credits.length)).sum

/-- Credits that output slots bound to queue `q` hold, over every context (R333). -/
def Blk.credHeld (s : Blk) (q : Nat) : Nat :=
  (s.ctxs.map (fun p => (p.2.slots.map (fun sl =>
    if sl.2.out ∧ sl.2.q = q then Store.get 0 p.2.credits sl.1 else 0)).sum)).sum

/-- Queues assigned, in ascending number. -/
def Blk.qList (s : Blk) : List Nat := (Store.keys s.qsc.queues).filter s.qEn

/-- The depth and delay marks of a strict queue at an enqueue or dequeue (R342): delay in ns. -/
def Blk.qMark (s : Blk) (q : Nat) (since : Int) : Blk :=
  if s.qCls q ≤ 2 then
    s.modQ q (fun v => { v with hwmDepth := max v.hwmDepth v.depthNow,
                                hwmDelay := max v.hwmDelay ((s.cal - since) / 16).toNat })
  else s

/-- Take a sample of a weighted queue (R342): the delay is that of an entry enqueued at `since`, if there is one. -/
def Blk.qSample (s : Blk) (q : Nat) (since : Option Int) : Blk :=
  s.modQ q (fun v =>
    let d := v.depthNow
    let y := match since with | some a => ((s.cal - a) / 16).toNat | none => 0
    { v with deqs := 0, sampAt := s.tclk, depth := d, delay := y, hwmDepth := max v.hwmDepth d,
             hwmDelay := max v.hwmDelay y })

/-- Book a dequeue of an entry enqueued at `since`: every 1,024th dequeue of a weighted queue is a sample (R342). -/
def Blk.qDequeued (s : Blk) (q : Nat) (since : Int) : Blk :=
  if s.qCls q ≤ 2 then s.qMark q since else
  let s := s.modQ q (fun v => { v with deqs := v.deqs + 1 })
  if 1024 ≤ (s.q q).deqs then s.qSample q (some since) else s

/-! ### Banks (R349, R351) -/

/-- Count one access to each of the banks of the queue store. -/
def Blk.bankCount (s : Blk) (bs : List Nat) : Blk :=
  bs.foldl (fun s b => s.modQsc (fun m => { m with banks := Store.set 0 m.banks b (Store.get 0 m.banks b + 1) })) s

/-- Place the next `n` units of a queue in the queue store: the bank of each, by the present salt. -/
def Blk.bankPut (s : Blk) (q n : Nat) : List Nat × Blk :=
  let banks := match s.conf with | .d => 16 | .a64 => 256
  let bs := (List.range n).map (fun i => Config.placeHash s.qsc.salt.toNat q ((s.q q).unitIx + i) % banks)
  (bs, (s.modQ q (fun v => { v with unitIx := v.unitIx + n })).bankCount bs)

/-! ### Spilling (R347, R348) -/

/-- Units of the spill area that the entries of a queue lie in. -/
def Queue.spillUnits (v : Queue) : List Nat :=
  v.toks.flatMap (fun t => t.spilled.getD []) ++ v.frames.flatMap (fun f => f.spilled.getD [])

/-- Units of the spill area in use, over every queue. -/
def Blk.spillUnits (s : Blk) : List Nat := s.qsc.queues.flatMap (fun p => p.2.spillUnits)

/-- Bytes of the spill area in use; the area is full when the longest frame finds no room in it (R348; DESIGN CHOICE, log 39). -/
def Blk.spillUsed (s : Blk) : Nat := 64 * s.spillUnits.length
def Blk.spillFull (s : Blk) : Bool :=
  let size := fld (s.reg (.qsc .QSC_SPILL_SIZE)) 9 0
  decide (size ≠ 0 ∧ size * 2 ^ 30 ≤ s.spillUsed + 4160)

/-- Base address of the spill area. -/
def Blk.spillBase (s : Blk) : Nat := s.reg2 (.qsc .QSC_SPILL_BASE_HI) (.qsc .QSC_SPILL_BASE_LO)

/-- On-chip units that the queue holds. -/
def Queue.onChip (v : Queue) : Nat :=
  (((v.toks ++ v.openToks).filter (fun t => t.spilled.isNone)).map Token.units).sum +
    ((v.frames.filter (fun f => f.spilled.isNone)).map Frame.units).sum

/-- Whether a further entry of `n` units spills: the share is full, or earlier entries already lie in the chain, which no
entry overtakes (R347). -/
def Blk.mustSpill (s : Blk) (q n : Nat) : Bool :=
  s.qSpills q && (!(s.q q).spillUnits.isEmpty || decide (Config.queueShare (s.q q).cap (s.qCls q) < (s.q q).onChip + n))

/-- Whether a spilling queue takes no entry of `n` units because the area is full (R348). -/
def Blk.spillStop (s : Blk) (q n : Nat) : Bool := s.mustSpill q n && s.spillFull

/-- Whether a producer that is no slot finds room for one more entry of `n` units (R333); a full spill area takes nothing (R348). -/
def Blk.qRoom (s : Blk) (q n : Nat) : Bool :=
  decide ((s.q q).entries + s.credHeld q < (s.q q).cap) && !s.spillStop q n && s.unitUp 0 0xC

/-- Write an entry of `n` units to the lowest free units of the spill area, unit `k` of it poisoned where `bad k` is, and count
it (R347, R348, R357): the units that hold it. -/
def Blk.spillPut (s : Blk) (q n : Nat) (bs : List Byte) (bad : Nat → Bool) : List Nat × Blk :=
  let used := s.spillUnits
  let us := ((List.range (used.length + n)).filter (fun u => !used.contains u)).take n
  let s := (List.range n).foldl (fun (s : Blk) k =>
    s.xmWrite (s.spillBase + 64 * us.getD k 0) (slice bs (64 * k) 64) (bad k)) s
  (us, (s.count (.qsc (.QSC_Qq_SPILL q)) n).modQsc (fun m => { m with spillBytes := m.spillBytes + 64 * n }))

/-- The event of a full spill area, at most once per second (R348). -/
def Blk.spillEvent (s : Blk) (q : Nat) : Blk :=
  let due := match s.qsc.spillEvAt with | some a => s.passed a (s.sec 1) | none => true
  if s.spillFull && due then
    (s.modQsc (fun m => { m with spillEvAt := some s.tclk })).emit 0xC 0x0D03 q (s.spillUsed / 2 ^ 20)
  else s

/-- Read an entry back from its units of the spill area: which of them are poisoned (R357). -/
def Blk.spillRead (s : Blk) (q : Nat) (us : List Nat) : List Bool × Blk :=
  let c := if s.qOwner q < 64 then s.qOwner q else 0x3F
  us.foldl (fun (a : List Bool × Blk) u =>
    let (_, p, s) := a.2.xmRead c (a.2.spillBase + 64 * u) 64
    (a.1 ++ [p], s)) ([], s)

/-- Whether chunk `i` of a token's payload lies in one of the poisoned units of its entry. -/
def chunkBad (bad : List Bool) (i : Nat) : Bool := bad.getD ((8 + 32 * i) / 64) false || bad.getD ((39 + 32 * i) / 64) false

/-- A token, or a frame, that lies in the spill area comes back with the poison of its lines. -/
def Blk.tokBack (s : Blk) (q : Nat) (t : Token) : Token × Blk :=
  match t.spilled with
  | none => (t, s)
  | some us =>
    let (bad, s) := s.spillRead q us
    ({ t with spilled := none, pch := (List.range 8).foldl (fun (m : BitVec 8) i =>
        if chunkBad bad i && decide (8 * i < t.words.length) then m ||| BitVec.ofNat 8 (2 ^ i) else m) t.pch }, s)
def Blk.frameBack (s : Blk) (q : Nat) (f : Frame) : Frame × Blk :=
  match f.spilled with
  | none => (f, s)
  | some us =>
    let (bad, s) := s.spillRead q us
    ({ f with spilled := none, poim := f.poim ||| poimOf f.payload.length (fun i => bad.getD (1 + i / 64) false) }, s)

/-- Return spilled entries to the on-chip share in order as it drains (R347). -/
def Blk.unspill (s : Blk) (q : Nat) : Blk :=
  if (s.q q).spillUnits.isEmpty then s else
  let share := Config.queueShare (s.q q).cap (s.qCls q)
  let v := s.q q
  let (ts, n, s) := v.toks.foldl (fun (a : List Token × Nat × Blk) t =>
    if t.spilled.isNone then (a.1 ++ [t], a.2.1, a.2.2)
    else if a.2.1 + t.units ≤ share then
      let (t, s) := a.2.2.tokBack q t
      let (bs, s) := s.bankPut q t.units
      (a.1 ++ [{ t with banks := bs }], a.2.1 + t.units, s)
    else (a.1 ++ [t], share, a.2.2)) ([], v.onChip, s)
  let (fs, _, s) := v.frames.foldl (fun (a : List Frame × Nat × Blk) f =>
    if f.spilled.isNone then (a.1 ++ [f], a.2.1, a.2.2)
    else if a.2.1 + f.units ≤ share then
      let (f, s) := a.2.2.frameBack q f
      let (bs, s) := s.bankPut q f.units
      (a.1 ++ [{ f with banks := bs }], a.2.1 + f.units, s)
    else (a.1 ++ [f], share, a.2.2)) ([], n, s)
  s.modQ q (fun v => { v with toks := ts, frames := fs })

/-! ### The block's own queues (R332, R345) -/

/-- The highest free queue number below `n`. -/
def Blk.topFree (s : Blk) : Nat → Option Nat
  | 0 => none
  | n + 1 => if s.qEn n then s.topFree n else some n

/-- The block's egress queue to a peer in a class; the highest free number is taken when there is none (R332; DESIGN
CHOICE, log 6). -/
def Blk.blockQueue (s : Blk) (cls : Nat) (dst : Word) (role : Nat) : Option Nat × Blk :=
  match s.qList.find? (fun q => s.qEgress q && decide (s.qOwner q = 0xFF ∧ s.qCls q = cls ∧ (s.q q).peer = dst ∧
      (s.q q).peerRole = role)) with
  | some q => (some q, s)
  | none =>
    match s.topFree s.conf.queues with
    | none => (none, s)
    | some q =>
      let s := s.setReg (.qsc (.QSC_Qq_CFG q)) (qCfgWord true false false cls 0 0xFF 0)
      (some q, s.setQ q { Queue.fresh with peer := dst, peerRole := role, cap := 65535, sampAt := s.tclk })

/-! ### Flow contexts (R343 to R346) -/

def Flow.fresh : Flow :=
  { recv := false, cls := 0, peer := 0, peerRole := 0, port := 0, grant := 0, sent := 0, held := 0, limit := 0,
    advLimit := 0, advAt := 0, frames := [], nextId := 0, colls := [], own := false }

/-- The index of an open context. -/
def Blk.flowIx (s : Blk) (recv : Bool) (cls : Nat) (peer : Word) (role : Nat) : Option Nat :=
  (s.qsc.flows.find? (fun p => decide (p.2.recv = recv ∧ p.2.cls = cls ∧ p.2.peer = peer ∧ p.2.peerRole = role))).map
    Prod.fst

/-- Flow contexts of an instance (R343). -/
def Blk.flowMax (s : Blk) : Nat := match s.conf with | .d => 1024 | .a64 => 65536

/-- The grant of a class: QSC_CRINIT, at least the units of the longest frame (R343). -/
def Blk.grantOf (s : Blk) (cls : Nat) : Nat := max 65 (fld (s.reg (.qsc (.QSC_CRINIT cls))) 19 0)

/-- The lowest number that is no key of a table. -/
def freeKey {α : Type} (m : Store α) : Nat → Nat → Option Nat
  | 0, _ => none
  | n + 1, i => if (Store.look m i).isNone then some i else freeKey m n (i + 1)

/-- Room for one more grant: the queue store and the spill area hold every grant of the receive contexts (R343). -/
def Blk.grantRoom (s : Blk) (g : Nat) : Bool :=
  decide (((s.qsc.flows.filter (fun p => p.2.recv)).map (fun p => p.2.grant)).sum + g ≤
    16 * fld (s.reg (.qsc .QSC_QSTORE)) 19 0 + 2 ^ 24 * fld (s.reg (.qsc .QSC_SPILL_SIZE)) 9 0)

/-- Open a context, or join one that is open, for a collection or for the block's own streams (R343): the block's queue that carries
its frames, of a receive context its credit frames, is assigned with it (R332, R345). None when no context or queue is free or the
grant cannot be reserved. -/
def Blk.openFlow (s : Blk) (recv : Bool) (cls : Nat) (peer : Word) (role port : Nat) (coll : Option Nat) : Option Blk :=
  let add := fun (f : Flow) => match coll with
    | some c => { f with colls := insNat c f.colls }
    | none => { f with own := true }
  match s.flowIx recv cls peer role with
  | some i => some (s.modQsc (fun m => { m with flows := Store.put m.flows i (add (Store.get Flow.fresh m.flows i)) }))
  | none =>
    let g := s.grantOf cls
    if recv && !s.grantRoom g then none else
    match freeKey s.qsc.flows s.flowMax 0 with
    | none => none
    | some i =>
      match s.blockQueue (if recv then 1 else cls) peer role with
      | (none, _) => none
      | (some _, s) => some (s.modQsc (fun m => { m with flows := Store.put m.flows i (add
        { Flow.fresh with recv := recv, cls := cls, peer := peer, peerRole := role, port := port, grant := g,
                          limit := w32 g, advLimit := w32 g, advAt := s.tclk }) }))

/-- Whether a peer's contexts open at parent attach alone: one of the two is a die, or it is this instance's parent (R343). -/
def Blk.attachPeer (s : Blk) (peer : Word) (role : Nat) : Bool :=
  s.role == .die || decide (role = 1) || (s.role == .tray && decide (role = 3) && decide (s.boot.primary.map Prod.fst = some peer ∨
    (s.boot.primary.isNone ∧ s.reg (.boot .BOOT_PARENT) = peer)))

/-- Open the context of a frame for which no rule opens one: a class-C2 frame, or a HEALTH frame, between instances of which
neither is the other's parent. It opens at its first frame, at both ends (DEDUCED, log 8). -/
def Blk.openFirst (s : Blk) (recv : Bool) (cls ftype : Nat) (peer : Word) (role : Nat) : Blk :=
  if decide (cls = 2 ∨ ftype = ftHealth) && !s.attachPeer peer role && !decide (ftype = ftAttach ∨ ftype = ftPeer ∨ ftype = ftCredit) &&
      (s.flowIx recv cls peer role).isNone then (s.openFlow recv cls peer role 0 none).getD s
  else s

/-- Drop a collection's, or the block's, use of the contexts that `p` selects; a context that nobody uses closes (R343). -/
def Blk.leaveFlows (s : Blk) (p : Flow → Bool) (coll : Option Nat) : Blk :=
  s.modQsc (fun m => { m with flows := m.flows.filterMap (fun kv =>
    if !p kv.2 then some kv else
    let f := match coll with
      | some c => { kv.2 with colls := kv.2.colls.filter (· != c) }
      | none => { kv.2 with own := false }
    if f.colls.isEmpty && !f.own then none else some (kv.1, f)) })

/-- LIMIT that a receiver advertises now: SEEN − HELD + G (R344). -/
def Flow.limitNow (f : Flow) : Word := f.sent - w32 f.held + w32 f.grant

def Blk.modFlow (s : Blk) (i : Nat) (f : Flow → Flow) : Blk :=
  match Store.look s.qsc.flows i with
  | some v => s.modQsc (fun m => { m with flows := Store.put m.flows i (f v) })
  | none => s

/-- Free `n` units of a receive context (R345). -/
def Blk.freeUnits (s : Blk) (i n : Nat) : Blk := s.modFlow i (fun f => { f with held := f.held - n })

/-- One entry of frame `id` of receive context `i` has left the ingress reservation (R345). -/
def Blk.entryLeft (s : Blk) (i id : Nat) : Blk :=
  match Store.look s.qsc.flows i with
  | none => s
  | some f =>
    match Store.look f.frames id with
    | none => s
    | some (n, u) =>
      if n ≤ 1 then (s.modFlow i (fun f => { f with frames := Store.del f.frames id })).freeUnits i u
      else s.modFlow i (fun f => { f with frames := Store.put f.frames id (n - 1, u) })

/-- Return the credit of an entry to its producer (R160, R345). -/
def Blk.giveCredit (s : Blk) : Credit → Blk
  | .none => s
  | .slot c k => s.modCtxs (fun m => match Store.look m c with
      | some x => Store.put m c { x with credits := Store.set 0 x.credits k (Store.get 0 x.credits k + 1) }
      | none => m)
  | .frame i id => s.entryLeft i id

/-! ### Frames out -/

/-- Whether a frame from this instance to `dst` is bound for the long haul (R33): another site, and a licence that has the
feature. -/
def Blk.lhTo (s : Blk) (dst : Word) : Bool :=
  decide (siteOf dst ≠ siteOf s.place) && (match s.lic.force with | some l => l.lh | none => false)

/-- Partition of a frame to `dst` (Table 16-6): this instance's own; a span instance takes the collection's, or the
destination's. -/
def Blk.partTo (s : Blk) (coll : Option Nat) (dst : Word) : Nat :=
  if s.role = .span then
    match coll with
    | some c => (s.coll c).part
    | none => Store.get 0 s.boot.trays dst.toNat
  else s.part

/-- A whole frame becomes the last entry of an egress queue: in the queue store, or, where it must, in the spill area (R334, R347,
R349). -/
def Blk.putFrame (s : Blk) (q : Nat) (f : Frame) : Blk :=
  if s.mustSpill q f.units then
    let (us, s) := s.spillPut q f.units (f.wire f.sent f.limit f.lv) (fun k => decide (1 ≤ k) && f.poim.getLsbD (k - 1))
    (s.modQ q (fun v => { v with frames := v.frames ++ [{ f with spilled := some us }] })).spillEvent q
  else
    let (bs, s) := s.bankPut q f.units
    s.modQ q (fun v => { v with frames := v.frames ++ [{ f with banks := bs }] })

/-- Put a whole frame into an egress queue (R334). -/
def Blk.enqFrame (s : Blk) (q : Nat) (f : Frame) : Blk := (s.putFrame q { f with at_ := s.cal }).qMark q s.cal

/-- Send a frame of the block's own machinery to a peer (R332): a collection's frame names it and its generation. -/
def Blk.sendMsg (s : Blk) (cls : Nat) (dst : Word) (role ftype : Nat) (coll : Option (Nat × BitVec 16))
    (payload : List Byte) (poim : Dword) (turn : Option Word) : Blk :=
  match (s.openFirst false cls ftype dst role).blockQueue cls dst role with
  | (none, s) => s
  | (some q, s) =>
    s.enqFrame q { Frame.empty with
      dst := dst, src := s.place, drole := role, srole := roleCode s.role, cls := cls, lh := s.lhTo dst, ftype := ftype,
      own := coll.isNone, part := s.partTo (coll.map Prod.fst) dst, coll := (coll.map Prod.fst).getD 0,
      gen := ((coll.map Prod.snd).getD 0).toNat, poim := poim, payload := payload, credits := [.none], turn := turn }

/-- Close the open token frame of an egress queue (R334). -/
def Blk.closeFrame (s : Blk) (q : Nat) : Blk :=
  let v := s.q q
  if v.openToks.isEmpty then s else
  let payload := v.openToks.flatMap Token.wire
  let own := decide (s.qOwner q = 0xFF)
  let c := s.qOwner q
  let marks := v.openToks.flatMap (fun t => (List.range t.wire.length).map (fun i =>
    decide (8 ≤ i) && t.poiChunk ((i - 8) / 32)))
  let f : Frame := { Frame.empty with
    dst := v.peer, src := s.place, drole := v.peerRole, srole := roleCode s.role, cls := s.qCls q, lh := s.lhTo v.peer,
    ftype := ftToken, own := own, part := s.partTo (if own then none else some c) v.peer,
    coll := (if own then 0 else c), gen := (if own then 0 else (s.coll c).gen.toNat), dq := v.dq,
    poim := poimOf payload.length (fun i => marks.getD i false), payload := payload,
    credits := v.openToks.map Token.from_,
    turn := (if s.qCls q = 0 then v.openToks.getLast?.bind (fun t => t.words[1]?) else none),
    at_ := (v.openToks.head?.map Token.at_).getD 0 }
  (s.modQ q (fun v => { v with openToks := [] })).putFrame q f

/-- Put a token behind the others of a local queue: in the queue store, or in the spill area (R347, R349). -/
def Blk.putTok (s : Blk) (q : Nat) (t : Token) : Blk :=
  if s.mustSpill q t.units then
    let (us, s) := s.spillPut q t.units t.wire (fun k => (List.range 8).any (fun i =>
      t.poiChunk i && decide (k = (8 + 32 * i) / 64 ∨ k = (39 + 32 * i) / 64)))
    (s.modQ q (fun v => { v with toks := v.toks ++ [{ t with spilled := some us }] })).spillEvent q
  else
    let (bs, s) := s.bankPut q t.units
    s.modQ q (fun v => { v with toks := v.toks ++ [{ t with banks := bs }] })

/-- Enqueue a token: SEQ is assigned; in an egress queue it joins the open frame, which is the entry that is stored when it closes,
at once in classes C0 to C2 (R158, R333, R334). -/
def Blk.enqTok (s : Blk) (q : Nat) (t : Token) : Blk :=
  let t : Token := { t with seq := w32 (s.q q).nextSeq, at_ := s.cal }
  let s := s.modQ q (fun v => { v with nextSeq := (v.nextSeq + 1) % 2 ^ 32 })
  if s.qEgress q then
    let s := if 4096 < (((s.q q).openToks ++ [t]).map (fun t => t.wire.length)).sum then s.closeFrame q else s
    let s := s.modQ q (fun v => { v with openAt := (if v.openToks.isEmpty then s.tclk else v.openAt),
                                         openToks := v.openToks ++ [t] })
    let s := if s.qCls q ≤ 2 then s.closeFrame q else s
    s.qMark q s.cal
  else
    let c := s.qOwner q
    let s := if t.pch ≠ 0 ∧ c ≠ 0xFF ∧ t.kind ≠ 4 ∧ t.kind ≠ 5 then s.count (.err (.ERR_Cc_POI c)) 1 else s
    (s.putTok q t).qMark q s.cal

/-- A token of the block with the given kind, words and poison by chunk. -/
def Token.mk' (kind : Nat) (words : List Word) (pch : BitVec 8) (cont : Bool) (cr : Credit) : Token :=
  { kind := kind, cont := cont, pch := pch, seq := 0, words := words, from_ := cr, at_ := 0, spilled := none, banks := [],
    ack := none }

/-! ### Taking tokens -/

/-- Whether queue `q` holds a token that came in a frame of source `src`. -/
def Blk.holdsFrom (s : Blk) (q : Nat) (src : Word) : Bool :=
  (s.q q).toks.any (fun t => match t.from_ with
    | .frame i _ => (match Store.look s.qsc.flows i with | some f => f.peer == src | none => false)
    | _ => false)

/-- Members of the hashed group of queue `q`: the queues of its owner with its logical number (R349). -/
def Blk.groupOf (s : Blk) (owner lq : Nat) : List Nat :=
  s.qList.filter (fun q => !s.qEgress q && decide (s.qOwner q = owner ∧ s.qLq q = lq))

/-- Deliver the tokens of the ingress reservation that their member queue has room for and whose old member is clear of
their source, in the order of each source at each logical queue (R333, R350). -/
def Blk.releaseWaits (s : Blk) : Blk :=
  let w := s.qsc.waitIn
  (w.foldl (fun (a : Blk × List (Word × Nat × Nat)) e =>
    let (src, q, t) := e
    let g := (src, a.1.qOwner q, a.1.qLq q)
    let busy := a.2.contains g || !a.1.qRoom q t.units ||
      ((a.1.groupOf (a.1.qOwner q) (a.1.qLq q)).any (fun m => m != q && a.1.holdsFrom m src))
    if busy then (a.1.modQsc (fun m => { m with waitIn := m.waitIn ++ [e] }), a.2 ++ [g])
    else (a.1.enqTok q t, a.2)) (s.modQsc (fun m => { m with waitIn := [] }), [])).1

/-- Take the oldest token of a local queue: its credit returns, spilled entries return on chip, waiting tokens of hashed
groups are delivered (R160, R345, R347, R350). -/
def Blk.takeTok (s : Blk) (q : Nat) : Option (Token × Blk) :=
  match (s.q q).toks with
  | [] => none
  | t :: rest =>
    let (t, s) := s.tokBack q t
    let s := s.modQ q (fun v => { v with toks := rest })
    let s := s.giveCredit t.from_
    let s := (s.bankCount t.banks).unspill q
    some (t, (s.qDequeued q t.at_).releaseWaits)

/-! ### The queue scheduler (R337 to R341) -/

/-- Whether a frame travels outside flow contexts (R343, R345): ATTACH, PEER and CREDIT frames, the class-C1 time frames of an
instance not yet attached, and a frame passed on for another source (DEDUCED, log 21). -/
def Blk.outsideFlow (s : Blk) (f : Frame) : Bool :=
  decide (f.ftype = ftAttach ∨ f.ftype = ftPeer ∨ f.ftype = ftCredit ∨ f.src ≠ s.place) ||
    (decide (f.ftype = ftTime) && (s.flowIx false f.cls f.dst f.drole).isNone)

/-- Whether the sender holds the credits of a frame (R344). -/
def Blk.flowOk (s : Blk) (f : Frame) : Bool :=
  s.outsideFlow f ||
  match s.flowIx false f.cls f.dst f.drole with
  | none => false
  | some i =>
    let x := Store.get Flow.fresh s.qsc.flows i
    decide ((x.limit - (x.sent + w32 f.units)).toNat < 2 ^ 31)

/-- The class in which a frame travels: a credit frame is a class-C1 frame, whatever context it grants to (R345). -/
def Frame.schedCls (f : Frame) : Nat := if f.ftype = ftCredit then 1 else f.cls

/-- Whether the block may send a frame of this kind now: every kind while tl_ready is high; before, only attach, PEER and
class-C1 time frames (R449); a fenced instance sends nothing of classes C2 to C7 (R406). -/
def Blk.mayBegin (s : Blk) (f : Frame) : Bool :=
  bit (s.reg (.qsc .QSC_CTRL)) 0 &&
  (s.boot.ready || decide (f.ftype = ftAttach ∨ f.ftype = ftPeer ∨ f.ftype = ftTime)) &&
  !(s.hlt.fencedSelf && decide (2 ≤ f.schedCls))

/-- The first gate of R369: no frame that carries a result of turn n + 1 is begun while a class-C0 frame of the collection
with alarms of turn n or earlier waits for the same peer. -/
def Blk.gateOk (s : Blk) (f : Frame) : Bool :=
  match f.turn with
  | none => true
  | some r =>
    decide (f.cls = 0) || f.own ||
    !(s.qList.any (fun q => s.qEgress q && decide (s.qCls q = 0) && ((s.q q).peer == f.dst) &&
      (s.q q).frames.any (fun g => decide (g.coll = f.coll) && (match g.turn with
        | some a => decide (sdiff a r < 0)
        | none => false))))

/-- Rate and burst of a shaped queue, in MB/s and bytes. -/
def Blk.qRate (s : Blk) (q : Nat) : Nat := fld (s.reg (.qsc (.QSC_Qq_RATE q))) 19 0
def Blk.qBurst (s : Blk) (q : Nat) : Nat := 64 * fld (s.reg (.qsc (.QSC_Qq_BURST q))) 19 0

/-- Rounded-up quotient. -/
def cdiv (a b : Nat) : Nat := (a + b - 1) / b

/-- Whether the calendar lets a queue send (R340): an unshaped queue always; a shaped one from the first slot boundary, a
multiple of 1,024 tk, at or after its E. -/
def Blk.calOk (s : Blk) (q : Nat) : Bool :=
  s.qRate q = 0 || match (s.q q).elig with
    | none => true
    | some e => decide (-((-e) / 1024) * 1024 ≤ s.cal)

/-- Eligibility of an egress queue (R337). -/
def Blk.eligible (s : Blk) (q : Nat) : Bool :=
  match (s.q q).frames with
  | [] => false
  | f :: _ => s.calOk q && s.flowOk f && s.mayBegin f && s.gateOk f

/-- Egress queues of port `p` in class `c`. -/
def Blk.portQueues (s : Blk) (p c : Nat) : List Nat :=
  s.qList.filter (fun q => s.qEgress q && decide (s.qPort q = p ∧ s.qCls q = c))

/-- The wheel slot of a shaped queue that is not yet eligible at calendar time `t` (R341). -/
def wheelSlot (e t : Int) : Option (Bool × Nat) :=
  if -((-e) / 1024) * 1024 ≤ t then none
  else if e - t < 4194304 then some (false, (e / 1024 % 4096).toNat)
  else some (true, (e / 4194304 % 4096).toNat)

/-- Set or clear E, and the wheel slot with it. -/
def Blk.setElig (s : Blk) (q : Nat) (e : Option Int) : Blk :=
  s.modQ q (fun v => { v with elig := e, wheel := e.bind (fun e => wheelSlot e s.cal) })

/-- Set E of shaped queues that join from empty: t − β × 16,000 / ρ (R340; the quotient rounded up, DEDUCED, log 7). -/
def Blk.startElig (s : Blk) (q : Nat) : Blk :=
  if s.qRate q ≠ 0 ∧ (s.q q).elig = none ∧ !(s.q q).frames.isEmpty then
    s.setElig q (some (s.cal - (cdiv (s.qBurst q * 16000) (s.qRate q) : Nat)))
  else s

/-- A queue on a wheel at a slot boundary (R341): it leaves the fine wheel when its slot has come or it is shaped no more, and
moves from the coarse wheel to its fine slot when its coarse slot begins. -/
def Blk.wheelTurn (s : Blk) (q : Nat) : Blk :=
  match (s.q q).elig, (s.q q).wheel with
  | some e, some (coarse, _) =>
    if s.calOk q then s.modQ q (fun v => { v with wheel := none })
    else if coarse ∧ e / 4194304 ≤ s.cal / 4194304 then
      s.modQ q (fun v => { v with wheel := some (false, (e / 1024 % 4096).toNat) })
    else s
  | _, _ => s

/-- Bring the active list of a class up to date (R338, R339): members that are no longer eligible leave, with at most their
quantum saved, or nothing when they are empty; queues that became eligible join the tail in ascending number. -/
def Blk.refresh (s : Blk) (p c : Nat) : Blk :=
  let s := (s.portQueues p c).foldl Blk.startElig s
  let key := 8 * p + c
  let old := Store.get [] s.qsc.active key
  let keep := old.filter s.eligible
  let s := (old.filter (fun q => !s.eligible q)).foldl (fun s q => s.modQ q (fun v =>
    { v with visited := false, deficit := (if v.frames.isEmpty then 0 else min v.deficit (s.qQuantum q)) })) s
  let new := (s.portQueues p c).filter (fun q => s.eligible q && !keep.contains q)
  s.modQsc (fun m => { m with active := Store.set [] m.active key (keep ++ new) })

/-- Run the round of a class until its head member may send its head frame; the member and the state then (R338). `fuel`
bounds the visits. -/
def Blk.roundHead : Nat → Blk → Nat → Option Nat × Blk
  | 0, s, _ => (none, s)
  | fuel + 1, s, key =>
    match Store.get [] s.qsc.active key with
    | [] => (none, s)
    | q :: rest =>
      let s := if (s.q q).visited then s
               else s.modQ q (fun v => { v with deficit := v.deficit + s.qQuantum q, visited := true })
      match (s.q q).frames with
      | [] => (none, s)
      | f :: _ =>
        if 64 * f.units ≤ (s.q q).deficit then (some q, s)
        else
          let s := s.modQ q (fun v => { v with visited := false })
          Blk.roundHead fuel (s.modQsc (fun m => { m with active := Store.set [] m.active key (rest ++ [q]) })) key

/-- Visits that suffice for some member to reach its head frame. -/
def roundFuel (n : Nat) : Nat := 70 * n + 1

/-- Send the head frame of queue `q` on port `p`: SENT and LIMIT go into its header, deficit and E are updated, the credits
of its tokens return, and the port drives its bytes (R334, R338, R340, R344, R345, R474). -/
def Blk.sendHead (s : Blk) (p q : Nat) : Blk :=
  match (s.q q).frames with
  | [] => s
  | f :: rest =>
    let (f, s) := s.frameBack q f
    let size := 64 * f.units
    let s := s.modQ q (fun v => { v with frames := rest, deficit := v.deficit - size })
    let out := s.outsideFlow f
    let (sent, s) := match (if out then none else s.flowIx false f.cls f.dst f.drole) with
      | none => ((0 : Word), s)
      | some i =>
        let n := (Store.get Flow.fresh s.qsc.flows i).sent + w32 f.units
        (n, s.modFlow i (fun x => { x with sent := n }))
    -- every frame to a peer in a class advertises the LIMIT of the reverse context (R345)
    let (lim, lv, s) := match (if f.ftype = ftCredit then none else s.flowIx true f.cls f.dst f.drole) with
      | none => (f.limit, f.lv, s)
      | some i =>
        let l := (Store.get Flow.fresh s.qsc.flows i).limitNow
        (l, true, s.modFlow i (fun x => { x with advLimit := l, advAt := s.tclk }))
    let s := { s with port := { s.port with fo := Store.put s.port.fo p (f.wire sent lim lv) } }
    let s := f.credits.foldl Blk.giveCredit s
    let s := if s.qRate q = 0 then s.setElig q none else
      let b : Int := (cdiv (s.qBurst q * 16000) (s.qRate q) : Nat)
      let e := ((s.q q).elig).getD (s.cal - b)
      s.setElig q (if rest.isEmpty then none else some (max e (s.cal - b) + (cdiv (size * 16000) (s.qRate q) : Nat)))
    let s := if rest.isEmpty then s.modQ q (fun v => { v with deficit := 0, visited := false }) else s
    let s := (s.bankCount f.banks).unspill q
    (s.qDequeued q f.at_).refresh p (s.qCls q)

/-- Class quantum in bytes; 0 taken as 1 unit (R336). -/
def Blk.clsQuantum (s : Blk) (c : Nat) : Nat := 64 * max 1 (fld (s.reg (.qsc (.QSC_CW c))) 15 0)

/-- Bring the list of the weighted classes of a port up to date (R339). -/
def Blk.refreshClasses (s : Blk) (p : Nat) : Blk :=
  let s := [3, 4, 5, 6, 7].foldl (fun s c => s.refresh p c) s
  let live := fun (s : Blk) (c : Nat) => !(Store.get [] s.qsc.active (8 * p + c)).isEmpty
  let old := Store.get [] s.qsc.classes p
  let keep := old.filter (live s)
  let s := (old.filter (fun c => !live s c)).foldl (fun s c => s.modQsc (fun m =>
    let r := Store.get ⟨0, false⟩ m.rounds (8 * p + c)
    let empty := (s.portQueues p c).all (fun q => (s.q q).frames.isEmpty)
    let r' : ClassRound := ⟨if empty then 0 else min r.deficit (s.clsQuantum c), false⟩
    { m with rounds := Store.set ⟨0, false⟩ m.rounds (8 * p + c) r' })) s
  let new := [3, 4, 5, 6, 7].filter (fun c => live s c && !keep.contains c)
  s.modQsc (fun m => { m with classes := Store.set [] m.classes p (keep ++ new) })

/-- One round over the weighted classes: the class whose next frame fits its deficit sends it (R337, R338). -/
def Blk.weightedPick : Nat → Blk → Nat → Blk
  | 0, s, _ => s
  | fuel + 1, s, p =>
    match Store.get [] s.qsc.classes p with
    | [] => s
    | c :: rest =>
      let key := 8 * p + c
      let r := Store.get ⟨0, false⟩ s.qsc.rounds key
      let r : ClassRound := if r.visited then r else ⟨r.deficit + s.clsQuantum c, true⟩
      match Blk.roundHead (roundFuel (Store.get [] s.qsc.active key).length) s key with
      | (none, s) => s
      | (some q, s) =>
        let size := match (s.q q).frames with | f :: _ => 64 * f.units | [] => 0
        if size ≤ r.deficit then
          let s := s.modQsc (fun m => { m with rounds := Store.set ⟨0, false⟩ m.rounds key ⟨r.deficit - size, true⟩ })
          (s.sendHead p q).refreshClasses p
        else
          let s := s.modQsc (fun m => { m with rounds := Store.set ⟨0, false⟩ m.rounds key ⟨r.deficit, false⟩,
                                               classes := Store.set [] m.classes p (rest ++ [c]) })
          Blk.weightedPick fuel s p

/-- One pick of the scheduler of port `p` (R337): credit frames ahead of the other C1 frames (R345), then C0, C1 and C2,
then the weighted group. -/
def Blk.pick (s : Blk) (p : Nat) : Blk :=
  let s := [0, 1, 2].foldl (fun s c => s.refresh p c) s
  let strict := [0, 1, 2].find? (fun c => !(Store.get [] s.qsc.active (8 * p + c)).isEmpty)
  match strict with
  | some c =>
    let act := Store.get [] s.qsc.active (8 * p + c)
    let cred := if c ≠ 1 then none else act.find? (fun q => match (s.q q).frames with
      | f :: _ => decide (f.ftype = ftCredit)
      | [] => false)
    match cred with
    | some q => s.sendHead p q
    | none =>
      match Blk.roundHead (roundFuel act.length) s (8 * p + c) with
      | (some q, s) => s.sendHead p q
      | (none, s) => s
  | none =>
    let s := s.refreshClasses p
    Blk.weightedPick (roundFuel 5) s p

/-! ### Frames in -/

/-- Drop a frame at the port and report the number of its cause (R475, Table 16-13). -/
def Blk.frameBad (s : Blk) (pair : Nat) (src : Word) (cause : Nat) : Blk :=
  let n := s.port.framesDropped + 1
  { s with port := { s.port with framesDropped := n } }.emitAt 0xC pair 0x1502 src.toNat (cause + n <<< 4)

/-- A drop that is counted and not reported (R33, R36, R37). -/
def Blk.otherDrop (s : Blk) : Blk := { s with port := { s.port with otherDrops := s.port.otherDrops + 1 } }

/-- Where a frame of the current instance's role is dropped: by a place with bits [31:28] set in its payload, by fence, partition
or long haul, or, at a die, one of another die, or collection control or time that is not its parent's (R17, R25, R33, R36, R37). -/
def Blk.frameBarred (s : Blk) (f : Frame) : Bool :=
  !f.placesOk || s.hlt.fenced.contains f.src ||
  (decide (s.role = .die) && (decide (f.srole = 1) ||
    (decide (f.ftype = ftCollctl ∨ f.ftype = ftTime) && decide (f.src ≠ trayOf s.place ∨ f.srole ≠ 2)))) ||
  (decide (s.role ≠ .span) && decide (f.ftype ≠ ftAttach) && decide (f.part ≠ s.part) &&
    decide (2 ≤ f.schedCls ∨ f.srole ≠ 3)) ||
  (f.lh && decide (s.role ≠ .span) && !(match s.lic.force with | some l => l.lh | none => false)) ||
  (decide (s.role = .span) && decide (siteOf f.src ≠ siteOf s.place) &&
    (List.range 8).all (fun i => decide (i = siteOf s.place) || s.reg (.boot (.BOOT_SITE_SPAN i)) == 0xFFFFFFFF#32))

/-- Whether a collection's frame is of another generation than the current one, COLLCTL apart (R454). -/
def Blk.frameStale (s : Blk) (f : Frame) : Bool :=
  !f.own && decide (f.ftype ≠ ftCollctl) &&
  !(decide ((s.coll f.coll).st = .running ∨ (s.coll f.coll).st = .starting) && decide ((s.coll f.coll).gen.toNat = f.gen))

/-- Account a data frame on its receive context (R344, R346): the context's index, or none for a frame outside contexts;
`false` when the frame must be dropped. A class-C2 or HEALTH context opens at its first frame (DEDUCED, log 8). -/
def Blk.flowIn (s : Blk) (f : Frame) : Bool × Option Nat × Blk :=
  if f.ftype = ftAttach ∨ f.ftype = ftPeer ∨ f.ftype = ftCredit then (true, none, s) else
  let s := s.openFirst true f.cls f.ftype f.src f.srole
  match s.flowIx true f.cls f.src f.srole with
  | none =>
    if f.ftype = ftTime then (true, none, s) else
    (false, none, (s.count (.qsc .QSC_NOCRED_DROP) 1).emit 0xC 0x0D04 f.src.toNat f.cls)
  | some i =>
    let x := Store.get Flow.fresh s.qsc.flows i
    if (x.limitNow - f.sent).toNat < 2 ^ 31 then
      let seen := if 0 < sdiff f.sent x.sent then f.sent else x.sent
      (true, some i, s.modFlow i (fun x => { x with sent := seen, held := x.held + f.units }))
    else (false, none, (s.count (.qsc .QSC_NOCRED_DROP) 1).emit 0xC 0x0D04 f.src.toNat f.cls)

/-- Take the LIMIT that a frame advertises for the reverse context (R345). -/
def Blk.limitIn (s : Blk) (f : Frame) : Blk :=
  if !f.lv then s else
  match s.flowIx false f.cls f.src f.srole with
  | none => s
  | some i => s.modFlow i (fun x => if 0 < sdiff f.limit x.limit then { x with limit := f.limit } else x)

/-- What taking a frame from a port leaves for its meaning: the frame and its receive context. -/
structure Taken where
  f  : Frame
  fc : Option Nat
  deriving DecidableEq, Repr

/-- Take a frame of type `want` from a fabric port (R472, R475, R36, R37, R344, R346, R454). A frame that fails a check is
dropped as its rule says; a frame of another type leaves the state as it is: it is another command's. -/
def Blk.takeFrame (s : Blk) (r : RxFrame) (want : Nat) : Blk × Option Taken :=
  if s.conf.pairs ≤ r.pair then (s, none) else
  let beat := match s.conf with | .d => 8 | .a64 => 64
  if Store.get 0 s.qsc.fiCrd r.pair = 0 then
    let n := s.port.beatsDropped + (r.bytes.length + beat - 1) / beat
    ({ s with port := { s.port with beatsDropped := n } }.emitAt 0xC r.pair 0x1501 r.pair n, none)
  else
  match parseFrame r with
  | .bad cause src => (s.frameBad r.pair src cause, none)
  | .ok f =>
    if f.ftype ≠ want then (s, none) else
    if f.dst ≠ s.place ∨ f.drole ≠ roleCode s.role then (s.frameBad r.pair f.src 5, none) else
    if s.frameBarred f then (s.otherDrop, none) else
    let s := s.limitIn f
    match s.flowIn f with
    | (false, _, s) => (s, none)
    | (true, fc, s) =>
      let free := fun (s : Blk) => match fc with | some i => s.freeUnits i f.units | none => s
      if s.frameStale f then (free (s.count (.boot .BOOT_STALE_CNT) 1), none)
      else if f.ftype = ftToken ∧ (s.groupOf (if f.own then 0xFF else f.coll) f.dq).isEmpty then
        ((free s).frameBad r.pair f.src 6, none)
      else (s, some ⟨f, fc⟩)

/-- Take a frame of type `want` whose word 0 has SUB `sub` in [7:0] (Tables 16-7, 16-8); a frame of another SUB is another
command's. -/
def Blk.takeSub (s : Blk) (r : RxFrame) (want sub : Nat) : Blk × Option Taken :=
  match parseFrame r with
  | .ok f => if f.ftype = want ∧ fld (wordAt f.payload 0) 7 0 ≠ sub then (s, none) else s.takeFrame r want
  | .bad _ _ => s.takeFrame r want

/-- The units of a frame that a unit has taken at once are free again (R345). -/
def Blk.frameDone (s : Blk) (t : Taken) : Blk :=
  match t.fc with | some i => s.freeUnits i t.f.units | none => s

end Sys2Proof.Machine
end

