-- ==== Sys2Proof/Machine/Tree.lean ====
section
/-!
DEFINITION. The double tree of a collection at a site (R27, R28, R231, R232), the current turn of a collection, and the
peers of an instance: parent, members, primary.
-/

namespace Sys2Proof.Machine

/-! ### Positions (R231) -/

/-- Root position of a tree of `n` participants: the largest power of two that is at most `n`. -/
def treeRoot (n : Nat) : Nat := 2 ^ Nat.log2 n

/-- Trailing zero count of a position; `fuel` bounds the search. -/
def tzc : Nat → Nat → Nat
  | 0, _ => 0
  | fuel + 1, x => if x % 2 = 1 then 0 else 1 + tzc fuel (x / 2)

/-- up(x) of R231. -/
def treeUp (x : Nat) : Nat :=
  let h := tzc 16 x
  if x >>> (h + 1) % 2 = 1 then x - 2 ^ h else x + 2 ^ h

/-- The first of up(x), up(up(x)), ... that is at most `n`. -/
def treeUpTo (n : Nat) : Nat → Nat → Nat
  | 0, x => x
  | fuel + 1, x => let y := treeUp x; if y ≤ n then y else treeUpTo n fuel y

/-- Parent position. -/
def treeParent (n x : Nat) : Option Nat := if x = treeRoot n then none else some (treeUpTo n 16 x)

/-- Position of participant `i` of `n` in tree A or B, and the participant at a position. -/
def treePos (n : Nat) (b : Bool) (i : Nat) : Nat := if b then (if i = 0 then n else i) else i + 1
def treeAt (n : Nat) (b : Bool) (x : Nat) : Nat := if b then (if x = n then 0 else x) else x - 1

/-- Depth of a position: parent steps to the root. -/
def treeDepth (n : Nat) : Nat → Nat → Nat
  | 0, _ => 0
  | fuel + 1, x => match treeParent n x with | none => 0 | some y => 1 + treeDepth n fuel y

/-! ### Trees over places -/

/-- Index of a place in a list. -/
def placeIx (ps : List Word) (p : Word) : Option Nat := (List.range ps.length).find? (fun i => ps.getD i 0 == p)

/-- Parent of a participant in a tree over `ps`. -/
def parentIn (ps : List Word) (b : Bool) (p : Word) : Option Word :=
  match placeIx ps p with
  | none => none
  | some i => (treeParent ps.length (treePos ps.length b i)).map (fun x => ps.getD (treeAt ps.length b x) 0)

/-- Children of a participant, in ascending place address. -/
def kidsIn (ps : List Word) (b : Bool) (p : Word) : List Word := ps.filter (fun c => parentIn ps b c == some p)

/-- The crown of a tree. -/
def crownIn (ps : List Word) (b : Bool) : Option Word :=
  if ps.isEmpty then none else some (ps.getD (treeAt ps.length b (treeRoot ps.length)) 0)

/-- Depth of a participant. -/
def depthIn (ps : List Word) (b : Bool) (p : Word) : Nat :=
  match placeIx ps p with
  | none => 0
  | some i => treeDepth ps.length 20 (treePos ps.length b i)

/-- Participants of the subtree of `p`, `p` included; `fuel` bounds the depth. -/
def subtreeIn (ps : List Word) (b : Bool) : Nat → Word → List Word
  | 0, p => [p]
  | fuel + 1, p => p :: (kidsIn ps b p).flatMap (subtreeIn ps b fuel)

/-! ### Of a collection -/

/-- Current turn of a collection's tracker (0 before its first marker). -/
def Blk.turnOf (s : Blk) (c : Nat) : Word := (s.tracker (s.coll c).trk).turn

/-- Participants of collection `c` at a site in turn `n`: those of the descriptor, without the excluded ones and without
fenced ones whose effective turn has come (R232, R459). -/
def Coll.partsAt (v : Coll) (site : Nat) (n : Word) : List Word :=
  v.parts.filter (fun p => decide (siteOf p = site) && !v.excl.contains p &&
    !(v.gone.any (fun g => g.1 == p && decide (0 ≤ sdiff n g.2))))

/-- Sites with participants that no start has excluded, ascending (R30, R459). -/
def Coll.sites (v : Coll) : List Nat := (List.range 8).filter (fun i => v.parts.any (fun p => decide (siteOf p = i) && !v.excl.contains p))

/-- The participants at this instance's own site now. -/
def Blk.parts (s : Blk) (c : Nat) : List Word := (s.coll c).partsAt (siteOf s.place) (s.turnOf c)

/-! ### Turn history (R137) -/

/-- Whether the history of collection `c` is kept at this instance: it has a region, a quota, and Fuller engines to write it
(DEDUCED, log 20). -/
def Blk.histOn (s : Blk) (c : Nat) : Bool :=
  s.role != .die && (match s.lic.force with | some l => l.ful | none => false) && decide (fld (s.reg (.rcp .RCP_HIST_SIZE)) 9 0 ≠ 0) && s.reg (.rcp (.RCP_HIST_QUOTA c)) != 0

/-- Keep a part of the history of turn `n` until the turn is written: part 0 is the turn header, part 1 + 4 RID + level a
result. -/
def Blk.histAdd (s : Blk) (c : Nat) (n : Word) (part : Nat) (bs : List (Byte × Bool)) : Blk :=
  let v := s.coll c
  let done : Bool := match v.histTo with | some h => decide (sdiff n h ≤ 0) | none => false
  if !s.histOn c ∨ sdiff n v.start < 0 ∨ done then s else
  s.modRcp (fun r =>
    let old := Store.get [] r.histPend c
    let k := 256 * n.toNat + part
    if (Store.look old k).isSome then r else { r with histPend := Store.put r.histPend c (Store.put old k bs) })

/-! ### Peers of the instance -/

/-- The parent place of an instance, if it has one (R25, R32, R447). -/
def Blk.parentPlace (s : Blk) : Option Word :=
  let v := s.reg (.boot .BOOT_PARENT)
  match s.role with
  | .die => some (trayOf s.place)
  | .tray => match s.boot.primary with
    | some (p, _) => some p
    | none => if v = 0xFFFFFFFF#32 then none else some v
  | .span => none

/-- Role code of the parent. -/
def Blk.parentRole (s : Blk) : Nat := match s.role with | .die => 2 | _ => 3

/-- The partition of a place as this instance knows it: from the tray directory of a span instance, from the heartbeats of a tray,
or, of a member die's tray, its own (R35). -/
def Blk.partOf (s : Blk) (p : Word) : Option Nat :=
  if s.role ≠ .span ∧ trayOf p = trayOf s.place then some s.part else
  match Store.look s.boot.trays p.toNat with
  | some n => some n
  | none => match Store.look s.hlt.peers p.toNat with
    | some v => if v.role = 2 then some v.part else none
    | none => none

/-- Every die, tray or span instance that this instance can name as a peer for a notice: member dies, guard group,
participants of collections, attached trays, span instances of the site, the parent (R406). -/
def Blk.knownPeers (s : Blk) : List (Word × Nat) :=
  let trays := ((List.range 12).map (fun r => s.reg (.hlt (.HLT_GRD_MEM r)))).filter (· ≠ 0) ++
    s.colls.flatMap (fun p => p.2.parts) ++ s.boot.trays.map (fun p => w32 p.1)
  let trays := (trays.foldl (fun l p => insPlace p l) []).filter (fun p => !(s.role == .tray && p == s.place))
  let spans := (s.boot.spans.map (fun p => w32 p.1)).foldl (fun l p => insPlace p l)
    (match s.parentPlace with | some p => if s.role = .tray then [p] else [] | none => [])
  s.boot.members.map (fun p => (p, 1)) ++ trays.map (fun p => (p, 2)) ++
    (spans.filter (fun p => !(s.role == .span && p == s.place))).map (fun p => (p, 3)) ++
    (if s.role = .die then [(trayOf s.place, 2)] else [])

end Sys2Proof.Machine
end

