-- ==== Sys2Proof/Machine/Schedule.lean ====
section
/-!
DEFINITION. The queue scheduler's commands: frames closed and picked, shaping slots, samples, credits, tokens received,
re-keying and skew (R334, R337 to R351), and the firmware cores as far as other units ask whether one is absent.
-/

namespace Sys2Proof.Machine

/-! ### Firmware cores (R412, Table 14-4) -/

def FCore.fresh : FCore :=
  { st := .off, img := 0, prevImg := 0, onPrev := false, tookAt := none, crashes := [], held := [], deadline := [] }

def Blk.fcore (s : Blk) (x : Nat) : FCore := Store.get FCore.fresh s.fwc.cores x
def Blk.setCore (s : Blk) (x : Nat) (v : FCore) : Blk :=
  s.modFwc (fun m => { m with cores := Store.set FCore.fresh m.cores x v })

/-- Whether a core is absent: restarting, handing over or held (Table 14-4). -/
def Blk.coreLost (s : Blk) (x : Nat) : Bool :=
  match (s.fcore x).st with | .restart => true | .held => true | .handover => true | _ => false

/-- Whether the security core is absent. -/
def Blk.secLost (s : Blk) : Bool := s.coreLost 0

/-! ### Clusters and wake requests (R169, R427) -/

def Clu.fresh : Clu :=
  { opp := 0, chosen := 0, nap := false, waking := false, clampAt := none, disabled := false, temp := 0, idleAt := 0 }

def Blk.clu (s : Blk) (k : Nat) : Clu := Store.get Clu.fresh s.pwr.clus k
def Blk.setClu (s : Blk) (k : Nat) (v : Clu) : Blk := s.modPwr (fun m => { m with clus := Store.set Clu.fresh m.clus k v })

/-- Logical clusters of the instance (R436). -/
def Blk.logical (s : Blk) : Nat := match s.conf with | .d => 1 | .a64 => s.lic.logical

/-- Ask the wake arbiter for a cluster that naps (R169, R427). -/
def Blk.wakeReq (s : Blk) (k : Nat) : Blk :=
  let c := s.clu k
  if !c.nap ∨ c.waking ∨ c.disabled then s else
  (s.setClu k { c with waking := true }).modPwr (fun m => { m with wakeQ := insNat (64 * s.tclk + k) m.wakeQ })

/-- A cluster loses a context or a job of its units in this tclk: its idle time begins anew (R427). -/
def Blk.idleNow (s : Blk) (k : Nat) : Blk := s.setClu k { s.clu k with idleAt := s.tclk }

/-! ### Re-keying (R350) -/

/-- Re-key: a new salt is drawn; while the security core is absent the re-key is deferred (Table 14-4). Causes: 0 interval,
1 time, 2 skew, 3 host. -/
def Blk.rekey (s : Blk) (cause : Nat) : Blk :=
  if s.secLost then s.modFwc (fun m => { m with deferRekey := some (m.deferRekey.getD cause) }) else
  let (f, s) := s.draw
  let e := s.reg (.qsc .QSC_SALT_EPOCH) + 1
  let s := s.modQsc (fun m => { m with salt := BitVec.ofNat 64 f, rekeyAt := s.tclk, rekeyBounds := 0 })
  (s.setReg (.qsc .QSC_SALT_EPOCH) e).emit 0xC 0x0D02 e.toNat cause

/-- Step 4 of a boundary of tracker `t`: every QSC_REKEY_INT-th boundary re-keys (R350). -/
def Blk.rekeyBoundary (s : Blk) (t : Nat) : Blk :=
  let r := s.reg (.qsc .QSC_REKEY_INT)
  let n := fld r 15 0
  if n = 0 ∨ fld r 21 16 ≠ t then s else
  let s := s.modQsc (fun m => { m with rekeyBounds := m.rekeyBounds + 1 })
  if n ≤ s.qsc.rekeyBounds then s.rekey 0 else s

/-- A write of 1 to QSC_REKEY_NOW (R350). -/
def Blk.wrRekeyNow (s : Blk) (v : Word) : Blk := if bit v 0 then s.rekey 3 else s

/-! ### Meanings -/

/-- TOKEN_FRAME_CLOSE (R334): QSC_PACK_NS has passed since the first token of the open frame. -/
def execTokenFrameClose (q : Nat) : State → Host.Outcome State Fault Refusal := lift fun s =>
  if s.qEn q ∧ s.qEgress q ∧ !(s.q q).openToks.isEmpty ∧
      s.passed (s.q q).openAt (s.ns (fld (s.reg (.qsc .QSC_PACK_NS)) 15 0)) then s.closeFrame q
  else s

/-- SCHEDULER_PICK (R337, R338). -/
def execSchedulerPick (p : Nat) : State → Host.Outcome State Fault Refusal := lift fun s =>
  if s.conf.pairs ≤ p then s else s.pick p

/-- Bring the active lists of every port up to date at the end of a tclk: the queues and classes that became eligible in it
join the tails together (R339). -/
def Blk.refreshAll (s : Blk) : Blk :=
  (List.range s.conf.pairs).foldl (fun s p => ([0, 1, 2].foldl (fun s c => s.refresh p c) s).refreshClasses p) s

/-- SHAPER_SLOT (R340, R341): queues whose coarse slot begins move to their fine slot; those whose slot has come leave the wheels and
join their lists. -/
def execShaperSlot : State → Host.Outcome State Fault Refusal := lift fun s =>
  (s.qList.foldl Blk.wheelTurn s).refreshAll

/-- Calendar time at which the head entry of a queue was enqueued. -/
def Queue.headAt (v : Queue) : Option Int :=
  match v.toks, v.frames, v.openToks with
  | t :: _, _, _ => some t.at_
  | [], f :: _, _ => some f.at_
  | [], [], t :: _ => some t.at_
  | [], [], [] => none

/-- QUEUE_SAMPLE (R342): 10 µs without a sample of a weighted queue. -/
def execQueueSample (q : Nat) : State → Host.Outcome State Fault Refusal := lift fun s =>
  if s.qEn q ∧ 3 ≤ s.qCls q ∧ s.passed (s.q q).sampAt (s.us 10) then s.qSample q (s.q q).headAt else s

/-- Put a credit frame for a receive context at the head of the class-C1 queue to its peer, behind other credit frames
(R345). Its CLASS names the context (DEDUCED, log 12). -/
def Blk.sendCredit (s : Blk) (x : Flow) : Blk :=
  match s.blockQueue 1 x.peer x.peerRole with
  | (none, s) => s
  | (some q, s) =>
    let f : Frame := { Frame.empty with
      dst := x.peer, src := s.place, drole := x.peerRole, srole := roleCode s.role, cls := x.cls, lh := s.lhTo x.peer,
      ftype := ftCredit, part := s.partTo none x.peer, limit := x.limitNow, lv := true, credits := [.none], at_ := s.cal }
    let (bs, s) := s.bankPut q 1
    (s.modQ q (fun v => { v with
      frames := (v.frames.takeWhile (fun g => g.ftype = ftCredit)) ++ [{ f with banks := bs }] ++
        (v.frames.dropWhile (fun g => g.ftype = ftCredit)) })).qMark q s.cal

/-- CREDIT_ADVERTISE (R345): LIMIT has advanced by at least G / 4 and QSC_CRED_NS has passed, or 100 µs have passed. -/
def execCreditAdvertise (i : Nat) : State → Host.Outcome State Fault Refusal := lift fun s =>
  match Store.look s.qsc.flows i with
  | none => s
  | some x =>
    let far := decide (x.grant ≤ 4 * (x.limitNow - x.advLimit).toNat ∧ 0 ≤ sdiff x.limitNow x.advLimit) &&
      s.passed x.advAt (s.ns (fld (s.reg (.qsc .QSC_CRED_NS)) 15 0))
    if x.recv ∧ (far ∨ s.passed x.advAt (s.us 100)) then
      (s.sendCredit x).modFlow i (fun x => { x with advLimit := x.limitNow, advAt := s.tclk })
    else s

/-- Deliver the tokens of a frame: to the queue of its logical queue, or, in a hashed group, to the member that its source
place hashes to; they wait in the ingress reservation for room and for their order (R333, R345, R349, R350). -/
def Blk.deliver (s : Blk) (t : Taken) : Blk :=
  let f := t.f
  let g := s.groupOf (if f.own then 0xFF else f.coll) f.dq
  let q := g.getD (if g.length ≤ 1 then 0 else Config.placeHash s.qsc.salt.toNat f.src.toNat 0 % g.length) 0
  let toks := tokensOf f 513 0
  if toks.isEmpty then s.frameDone t else
  let (cr, s) := match t.fc with
    | none => (Credit.none, s)
    | some i =>
      let id := (Store.get Flow.fresh s.qsc.flows i).nextId
      (Credit.frame i id, s.modFlow i (fun x => { x with
        frames := Store.put x.frames id (toks.length, f.units), nextId := id + 1 }))
  (s.modQsc (fun m => { m with waitIn := m.waitIn ++ toks.map (fun k => (f.src, q, { k with from_ := cr })) })).releaseWaits

/-- TOKEN_FRAME_RECEIVE (R334, R345, R349). -/
def execTokenFrameReceive (f : RxFrame) : State → Host.Outcome State Fault Refusal := lift fun s =>
  match s.takeFrame f ftToken with
  | (s, none) => s
  | (s, some t) => s.deliver t

/-- REKEY_MAXT (R350): QSC_REKEY_MAXT has passed since the last re-key. -/
def execRekeyMaxt : State → Host.Outcome State Fault Refusal := lift fun s =>
  if s.passed s.qsc.rekeyAt (s.sec (s.reg (.qsc .QSC_REKEY_MAXT)).toNat) ∧ 3 ≤ s.boot.stage then s.rekey 1 else s

/-- The bank with the highest count, the lower number among equals. -/
def topBank (m : Store Nat) : Nat × Nat := m.foldl (fun a p => if a.2 < p.2 then p else a) (0, 0)

/-- SKEW_WINDOW_END (R351): a window of 1 s of calendar time has ended. -/
def execSkewWindowEnd : State → Host.Outcome State Fault Refusal := lift fun s =>
  let w := s.cal / (tkSec : Nat)
  if w ≤ s.qsc.skewWin then s else
  let banks := match s.conf with | .d => 16 | .a64 => 256
  let total := (s.qsc.banks.map Prod.snd).sum
  let (b, n) := topBank s.qsc.banks
  let hot := decide (2 * total < n * banks)
  let s := s.modQsc (fun m => { m with banks := [], skewWin := w, skew := hot })
  if !hot then s else
  let r := 16 * n * banks / total
  let s := s.setReg (.qsc .QSC_SKEW_STAT) (w32 (b % 256 + (r % 65536) <<< 16))
  let s := (s.count (.qsc .QSC_SKEW_CNT) 1).emit 0xC 0x0D01 b r
  if bit (s.reg (.qsc .QSC_CTRL)) 1 then s.rekey 2 else s

end Sys2Proof.Machine
end

