-- ==== Sys2Proof/Machine/Segs.lean ====
section
/-!
DEFINITION. The memories as contexts and jobs address them (R150 to R155, R172): the address map of a context, reads and
writes with the poison of words and lines; launches' jobs and their completion tokens (R171, R207).
-/

namespace Sys2Proof.Machine

/-! ### The address map (Table 5-3) -/

/-- Where `n` bytes from address `a` lie for context `i`: the memory, the offset in it, and the rights; none when they are
unmapped or run past a segment. -/
def Blk.mapAddr (s : Blk) (i : Nat) (x : Ctx) (a n : Nat) : Option (Space × Nat × Bool × Bool) :=
  if a + n ≤ x.dsLen then some (.ds i, a, true, true)
  else
    let k := a / 2 ^ 40
    if k = 0 ∨ 8 < k then none else
    match Store.look (s.coll x.coll).segs (k - 1) with
    | none => none
    | some g =>
      let o := a % 2 ^ 40
      if g.size < o + n then none else
      some ((match g.kind with | .csm => .csm x.cluster | .pool => .pool | .xm => .xm), g.base + o, g.rd, g.wr)

/-- The byte address of a memory of a cluster or context in its store. -/
def Space.base : Space → Nat
  | .ds c => 2 ^ 20 * c
  | .csm k => 2 ^ 24 * k
  | .pool => 0
  | .xm => 0

/-- The memory that holds a space, with its poison by word, that of XM by line. -/
def MemState.sram (m : MemState) : Space → Mem × Store Bool
  | .ds _ => (m.ds, m.dsPoi)
  | .csm _ => (m.csm, m.csmPoi)
  | .pool => (m.pool, m.poolPoi)
  | .xm => (m.xm, m.xmPoi)

def MemState.setSram (m : MemState) (sp : Space) (d : Mem) (p : Store Bool) : MemState :=
  match sp with
  | .ds _ => { m with ds := d, dsPoi := p }
  | .csm _ => { m with csm := d, csmPoi := p }
  | .pool => { m with pool := d, poolPoi := p }
  | .xm => { m with xm := d, xmPoi := p }

/-- Read `n` bytes with the poison of each; poisoned lines of XM are counted for collection `c` (R155, R357). -/
def Blk.spRead (s : Blk) (c : Nat) (sp : Space) (o n : Nat) : List (Byte × Bool) × Blk :=
  match sp with
  | .xm =>
    let (bs, _, s') := s.xmRead c o n
    ((List.range n).map (fun i => (bs.getD i 0, Store.get false s.mem.xmPoi ((o + i) / 64))), s')
  | _ =>
    let (m, p) := s.mem.sram sp
    let a := sp.base + o
    ((List.range n).map (fun i => (Mem.rd m (a + i), Store.get false p ((a + i) / 4))), s)

/-- Units of `k` bytes that `n` bytes from `a` touch. -/
def unitsOf (k a n : Nat) : List Nat := if n = 0 then [] else (List.range ((a + n - 1) / k - a / k + 1)).map (· + a / k)

/-- Put bytes with their poison into a memory (R155, R357): a word or line that takes a poisoned byte is poisoned, one that is
overwritten whole with unpoisoned bytes is clear, another keeps its mark. -/
def Blk.spPut (s : Blk) (sp : Space) (o : Nat) (bs : List (Byte × Bool)) : Blk :=
  let a := sp.base + o
  let n := bs.length
  let k := match sp with | .xm => 64 | _ => 4
  let poiAt := fun (u : Nat) => (List.range k).any (fun j => decide (a ≤ k * u + j) && (bs.getD (k * u + j - a) (0, false)).2)
  let mark := fun (p : Store Bool) (u : Nat) =>
    if poiAt u then Store.set false p u true
    else if a ≤ k * u ∧ k * u + k ≤ a + n then Store.set false p u false else p
  let us := unitsOf k a n
  let s := s.modMem (fun m => m.setSram sp (Mem.wrN (m.sram sp).1 a (bs.map Prod.fst)) (us.foldl mark (m.sram sp).2))
  if sp = .xm then s.count (.err .ERR_XM_POI_OUT) (us.filter poiAt).length else s

/-! ### What an observer sees (R153) -/

/-- What is left of a store that `n` bytes at `a` of a memory overwrite: the pieces before and after them. -/
def SeenStore.cut (e : SeenStore) (sp : Space) (a n : Nat) : List SeenStore :=
  if e.sp ≠ sp then [e] else
  let l := { e with data := e.data.take (a - e.addr) }
  let r := { e with addr := e.addr + (a + n - e.addr), data := e.data.drop (a + n - e.addr) }
  [l, r].filter (fun p => !p.data.isEmpty)

/-- Write bytes with their poison for every observer: stores that only some see lie beneath. -/
def Blk.spWrite (s : Blk) (sp : Space) (o : Nat) (bs : List (Byte × Bool)) : Blk :=
  (s.spPut sp o bs).modMem (fun m => { m with seen := m.seen.flatMap (fun e => e.cut sp o bs.length) })

/-- The memories as observer `o` sees them. -/
def Blk.seenBy (s : Blk) (o : Nat) : Blk :=
  s.modMem (fun _ => (s.mem.seen.foldl (fun (s : Blk) e => if e.seen.contains o then s.spPut e.sp e.addr e.data else s) s).mem)

/-- The stores chosen by `p` become visible to every observer, in their order; each overwrites the older ones. -/
def Blk.seenAll (s : Blk) (p : SeenStore → Bool) : Blk :=
  let r := s.mem.seen.foldl (fun (a : Blk × List SeenStore) e =>
    if p e then (a.1.spPut e.sp e.addr e.data, a.2.flatMap (fun x => x.cut e.sp e.addr e.data.length)) else (a.1, a.2 ++ [e])) (s, [])
  r.1.modMem (fun m => { m with seen := r.2 })

/-- Observer `o` has taken what context `k` sent it: it sees the stores of that context numbered below `n`. -/
def Blk.seeStores (s : Blk) (o k n : Nat) : Blk :=
  s.modMem (fun m => { m with seen := m.seen.map (fun e =>
    if e.ctx = k ∧ e.n < n ∧ !e.seen.contains o then { e with seen := o :: e.seen } else e) })

/-! ### Words -/

/-- Bytes with poison, as words. -/
def wordsOf (bs : List (Byte × Bool)) : List (Word × Bool) :=
  (List.range (bs.length / 4)).map (fun i =>
    let w := (bs.drop (4 * i)).take 4
    (w32 (leNat (w.map Prod.fst)), w.any Prod.snd))

/-- Words with poison, as bytes. -/
def bytesOf (ws : List (Word × Bool)) : List (Byte × Bool) := ws.flatMap (fun w => (leBytes 4 w.1.toNat).map (fun b => (b, w.2)))

/-! ### Job memory (R172) -/

/-- Unit codes of completion tokens (Table 5-6): tree 1, sketch 2, Fuller 3. -/
def JobOp.unit : JobOp → Nat
  | .tscore => 1
  | .pack => 3
  | .unpack => 3
  | _ => 2

/-- The unit that runs a job as an observer of stores (R153): the tree or sketch unit of a cluster, or the Fuller engines. -/
def Job.observer (j : Job) : Nat := 2 ^ 32 + j.op.unit + (if j.op.unit = 3 then 0 else 4 * j.cluster)

/-- Why a job is refused: PRIV 0x6 (memory outside the segments) or 0x2 (a missing right), and the address. -/
structure JobFault where
  sub  : Nat
  addr : Nat
  deriving DecidableEq, Repr

/-- Check that a job may read, or write, `n` bytes from `a`. -/
def Blk.jobCheck (s : Blk) (j : Job) (a n : Nat) (write : Bool) : Except JobFault (Space × Nat) :=
  if n = 0 then .ok (.pool, 0) else
  match Store.look s.ctxs j.ctx with
  | none => .error ⟨6, a⟩
  | some x =>
    match s.mapAddr j.ctx x a n with
    | none => .error ⟨6, a⟩
    | some (sp, o, r, w) => if (if write then w else r) then .ok (sp, o) else .error ⟨2, a⟩

/-- Read bytes of a memory for a job, as its unit sees them. -/
def Blk.unitRead (s : Blk) (j : Job) (p : Space × Nat) (n : Nat) : List (Byte × Bool) × Blk :=
  let r := (s.seenBy j.observer).spRead j.coll p.1 p.2 n
  (r.1, r.2.modMem (fun _ => s.mem))

/-- Look at `n` words without counting poisoned lines: what a job reads as control to find the extent of its memory. -/
def Blk.jobPeek (s : Blk) (j : Job) (a n : Nat) : Except JobFault (List (Word × Bool)) :=
  (s.jobCheck j a (4 * n) false).map (fun p => wordsOf (s.unitRead j p (4 * n)).1)

/-- Read `n` words for a job. -/
def Blk.jobRead (s : Blk) (j : Job) (a n : Nat) : Except JobFault (List (Word × Bool) × Blk) :=
  (s.jobCheck j a (4 * n) false).map (fun p => let r := s.unitRead j p (4 * n); (wordsOf r.1, r.2))

/-- Write words for a job. -/
def Blk.jobWrite (s : Blk) (j : Job) (a : Nat) (ws : List (Word × Bool)) : Except JobFault Blk :=
  (s.jobCheck j a (4 * ws.length) true).map (fun p => s.spWrite p.1 p.2 (bytesOf ws))

/-- Words that a job may still read from `a` on, at most `n`. -/
def Blk.jobRoom (s : Blk) (j : Job) (a : Nat) : Nat → Nat
  | 0 => 0
  | n + 1 => match s.jobCheck j a (4 * (n + 1)) false with | .ok _ => n + 1 | .error _ => Blk.jobRoom s j a n

/-! ### Completion (R171, R207) -/

/-- A field of a job's descriptor: bytes [lo, lo + n). -/
def Job.field (j : Job) (lo n : Nat) : Nat := leAt (wordsBytes j.desc) lo n

/-- Put a token into a queue, or let it wait for room there, behind what already waits (R299, R266). -/
def Blk.enqOrWait (s : Blk) (q : Nat) (t : Token) : Blk :=
  (s.modQsc (fun m => { m with waitIn := m.waitIn ++ [(s.place, q, t)] })).releaseWaits

/-- A job ends: its launch credit returns and its completion token is enqueued on its slot's queue, with the credit that the
launch took (R171, R207). -/
def Blk.complete (s : Blk) (j : Job) (status : Nat) (words : List Word) (pch : BitVec 8) : Blk :=
  match Store.look s.ctxs j.ctx with
  | none => s
  | some x =>
    let x := match j.op.unit with
      | 1 => { x with usedTree := x.usedTree - 1 }
      | 2 => { x with usedSketch := x.usedSketch - 1 }
      | _ => { x with usedFuller := x.usedFuller - 1 }
    let s := s.modCtxs (fun m => Store.put m j.ctx x)
    match j.slot with
    | none => s
    | some k =>
      match Store.look x.slots k with
      | none => s
      | some sl =>
        s.enqTok sl.q (Token.mk' 3 (w32 (j.op.unit <<< 24 + status <<< 16 + j.tag.toNat) :: words) pch false (.slot j.ctx k))

end Sys2Proof.Machine
end

