-- ==== Sys2Proof/Machine/Fuller.lean ====
section
/-!
DEFINITION. The Fuller engines (R320 to R331): jobs, their checks and statuses, stops and resumed streams, and the engines that
run them.
-/

namespace Sys2Proof.Machine

def FulEngine.idle : FulEngine := { job := none, since := 0, ord := 0, clash := false }
def FulStream.none : FulStream :=
  { pack := false, defl := false, input := [], held := 0, heldN := 0, form := packHead, outN := 0, poiAt := .none, ended := false,
    mark := 0 }

def Blk.fulEngine (s : Blk) (e : Nat) : FulEngine := Store.get FulEngine.idle s.ful.engines e
def Blk.setEngine (s : Blk) (e : Nat) (v : FulEngine) : Blk :=
  s.modFul (fun m => { m with engines := Store.set FulEngine.idle m.engines e v })

/-- Whether the Fuller engines are there (R7, R42). -/
def Blk.hasFuller (s : Blk) : Bool := s.conf == .a64 && (match s.lic.force with | some l => l.ful | none => false)

/-! ### The descriptor (Table 10-2) -/

/-- A Fuller job as its descriptor says. -/
structure FulDesc where
  pack   : Bool
  inA    : Nat
  outA   : Nat
  inLen  : Nat
  outLen : Nat
  final  : Bool
  resume : Bool
  defl   : Bool
  state  : Nat
  res    : Bool
  deriving DecidableEq, Repr

def Job.ful (j : Job) : FulDesc :=
  let f := j.field 24 8
  { pack := j.op == .pack, inA := j.field 0 8, outA := j.field 8 8, inLen := j.field 16 4, outLen := j.field 20 4,
    final := f % 2 = 1, resume := f / 2 % 2 = 1, defl := f / 4 % 2 = 1, state := f / 4096 * 4096,
    res := decide (f / 8 % 512 ≠ 0) }

/-- Size of a state area. -/
def stateSize : Nat := 2 ^ 20

/-- A physical byte address over every memory. -/
def physOf (p : Space × Nat) : Nat :=
  match p.1 with
  | .xm => p.2
  | .pool => 2 ^ 60 + p.2
  | .csm k => 2 ^ 61 + p.1.base + p.2 + 0 * k
  | .ds c => 2 ^ 62 + p.1.base + p.2 + 0 * c

/-- Whether two stretches of physical memory overlap. -/
def overlaps (a n b m : Nat) : Bool := decide (0 < n ∧ 0 < m ∧ a < b + m ∧ b < a + n)

/-- The state area of a job in physical memory. -/
def Blk.statePhys (s : Blk) (j : Job) : Option Nat :=
  if j.ful.state = 0 then none else
  match s.jobCheck j j.ful.state stateSize true with | .ok p => some (physOf p) | .error _ => none

/-! ### What a job makes of its stream (R325 to R328) -/

/-- What a job ends with. -/
structure FulEnd where
  status : Nat
  errBit : Nat
  /-- Whole bytes of the stream taken, bits held of the next. -/
  taken  : Nat
  held   : Nat
  heldN  : Nat
  /-- Output bytes of this job with their poison. -/
  out    : List (Byte × Bool)
  /-- Uncompressed bytes so far, for the CRC. -/
  plain  : List Byte
  poiAt  : Option Nat
  form   : FulForm
  deriving DecidableEq, Repr

/-- UNPACK: the stream's input is `inp`, of which `old` whole bytes and `heldN` bits were taken before; `seen` is the poisoned byte
that earlier jobs took, `poi` the first poisoned byte of this job's input. A byte whose bits an item or a faulty field has used is
used, though it is not yet taken whole (R325, R328). -/
def unpackRun (d : FulDesc) (inp : List Byte) (n old outN : Nat) (seen poi : Option Nat) : FulEnd :=
  let (r, e) := decodeStream (!d.defl) inp n
  let room := outN + d.outLen
  let all := r.out.reverse
  let items := r.items.reverse
  let bad := fun (b : Nat) => match poi with | some x => decide (8 * x < b) | none => false
  let firstBad := if seen.isSome then 0 else ((items.find? (fun p => bad p.1)).map (fun p =>
    ((items.takeWhile (fun q => q ≠ p)).getLast?.map Prod.snd).getD 0)).getD all.length
  let cut := fun (k : Nat) => (List.range (min k room - outN)).map (fun i =>
    (all.getD (outN + i) 0, decide (firstBad ≤ outN + i)))
  let used := fun (b : Nat) => if seen.isSome then seen else if bad b then poi else none
  let fin := fun (st eb t k b : Nat) =>
    (⟨st, eb, max old t, 0, 0, cut k, all.take (min k room), used b, packHead⟩ : FulEnd)
  match items.find? (fun p => decide (room < p.2)) with
  | some (b, k) =>
    { fin 1 0 (b / 8) k b with held := leNat (inp.drop (b / 8) |>.take 1) % 2 ^ (b % 8), heldN := b % 8 }
  | none =>
    match e with
    | .fin b => fin 0 0 ((b + 7) / 8) all.length b
    | .err st eb => fin st eb (r.pos / 8) all.length (max r.pos (eb + 1))
    | .need => if d.final then fin 0x14 n (n / 8) all.length n else fin 2 0 (n / 8) all.length n

/-- PACK (R325): the blocks whose writing has begun are held in the state with the input that they code. -/
def packRun (d : FulDesc) (data : List Byte) (old outN : Nat) (f : FulForm) (seen poi : Option Nat) : FulEnd :=
  let p := packFelt data d.final f
  let avail := p.bits.n / 8
  let room := outN + d.outLen
  let bytes := leBytes avail p.bits.v
  let firstBad := if seen.isSome then 0 else match poi with
    | none => avail
    | some x => ((p.blocks.find? (fun b => decide (x < b.2))).map (fun b => b.1 / 8)).getD avail
  let out := (List.range (min avail room - outN)).map (fun i => (bytes.getD (outN + i) 0, decide (firstBad ≤ outN + i)))
  let took := fun (t : Nat) => match seen, poi with
    | some x, _ => some x
    | none, some x => if x < t then some x else none
    | none, none => none
  let fin := fun (st t : Nat) (f : FulForm) =>
    (⟨st, 0, max old t, 0, 0, out, data.take (max old t), took (max old t), f⟩ : FulEnd)
  let whole : FulForm := { n := p.bits.n, v := p.bits.v, at_ := p.at_, closed := p.closed }
  if room < avail then
    match p.blocks.find? (fun b => decide (room ≤ b.1 / 8)) with
    | none => fin 1 p.at_ whole
    | some b =>
      let e := (((p.blocks.takeWhile (fun q => q ≠ b)).getLast?).map Prod.snd).getD f.at_
      fin 1 e { n := b.1, v := p.bits.v % 2 ^ b.1, at_ := e, closed := false }
  else fin (if p.closed then 0 else 2) (if f.closed then old else data.length) whole

/-- What the state area of a job holds: the stream whose stored state is the content of the area. -/
def Blk.areaOf (s : Blk) (j : Job) : Option FulStream :=
  if j.ful.state = 0 then none else
  match s.jobCheck j j.ful.state stateSize false with
  | .error _ => none
  | .ok p =>
    let mark := leNat ((s.unitRead j p stateSize).1.map Prod.fst)
    s.mem.areas.find? (fun v => v.mark == mark)

/-- Check a job (R172, R322, R323): its input and output memory, its state area; or the status that it ends with; or the fault. -/
def Blk.fulCheck (s : Blk) (e : Nat) (j : Job) : Except JobFault (Option Nat) := do
  let d := j.ful
  let pi ← s.jobCheck j d.inA d.inLen false
  let po ← s.jobCheck j d.outA d.outLen true
  let st := d.state
  let ps ← (if st = 0 then .ok (.pool, 0) else s.jobCheck j st stateSize true)
  let _ ← (if st = 0 then .ok (.pool, 0) else s.jobCheck j st stateSize false)
  let sn := if st = 0 then 0 else stateSize
  let i := physOf pi
  let o := physOf po
  let a := physOf ps
  if d.res || (d.defl && d.pack) || (d.resume && st == 0) || (!d.final && st == 0) || overlaps i d.inLen o d.outLen ||
      overlaps i d.inLen a sn || overlaps o d.outLen a sn then return some 8
  if !d.resume then return none
  match s.areaOf j with
  | none => return some 9
  | some v =>
    let v' := s.seenBy j.observer
    let (_, p) := v'.mem.sram ps.1
    let poi : Bool := match ps.1 with
      | .xm => v'.mem.xmPoi.any (fun q => decide (a / 64 ≤ q.1 ∧ q.1 < (a + stateSize) / 64) && q.2)
      | sp => p.any (fun q => decide ((sp.base + ps.2) / 4 ≤ q.1 ∧ q.1 < (sp.base + ps.2 + stateSize) / 4) && q.2)
    if v.pack ≠ d.pack ∨ v.defl ≠ d.defl ∨ v.ended ∨ poi ∨ (s.fulEngine e).clash then return some 9
    return none

/-- Store the state of a stopped stream in its area (R323). Its layout is the block's own: the content of the whole area is a free
value, by which a later job knows the state again (log 18). -/
def Blk.fulSave (s : Blk) (j : Job) (d : FulDesc) (v : FulStream) : Blk :=
  match s.jobCheck j d.state stateSize true with
  | .error _ => s
  | .ok p =>
    let (f, s) := s.draw
    let mark := f % 2 ^ (8 * stateSize)
    let s := s.spWrite p.1 p.2 ((leBytes stateSize mark).map (fun b => (b, false)))
    s.modMem (fun m => { m with areas := { v with mark := mark } :: m.areas.filter (fun q => q.mark != mark) })

/-- A stream has ended: the state that its area holds is marked (R323). -/
def Blk.fulEnded (s : Blk) (j : Job) : Blk :=
  match s.areaOf j with
  | none => s
  | some v => s.modMem (fun m => { m with
      areas := m.areas.map (fun q => if q.mark = v.mark then { q with ended := true } else q) })

/-- Counters and the last error of a job that ends on engine `e`, and its events (R330, Table 10-6). -/
def Blk.fulCount (s : Blk) (e coll : Nat) (x : FulEnd) (inN : Nat) : Blk :=
  let s := (s.count (.ful .FUL_JOB_CNT) 1).count (.ful (.FUL_Ee_JOBS e)) 1
  let s := if x.status = 1 ∨ x.status = 2 then s.count (.ful .FUL_STOP_CNT) 1 else s
  let s := if x.poiAt.isSome then s.count (.ful .FUL_POI_CNT) 1 else s
  let s := s.modFul (fun m => { m with inB := m.inB + inN, outB := m.outB + x.out.length })
  if x.status < 8 then s else
  let s := (s.count (.ful .FUL_ERR_CNT) 1).setReg (.ful (.FUL_Ee_LERR e)) (w32 (x.status + coll <<< 16))
  (s.setReg2 (.ful (.FUL_Ee_LBIT_HI e)) (.ful (.FUL_Ee_LBIT_LO e)) x.errBit).emit 0xB 0x0C01 (x.status + coll <<< 8) x.errBit

/-- Run the job of engine `e` to its end (R321 to R328): the words of its token, or the fault that its context takes. -/
def Blk.fulRun (s : Blk) (e : Nat) (j : Job) : Except JobFault (Nat × List Word × Blk) :=
  match s.fulCheck e j with
  | .error f => .error f
  | .ok chk =>
    let d := j.ful
    let flags := fun (x : FulEnd) => w32 (b2n x.poiAt.isSome + 2 * b2n d.defl + 4 * b2n d.pack + 16 * e)
    match chk with
    | some st =>
      let x : FulEnd := { status := st, errBit := 0, taken := 0, held := 0, heldN := 0, out := [], plain := [], poiAt := none,
                          form := packHead }
      .ok (st, [0, 0, 0, 0, 0, 0, 0, 0, 0, flags x], s.fulCount e j.coll x 0)
    | none =>
      match s.jobCheck j d.inA d.inLen false, s.jobCheck j d.outA d.outLen true with
      | .ok pi, .ok po =>
        let v := if d.resume then (s.areaOf j).getD .none else { FulStream.none with pack := d.pack, defl := d.defl }
        let (bs, s) := s.unitRead j pi d.inLen
        let old := v.input.length
        let now := bs.map Prod.fst
        let new := match now with
          | b :: t => BitVec.ofNat 8 (b.toNat / 2 ^ v.heldN * 2 ^ v.heldN + v.held) :: t
          | [] => if v.heldN = 0 then [] else [BitVec.ofNat 8 v.held]
        let inp := v.input ++ new
        let n := 8 * old + (if now.isEmpty then v.heldN else 8 * now.length)
        let poi := (bs.findIdx? Prod.snd).map (· + old)
        let x := if d.pack then packRun d inp old v.outN v.form v.poiAt poi else unpackRun d inp n old v.outN v.poiAt poi
        let s := s.spWrite po.1 po.2 x.out
        let outT := v.outN + x.out.length
        let s := if x.status = 1 ∨ x.status = 2 then
            s.fulSave j d { v with
              input := inp.take x.taken, held := x.held, heldN := x.heldN, form := x.form, outN := outT, poiAt := x.poiAt }
          else s.fulEnded j
        let s := match v.poiAt, x.poiAt with
          | none, some k => s.emit 0xB 0x0C02 (j.coll <<< 8) k
          | _, _ => s
        let inN := x.taken - old
        let crc := crc32c (if d.pack then inp.take x.taken else x.plain)
        .ok (x.status, [w32 inN, w32 x.out.length, loOf x.taken, hiOf x.taken, loOf outT, hiOf outT, loOf x.errBit,
          hiOf x.errBit, crc, flags x], s.fulCount e j.coll x inN)
      | _, _ => .ok (8, [0, 0, 0, 0, 0, 0, 0, 0, 0, 0], s)

/-- The engine is free again. -/
def Blk.engineFree (s : Blk) (e : Nat) (v : FulEngine) : Blk :=
  (s.setEngine e .idle).count (.ful (.FUL_Ee_BUSYT e)) (s.tclk - v.since)

/-- The job of engine `e` ends, in the launch order of its context (R171, R210): its token, or the fault that its context takes. -/
def Blk.fulJobEnd (s : Blk) (e : Nat) : Option (Job × JobFault) × Blk :=
  let v := s.fulEngine e
  match v.job with
  | none => (none, s)
  | some j =>
    let earlier := s.ful.engines.any (fun p => decide (p.2.ord < v.ord) && (match p.2.job with
      | some k => decide (k.ctx = j.ctx) && k.hist.isNone
      | none => false))
    if earlier then (none, s) else
    if j.dead then (none, ((s.engineFree e v).count (.ful .FUL_JOB_CNT) 1).count (.ful (.FUL_Ee_JOBS e)) 1) else
    match s.fulRun e j with
    | .error f => (some (j, f), s.engineFree e v)
    | .ok (st, ws, s) => (none, (s.engineFree e v).complete j st ws 0)

/-- Engines that the history writer holds. -/
def Blk.histHeld (s : Blk) : Nat :=
  (s.ful.engines.filter (fun p => match p.2.job with | some j => j.hist.isSome | none => false)).length

/-- The first waiting job that may start: while the history writer holds HIST_MAX engines, program jobs pass its next one. -/
def Blk.fulNext (s : Blk) : Option Nat :=
  s.ful.queue.findIdx? (fun j => j.hist.isNone || decide (s.histHeld < fld (s.reg (.ful .FUL_CTRL)) 11 8))

/-- Whether a running job uses a state area that overlaps that of `j`. -/
def Blk.areaClash (s : Blk) (j : Job) : Bool :=
  match s.statePhys j with
  | none => false
  | some a => s.ful.engines.any (fun p => match p.2.job with
    | some k => (match s.statePhys k with | some b => overlaps a stateSize b stateSize | none => false)
    | none => false)

/-- FULLER_JOB_START (R329): the first waiting job that may start takes the lowest free engine while FUL_CTRL.EN is 1. -/
def execFullerJobStart : State → Host.Outcome State Fault Refusal := lift fun s =>
  match s.fulNext, (List.range 8).find? (fun e => (s.fulEngine e).job.isNone) with
  | some i, some e =>
    (match s.ful.queue[i]? with
    | some j =>
      if !s.hasFuller ∨ !bit (s.reg (.ful .FUL_CTRL)) 0 then s else
      (s.modFul (fun m => { m with queue := m.queue.eraseIdx i, starts := m.starts + 1 })).setEngine e
        { job := some j, since := s.tclk, ord := s.ful.starts, clash := s.areaClash j }
    | none => s)
  | _, _ => s

end Sys2Proof.Machine
end

