-- ==== Sys2Proof/Machine/Time.lean ====
section
/-!
DEFINITION. The time unit (R43 to R66, R77 to R80): rate and servo, holdover, steps, leap seconds, PPS, stamps, triggers
and strobes.
-/

namespace Sys2Proof.Machine

/-! ### Rate, lock, holdover (R44, R45, R57, R59, R62, R63) -/

/-- TIM_CTRL.SERVO_EN, SRC and PPS_OUT. -/
def Blk.timCtl (s : Blk) (i : Nat) : Bool := bit (s.reg (.tim .TIM_CTRL)) i

/-- The nominal rate: 8 integer bits, 32 fraction bits. -/
def Blk.rateNom (s : Blk) : Nat := fld (s.reg (.tim .TIM_RATE_NOM_HI)) 7 0 * 2 ^ 32 + (s.reg (.tim .TIM_RATE_NOM_LO)).toNat

/-- Change RATE without a jump of T64: OFFSET takes up f (r − r′) (R45). -/
def TimeState.setRate (t : TimeState) (r : Int) : TimeState :=
  let r' := BitVec.ofInt 40 r
  { t with
    rate := r'
    offset := t.offset + BitVec.ofInt 96 ((t.frc.toNat : Int) * ((t.rate.toNat : Int) - (r'.toNat : Int))) }

/-- RATE of the nominal rate and the correction y in force (R57). -/
def Blk.applyRate (s : Blk) : Blk :=
  let nom : Int := s.rateNom
  s.modTime (fun t => t.setRate (nom + nom * t.servoY / 2 ^ 40))

/-- The servo loses lock for a cause (1 threshold, 2 refused measurement, 3 holdover, 4 step) (R59). The count of consecutive good
measurements starts anew at each cause, in lock or not: the rule leaves this open (DESIGN CHOICE, log 48). No measurement decides
causes 3 and 4: the second argument of their event is a free value (log 1). -/
def Blk.loseLock (s : Blk) (cause : Nat) : Blk :=
  let s' := s.modTime (fun t => { t with lock := false, within := 0, above := 0 })
  if !s.time.lock then s' else
  if cause ≤ 2 then s'.emit 1 0x0106 (cause <<< 1) s.time.lastE else
  let (n, s') := s'.draw
  s'.emit 1 0x0106 (cause <<< 1) (n % 2 ^ 48)

/-- Age of the present holdover in ms, saturating (R62). -/
def Blk.holdAge (s : Blk) : Nat := min ((s.tclk - s.time.holdFrom) / s.ms 1) 0xFFFFFFFF

/-- Enter holdover (R62): y becomes the integral term; causes 1 timeout, 2 HOLD_ENTER, 3 tref lost. -/
def Blk.enterHold (s : Blk) (cause : Nat) : Blk :=
  if s.time.hold then s else
  let s := s.loseLock 3
  let s := s.modTime (fun t => { t with hold := true, servoY := t.servoI,
                                        holdFrom := if t.measSeen then t.measAt else s.tclk })
  s.applyRate.emit 1 0x0105 (1 + cause <<< 1) 0

/-- Leave holdover at lock (R63). -/
def Blk.exitHold (s : Blk) : Blk :=
  if !s.time.hold then s else
  let age := s.holdAge
  let s := s.setReg (.tim .TIM_HOLD_LAST) (w32 age)
  (s.modTime (fun t => { t with hold := false })).emit 1 0x0105 0 age

/-- Lock counting after an accepted measurement of magnitude `a` (R59). -/
def Blk.lockCount (s : Blk) (a : Nat) : Blk :=
  let good := decide (a ≤ (s.reg (.tim .TIM_LOCK_THR)).toNat)
  let s := s.modTime (fun t => { t with within := if good then t.within + 1 else 0, above := if good then 0 else t.above + 1 })
  if !s.time.lock ∧ 8 ≤ s.time.within then
    let s := (s.modTime (fun t => { t with lock := true })).modBoot (fun b => { b with lockSeen := true })
    (s.emit 1 0x0106 1 s.time.lastE).exitHold
  else if s.time.lock ∧ 4 ≤ s.time.above then s.loseLock 1
  else s

/-- The bound of y and i: 200 ppm of 2^40 (R57). -/
def ymax : Int := 219902325

def clampY (x : Int) : Int := max (-ymax) (min x ymax)

/-- One measurement of offset `e` (R56 to R59). -/
def Blk.measure (s : Blk) (e : Int) : Blk :=
  if !s.timCtl 0 then s else
  let a := e.natAbs
  let s := s.modTime (fun t => { t with lastE := min a (2 ^ 48 - 1) })
  let thr := (s.reg (.tim .TIM_STEP_THR)).toNat
  if thr < a then
    let s := (s.modTime (fun t => { t with bigofs := true })).emit 1 0x0102 (BitVec.ofInt 64 e).toNat thr
    s.loseLock 2
  else
    let g := s.reg (.tim .TIM_SERVO_GAIN)
    let kp : Int := fld g 15 0
    let ki : Int := fld g 31 16
    let p := -(e * kp / 256)
    let i := clampY (s.time.servoI - e * ki / 256)
    let s := s.modTime (fun t => { t with bigofs := false, servoI := i, servoY := clampY (p + i), measAt := s.tclk,
                                          measSeen := true })
    s.applyRate.lockCount a

/-- tref is lost: the FRC runs from tclk and holdover begins (R46). -/
def Blk.loseTref (s : Blk) : Blk :=
  if s.time.trefLost then s else
  ((s.modTime (fun t => { t with trefLost := true })).emit 1 0x0101 1 (s.time.frc.toNat % 2 ^ 48)).enterHold 3

/-! ### Triggers and strobes (R77 to R80) -/

/-- Drive a strobe: it is high for its width from this firing (R80). -/
def Blk.strobe (s : Blk) (n : Nat) : Blk :=
  let w := fld (s.reg (.tim (if n = 0 then .TIM_STRB_W0 else .TIM_STRB_W1))) 15 0
  if w = 0 then s
  else s.modTime (fun t => if n = 0 then { t with strobe0 := some (s.tclk + w) } else { t with strobe1 := some (s.tclk + w) })

/-- Post a token of the block to an assigned queue that has room; the answer tells whether it was posted. -/
def Blk.postTok (s : Blk) (q : Nat) (t : Token) : Bool × Blk :=
  if s.qEn q && s.qRoom q t.units then (true, s.enqTok q t) else (false, s)

/-- The payload of a trigger token (Table 5-7). -/
def Blk.trigWords (s : Blk) (trk slot : Nat) (steplate early : Bool) (turn : Word) : List Word :=
  [w32 (trk <<< 16 + slot <<< 8 + 2 * b2n steplate + b2n early), loOf s.t64.toNat, hiOf s.t64.toNat, turn]

/-- Period of a time trigger in tk. -/
def Blk.ttPer (s : Blk) (n : Nat) : Nat :=
  fld (s.reg (.tim (.TIM_TTn_PER_HI n))) 15 0 * 2 ^ 32 + (s.reg (.tim (.TIM_TTn_PER_LO n))).toNat

/-- Whether time trigger `n` is armed and its time has come. -/
def Blk.ttDue (s : Blk) (n : Nat) : Bool :=
  bit (s.reg (.tim (.TIM_TTn_CTRL n))) 31 && decide ((Store.get 0 s.time.ttNext n).toNat ≤ s.t64.toNat)

/-! ### Steps (R61) -/

/-- STEPPED clears once every tracker that was in a turn at the step has passed a boundary or been disabled; with none, at
the next boundary of any tracker (R61). -/
def Blk.stepPassed (s : Blk) (t : Nat) (boundary : Bool) : Blk :=
  if !s.time.stepped then s else
  s.modTime (fun m =>
    if m.steppedAny then { m with stepped := !boundary }
    else
      let w := m.stepWait.filter (· ≠ t)
      { m with stepWait := w, stepped := !w.isEmpty })

/-! ### Stamps (R52, R53) -/

/-- Stamp ports of the configuration (Table 2-1). -/
def Blk.stampPort (s : Blk) (p : Nat) : Bool :=
  match s.conf with | .d => decide (p < 8 ∨ p = 60 ∨ p = 62) | .a64 => decide (p < 63)

/-- Stamps that the FIFO holds. -/
def Blk.stampMax (s : Blk) : Nat := match s.conf with | .d => 64 | .a64 => 256

/-- The corrected stamp of a capture at T64 with a fine phase. -/
def Blk.corrected (s : Blk) (p : Nat) (egr : Bool) (fine : Nat) : Dword :=
  let c := s.reg (.tim (if egr then .TIM_PC_EG p else .TIM_PC_IN p))
  BitVec.ofInt 64 ((s.t64.toNat : Int) + (fine : Int) + c.toInt)

/-- Capture a stamp into the FIFO. -/
def Blk.stampIn (s : Blk) (p : Nat) (egr : Bool) (fine : Nat) (tag : BitVec 16) : Blk :=
  if !s.stampPort p then s.modTime (fun t => { t with tsfBad := min (t.tsfBad + 1) 255 })
  else if s.time.fifo.length < s.stampMax then
    s.modTime (fun t => { t with fifo := t.fifo ++ [⟨p, egr, tag, s.corrected p egr fine⟩] })
  else
    let s := s.modTime (fun t => { t with tsfDrop := min (t.tsfDrop + 1) 255 })
    let due := match s.time.tsfEvAt with | some a => s.passed a (s.ms 1) | none => true
    if due then (s.modTime (fun t => { t with tsfEvAt := some s.tclk })).emit 1 0x0107 p s.time.tsfDrop else s

/-- The offset that a port-62 stamp gives: the stamp minus the nearest whole second, half a second being positive (R56). -/
def ppsOffset (t : Dword) : Int :=
  let r : Int := (t.toNat % tkSec : Nat)
  if 2 * r ≤ (tkSec : Nat) then r else r - (tkSec : Nat)

/-! ### Leap seconds (R50) -/

/-- Check TIM_LEAP_AT: a value that is no multiple of a second sets ERR, another clears it. -/
def Blk.leapCheck (s : Blk) : Blk :=
  let bad := decide (s.time.leapAt.toNat % tkSec ≠ 0)
  let s := s.modTime (fun t => { t with leapErr := bad })
  if bad then
    s.emit 1 0x0104 s.time.leapAt.toNat (fld (s.reg (.tim .TIM_LEAP_CTRL)) 1 0 + b2n s.time.leapDone <<< 8 + 1 <<< 9)
  else s

/-! ### Writes of the time unit -/

/-- TIM_SERVO_OFS_LO posts a measurement of firmware (R56). -/
def Blk.wrServoOfs (s : Blk) (v : Word) : Blk :=
  let s := s.setReg (.tim .TIM_SERVO_OFS_LO) v
  if s.timCtl 1 then s
  else s.measure (BitVec.ofNat 64 (hiLo (s.reg (.tim .TIM_SERVO_OFS_HI)) v)).toInt

/-- TIM_RATE_NOM_HI and TIM_RATE_NOM_LO (R57). -/
def Blk.wrRateNom (s : Blk) (hi : Bool) (v : Word) : Blk :=
  if hi then (s.setReg (.tim .TIM_RATE_NOM_HI) (v &&& 0xFF)).applyRate else (s.setReg (.tim .TIM_RATE_NOM_LO) v).applyRate

/-- Whether T64 reached a whole second in this tclk: one count of FRC earlier it stood in another second. -/
def Blk.secondNow (s : Blk) : Bool :=
  let t := s.t64.toNat
  decide (t % tkSec * 2 ^ 32 < s.time.rate.toNat + 2 ^ 32)

/-- TIM_CTRL (R51, R56, R62): a rise of SERVO_EN starts the holdover timeout anew; PPS_OUT at 0 stops the
pulse, and set within a second it waits for the next multiple. -/
def Blk.wrTimCtrl (s : Blk) (v : Word) : Blk :=
  let was := s.timCtl 0
  let on := s.timCtl 2
  let s := s.setReg (.tim .TIM_CTRL) (v &&& 7)
  let s := if !was ∧ bit v 0 then s.modTime (fun t => { t with measAt := s.tclk, measSeen := false }) else s
  let s := if !bit v 2 then s.modTime (fun t => { t with ppsFall := none })
    else if !on ∧ !s.secondNow then s.modTime (fun t => { t with ppsSec := some (s.t64.toNat / tkSec) })
    else s
  if bit v 3 then s.enterHold 2 else s

/-- TIM_LEAP_AT_LO applies the staged instant (R50). -/
def Blk.wrLeapAt (s : Blk) (v : Word) : Blk :=
  let s := s.setReg (.tim .TIM_LEAP_AT_LO) v
  (s.modTime (fun t => { t with leapAt := BitVec.ofNat 64 (hiLo (s.reg (.tim .TIM_LEAP_AT_HI)) v) })).leapCheck

/-- TIM_LEAP_CTRL.KIND (R50). -/
def Blk.wrLeapKind (s : Blk) (v : Word) : Blk :=
  let s := s.setReg (.tim .TIM_LEAP_CTRL) (v &&& 3)
  (s.modTime (fun t => { t with leapDone := false, leapErr := false })).leapCheck

/-- TIM_EPOCH_TAI_LO: the epoch has been written (R48, Table 15-1). -/
def Blk.wrEpoch (s : Blk) (v : Word) : Blk :=
  (s.setReg (.tim .TIM_EPOCH_TAI_LO) v).modBoot (fun b => { b with epochSeen := true })

/-- TIM_TTn_TIME_LO arms the trigger with the staged high word (R77). -/
def Blk.wrTtTime (s : Blk) (n : Nat) (v : Word) : Blk :=
  let s := s.setReg (.tim (.TIM_TTn_TIME_LO n)) v
  s.modTime (fun t => { t with
    ttNext := Store.set 0 t.ttNext n (BitVec.ofNat 64 (hiLo (s.reg (.tim (.TIM_TTn_TIME_HI n))) v)) })

/-- TIM_TSF_POP removes the head stamp (R53). -/
def Blk.wrTsfPop (s : Blk) (v : Word) : Blk :=
  if bit v 0 then s.modTime (fun t => { t with fifo := t.fifo.drop 1 }) else s

/-! ### Meanings -/

/-- TREF_LOST (R46). -/
def execTrefLost : State → Host.Outcome State Fault Refusal := lift Blk.loseTref

/-- TREF_RETURN (R46): the FRC counts tref again; holdover goes on until lock. -/
def execTrefReturn : State → Host.Outcome State Fault Refusal := lift fun s =>
  if s.time.trefLost then
    (s.modTime (fun t => { t with trefLost := false, frcFrac := 0 })).emit 1 0x0101 0 (s.time.frc.toNat % 2 ^ 48)
  else s

/-- HOLD_TIMEOUT (R62): TIM_HOLD_TMO has passed since the last accepted measurement, or since SERVO_EN rose. -/
def execHoldTimeout : State → Host.Outcome State Fault Refusal := lift fun s =>
  if s.timCtl 0 ∧ !s.time.hold ∧ s.passed s.time.measAt (s.ms (s.reg (.tim .TIM_HOLD_TMO)).toNat) then s.enterHold 1 else s

/-- LEAP_INSTANT (R50): T64 has reached the leap instant. -/
def execLeapInstant : State → Host.Outcome State Fault Refusal := lift fun s =>
  let kind := fld (s.reg (.tim .TIM_LEAP_CTRL)) 1 0
  if (kind ≠ 1 ∧ kind ≠ 2) ∨ s.time.leapDone ∨ s.time.leapErr ∨ s.t64.toNat < s.time.leapAt.toNat then s else
  let o := s.reg (.tim .TIM_TAI_OFFSET)
  let s := s.setReg (.tim .TIM_TAI_OFFSET) (if kind = 1 then o + 1 else o - 1)
  (s.modTime (fun t => { t with leapDone := true })).emit 1 0x0104 s.time.leapAt.toNat (kind + 1 <<< 8)

/-- PPS_OUT_START (R51): T64 has just reached a whole second, for which no pulse has begun. -/
def execPpsOutStart : State → Host.Outcome State Fault Refusal := lift fun s =>
  let sec := s.t64.toNat / tkSec
  let w := fld (s.reg (.tim .TIM_PPS_W)) 19 0
  if !s.timCtl 2 ∨ s.time.ppsSec = some sec ∨ !s.secondNow then s else
  s.modTime (fun t => { t with ppsSec := some sec, ppsFall := if w = 0 then t.ppsFall else some (s.tclk + s.us w) })

/-- PPS_OUT_END (R51). -/
def execPpsOutEnd : State → Host.Outcome State Fault Refusal := lift fun s =>
  match s.time.ppsFall with
  | some a => if a ≤ s.tclk then s.modTime (fun t => { t with ppsFall := none }) else s
  | none => s

/-- PPS_IN (R52, R56, R482): stamped as port 62; an edge within 500 ms of the last is ignored. -/
def execPpsIn : State → Host.Outcome State Fault Refusal := lift fun s =>
  let early := match s.time.ppsInAt with | some a => !s.passed a (s.ms 500) | none => false
  if early then s else
  let s := s.modTime (fun t => { t with ppsInAt := some s.tclk })
  let s := s.stampIn 62 false 0 0
  if s.timCtl 1 then s.measure (ppsOffset (s.corrected 62 false 0)) else s

/-- STAMP_CAPTURE (R52, R53): a stamp on TS. -/
def execStampCapture (p : Nat) (egr : Bool) (fine : Nat) (tag : BitVec 16) : State → Host.Outcome State Fault Refusal :=
  lift fun s => s.stampIn p egr (fine % 16) tag

/-- STROBE_END (R80). -/
def execStrobeEnd (n : Nat) : State → Host.Outcome State Fault Refusal := lift fun s =>
  let ends := fun (o : Option Nat) => match o with | some a => if a ≤ s.tclk then none else o | none => none
  s.modTime (fun t => if n = 0 then { t with strobe0 := ends t.strobe0 }
    else if n = 1 then { t with strobe1 := ends t.strobe1 } else t)

/-- TIME_FRAME_RECEIVE (R343, R476): a class-C1 time frame is stamped as port 60 or 61 with payload bytes 0 and 1 as its tag;
what firmware does with it is firmware's own. -/
def execTimeFrameReceive (f : RxFrame) : State → Host.Outcome State Fault Refusal := lift fun s =>
  match s.takeFrame f ftTime with
  | (s, none) => s
  | (s, some t) =>
    let s := s.frameDone t
    s.stampIn (60 + f.pair) false 0 (BitVec.ofNat 16 (leAt t.f.payload 0 2))

end Sys2Proof.Machine
end

