-- ==== Sys2Proof/Machine/Records.lean ====
section
/-!
DEFINITION. Records and the record path (R114 to R137): record fields, streams and their coding, routes, backlog and
shedding, the command-trace ring, decoding, the flight window and the turn history.
-/

namespace Sys2Proof.Machine

/-! ### Record units (R114, Tables 4-1 to 4-6) -/

/-- Bits [hi:lo] of a unit. -/
def uf (u : BitVec 256) (hi lo : Nat) : Nat := (u.toNat >>> lo) % 2 ^ (hi - lo + 1)

/-- Unit `i` of a record. -/
def Record.unit (r : Record) (i : Nat) : BitVec 256 := r.units.getD i 0

/-- TYPE, POI, STAMP of a record. -/
def Record.type (r : Record) : Nat := uf (r.unit 0) 255 252
def Record.poi (r : Record) : Bool := (r.unit 0).getLsbD 244
def Record.stamp (r : Record) : BitVec 48 := BitVec.ofNat 48 (uf (r.unit 0) 143 96)

/-- A record of a type from its units' fields as numbers; COLL and GLB are set where it enters a stream. -/
def mkRec (type : Nat) (poi : Bool) (stamp : BitVec 48) (u0 : Nat) (more : List Nat) : Record :=
  { units := BitVec.ofNat 256 (type <<< 252 + (b2n poi) <<< 244 + more.length <<< 238 + stamp.toNat <<< 96 + u0) ::
      more.map (BitVec.ofNat 256) }

/-- The record with COLL and GLB of its stream. -/
def Record.inStream (r : Record) (glb : Bool) (c : Nat) : Record :=
  match r.units with
  | [] => r
  | u :: t => { units := ((u &&& ~~~(BitVec.ofNat 256 (0x7F <<< 245))) |||
      BitVec.ofNat 256 ((if glb then 0 else c % 64) <<< 246 + (b2n glb) <<< 245)) :: t }

/-- The record with POI set. -/
def Record.poisoned (r : Record) : Record :=
  match r.units with
  | [] => r
  | u :: t => { units := (u ||| BitVec.ofNat 256 (1 <<< 244)) :: t }

/-- Record types (Table 4-2). -/
def tCmd : Nat := 1
def tSmp : Nat := 2
def tCnt : Nat := 3
def tMrk : Nat := 4
def tSns : Nat := 5
def tBw : Nat := 6
def tDig : Nat := 7
def tLoss : Nat := 8
def tGap : Nat := 9
def tThdr : Nat := 0xA
def tFex : Nat := 0xB

/-- S48 of a T64 (R65), and the signed difference of two S48 stamps. -/
def s48 (t : Dword) : BitVec 48 := t.setWidth 48
def d48 (a b : BitVec 48) : Int := (a - b).toInt

/-! ### Coding (R123 to R125) -/

/-- uvarint: 7-bit groups, lowest first; `fuel` bounds the groups. -/
def uvarint : Nat → Nat → List Byte
  | 0, n => [BitVec.ofNat 8 (n % 128)]
  | fuel + 1, n => if n < 128 then [BitVec.ofNat 8 n] else BitVec.ofNat 8 (n % 128 + 128) :: uvarint fuel (n / 128)

/-- uvarint of a value of at most 64 bits. -/
def uv (n : Nat) : List Byte := uvarint 9 n

/-- zigzag of a signed difference of width `w`. -/
def zigzag {w : Nat} (d : BitVec w) : Nat := ((d <<< 1) ^^^ (d.sshiftRight (w - 1))).toNat

/-- A stream with nothing in it. -/
def Stream.fresh : Stream :=
  { seq := 0, seq0 := 0, coded := [], nrec := 0, poiAt := [], pStamp := 0, pChan := 0, pOpc := 0, pQaddr := 0, pCseq := 0, openAt := 0,
    base := 0, lastSt := 0, shedRec := 0, shedOth := 0, shedVia := 0, shedFirst := 0, shedLast := 0, turnShed := 0,
    turnPoi := false }

/-- The CMD fields of Table 4-8 with their lead byte, for TYPE `ty`. -/
def codeCmd (st : Stream) (ty : Nat) (u : BitVec 256) : List Byte :=
  let chan := uf u 237 229
  let flags := uf u 220 211
  let opc := uf u 207 192
  let bst : BitVec 48 := BitVec.ofNat 48 (uf u 191 144)
  let est : BitVec 48 := BitVec.ofNat 48 (uf u 143 96)
  let dig := uf u 95 64
  let da := uf u 63 32
  let db := uf u 31 0
  let poi := u.getLsbD 244
  let f := decide (flags ≠ 0) || poi || decide (opc ≠ st.pOpc.toNat)
  let g := decide (dig ≠ 0)
  let a := decide (da ≠ 0)
  let b := decide (db ≠ 0)
  BitVec.ofNat 8 (ty * 16 + 8 * b2n f + 4 * b2n g + 2 * b2n a + b2n b) ::
    (uv (zigzag (BitVec.ofNat 32 chan - BitVec.ofNat 32 st.pChan)) ++ [BitVec.ofNat 8 (uf u 228 221)] ++
    (if f then leBytes 2 (flags + 32768 * b2n poi) ++ leBytes 2 opc else []) ++
    (if flags / 16 % 2 = 1 then uv (zigzag (est - st.pStamp))
     else uv (zigzag (bst - st.pStamp)) ++ uv (est - bst).toNat) ++
    (if g then leBytes 4 dig else []) ++ (if a then uv da else []) ++ (if b then uv db else []))

/-- The coded form of a record in a stream, and the coder's state after it (R124, R125). -/
def codeRec (st : Stream) (r : Record) : List Byte × Stream :=
  let u := r.unit 0
  let afterCmd := { st with pChan := uf u 237 229, pOpc := BitVec.ofNat 16 (uf u 207 192), pStamp := r.stamp }
  if r.type = tCmd then (codeCmd st tCmd u, afterCmd)
  else if r.type = tSmp then
    let x := r.unit 1
    let y := r.unit 2
    let q : BitVec 48 := BitVec.ofNat 48 (uf x 255 208)
    let cs : Word := w32 (uf x 207 176)
    let ds := [uf x 127 96, uf x 95 64, uf x 63 32, uf x 31 0, uf y 255 224, uf y 223 192, uf y 191 160, uf y 159 128,
               uf y 127 96]
    (codeCmd st tSmp u ++ uv (zigzag (q - st.pQaddr)) ++ uv (zigzag (cs - st.pCseq)) ++
      leBytes 2 (32768 * uf x 143 143 + 64 * uf x 142 134 + 32 * uf x 133 133) ++ ds.flatMap uv,
     { afterCmd with pQaddr := q, pCseq := cs })
  else (BitVec.ofNat 8 (r.type * 16) :: r.units.flatMap (fun v => leBytes 32 v.toNat), { st with pStamp := r.stamp })

/-- The payload of a stream's open frame (Table 4-7). -/
def Stream.payload (st : Stream) (m : Nat) : List Byte :=
  leBytes 4 st.seq0.toNat ++ leBytes 6 st.base.toNat ++ leBytes 2 st.nrec ++
    leBytes 1 (if m = 128 then 0 else 64 * (m % 2) + m / 2) ++ leBytes 1 (if m = 128 then 1 else 0) ++
    leBytes 2 st.coded.length ++ st.coded

/-- The FEX record of an entity and one or two features (Table 4-6). No rule says what makes a program form one, and no command does
(log 51). -/
def fexRecord (stamp : BitVec 48) (entity idx0 idx1 : Nat) (two : Bool) (v0 v1 : Word) (poi : Bool) : Record :=
  mkRec tFex poi stamp (entity <<< 190 + idx0 <<< 182 + idx1 <<< 174 + (b2n two) <<< 173 + v0.toNat <<< 64 + v1.toNat <<< 32) []

/-! ### Streams, output buffer and backlog (R118, R119, R122, R128, R129) -/

def Blk.stream (s : Blk) (m : Nat) : Stream := Store.get Stream.fresh s.rcp.streams m
def Blk.setStream (s : Blk) (m : Nat) (v : Stream) : Blk :=
  s.modRcp (fun r => { r with streams := Store.set Stream.fresh r.streams m v })
def Blk.modStream (s : Blk) (m : Nat) (f : Stream → Stream) : Blk := s.setStream m (f (s.stream m))

/-- Bytes of what waits in the output buffer or the backlog. -/
def RecOut.size : RecOut → Nat
  | .frame _ _ _ p => p.length
  | .loc _ _ r => 32 * r.units.length

def Blk.rcpEn (s : Blk) : Bool := bit (s.reg (.rcp .RCP_CTRL)) 0
def Blk.gtrk (s : Blk) : Nat := fld (s.reg (.rcp .RCP_CTRL)) 5 4

/-- Bytes held, and the size of the backlog ring and its reserve; without a ring the output buffer stands for it (R128). -/
def Blk.outUsed (s : Blk) : Nat := (s.rcp.out.map RecOut.size).sum
def Blk.blSize (s : Blk) : Nat := 1024 * fld (s.reg (.rcp .RCP_BL_SIZE)) 22 0
def Blk.blRsv (s : Blk) : Nat :=
  if s.blSize = 0 then 16384 else 1024 * fld (s.reg (.rcp .RCP_BL_RSV)) 22 0
/-- Bytes of the backlog in use: what does not fit the 128 KiB output buffer. -/
def Blk.blUsed (s : Blk) : Nat := s.outUsed - 131072
/-- Bytes free where shedding looks. -/
def Blk.blFree (s : Blk) : Nat :=
  if s.blSize = 0 then 131072 - s.outUsed else s.blSize + 131072 - max s.outUsed 131072

/-- Bring the shedding of CMD and SMP records up to date (R129). -/
def Blk.shedUpdate (s : Blk) : Blk :=
  if s.blFree < s.blRsv then s.modRcp (fun r => { r with shed := true })
  else if 2 * s.blRsv ≤ s.blFree then s.modRcp (fun r => { r with shed := false })
  else s

/-- Tokens of a record for a local queue (Table 5-6): at most 8 units each, CONT on all but the last. `fuel` bounds them. -/
def recTokens : Nat → List (BitVec 256) → Bool → List Token
  | 0, _, _ => []
  | _, [], _ => []
  | fuel + 1, us, poi =>
    let now := us.take 8
    let rest := us.drop 8
    let words := now.flatMap (fun u => (List.range 8).map (fun i => w32 (u.toNat >>> (32 * i))))
    Token.mk' 4 words (if poi then BitVec.ofNat 8 (2 ^ now.length - 1) else 0) (!rest.isEmpty) .none ::
      recTokens fuel rest poi

/-- Whether a local queue takes a record now: it is assigned to the collection and has room for all its tokens. -/
def Blk.locRoom (s : Blk) (q n : Nat) : Bool :=
  s.qEn q && decide ((s.q q).entries + n + s.credHeld q ≤ (s.q q).cap) && !s.spillStop q (5 * n)

/-- The turn of a stamp on a tracker: the last one whose marker is not later (R83). -/
def Tracker.turnAt (k : Tracker) (x : BitVec 48) : Word :=
  match ((k.mstamp, k.turn) :: k.past).find? (fun p => decide (0 ≤ d48 x (s48 p.1))) with
  | some (_, n) => n
  | none => k.turn

/-- Note a record delivered to the local queue of collection `c`, by the turn of its deciding stamp (R83, R364). -/
def Blk.noteLocal (s : Blk) (c : Nat) (r : Record) : Blk :=
  let n := ((s.tracker (s.coll c).trk).turnAt r.stamp).toNat
  let isRec := decide (r.type = tCmd ∨ r.type = tSmp)
  s.modColl c (fun v =>
    let x := (Store.look v.locs n).getD (0, 0, r.stamp, r.stamp)
    { v with locs := Store.put v.locs n (x.1 + b2n isRec, x.2.1 + b2n (!isRec), x.2.2.1, r.stamp) })

/-- What may leave the output buffer now (R128): a frame when its context has the credits and no earlier frame of its class
waits in the egress queue; a record when its queue has room, or is no longer assigned. -/
def Blk.outGo (s : Blk) (e : RecOut) : Option Blk :=
  match e with
  | .loc c q r =>
    let ts := recTokens 8 r.units r.poi
    if !s.qEn q then some s
    else if s.locRoom q ts.length then
      let s := if r.poi then s.count (.err (.ERR_Cc_POI c)) 1 else s
      some ((ts.foldl (fun s t => s.enqTok q t) s).noteLocal c r)
    else none
  | .frame m cls poim p =>
    match s.parentPlace with
    | none => none
    | some dst =>
      let coll := if m = 128 then none else some (m / 2, (s.coll (m / 2)).gen)
      match s.blockQueue cls dst s.parentRole with
      | (none, _) => none
      | (some q, s') =>
        let f : Frame := { Frame.empty with dst := dst, drole := s.parentRole, cls := cls, ftype := ftRecord, payload := p }
        if (s'.q q).frames.isEmpty && s'.flowOk f then some (s'.sendMsg cls dst s.parentRole ftRecord coll p poim none) else none

/-- The lane of an entry: its class, or its local queue. Entries of one lane leave in order. -/
def RecOut.lane : RecOut → Nat
  | .frame _ cls _ _ => cls
  | .loc _ q _ => 8 + q

/-- Let every waiting entry leave that can (R128), while RCP_CTRL.EN is 1: those of the output buffer each as its lane allows; the
backlog ring behind them gives up its oldest first. -/
def Blk.drainOut (s : Blk) : Blk :=
  if !s.rcpEn then s else
  let es := s.rcp.out
  let (s, kept, _) := es.foldl (fun (a : Blk × List RecOut × List Nat) e =>
    let (s, kept, held) := a
    if held.contains e.lane ∨ 131072 < (kept.map RecOut.size).sum + e.size then (s, kept ++ [e], held) else
    match s.outGo e with
    | some s => (s, kept, held)
    | none => (s, kept ++ [e], held ++ [e.lane])) (s, [], [])
  (s.modRcp (fun r => { r with out := kept })).shedUpdate

/-- Write the bytes of an entry that the output buffer has no room for to the backlog ring, its ranges `poi` poisoned; the ring holds the
payloads one behind another (R128, R131; DESIGN CHOICE, log 50). -/
def Blk.blWrite (s : Blk) (bs : List Byte) (poi : List (Nat × Nat)) : Blk :=
  let size := s.blSize
  if size = 0 ∨ s.outUsed + bs.length ≤ 131072 then s else
  let base := s.reg2 (.rcp .RCP_BL_BASE_HI) (.rcp .RCP_BL_BASE_LO)
  let n := min bs.length (size - s.rcp.blNext)
  let at_ := base + s.rcp.blNext
  let s := s.xmWriteP at_ (bs.take n) (poiLines at_ (poi.filter (fun r => decide (r.1 < n))))
  let s := s.xmWriteP base (bs.drop n)
    (poiLines base ((poi.filter (fun r => decide (n < r.1 + r.2))).map (fun r => (r.1 - n, r.1 + r.2 - max n r.1))))
  s.modRcp (fun r => { r with blNext := (r.blNext + bs.length) % size })

/-- The copy of a closed frame in the command-trace ring (R130); lines with poisoned records carry the XM poison bit (R131). -/
def Blk.htCopy (s : Blk) (m cls : Nat) (p : List Byte) (poi : List (Nat × Nat)) : Blk :=
  let ctl := s.reg (.rcp .RCP_CTRL)
  let sel := bit (s.reg (.rcp .RCP_HT_MASK)) (if m = 128 then 16 else m / 2)
  let size := 1024 * fld (s.reg (.rcp .RCP_HT_SIZE)) 22 0
  if !bit ctl 1 ∨ !sel ∨ size = 0 then s else
  let base := s.reg2 (.rcp .RCP_HT_BASE_HI) (.rcp .RCP_HT_BASE_LO)
  let w := (s.reg (.rcp .RCP_HT_WPTR)).toNat
  let body := leBytes 4 p.length ++
    leBytes 4 ((if m = 128 then 128 else 64 * (m % 2) + m / 2) + cls * 256) ++ slice p 0 (roundUp p.length 8)
  let lines := fun (at_ : Nat) => poiLines (at_ + 8) poi
  let stop := bit ctl 2
  if w + body.length ≤ size then
    (s.xmWriteP (base + w) body (lines (base + w))).setReg (.rcp .RCP_HT_WPTR) (w32 (w + body.length))
  else if stop ∨ size < body.length then
    let s := s.count (.rcp .RCP_HT_DROP) 1
    if s.rcp.htFull then s else
    (s.modRcp (fun r => { r with htFull := true })).emit 4 0x0405 w (s.reg (.rcp .RCP_HT_DROP)).toNat
  else
    let s := if w + 4 ≤ size then s.xmWrite (base + w) (leBytes 4 0xFFFFFFFF) false else s
    ((s.xmWriteP base body (lines base)).setReg (.rcp .RCP_HT_WPTR) (w32 body.length)).count (.rcp .RCP_HT_LAPS) 1

/-- Close the open frame of a stream and queue it (R122). -/
def Blk.closeRec (s : Blk) (m : Nat) : Blk :=
  let st := s.stream m
  if st.nrec = 0 then s else
  let cls := if m ≠ 128 ∧ m % 2 = 1 then 3 else 4
  let p := st.payload m
  let s := s.setStream m { st with coded := [], nrec := 0, poiAt := [], base := st.lastSt, pStamp := st.lastSt, pChan := 0, pOpc := 0,
                                   pQaddr := 0, pCseq := 0 }
  let s := (s.htCopy m cls p st.poiAt).blWrite p st.poiAt
  (s.modRcp (fun r => { r with out := r.out ++ [.frame m cls 0 p] })).drainOut

/-- Place a record in a stream (R118, R122): it takes the next number; a frame that it does not fit closes first; MRK and
THDR close the frame. -/
def Blk.placeRec (s : Blk) (m : Nat) (r : Record) : Blk :=
  let fits := 16 + (s.stream m).coded.length + (codeRec (s.stream m) r).1.length ≤ 4096
  let s := if fits then s else s.closeRec m
  let st := s.stream m
  let st := if st.nrec = 0 then { st with seq0 := st.seq, openAt := s.tclk, pStamp := st.base } else st
  let (bs, st) := codeRec st r
  let at_ := if r.poi then st.poiAt ++ [(16 + st.coded.length, bs.length)] else st.poiAt
  let s := s.setStream m { st with coded := st.coded ++ bs, nrec := st.nrec + 1, poiAt := at_, seq := st.seq + 1, lastSt := r.stamp,
                                   turnPoi := st.turnPoi || r.poi }
  if r.type = tMrk ∨ r.type = tThdr then s.closeRec m else s

/-- Deliver a record to a local queue: it waits in the backlog while the queue is full (R127, R128). -/
def Blk.locRec (s : Blk) (c q : Nat) (r : Record) : Blk :=
  let bs := r.units.flatMap (fun u => leBytes 32 u.toNat)
  let s := s.blWrite bs (if r.poi then [(0, bs.length)] else [])
  (s.modRcp (fun x => { x with out := x.out ++ [.loc c q r] })).drainOut

/-- The stream that counts what is shed: the record stream of the collection, or the global stream. -/
def Blk.lost (s : Blk) (m : Nat) (r : Record) (via : Nat) : Blk :=
  let st := s.stream m
  let first := decide (st.shedRec + st.shedOth = 0)
  let isRec := decide (r.type = tCmd ∨ r.type = tSmp)
  let s := s.count (.rcp (if isRec then .RCP_SHED_REC else .RCP_SHED_OTH)) 1
  let s := s.setStream m { st with
    shedRec := st.shedRec + b2n isRec, shedOth := st.shedOth + b2n (!isRec), shedVia := st.shedVia ||| via,
    shedFirst := if first then r.stamp else st.shedFirst, shedLast := r.stamp, turnShed := st.turnShed + 1 }
  if first then s.emit 4 0x0404 ((if m = 128 then 64 else m / 2) + 256) 0 else s

/-- Whether a record is shed now (R129). The rule does not say in which form a record must fit: the model compares the free bytes with
the record's units of 32 bytes, not with its coded size (DESIGN CHOICE, log 50). -/
def Blk.mustShed (s : Blk) (r : Record) : Bool :=
  (decide (r.type = tCmd ∨ r.type = tSmp) && s.rcp.shed) || decide (s.blFree < 32 * r.units.length)

/-- The hardware queue that takes collection `c`'s local deliveries (RCP_LQ in force). -/
def Blk.lqOf (s : Blk) (c : Nat) : Nat := fld (s.reg (.rcp (.RCP_LQ c))) 7 0

/-- Put a record of stream `m` under the route bits `via`: in the stream, on the local queue, or both. -/
def Blk.route (s : Blk) (m : Nat) (r : Record) (via : Nat) : Blk :=
  let c := m / 2
  let r := r.inStream (decide (m = 128)) c
  let s := if via % 2 = 1 then s.placeRec m r else s
  if via / 2 % 2 = 1 ∧ m ≠ 128 then s.locRec c (s.lqOf c) r else s

/-- The GAP record of an episode that has ended for a stream, ahead of the first record kept (R129, Table 4-6). -/
def Blk.gapOut (s : Blk) (m : Nat) : Blk :=
  let st := s.stream m
  if st.shedRec + st.shedOth = 0 ∨ (s.rcp.shed ∧ st.shedRec ≠ 0) then s else
  let g := mkRec tGap false st.shedLast
    ((st.shedRec % 2 ^ 32) <<< 192 + st.shedFirst.toNat <<< 144 + (st.shedOth % 2 ^ 32) <<< 64) []
  let s := s.setStream m { st with shedRec := 0, shedOth := 0, shedVia := 0 }
  let s := s.emit 4 0x0404 (if m = 128 then 64 else m / 2) (st.shedRec + st.shedOth)
  s.route m g st.shedVia

/-- The GAP records of the streams whose shedding has ended and for which a record fits again (R129). -/
def Blk.gapsOut (s : Blk) : Blk :=
  ((Store.keys s.rcp.streams).filter (fun m => decide ((s.stream m).shedRec + (s.stream m).shedOth ≠ 0))).foldl
    (fun s m => if s.blFree < 32 then s else s.gapOut m) s

/-- Let what waits leave, and end the shedding that this ends (R128, R129). -/
def Blk.drainRec (s : Blk) : Blk := s.drainOut.gapsOut

/-- Form a record for stream `m` under the route bits `via`, or shed it (R127, R129). -/
def Blk.formRec (s : Blk) (m : Nat) (r : Record) (via : Nat) : Blk :=
  if s.role ≠ .die ∨ via = 0 then s else
  let s := s.shedUpdate
  if s.mustShed r then s.lost m r via else (s.gapOut m).route m r via

/-- Route bits of a type for a collection (RCP_ROUTE in force). -/
def Blk.routeOf (s : Blk) (c ty : Nat) : Nat := fld (s.reg (.rcp (.RCP_ROUTE c))) (2 * ty + 1) (2 * ty)

/-- A record formed for a collection. -/
def Blk.collRec (s : Blk) (c : Nat) (r : Record) : Blk := s.formRec (2 * c) r (s.routeOf c r.type)

/-- A record of the turn stream: always to the parent, and by bit 1 of its route to the local queue. -/
def Blk.turnRec (s : Blk) (c : Nat) (r : Record) : Blk :=
  s.formRec (2 * c + 1) r (1 + 2 * (s.routeOf c r.type / 2 % 2))

/-- A record formed globally: in the global stream, with copies for the running collections by their routes. -/
def Blk.globRec (s : Blk) (r : Record) (copies : Bool) : Blk :=
  let s := s.formRec 128 r 1
  if !copies then s else
  ((Store.keys s.colls).filter s.collRuns).foldl (fun s c => s.collRec c r) s

/-- Whether a command's begin lies in an earlier turn than its end, against a tracker (R83). -/
def Tracker.straddle (t : Tracker) (b e : BitVec 48) : Bool :=
  let old := fun (x : BitVec 48) (m : Dword) => decide (d48 x (s48 m) < 0)
  t.running && (if old e t.mstamp then !old e t.prevM && old b t.prevM else old b t.mstamp)

/-! ### Decoding (R126) -/

/-- Read a minimal uvarint of at most ten bytes. -/
def readUv : Nat → List Byte → Option (Nat × List Byte)
  | 0, _ => none
  | _, [] => none
  | fuel + 1, b :: t =>
    if b.toNat < 128 then some (b.toNat, t)
    else match readUv fuel t with
      | none => none
      | some (n, r) => if n = 0 then none else some (b.toNat - 128 + 128 * n, r)

/-- Read `n` bytes as a number. -/
def readN (n : Nat) (bs : List Byte) : Option (Nat × List Byte) :=
  if bs.length < n then none else some (leNat (bs.take n), bs.drop n)

/-- A field read when its presence bit is set, else zero. -/
def readIf (p : Bool) (f : List Byte → Option (Nat × List Byte)) (bs : List Byte) : Option (Nat × List Byte) :=
  if p then f bs else some (0, bs)

/-- The difference that a zigzag value stands for. -/
def unzig (z : Nat) : Int := if z % 2 = 0 then (z / 2 : Nat) else -((z / 2 : Nat) : Int) - 1

/-- Read `n` uvarints. -/
def readUvs : Nat → List Byte → Option (List Nat × List Byte)
  | 0, bs => some ([], bs)
  | n + 1, bs => do
    let (v, bs) ← readUv 10 bs
    let (vs, bs) ← readUvs n bs
    return (v :: vs, bs)

/-- Decode the CMD fields after the lead byte: unit 0 without TYPE and LEN, and the coder's state. -/
def decCmd (st : Stream) (lead : Nat) (bs : List Byte) : Option (Nat × Stream × List Byte) := do
  let (z, bs) ← readUv 10 bs
  let chan := ((st.pChan : Int) + unzig z).toNat % 512
  let (tag, bs) ← readN 1 bs
  let (fl, bs) ← readIf (lead / 8 % 2 = 1) (readN 2) bs
  let (op, bs) ← readIf (lead / 8 % 2 = 1) (readN 2) bs
  if fl / 1024 % 32 ≠ 0 then none
  let opc := if lead / 8 % 2 = 1 then op else st.pOpc.toNat
  let flags := fl % 1024
  let nob := decide (flags / 16 % 2 = 1)
  let (z, bs) ← readUv 10 bs
  let first := st.pStamp + BitVec.ofInt 48 (unzig z)
  let (du, bs) ← readIf (!nob) (readUv 10) bs
  let est := if nob then first else first + BitVec.ofNat 48 du
  let bst : BitVec 48 := if nob then 0 else first
  let (dig, bs) ← readIf (lead / 4 % 2 = 1) (readN 4) bs
  let (da, bs) ← readIf (lead / 2 % 2 = 1) (readUv 10) bs
  let (db, bs) ← readIf (lead % 2 = 1) (readUv 10) bs
  let u := (fl / 32768) <<< 244 + chan <<< 229 + tag <<< 221 + flags <<< 211 + opc <<< 192 + bst.toNat <<< 144 +
    est.toNat <<< 96 + dig <<< 64 + (da % 2 ^ 32) <<< 32 + db % 2 ^ 32
  return (u, { st with pChan := chan, pOpc := BitVec.ofNat 16 opc, pStamp := est }, bs)

/-- Units of a record coded whole, by its type (Table 4-2), given unit 0. -/
def typeUnits (ty : Nat) (u : BitVec 256) : Nat :=
  if ty = tCnt then 3 else if ty = tThdr then 2
  else if ty = tBw then 1 + (((List.range 64).filter (fun p => u.getLsbD (32 + p))).length + 1) / 2 else 1

/-- Bit ranges of unit `k` of a record of type `ty` that carry fields (Tables 4-1, 4-4, 4-5 and 4-6); the other bits are
reserved. -/
def recFields (ty k : Nat) : List (Nat × Nat) :=
  if k = 0 then [(255, 238), (143, 96)] ++
    (if ty = tCnt then [(237, 229), (223, 144), (95, 0)]
     else if ty = tMrk then [(237, 227), (223, 160), (95, 64)]
     else if ty = tSns then [(237, 186), (95, 64)]
     else if ty = tBw then [(237, 222), (95, 32)]
     else if ty = tDig then [(237, 218), (191, 160), (95, 32)]
     else if ty = tLoss then [(237, 229), (95, 64)]
     else if ty = tGap then [(223, 144), (95, 64)]
     else if ty = tThdr then [(237, 224), (191, 160), (95, 0)]
     else [(237, 173), (95, 32)])
  else if ty = tCnt then (if k = 1 then [(255, 16)] else [(255, 160)])
  else if ty = tThdr then [(255, 128)]
  else [(255, 64)]

/-- Whether every reserved bit of a unit is zero (R126). -/
def reservedZero (ty k : Nat) (u : BitVec 256) : Bool :=
  (recFields ty k).foldl (fun (m : BitVec 256) r => m &&& ~~~BitVec.ofNat 256 ((2 ^ (r.1 - r.2 + 1) - 1) <<< r.2)) u == 0

/-- Decode one record (R124 to R126). -/
def decRec (st : Stream) (bs : List Byte) : Option (Record × Stream × List Byte) :=
  match bs with
  | [] => none
  | l :: bs =>
    let lead := l.toNat
    let ty := lead / 16
    if ty = tCmd then do
      let (u, st, bs) ← decCmd st lead bs
      return ({ units := [BitVec.ofNat 256 (tCmd <<< 252 + u)] }, st, bs)
    else if ty = tSmp then do
      let (u, st, bs) ← decCmd st lead bs
      let (zq, bs) ← readUv 10 bs
      let (zc, bs) ← readUv 10 bs
      let (w, bs) ← readN 2 bs
      if w % 32 ≠ 0 then none
      let (ds, bs) ← readUvs 9 bs
      let q := st.pQaddr + BitVec.ofInt 48 (unzig zq)
      let cs := st.pCseq + BitVec.ofInt 32 (unzig zc)
      let u0 : BitVec 256 := BitVec.ofNat 256 (tSmp <<< 252 + 2 <<< 238 + u)
      let lat := min (BitVec.ofNat 48 (uf u0 143 96) - BitVec.ofNat 48 (uf u0 191 144)).toNat 0xFFFFFFFF
      let d := fun i => ds.getD i 0 % 2 ^ 32
      let u1 := q.toNat <<< 208 + cs.toNat <<< 176 + lat <<< 144 + (w / 32768) <<< 143 + (w / 64 % 512) <<< 134 +
        (w / 32 % 2) <<< 133 + d 0 <<< 96 + d 1 <<< 64 + d 2 <<< 32 + d 3
      let u2 := d 4 <<< 224 + d 5 <<< 192 + d 6 <<< 160 + d 7 <<< 128 + d 8 <<< 96
      return ({ units := [u0, BitVec.ofNat 256 u1, BitVec.ofNat 256 u2] }, { st with pQaddr := q, pCseq := cs }, bs)
    else if ty < tCnt ∨ tFex < ty ∨ lead % 16 ≠ 0 ∨ bs.length < 32 then none
    else
      let u0 : BitVec 256 := BitVec.ofNat 256 (leNat (bs.take 32))
      let n := uf u0 243 238 + 1
      if uf u0 255 252 ≠ ty ∨ n ≠ typeUnits ty u0 ∨ bs.length < 32 * n then none
      else
        let us := (List.range n).map (fun i => BitVec.ofNat 256 (leNat ((bs.drop (32 * i)).take 32)))
        let r : Record := { units := us }
        if (us.zipIdx.any (fun x => !reservedZero ty x.2 x.1)) then none else
        some (r, { st with pStamp := r.stamp }, bs.drop (32 * n))

/-- Decode records until the bytes are used up; each with its first byte and the byte after it. -/
def decRecs : Nat → Stream → Nat → List Byte → Option (List (Record × Nat × Nat))
  | _, _, _, [] => some []
  | 0, _, _, _ => none
  | fuel + 1, st, at_, bs => do
    let (r, st, rest) ← decRec st bs
    let next := at_ + (bs.length - rest.length)
    let rs ← decRecs fuel st next rest
    return ((r, at_, next) :: rs)

/-- A record frame decoded (R122, R126): its stream, SEQ0 and records; a record that touches a marked chunk is poisoned. -/
def decodeFrame (f : Frame) : Option (Nat × Word × List Record) :=
  let p := f.payload
  let n := leAt p 10 2
  let b12 := leAt p 12 1
  let b13 := leAt p 13 1
  let clen := leAt p 14 2
  if p.length < 16 ∨ p.length ≠ 16 + clen ∨ 128 ≤ b12 ∨ 2 ≤ b13 then none else
  let st := { Stream.fresh with pStamp := BitVec.ofNat 48 (leAt p 4 6) }
  match decRecs 4096 st 16 (p.drop 16) with
  | none => none
  | some rs =>
    if rs.length ≠ n then none else
    let m := if b13 = 1 then 128 else 2 * (b12 % 64) + b12 / 64
    some (m, w32 (leAt p 0 4), rs.map (fun x =>
      let (r, a, b) := x
      let r := r.inStream (decide (m = 128)) (m / 2)
      if (List.range (b - a)).any (fun i => f.poiAt (a + i)) then r.poisoned else r))

/-! ### The flight window (R132 to R136) -/

/-- Size of the window in bytes; zero disables it, and a span instance has none. -/
def Blk.fwSize (s : Blk) : Nat := if s.role = .tray then 2 ^ 30 * fld (s.reg (.rcp .RCP_FW_SIZE)) 9 0 else 0

/-- RCP_FW_SPAN in ms. -/
def Blk.fwSpan (s : Blk) : Nat :=
  match s.rcp.fwEnts with | e :: _ => (s.t64 - e.arr).toNat / (1000 * tkUs) | [] => 0

/-- The T64 of the freezing alarm. -/
def Blk.fwAlm (s : Blk) : Dword := BitVec.ofNat 64 (s.reg2 (.rcp .RCP_FW_ALM_T64_HI) (.rcp .RCP_FW_ALM_T64_LO))

/-- Whether an entry lies in the span to be frozen: it arrived at or after a − 4 s. -/
def Blk.fwKeep (s : Blk) (e : FwEntry) : Bool :=
  s.rcp.fwClosing && decide (0 ≤ (e.arr - (s.fwAlm - BitVec.ofNat 64 (4 * tkSec))).toInt)

/-- Stop writing and freeze (R134). -/
def Blk.fwStop (s : Blk) (early : Bool) : Blk :=
  let first := match s.rcp.fwEnts.find? s.fwKeep with | some e => e.off | none => s.rcp.fwNext
  let s := s.setReg2 (.rcp .RCP_FW_FRZ_START_HI) (.rcp .RCP_FW_FRZ_START_LO) first
  let s := s.setReg2 (.rcp .RCP_FW_FRZ_END_HI) (.rcp .RCP_FW_FRZ_END_LO) s.rcp.fwNext
  s.modRcp (fun r => { r with fwClosing := false, fwFrozen := true, fwFrzShort := early })

/-- A freezing alarm of a collection, or a write of RCP_FW_FREEZE (R134, R135). -/
def Blk.fwAlarm (s : Blk) (coll : Option Nat) (t : Dword) : Blk :=
  if s.fwSize = 0 then s
  else if s.rcp.fwFrozen then
    match coll with
    | some c => (s.count (.rcp .RCP_FW_MISSED) 1).emit 4 0x0403 c (t.toNat % 2 ^ 48)
    | none => s
  else if s.rcp.fwClosing then (if coll.isSome then s.count (.rcp .RCP_FW_ALMS) 1 else s)
  else
    let s := s.setReg2 (.rcp .RCP_FW_ALM_T64_HI) (.rcp .RCP_FW_ALM_T64_LO) t.toNat
    let s := s.modRcp (fun r => { r with fwClosing := true, fwFrzShort := false })
    s.emit 4 0x0402 (1 + 2 * b2n coll.isNone) (t.toNat % 2 ^ 48)

/-- Whether a collection's alarms freeze the window (RCP_FW_FRZ_EN). -/
def Blk.freezes (s : Blk) (c : Nat) : Bool :=
  bit (s.reg (.rcp (if c < 32 then .RCP_FW_FRZ_EN_LO else .RCP_FW_FRZ_EN_HI))) (c % 32)

/-- Drop the oldest entries that bytes [a, b) of the ring would overwrite; none when a kept entry stands in the way. `fuel`
bounds the entries. -/
def fwRoom (keep : FwEntry → Bool) (a b : Nat) : List FwEntry → Option (List FwEntry)
  | [] => some []
  | e :: t =>
    if e.off < b ∧ a < e.off + e.len then
      (if keep e then none else fwRoom keep a b t)
    else some (e :: t)

/-- Write an accepted record frame to the flight window (R132 to R135). -/
def Blk.fwWrite (s : Blk) (f : Frame) (m : Nat) (seq0 : Word) (nrec : Nat) : Blk :=
  let size := s.fwSize
  if size = 0 then s else
  let n := 16 + roundUp f.payload.length 16
  let len := f.payload.length
  let now := s.t64
  let s := if s.rcp.fwClosing ∧ 0 ≤ (now - (s.fwAlm + BitVec.ofNat 64 (4 * tkSec))).toInt then s.fwStop false else s
  if s.rcp.fwFrozen then
    let b := s.rcp.fwSkipB + len
    (s.modRcp (fun r => { r with fwSkipB := b % 1024 })).count (.rcp .RCP_FW_SKIP) (b / 1024)
  else
    let wrap := decide (size < s.rcp.fwNext + n)
    let off := if wrap then 0 else s.rcp.fwNext
    let ents := if wrap then
        (fwRoom s.fwKeep s.rcp.fwNext size s.rcp.fwEnts).bind (fun es => fwRoom s.fwKeep 0 n es)
      else fwRoom s.fwKeep off (off + n) s.rcp.fwEnts
    match ents with
    | none =>
      let s := s.fwStop true
      (s.modRcp (fun r => { r with fwSkipB := (r.fwSkipB + len) % 1024 })).count (.rcp .RCP_FW_SKIP) ((s.rcp.fwSkipB + len) / 1024)
    | some es =>
      let base := s.reg2 (.rcp .RCP_FW_BASE_HI) (.rcp .RCP_FW_BASE_LO)
      let s := if wrap ∧ s.rcp.fwNext < size then
          s.xmWrite (base + s.rcp.fwNext) (leBytes 4 0xFFFFFFFF ++ leBytes 12 0) false else s
      let strm := if m = 128 then 128 else 64 * (m % 2) + m / 2
      let h := leBytes 4 f.payload.length ++ leBytes 4 f.src.toNat ++ leBytes 1 strm ++ leBytes 1 0 ++
        leBytes 6 (s48 now).toNat
      let chunks := ((List.range (roundUp len 64 / 64)).filter (fun k => f.poiAt (64 * k))).map (fun k => (16 + 64 * k, min 64 (len - 64 * k)))
      let s := s.xmWriteP (base + off) (h ++ slice f.payload 0 (n - 16)) (poiLines (base + off) chunks)
      let s := s.modRcp (fun r => { r with
        fwEnts := es ++ [{ off := off, len := n, arr := now, place := f.src, strm := m, gen := f.gen, seq0 := seq0, nrec := nrec }],
        fwNext := off + n })
      let due : Bool := match s.rcp.fwShortAt with | some a => s.passed a (s.sec 1) | none => true
      if s.fwSpan < 8000 ∧ due then
        (s.modRcp (fun r => { r with fwShortAt := some s.tclk })).emit 4 0x0401 s.fwSpan
          (fld (s.reg (.rcp .RCP_FW_SIZE)) 9 0)
      else s

/-- The payload of an entry of the window, as XM holds it. -/
def Blk.fwPayload (s : Blk) (e : FwEntry) : List Byte :=
  let base := s.reg2 (.rcp .RCP_FW_BASE_HI) (.rcp .RCP_FW_BASE_LO)
  let n := leNat (Mem.rdN s.mem.xm (base + e.off) 4)
  Mem.rdN s.mem.xm (base + e.off + 16) (min n 4096)

/-! ### What a tray knows of its sources (R120, R364) -/

/-- The source stream `m` of a place, or a fresh one whose first record is number `seq`. -/
def RecState.src (r : RecState) (place : Word) (m : Nat) (seq : Word) : SrcStream :=
  (r.srcs.find? (fun x => x.place == place && x.strm == m)).getD { place := place, strm := m, first := seq, next := seq, seqEnd := [] }

def RecState.setSrc (r : RecState) (v : SrcStream) : RecState :=
  { r with srcs := r.srcs.filter (fun x => !(x.place == v.place && x.strm == v.strm)) ++ [v] }

/-- The first record of a source stream that belongs to a turn after `n`: the one after the last turn header of `n` or earlier; the first
record seen where none is known (R364). -/
def SrcStream.after (x : SrcStream) (n : Word) : Word :=
  let le := x.seqEnd.filter (fun p => decide (sdiff (w32 p.1) n ≤ 0))
  match le.foldl (fun (a : Option (Nat × Word)) p => match a with
    | some b => if sdiff (w32 b.1) (w32 p.1) ≤ 0 then some p else a
    | none => some p) none with
  | some p => p.2 + 1
  | none => x.first

/-- A turn header, record `seq` of a turn stream, tells where its turn ends there and, by SEQ_END, in the record stream (R119, R120). -/
def RecState.noteThdr (r : RecState) (place : Word) (m : Nat) (seq : Word) (x : Record) : RecState :=
  let n := uf (x.unit 0) 191 160
  let e := w32 (uf (x.unit 1) 191 160)
  let a := r.src place m seq
  let r := r.setSrc { a with seqEnd := Store.put a.seqEnd n seq }
  let b := r.src place (m - 1) (e + 1)
  r.setSrc { b with seqEnd := Store.put b.seqEnd n e }

/-- Note a record frame of a source stream: the number after its last record, and where its turn headers say that turns end. -/
def Blk.noteSource (s : Blk) (place : Word) (m : Nat) (seq0 : Word) (rs : List Record) : Blk :=
  s.modRcp (fun r =>
    let r := r.setSrc { r.src place m seq0 with next := seq0 + w32 rs.length }
    if m % 2 = 0 then r else
    rs.zipIdx.foldl (fun r x => if x.1.type = tThdr then r.noteThdr place m (seq0 + w32 x.2) x.1 else r) r)

/-! ### Writes of the record path -/

/-- RCP_CTRL (R128, R130): a write with HT_EN set clears HT_FULL; a rise of EN releases what waits. -/
def Blk.wrRcpCtrl (s : Blk) (v : Word) : Blk :=
  let s := s.setReg (.rcp .RCP_CTRL) (v &&& 0x37)
  let s := if bit v 1 then s.modRcp (fun r => { r with htFull := false }) else s
  s.drainRec

/-- RCP_FW_FREEZE and RCP_FW_RELEASE (R134, R135). -/
def Blk.wrFwFreeze (s : Blk) (v : Word) : Blk := if bit v 0 then s.fwAlarm none s.t64 else s

def Blk.wrFwRelease (s : Blk) (v : Word) : Blk :=
  if bit v 0 ∧ s.rcp.fwFrozen then
    (s.modRcp (fun r => { r with fwFrozen := false })).emit 4 0x0402 0 (s.fwAlm.toNat % 2 ^ 48)
  else s

/-! ### Meanings -/

/-- FRAME_FLUSH_TIMEOUT (R122): RCP_FLUSH has passed since the first record of the open frame of a stream. -/
def execFrameFlushTimeout (m : Nat) : State → Host.Outcome State Fault Refusal := lift fun s =>
  if (s.stream m).nrec ≠ 0 ∧ s.passed (s.stream m).openAt (s.ns (fld (s.reg (.rcp .RCP_FLUSH)) 15 0)) then s.closeRec m else s

/-- RECORD_FRAME_SEND (R128). -/
def execRecordFrameSend : State → Host.Outcome State Fault Refusal := lift Blk.drainRec

/-- FW_FREEZE_END (R134): arrival has reached a + 4 s. -/
def execFwFreezeEnd : State → Host.Outcome State Fault Refusal := lift fun s =>
  if s.rcp.fwClosing ∧ 0 ≤ (s.t64 - (s.fwAlm + BitVec.ofNat 64 (4 * tkSec))).toInt then s.fwStop false else s

end Sys2Proof.Machine
end

