-- ==== Sys2Proof/Machine/Flags.lean ====
section
/-!
DEFINITION. Number formats: binary floating point with one rounding (R194 to R197), and W320 with its sticky flags, its
sparse-limb form and its rounding (R202 to R205, R218 to R222). The block has no condition flags; PINF, NINF and NAN are
the only ones.
-/

namespace Sys2Proof.Machine

/-! ### Binary floating point -/

/-- A binary format: exponent bits and fraction bits. -/
structure Fmt where
  eb : Nat
  mb : Nat
  deriving DecidableEq, Repr

def f32 : Fmt := ⟨8, 23⟩
def f16 : Fmt := ⟨5, 10⟩
def bf16 : Fmt := ⟨8, 7⟩
def f64 : Fmt := ⟨11, 52⟩

/-- Exponent bias. -/
def Fmt.bias (f : Fmt) : Nat := 2 ^ (f.eb - 1) - 1

/-- The quiet NaN that results carry: 0x7FC0_0000 for binary32, 0x7E00, 0x7FC0, 0x7FF8_0000_0000_0000 (R194, R195, R205). -/
def Fmt.nan (f : Fmt) : Nat := (2 ^ f.eb - 1) * 2 ^ f.mb + 2 ^ (f.mb - 1)

/-- The infinity of a sign. -/
def Fmt.inf (f : Fmt) (neg : Bool) : Nat := (b2n neg) * 2 ^ (f.eb + f.mb) + (2 ^ f.eb - 1) * 2 ^ f.mb

/-- What a bit pattern stands for: m × 2^e with a sign, an infinity or a NaN. -/
inductive FVal where
  | nan
  | inf (neg : Bool)
  | fin (neg : Bool) (m : Nat) (e : Int)
  deriving DecidableEq, Repr

/-- Read a bit pattern. -/
def Fmt.val (f : Fmt) (w : Nat) : FVal :=
  let s := decide (w >>> (f.eb + f.mb) % 2 = 1)
  let e := w >>> f.mb % 2 ^ f.eb
  let m := w % 2 ^ f.mb
  if e = 2 ^ f.eb - 1 then (if m ≠ 0 then .nan else .inf s)
  else if e = 0 then .fin s m (1 - (f.bias : Int) - f.mb)
  else .fin s (m + 2 ^ f.mb) ((e : Int) - f.bias - f.mb)

/-- Round the exact value m × 2^e to the format, to nearest even; overflow gives the infinity of the sign. -/
def Fmt.round (f : Fmt) (neg : Bool) (m : Nat) (e : Int) : Nat :=
  let sign := (b2n neg) * 2 ^ (f.eb + f.mb)
  if m = 0 then sign else
  let emin : Int := 1 - (f.bias : Int) - f.mb
  let q := max ((Nat.log2 m : Int) + e - f.mb) emin
  let r := if q ≤ e then m * 2 ^ (e - q).toNat
    else
      let sh := (q - e).toNat
      let t := m / 2 ^ sh
      let rem := 2 * (m % 2 ^ sh)
      if 2 ^ sh < rem ∨ (rem = 2 ^ sh ∧ t % 2 = 1) then t + 1 else t
  let (r, q) := if r = 2 ^ (f.mb + 1) then (2 ^ f.mb, q + 1) else (r, q)
  if r < 2 ^ f.mb then sign + r
  else
    let ef := (q - emin + 1).toNat
    if 2 ^ f.eb - 1 ≤ ef then f.inf neg else sign + ef * 2 ^ f.mb + (r - 2 ^ f.mb)

/-- The exact sum of two finite values; an exact zero from unlike signs is +0. -/
def finAdd (n1 : Bool) (m1 : Nat) (e1 : Int) (n2 : Bool) (m2 : Nat) (e2 : Int) : FVal :=
  let e := min e1 e2
  let a : Int := (m1 * 2 ^ (e1 - e).toNat : Nat)
  let b : Int := (m2 * 2 ^ (e2 - e).toNat : Nat)
  let v := (if n1 then -a else a) + (if n2 then -b else b)
  if v = 0 then .fin (n1 && n2) 0 e else .fin (decide (v < 0)) v.natAbs e

/-- Sum and product of values, exact. -/
def FVal.add : FVal → FVal → FVal
  | .nan, _ => .nan
  | _, .nan => .nan
  | .inf a, .inf b => if a = b then .inf a else .nan
  | .inf a, .fin .. => .inf a
  | .fin .., .inf b => .inf b
  | .fin n1 m1 e1, .fin n2 m2 e2 => finAdd n1 m1 e1 n2 m2 e2

def FVal.mul : FVal → FVal → FVal
  | .nan, _ => .nan
  | _, .nan => .nan
  | .inf a, .inf b => .inf (a != b)
  | .inf a, .fin b m _ => if m = 0 then .nan else .inf (a != b)
  | .fin a m _, .inf b => if m = 0 then .nan else .inf (a != b)
  | .fin a m e, .fin b n f => .fin (a != b) (m * n) (e + f)

def FVal.neg : FVal → FVal
  | .nan => .nan
  | .inf a => .inf (!a)
  | .fin a m e => .fin (!a) m e

/-- The bit pattern of a value, rounded once. -/
def Fmt.bits (f : Fmt) : FVal → Nat
  | .nan => f.nan
  | .inf a => f.inf a
  | .fin a m e => f.round a m e

/-- Numeric order of two values that are no NaN: −0 equals +0 (R197). -/
def FVal.lt : FVal → FVal → Bool
  | .nan, _ => false
  | _, .nan => false
  | .inf a, .inf b => a && !b
  | .inf a, .fin .. => a
  | .fin .., .inf b => !b
  | .fin n1 m1 e1, .fin n2 m2 e2 =>
    match finAdd n1 m1 e1 (!n2) m2 e2 with
    | .fin s m _ => s && decide (m ≠ 0)
    | _ => false

def FVal.isNan : FVal → Bool | .nan => true | _ => false

/-- Equality of two values: false with a NaN, true of the two zeros. -/
def FVal.feq (a b : FVal) : Bool := !a.isNan && !b.isNan && !a.lt b && !b.lt a

/-- Arithmetic on bit patterns (R194, R195). -/
def Fmt.add (f : Fmt) (a b : Nat) : Nat := f.bits ((f.val a).add (f.val b))
def Fmt.sub (f : Fmt) (a b : Nat) : Nat := f.bits ((f.val a).add (f.val b).neg)
def Fmt.mul (f : Fmt) (a b : Nat) : Nat := f.bits ((f.val a).mul (f.val b))
/-- d + a × b, rounded once. -/
def Fmt.fma (f : Fmt) (d a b : Nat) : Nat := f.bits ((f.val d).add ((f.val a).mul (f.val b)))

/-- VFMIN and VFMAX: NaN with a NaN; −0 is ordered below +0 (R194). -/
def Fmt.minmax (f : Fmt) (isMax : Bool) (a b : Nat) : Nat :=
  let x := f.val a
  let y := f.val b
  if x.isNan || y.isNan then f.nan else
  let less := x.lt y || (!y.lt x && decide (b < a))
  if less != isMax then a else b

/-- Narrow a binary32 pattern to a format, rounding once (VNARR, R196); widen one exactly (VWIDL, VWIDH). -/
def Fmt.narrow (f : Fmt) (w : Nat) : Nat := f.bits (f32.val w)
def Fmt.widen (f : Fmt) (w : Nat) : Nat := f32.bits (f.val w)

/-- Integer to binary32, and binary32 to a saturating 32-bit integer, to nearest even (R196). -/
def cvtIF (v : Word) : Nat := f32.round (decide (v.toInt < 0)) v.toInt.natAbs 0

/-- A value m × 2^e rounded to an integer, to nearest even. -/
def roundInt (m : Nat) (e : Int) : Nat :=
  if 0 ≤ e then m * 2 ^ e.toNat else
  let sh := (-e).toNat
  let t := m / 2 ^ sh
  let rem := 2 * (m % 2 ^ sh)
  if 2 ^ sh < rem ∨ (rem = 2 ^ sh ∧ t % 2 = 1) then t + 1 else t

/-- An integer clamped to the signed range of `w` bits. -/
def satInt (w : Nat) (v : Int) : Int := max (-(2 ^ (w - 1) : Nat)) (min v ((2 ^ (w - 1) : Nat) - 1))

def cvtFI (w : Nat) : Word :=
  match f32.val w with
  | .nan => 0x80000000#32
  | .inf n => if n then 0x80000000#32 else 0x7FFFFFFF#32
  | .fin n m e => BitVec.ofInt 32 (satInt 32 (if n then -(roundInt m e : Int) else roundInt m e))

/-! ### W320 (R218 to R222) -/

def W320.zero : W320 := { val := 0, pinf := false, ninf := false, nan := false }

/-- Sum: modulo 2^320, flags ORed (R220). -/
def W320.add (a b : W320) : W320 :=
  { val := a.val + b.val, pinf := a.pinf || b.pinf, ninf := a.ninf || b.ninf, nan := a.nan || b.nan }

/-- The W320 of a value of a format (R219). -/
def W320.ofVal : FVal → W320
  | .nan => { W320.zero with nan := true }
  | .inf n => if n then { W320.zero with ninf := true } else { W320.zero with pinf := true }
  | .fin n m e =>
    let x : Int := ((m : Int) * 2 ^ (e + 160).toNat) / 2 ^ (-(e + 160)).toNat
    { W320.zero with val := BitVec.ofInt 320 (if n then -x else x) }

/-- The W320 of an integer. -/
def W320.ofInt (i : Int) : W320 := { W320.zero with val := BitVec.ofInt 320 (i * 2 ^ 160) }

/-- Round to a binary format (R205): flags first. -/
def W320.toFmt (f : Fmt) (w : W320) : Nat :=
  if w.nan || (w.pinf && w.ninf) then f.nan
  else if w.pinf then f.inf false
  else if w.ninf then f.inf true
  else f.round (decide (w.val.toInt < 0)) w.val.toInt.natAbs (-160)

/-- Round to a saturating signed 64-bit integer (R205). -/
def W320.toI64 (w : W320) : Dword :=
  if w.nan || (w.pinf && w.ninf) then 0x8000000000000000#64
  else if w.pinf then 0x7FFFFFFFFFFFFFFF#64
  else if w.ninf then 0x8000000000000000#64
  else
    let v := w.val.toInt
    let r : Int := roundInt v.natAbs (-160)
    BitVec.ofInt 64 (satInt 64 (if v < 0 then -r else r))

/-- Limb `j`. -/
def W320.limb (w : W320) (j : Nat) : Word := w32 (w.val.toNat >>> (32 * j))

/-- The sparse-limb form: the header and the limbs that are not zero (R222). -/
def W320.pack (w : W320) : List Word :=
  let js := (List.range 10).filter (fun j => w.limb j ≠ 0)
  w32 ((js.map (fun j => 2 ^ j)).sum + 1024 * b2n w.pinf + 2048 * b2n w.ninf + 4096 * b2n w.nan) :: js.map w.limb

/-- Words of a form, by its header. -/
def formLen (h : Word) : Nat := 1 + ((List.range 10).filter (fun j => bit h j)).length

/-- The value that a header and its limbs stand for. -/
def W320.unpack (h : Word) (limbs : List Word) : W320 :=
  let js := (List.range 10).filter (fun j => bit h j)
  { val := BitVec.ofNat 320 ((js.zip limbs).map (fun p => p.2.toNat <<< (32 * p.1))).sum,
    pinf := bit h 10, ninf := bit h 11, nan := bit h 12 }

/-- The 48-byte memory image (R203), and the value of one. -/
def W320.image (w : W320) : List Byte :=
  leBytes 40 w.val.toNat ++ leBytes 1 (b2n w.pinf + 2 * b2n w.ninf + 4 * b2n w.nan) ++ leBytes 7 0

def W320.ofImage (b : List Byte) : W320 :=
  let f := leAt b 40 1
  { val := BitVec.ofNat 320 (leAt b 0 40), pinf := decide (f % 2 = 1), ninf := decide (f / 2 % 2 = 1),
    nan := decide (f / 4 % 2 = 1) }

end Sys2Proof.Machine
end

