-- ==== Sys2Proof/Machine/Sketch.lean ====
section
/-!
DEFINITION. Order statistics as values (R248 to R257, R268 to R275): log-bucket histograms, quantiles, exact top-k lists, their
wire forms, and the arithmetic of drift.
-/

namespace Sys2Proof.Machine

/-! ### Ordered keys (R211) -/

/-- The ordered key of a value of type 0 F32, 1 I32, 2 U32, and its inverse. -/
def toKey (ty : Nat) (x : Word) : Word :=
  if ty = 2 then x
  else if ty = 1 then x ^^^ 0x80000000#32
  else
    let x := if x = 0x80000000#32 then 0 else if (f32.val x.toNat).isNan then 0x7FC00000#32 else x
    if bit x 31 then ~~~x else x ^^^ 0x80000000#32

def ofKey (ty : Nat) (k : Word) : Word :=
  if ty = 2 then k
  else if ty = 1 then k ^^^ 0x80000000#32
  else if bit k 31 then k ^^^ 0x80000000#32 else ~~~k

/-! ### Histograms (R248 to R250) -/

def Hist.signed (v : Hist) : Bool := bit v.h 27
def Hist.vtype (v : Hist) : Nat := fld v.h 26 24
/-- Scale exponent E. -/
def Hist.scale (v : Hist) : Int := (BitVec.ofNat 8 (fld v.h 23 16)).toInt
def Hist.sat (v : Hist) : Bool := bit v.h 0
/-- H as merging compares it: FORM, SIGNED, VTYPE and E. -/
def Hist.kind (h : Word) : Nat := fld h 31 16

/-- Words of the memory image. -/
def Hist.words (v : Hist) : Nat := if v.signed then 4112 else 2064

def Hist.count (v : Hist) (i : Nat) : Word := Store.get 0 v.cnt i

/-- Add to a count, saturating; SAT records it (R250). -/
def Hist.inc (v : Hist) (i n : Nat) (poi : Bool) : Hist :=
  let s := (v.count i).toNat + n
  { h := if 2 ^ 32 ≤ s then v.h ||| 1 else v.h,
    cnt := Store.set 0 v.cnt i (w32 (min s 0xFFFFFFFF)),
    poi := if poi then Store.put v.poi i true else v.poi }

/-- An exact value of an integer. -/
def intVal (i : Int) : FVal := .fin (decide (i < 0)) i.natAbs 0

/-- The value of a word (or of a pair of words for I64) of a histogram's type (Table 8-1). -/
def histVal (vtype : Nat) (x : Dword) : FVal :=
  if vtype = 0 then intVal ((x.setWidth 32).toInt)
  else if vtype = 1 then intVal (x.setWidth 32).toNat
  else if vtype = 2 then f32.val (x.setWidth 32).toNat
  else intVal x.toInt

/-- The word of Table 8-1 that counts a value (R249). -/
def Hist.classOf (v : Hist) (x : FVal) : Nat :=
  match x with
  | .nan => 3
  | .inf neg => if neg then (if v.signed then 8 else 4) else 6
  | .fin neg m e =>
    if m = 0 then 2
    else if neg ∧ !v.signed then 4
    else
      let l : Int := (Nat.log2 m : Int) + e
      if l < v.scale then (if neg then 7 else 5)
      else if v.scale + 16 ≤ l then (if neg then 8 else 6)
      else
        let j := m * 128 / 2 ^ Nat.log2 m - 128
        (if neg then 2064 else 16) + 128 * (l - v.scale).toNat + j

/-- Count one value. -/
def Hist.add (v : Hist) (x : FVal) (poi : Bool) : Hist := v.inc (v.classOf x) 1 poi

/-- The empty form of a part (R255). -/
def Hist.empty (part : Nat) : Hist := { h := w32 (0x10000000 + part <<< 11), cnt := [], poi := [] }

/-- Whether a histogram is the empty form that stands for no present input (R238). -/
def Hist.isEmpty (v : Hist) : Bool := decide (fld v.h 31 12 = 0x10000 ∧ fld v.h 10 0 = 0) && v.cnt.isEmpty

/-- Merge two histograms of one kind: saturating sums word by word, SAT ORed (R250). -/
def Hist.merge (a b : Hist) : Hist :=
  let v := b.cnt.foldl (fun v p => v.inc p.1 p.2.toNat false) a
  { v with h := v.h ||| (b.h &&& 1), poi := b.poi.foldl (fun m p => Store.put m p.1 p.2) v.poi }

/-! ### Quantiles (R251, R252) -/

/-- The class codes of R252 with their words, ascending by value. -/
def Hist.order (v : Hist) : List (Nat × Nat) :=
  [(1, 4), (2, 8)] ++ (if v.signed then (List.range 2048).reverse.map (fun b => (3, 2064 + b)) else []) ++
  [(4, 7), (5, 2), (6, 5)] ++ (List.range 2048).map (fun b => (7, 16 + b)) ++ [(8, 6)]

/-- N: the count of every class of the order. -/
def Hist.total (v : Hist) : Nat := (v.cnt.filter (fun p => decide (p.1 ≠ 3))).foldl (fun n p => n + p.2.toNat) 0

/-- The first class at which the running count reaches `r`: code, word, count before it. -/
def reach (v : Hist) (r : Nat) : List (Nat × Nat) → Nat → Option (Nat × Nat × Nat)
  | [], _ => none
  | (c, w) :: t, run =>
    let n := (v.count w).toNat
    if r ≤ run + n ∧ n ≠ 0 then some (c, w, run) else reach v r t (run + n)

/-- Bucket number of a class word. -/
def bucketOf (c w : Nat) : Nat := if c = 7 then w - 16 else if c = 3 then w - 2064 else 0

/-- The representative of a class: sign and exact value (R251). -/
def Hist.repr (v : Hist) (c w : Nat) : FVal :=
  if c = 3 ∨ c = 7 then
    let b := bucketOf c w
    .fin (decide (c = 3)) (128 + b % 128) (v.scale + (b / 128 : Nat) - 7)
  else if c = 2 ∨ c = 8 then .fin (decide (c = 2)) 1 (v.scale + 16)
  else .fin false 0 0

/-- The quantile Q / 65,536 of a histogram that holds something: class code, word, count before it. -/
def Hist.quantile (v : Hist) (q : Nat) : Option (Nat × Nat × Nat) :=
  let n := v.total
  if n = 0 then none else reach v (max 1 ((q * n + 65535) / 65536)) v.order 0

/-- The representative as an integer, floored (used where a result is a count of tk, R267). -/
def FVal.toInt : FVal → Int
  | .fin neg m e =>
    let a : Int := ((m * 2 ^ e.toNat : Nat) : Int)
    let v := if neg then -a else a
    v / (2 ^ (-e).toNat : Nat)
  | _ => 0

/-! ### Wire form of a histogram part (R255) -/

/-- Words 2 to 6 of the wire form of a part, as words of Table 8-1. -/
def partWords (part : Nat) : List (Option Nat) :=
  if part = 0 then [some 2, some 3, some 4, some 5, some 6] else [some 7, some 8, none, none, none]

def partBase (part : Nat) : Nat := if part = 0 then 16 else 2064

/-- Cut maximal runs into pieces of 256 buckets from their first bucket; `fuel` bounds the pieces. -/
def cutRun : Nat → Nat × Nat → List (Nat × Nat)
  | 0, r => [r]
  | fuel + 1, (f, l) => if 256 < l then (f, 256) :: cutRun fuel (f + 256, l - 256) else [(f, l)]

/-- Maximal runs of ascending bucket numbers. -/
def maxRuns : List Nat → List (Nat × Nat)
  | [] => []
  | b :: t =>
    match maxRuns t with
    | (f, l) :: r => if f = b + 1 then (b, l + 1) :: r else (b, 1) :: (f, l) :: r
    | [] => [(b, 1)]

/-- The wire form of a part, with its poison. -/
def Hist.wire (v : Hist) (part : Nat) : List (Word × Bool) :=
  let base := partBase part
  let get := fun i => (v.count i, Store.get false v.poi i)
  let bs := (v.cnt.filter (fun p => decide (base ≤ p.1 ∧ p.1 < base + 2048))).map (fun p => p.1 - base)
  let runs := (maxRuns bs).flatMap (cutRun 8)
  (setFld v.h 11 11 part, false) :: (w32 runs.length, false) ::
    ((partWords part).map (fun o => match o with | some i => get i | none => (0, false)) ++
     runs.flatMap (fun r => (w32 (r.1 <<< 16 + r.2), false) :: (List.range r.2).map (fun k => get (base + r.1 + k))))

/-- Read the runs of a part: the buckets in ascending order, canonical (R255, R257). `prev` is the last run. -/
def readRuns (base : Nat) : Nat → Option (Nat × Nat) → List (Word × Bool) → Hist → Option (Hist × List (Word × Bool))
  | 0, _, ws, v => some (v, ws)
  | _ + 1, _, [], _ => none
  | n + 1, prev, (r, rp) :: ws, v =>
    let f := fld r 26 16
    let l := fld r 8 0
    let okPrev : Bool := match prev with
      | none => true
      | some (pf, pl) => decide (pf + pl < f) || (decide (pf + pl = f) && decide (pl = 256))
    if !okPrev ∨ l = 0 ∨ 256 < l ∨ 2048 < f + l ∨ fld r 31 27 ≠ 0 ∨ fld r 15 9 ≠ 0 ∨ ws.length < l then none else
    let cs := ws.take l
    if cs.any (fun c => c.1 == 0) then none else
    let v := (List.range l).foldl (fun (v : Hist) k =>
      let c := cs.getD k (0, false)
      v.inc (base + f + k) c.1.toNat (c.2 || rp)) v
    readRuns base n (some (f, l)) (ws.drop l) v

/-- Read a part in wire form; the words left over (R255). -/
def readHist (part : Nat) (ws : List (Word × Bool)) : Option (Hist × List (Word × Bool)) :=
  match ws with
  | (h, hp) :: (n, np) :: rest =>
    if fld h 31 28 ≠ 1 ∨ 4 ≤ fld h 26 24 ∨ fld h 15 12 ≠ 0 ∨ fld h 11 11 ≠ part ∨ fld h 10 1 ≠ 0 ∨
        fld n 31 11 ≠ 0 ∨ rest.length < 5 then none else
    let v : Hist := { h := h, cnt := [], poi := if hp || np then [(0, true)] else [] }
    let hd := (partWords part).zip rest
    if hd.any (fun p => p.1.isNone && p.2.1 != 0) then none else
    let v := hd.foldl (fun v p => match p.1 with | some i => v.inc i p.2.1.toNat p.2.2 | none => v) v
    match readRuns (partBase part) n.toNat none (rest.drop 5) v with
    | none => none
    | some (v, ws) => some ({ v with h := h }, ws)
  | _ => none

/-! ### Exact top-k (R253, R254) -/

def TopK.dir (v : TopK) : Bool := bit v.h 27
def TopK.vtype (v : TopK) : Nat := fld v.h 26 24
def TopK.max (v : TopK) : Nat := fld v.h 8 0

/-- Whether key `a` ranks before key `b`. -/
def rankBefore (dir : Bool) (vtype : Nat) (a b : Key) : Bool :=
  let less := fun (x y : Dword) => if vtype = 0 then decide (x.toInt < y.toInt) else decide (x.toNat < y.toNat)
  let better := fun x y => if dir then less x y else less y x
  if a.val ≠ b.val then better a.val b.val
  else if a.place ≠ b.place then decide (a.place.toNat < b.place.toNat)
  else decide (a.seq.toNat < b.seq.toNat)

/-- Insert a key by rank. -/
def insKey (dir : Bool) (vtype : Nat) (k : Key) : List Key → List Key
  | [] => [k]
  | a :: t => if rankBefore dir vtype k a then k :: a :: t else a :: insKey dir vtype k t

/-- Keep the best K of the held keys and one more. -/
def TopK.put (v : TopK) (k : Key) : TopK :=
  { v with keys := (insKey v.dir v.vtype k v.keys).take v.max, poi := v.poi || k.poi }

/-- Offer a value: F32 values are held as ordered keys, and a NaN is counted (R254). -/
def TopK.offer (v : TopK) (val : Dword) (place seq : Word) (poi : Bool) : TopK :=
  let v := { v with seen := v.seen + 1, poi := v.poi || poi }
  if v.vtype = 2 then
    let x : Word := val.setWidth 32
    if (f32.val x.toNat).isNan then { v with nanc := v.nanc + 1, npoi := v.npoi || poi }
    else v.put { val := (toKey 0 x).setWidth 64, place := place, seq := seq, poi := poi }
  else v.put { val := val, place := place, seq := seq, poi := poi }

/-- Merge two lists of one H. -/
def TopK.merge (a b : TopK) : TopK :=
  let v := b.keys.foldl TopK.put a
  { v with seen := a.seen + b.seen, nanc := a.nanc + b.nanc, poi := a.poi || b.poi, npoi := a.npoi || b.npoi }

def TopK.empty : TopK := { h := 0x20000000#32, keys := [], seen := 0, nanc := 0, poi := false, npoi := false }
def TopK.isEmpty (v : TopK) : Bool := v.h == 0x20000000#32

/-- Words 0 to 4, then the entries (R256). -/
def TopK.wire (v : TopK) : List (Word × Bool) :=
  [(v.h, false), (w32 v.keys.length, v.poi), (v.seen.setWidth 32, v.poi), (hiOf v.seen.toNat, v.poi), (v.nanc, v.npoi)] ++
    v.keys.flatMap (fun k => [(k.val.setWidth 32, k.poi), (hiOf k.val.toNat, k.poi), (k.place, k.poi), (k.seq, k.poi)])

/-- Whether an H word of a top-k list is in range. -/
def topkOk (h : Word) : Bool := decide (fld h 31 28 = 2 ∧ fld h 26 24 < 3 ∧ 1 ≤ fld h 8 0 ∧ fld h 8 0 ≤ 256)

/-- Read `n` entries. -/
def readKeys : Nat → List (Word × Bool) → Option (List Key × List (Word × Bool))
  | 0, ws => some ([], ws)
  | n + 1, a :: b :: c :: d :: ws =>
    match readKeys n ws with
    | none => none
    | some (ks, ws) =>
      some ({ val := BitVec.ofNat 64 (hiLo b.1 a.1), place := c.1, seq := d.1, poi := a.2 || b.2 || c.2 || d.2 } :: ks, ws)
  | _ + 1, _ => none

/-- Whether keys stand in rank order. -/
def ranked (dir : Bool) (vtype : Nat) : List Key → Bool
  | a :: b :: t => !rankBefore dir vtype b a && ranked dir vtype (b :: t)
  | _ => true

/-- Read a list in wire form; the empty form is accepted as the list that holds nothing (R256). -/
def readTopK (ws : List (Word × Bool)) : Option (TopK × List (Word × Bool)) :=
  match ws with
  | h :: n :: s0 :: s1 :: nc :: rest =>
    let empty := decide (h.1 = 0x20000000#32)
    if (!topkOk h.1 && !empty) ∨ fld h.1 8 0 < n.1.toNat ∨ fld h.1 23 9 ≠ 0 then none else
    match readKeys n.1.toNat rest with
    | none => none
    | some (ks, ws) =>
      if !ranked (bit h.1 27) (fld h.1 26 24) ks then none else
      some ({ h := h.1, keys := ks, seen := BitVec.ofNat 64 (hiLo s1.1 s0.1), nanc := nc.1,
              poi := n.2 || s0.2 || s1.2 || h.2, npoi := nc.2 || h.2 }, ws)
  | _ => none

/-! ### Drift arithmetic (R271 to R275) -/

/-- The running mean takes a value in (R271). -/
def ewmaStep (seeded : Bool) (e x : BitVec 320) (kew : Nat) : BitVec 320 :=
  if seeded then e + (x - e).sshiftRight kew else x

/-- The sums of R272 over the valid slots, given as pairs of offset u and value x × 2^160: numerator (× 2^160) and
denominator. -/
def slopeFrac (ps : List (Nat × Int)) : Int × Int :=
  let n : Int := ps.length
  let su : Int := (ps.map (fun p => (p.1 : Int))).sum
  let sx : Int := (ps.map (fun p => p.2)).sum
  let sux : Int := (ps.map (fun p => (p.1 : Int) * p.2)).sum
  let suu : Int := (ps.map (fun p => (p.1 : Int) * (p.1 : Int))).sum
  (n * sux - su * sx, n * suu - su * su)

/-- The exact quotient num / den × 2^-160 rounded once to binary32: the quotient is taken far beyond the format with a sticky
bit below it. -/
def quotF32 (num den : Int) : Nat :=
  if den = 0 then f32.nan
  else if num = 0 then 0
  else
    let a := num.natAbs * 2 ^ 512
    let d := den.natAbs
    let q := 2 * (a / d) + (if a % d = 0 then 0 else 1)
    f32.round (decide ((num < 0) ≠ (den < 0))) q (-160 - 513)

end Sys2Proof.Machine
end

