-- ==== Sys2Proof/Machine/Reduce.lean ====
section
/-!
DEFINITION. The wide-sum reducers (R223 to R246): elements and their combine, contributions, cuts, half-partials, the span
combine, broadcasts down both trees and what waits for delivery. The commands that run them stand in Combine.lean.
-/

namespace Sys2Proof.Machine

/-- A word with its poison. -/
abbrev PWord := Word × Bool

/-! ### Elements (R224 to R226, R233, R234) -/

/-- KIND and OPT of an element byte. -/
def elKind (b : Nat) : Nat := b / 16
def elOpt (b : Nat) : Nat := b % 16

/-- The empty element (R238). -/
def elemEmpty (b : Nat) : ElemV :=
  ⟨if elKind b = 1 then .sum W320.zero else if elKind b = 2 then .i96 0
   else if elKind b = 3 ∨ elKind b = 4 then .ext true 0 0x80000000#32
   else if elKind b = 5 then .hist (Hist.empty (elOpt b)) else .topk TopK.empty, false⟩

/-- Order of sources among equal values: place address, then role code. -/
def srcKey (w : Word) : Nat := 4 * fld w 27 0 + fld w 29 28

/-- Whether the value of source `sb` displaces that of `sa` in a MIN (KIND 3) or MAX. -/
def extBetter (kind : Nat) (va : Dword) (sa : Word) (vb : Dword) (sb : Word) : Bool :=
  if vb = va then decide (srcKey sb < srcKey sa)
  else if kind = 3 then decide (vb.toInt < va.toInt) else decide (va.toInt < vb.toInt)

/-- Combine two elements of one descriptor byte; none when their H words disagree (R233, R250, R254, R257). -/
def elemCombine (b : Nat) (x y : ElemV) : Option ElemV :=
  match x.e, y.e with
  | .sum a, .sum c => some ⟨.sum (a.add c), x.poi || y.poi⟩
  | .i96 a, .i96 c => some ⟨.i96 (a + c), x.poi || y.poi⟩
  | .ext ea va sa, .ext eb vb sb =>
    if eb then some x else if ea then some y
    else some ⟨if extBetter (elKind b) va sa vb sb then y.e else x.e, x.poi || y.poi⟩
  | .hist a, .hist c =>
    if c.isEmpty && c.poi.isEmpty then some x else if a.isEmpty && a.poi.isEmpty then some y
    else if Hist.kind a.h ≠ Hist.kind c.h then none
    else some ⟨.hist (a.merge c), x.poi || y.poi⟩
  | .topk a, .topk c =>
    if c.isEmpty then some x else if a.isEmpty then some y
    else if a.h ≠ c.h then none else some ⟨.topk (a.merge c), x.poi || y.poi⟩
  | _, _ => none

/-- SAT of a histogram element. -/
def ElemV.sat (v : ElemV) : Bool := match v.e with | .hist h => h.sat | _ => false

/-- The words of an element: as it travels between nodes, never rounded, or as it is delivered (R221, R222, Table 7-2). -/
def elemWords (b : Nat) (dlv : Bool) (v : ElemV) : List PWord :=
  match v.e with
  | .sum w =>
    let ws := if !dlv ∨ elOpt b = 0 then w.pack
      else if elOpt b = 1 then [w32 (w.toFmt f32)]
      else
        let n := if elOpt b = 2 then w.toFmt f64 else w.toI64.toNat
        [loOf n, hiOf n]
    ws.map (fun x => (x, v.poi))
  | .i96 w => [(w.setWidth 32, v.poi), ((w >>> 32).setWidth 32, v.poi), ((w >>> 64).setWidth 32, v.poi)]
  | .ext e x src =>
    if e then [(0, false), (0, false), (0x80000000#32, false)]
    else [(loOf x.toNat, v.poi), (hiOf x.toNat, v.poi), (src, v.poi)]
  | .hist h => h.wire (elOpt b)
  | .topk k => k.wire

/-- Read one element; `src` is the source word of a contribution, none in a half or result (R227, R228). -/
def readElem (b : Nat) (src : Option Word) (ws : List PWord) : Option (ElemV × List PWord) :=
  if elKind b = 1 then
    match ws with
    | [] => none
    | h :: t =>
      let n := formLen h.1 - 1
      if fld h.1 31 13 ≠ 0 ∨ t.length < n then none
      else some (⟨.sum (W320.unpack h.1 ((t.take n).map Prod.fst)), h.2 || (t.take n).any Prod.snd⟩, t.drop n)
  else if elKind b = 2 then
    match ws with
    | x :: y :: z :: t =>
      some (⟨.i96 (BitVec.ofNat 96 (x.1.toNat + y.1.toNat <<< 32 + z.1.toNat <<< 64)), x.2 || y.2 || z.2⟩, t)
    | _ => none
  else if elKind b = 3 ∨ elKind b = 4 then
    match src, ws with
    | some sw, x :: y :: t => some (⟨.ext false (BitVec.ofNat 64 (hiLo y.1 x.1)) sw, x.2 || y.2⟩, t)
    | none, x :: y :: z :: t =>
      if bit z.1 31 then some (elemEmpty b, t)
      else some (⟨.ext false (BitVec.ofNat 64 (hiLo y.1 x.1)) z.1, x.2 || y.2 || z.2⟩, t)
    | _, _ => none
  else if elKind b = 5 then (readHist (elOpt b) ws).map (fun p => (⟨.hist p.1, p.1.poi.any (·.2)⟩, p.2))
  else if elKind b = 6 then (readTopK ws).map (fun p => (⟨.topk p.1, p.1.poi || p.1.keys.any (·.poi)⟩, p.2))
  else none

/-- Read the elements of the bytes `bs`; `want` tells which of them are present, an absent one is empty. -/
def readElems (src : Option Word) (want : Nat → Bool) : List Nat → Nat → List PWord → Option (List ElemV × List PWord)
  | [], _, ws => some ([], ws)
  | b :: bs, i, ws =>
    match (if want i then readElem b src ws else some (elemEmpty b, ws)) with
    | none => none
    | some (v, ws) => (readElems src want bs (i + 1) ws).map (fun p => (v :: p.1, p.2))

/-! ### The reduction descriptor (Table 7-1, R223, R257) -/

/-- Worst-case words of an element (R257). -/
def elWorst (b : Nat) : Nat :=
  match elKind b with | 1 => 11 | 2 => 3 | 3 => 2 | 4 => 2 | 5 => 2063 | _ => 1029

/-- Whether an element byte is listed in Table 7-2. -/
def elOk (b : Nat) : Bool :=
  match elKind b with
  | 1 => decide (elOpt b < 4)
  | 2 => decide (elOpt b = 0)
  | 3 => decide (elOpt b = 0)
  | 4 => decide (elOpt b = 0)
  | 5 => decide (elOpt b < 2)
  | 6 => decide (elOpt b = 0)
  | _ => false

/-- Whether a reduction descriptor lies within the ranges of Table 7-1 and R257. -/
def redOk (b : List Byte) : Bool :=
  let nel := leAt b 1 1
  let els := (List.range nel).map (fun i => leAt b (16 + i) 1)
  decide (leAt b 0 1 / 64 ≠ 0) && decide (leAt b 0 1 / 16 % 2 = 0) && decide (1 ≤ nel ∧ nel ≤ 64) &&
  decide (leAt b 2 1 ≤ nel) && decide (leAt b 3 1 = 0) && decide (leAt b 10 1 < 32) && decide (leAt b 11 1 = 0) &&
  els.all elOk && decide (leAt b (16 + nel) (64 - nel) = 0) && decide (2 + (els.map elWorst).sum ≤ 4096)

/-- RID of a reduction descriptor, and the reduction as it stands at the start of a generation. -/
def redRid (b : List Byte) : Nat := leAt b 0 1 % 16

def redOf (b : List Byte) (exp : Nat) : Reduction :=
  { scope := leAt b 0 1 / 64, dies := decide (leAt b 0 1 / 32 % 2 = 1), nel := leAt b 1 1, split := leAt b 2 1,
    dline := (if leAt b 4 4 = 0 then 20000 else leAt b 4 4), hop := (if leAt b 8 2 = 0 then 500 else leAt b 8 2),
    dlv := leAt b 10 1, rq := leAt b 12 2, sq := leAt b 14 2,
    els := (List.range (leAt b 1 1)).map (fun i => leAt b (16 + i) 1), exp := exp, turns := [], results := [], last := [],
    closed := none, bases := [], lastTurn := 0, lastA := 0, lastB := 0, lastMiss := 0, lastTrunc := false }

/-! ### Tables of the reducers -/

def Bcast.fresh : Bcast :=
  { a := none, b := none, sitesA := 0, sitesB := 0, exp := 0, at_ := 0, asked := false, done := false, reqA := [], reqB := [] }

def RTurn.fresh : RTurn :=
  { base := none, own := none, dies := [], tray := none, kidsA := [], kidsB := [], halfA := none, halfB := none,
    site := .fresh, fleet := .fresh, sitesA := [], sitesB := [], siteAt := none, list := none, listAt := 0, handed := false,
    askedSpan := false, repA := 0, repB := 0 }

def Blk.reduction (s : Blk) (c r : Nat) : Option Reduction := Store.look s.red.reds (16 * c + r)
def Blk.modReduction (s : Blk) (c r : Nat) (f : Reduction → Reduction) : Blk :=
  match s.reduction c r with
  | some v => s.modRed (fun m => { m with reds := Store.put m.reds (16 * c + r) (f v) })
  | none => s

/-- Reductions of a collection, by RID. -/
def Blk.redsOf (s : Blk) (c : Nat) : List Nat := (List.range 16).filter (fun r => (s.reduction c r).isSome)

/-- The entry of a turn, and an update of it. -/
def Reduction.turnOr (v : Reduction) (n : Word) : RTurn := (Store.look v.turns n.toNat).getD RTurn.fresh
def Blk.rturn (s : Blk) (c r : Nat) (n : Word) : Option RTurn :=
  (s.reduction c r).bind (fun v => Store.look v.turns n.toNat)
def Blk.modTurn (s : Blk) (c r : Nat) (n : Word) (f : RTurn → RTurn) : Blk :=
  s.modReduction c r (fun v => { v with turns := Store.put v.turns n.toNat (f (v.turnOr n)) })

/-- Keys of the open turns in turn order: the signed distance from START orders them. -/
def Blk.turnsUp (s : Blk) (c r : Nat) : List Word :=
  match s.reduction c r with
  | none => []
  | some v =>
    let st := (s.coll c).start
    ((Store.keys v.turns).map w32).foldl (fun l n => l.takeWhile (fun m => decide (sdiff m st ≤ sdiff n st)) ++ [n] ++
      l.dropWhile (fun m => decide (sdiff m st ≤ sdiff n st))) []

/-- Participants of the own site in turn `n`, and whether this instance stands in the trees. -/
def Blk.treeOf (s : Blk) (c : Nat) (n : Word) : List Word := (s.coll c).partsAt (siteOf s.place) n
def Blk.inTree (s : Blk) (c : Nat) (n : Word) : Bool := (s.treeOf c n).contains s.place

/-- Whether a turn is complete at a tray: its result formed and both halves sent, where halves are sent. -/
def Blk.turnDone (s : Blk) (c : Nat) (v : Reduction) (n : Word) (t : RTurn) : Bool :=
  t.tray.isSome && (decide (v.scope = 1) || !s.inTree c n || (t.halfA.isSome && t.halfB.isSome))

/-- Turns open at this node (R229). -/
def Blk.openTurns (s : Blk) (c : Nat) (v : Reduction) : Nat :=
  (v.turns.filter (fun p => !s.turnDone c v (w32 p.1) p.2)).length

/-- Member dies of the start that are members (R26). -/
def Blk.diesNow (s : Blk) (c : Nat) : List Word := (s.coll c).dies.filter s.boot.members.contains

/-- Member dies expected to contribute to turn `n` (R26): those of the start that are members, from the first boundary after their
attach on. -/
def Blk.expected (s : Blk) (c : Nat) (n : Word) : List Word :=
  (s.diesNow c).filter (fun d => match Store.look (s.coll c).joins d.toNat with
    | some k => decide (0 ≤ sdiff n k)
    | none => true)

/-- EXP of a scope at a node (Table 7-3): trays of the scope and, under DIES, their member dies; those of other trays are the
fleet's (log 15). -/
def Blk.expOf (s : Blk) (c scope : Nat) (dies : Bool) : Nat :=
  let v := s.coll c
  let trays := if scope = 1 then [s.place] else v.parts.filter (fun p =>
    !v.excl.contains p && (decide (scope = 3) || decide (siteOf p = siteOf s.place)))
  (trays.map (fun p => 1 + (if !dies then 0 else if p = s.place then v.dies.length else Config.diesOf p.toNat))).sum

/-! ### Missing entries (R239, Table 7-4) -/

/-- A missing entry. -/
def missEntry (kind : Nat) (p : Word) : Word := w32 (kind <<< 29 + fld p 27 0)

/-- Whether entry `e` of a half of the trees over `ps` is wholly covered by entry `f` of the same half. -/
def covers (ps : List Word) (f e : Word) : Bool :=
  let kf := fld f 31 29
  let ke := fld e 31 29
  let pf := f &&& 0x0FFFFFFF#32
  let pe := trayOf (e &&& 0x0FFFFFFF#32)
  if f = e then false
  else if kf = 2 then decide (ke < 2) && pe == pf
  else if kf = 3 ∨ kf = 4 then decide (ke ≤ 2 ∨ ke = kf) && (subtreeIn ps (decide (kf = 4)) 20 pf).contains pe
  else false

/-- Entries combined: ascending, none twice, none that another covers, the lowest 1,024 (R239). -/
def missMerge (ps : List Word) (l : List Word) (trunc : Bool) : List Word × Bool :=
  let u := l.foldl (fun a e => insPlace e a) []
  let u := u.filter (fun e => !u.any (fun f => covers ps f e))
  (u.take 1024, trunc || decide (1024 < u.length))

/-- The entries of the halves that one list holds: ascending, none twice, the lowest 1,024. An entry of one half covers none of
the other (R239). -/
def missJoin (l : List Word) (trunc : Bool) : List Word × Bool :=
  let u := l.foldl (fun a e => insPlace e a) []
  (u.take 1024, trunc || decide (1024 < u.length))

/-! ### Malformed inputs and saturation -/

/-- A malformed contribution is counted and faults the collection (R228). -/
def Blk.malformed (s : Blk) (c : Nat) : Blk :=
  (s.count (.wsr .WSR_MALF_CNT) 1).modRed (fun m => { m with bad := insNat c m.bad })

/-- A late input is counted and dropped (R229). -/
def Blk.redLate (s : Blk) (c r : Nat) : Blk := (s.count (.wsr .WSR_LATE_CNT) 1).count (.wsr (.WSR_RD_LATE c r)) 1

/-- A sketch of collection `c` sets SAT in turn `n`, in a job of the unit of cluster `k` or, with 0, in a combine (R278). -/
def Blk.satSet (s : Blk) (k c : Nat) (n : Word) : Blk := (s.count (.sku .SKU_SAT_CNT) 1).emitAt 8 k 0x0A04 c n.toNat

/-- Combine a list of elements `b` into a list `a`; an input whose sketches disagree leaves the sum as it was and is malformed (R257); a
sketch of `a` whose SAT was clear and is set by it counts (R278). -/
def Blk.combine (s : Blk) (c : Nat) (n : Word) (els : List Nat) (a b : List ElemV) : Option (List ElemV) × Blk :=
  let rs := (els.zip (a.zip b)).map (fun p => (elemCombine p.1 p.2.1 p.2.2, p.2.1.sat))
  if rs.any (fun p => p.1.isNone) then (none, s.malformed c) else
  let vs := rs.filterMap Prod.fst
  (some vs, (vs.zip (rs.map Prod.snd)).foldl (fun s p => if p.1.sat && !p.2 then s.satSet 0 c n else s) s)

/-! ### Results on the fabric and at delivery (R238) -/

/-- The payload of a result or half: `which` has bit 0 for half A and bit 1 for half B. -/
def Blk.packResult (s : Blk) (c rid : Nat) (v : Reduction) (n : Word) (level which : Nat) (hA hB : Option RHalf)
    (exp : Nat) (sites : Nat × Nat) (dlv : Bool) : List PWord :=
  let pick := fun (i b : Nat) =>
    let h := if i < v.split then hA else hB
    match h with | some h => h.elems.getD i (elemEmpty b) | none => elemEmpty b
  let use := fun (i : Nat) => if i < v.split then decide (which % 2 = 1) else decide (which / 2 = 1)
  let body := ((List.range v.nel).filter use).flatMap (fun i => let b := v.els.getD i 0; elemWords b dlv (pick i b))
  let hs := (if which % 2 = 1 then hA.toList else []) ++ (if which / 2 = 1 then hB.toList else [])
  let (miss, mt) := missJoin (hs.flatMap RHalf.miss) (hs.any RHalf.mtrunc)
  let absA := decide (which % 2 = 1) && hA.isNone
  let absB := decide (which / 2 = 1) && hB.isNone
  let pres := fun (on : Bool) (h : Option RHalf) => if on then (match h with | some h => h.pres | none => 0) else 0
  [(w32 (level <<< 30 + which <<< 28 + rid <<< 24 + (b2n (body.any Prod.snd)) <<< 23 + (b2n mt) <<< 22 + (b2n absA) <<< 21 +
      (b2n absB) <<< 20 + (s.coll c).gen.toNat), false), (n, false), (w32 exp, false),
   (w32 (pres (decide (which % 2 = 1)) hA), false), (w32 (pres (decide (which / 2 = 1)) hB), false),
   (w32 miss.length, false), (w32 (if level = 3 then sites.1 + sites.2 <<< 8 else 0), false), (w32 body.length, false)] ++
   body ++ miss.map (fun e => (e, false))

/-- Words of a result payload that its header announces. -/
def resultLen (ws : List PWord) : Nat :=
  8 + (ws.getD 7 (0, false)).1.toNat + fld (ws.getD 5 (0, false)).1 15 0

/-- A half as read: reduction, level, half (false A), turn, EXP, sites and the half. -/
structure HalfIn where
  rid   : Nat
  level : Nat
  b     : Bool
  turn  : Word
  exp   : Nat
  sites : Nat
  half  : RHalf
  deriving DecidableEq, Repr

/-- Read a payload that carries one half of a reduction of collection `c`. -/
def Blk.readHalf (s : Blk) (c : Nat) (ws : List PWord) : Option HalfIn :=
  let w := fun i => (ws.getD i (0, false)).1
  let rid := fld (w 0) 27 24
  let which := fld (w 0) 29 28
  match s.reduction c rid with
  | none => none
  | some v =>
    if (which ≠ 1 ∧ which ≠ 2) ∨ ws.length < 8 ∨ ws.length ≠ resultLen ws then none else
    let b := decide (which = 2)
    match readElems none (fun i => decide (i < v.split) != b) v.els 0 ((ws.drop 8).take (w 7).toNat) with
    | some (es, []) =>
      some { rid := rid, level := fld (w 0) 31 30, b := b, turn := w 1, exp := (w 2).toNat,
             sites := (if b then fld (w 6) 15 8 else fld (w 6) 7 0),
             half := { elems := es, pres := (if b then (w 4).toNat else (w 3).toNat),
                       miss := (ws.drop (8 + (w 7).toNat)).map Prod.fst, mtrunc := bit (w 0) 22 } }
    | _ => none

/-- Cut words into frames of 4,096 bytes. -/
def frames4k : Nat → List PWord → List (List PWord)
  | 0, _ => []
  | fuel + 1, ws => if ws.length ≤ 1024 then [ws] else ws.take 1024 :: frames4k fuel (ws.drop 1024)

/-- Send words to a peer in class C3; a payload longer than one frame continues in the next frames. -/
def Blk.sendWords (s : Blk) (c : Nat) (dst : Word) (role ftype : Nat) (ws : List PWord) (turn : Option Word) : Blk :=
  (frames4k (ws.length / 1024 + 1) ws).foldl (fun s part =>
    s.sendMsg 3 dst role ftype (some (c, (s.coll c).gen)) (wordsBytes (part.map Prod.fst))
      (poimOf (4 * part.length) (fun i => (part.getD (i / 4) (0, false)).2)) turn) s

/-- The words of a frame with the poison of their chunks. -/
def Frame.words (f : Frame) : List PWord :=
  (List.range (f.payload.length / 4)).map (fun i => (wordAt f.payload i, f.poiAt (4 * i)))

/-! ### What waits for delivery (R246) -/

/-- Levels at which DLV delivers results at this instance. -/
def Blk.dlvLevels (s : Blk) (v : Reduction) : List Nat :=
  match s.role with
  | .span => if v.dlv / 8 % 2 = 1 ∧ v.scope = 3 then [2, 3] else []
  | .die => if v.dlv / 16 % 2 = 1 then [1, 2, 3].filter (fun l => decide (v.dlv / 2 ^ (l - 1) % 2 = 1 ∧ l ≤ v.scope)) else []
  | .tray => [1, 2, 3].filter (fun l => decide (v.dlv / 2 ^ (l - 1) % 2 = 1 ∧ l ≤ v.scope))

/-- Levels whose results belong to the turn history (R137): at a tray its own and those delivered, at a span those of the site and
the fleet. -/
def Blk.histLevels (s : Blk) (v : Reduction) : List Nat :=
  match s.role with
  | .span => if v.scope = 3 then [2, 3] else []
  | .tray => [1, 2, 3].filter (fun l => decide (l = 1) || (s.dlvLevels v).contains l)
  | .die => []

/-- A result is whole: it waits for its turn to be delivered, where DLV delivers its level, and for the history. -/
def Blk.resultReady (s : Blk) (c r : Nat) (x : RResult) : Blk :=
  match s.reduction c r with
  | none => s
  | some v =>
    let s := if (s.histLevels v).contains x.level then
        s.histAdd c x.turn (1 + 4 * r + x.level) ((x.words.zip x.poi).flatMap (fun w =>
          (leBytes 4 w.1.toNat).map (fun b => (b, w.2)))) else s
    if !(s.dlvLevels v).contains x.level ∨ sdiff x.turn (s.coll c).start < 0 ∨
        v.results.any (fun y => y.level == x.level && y.turn == x.turn) then s
    else s.modReduction c r (fun v => { v with results := v.results ++ [x] })

/-- A result by its delivered payload. -/
def resultOf (level : Nat) (n : Word) (ws : List PWord) : RResult :=
  { level := level, turn := n, words := ws.map Prod.fst, poi := ws.map Prod.snd, presA := (ws.getD 3 (0, false)).1.toNat,
    presB := (ws.getD 4 (0, false)).1.toNat, miss := fld (ws.getD 5 (0, false)).1 15 0,
    mtrunc := bit (ws.getD 0 (0, false)).1 22, pos := 0, sent := false }

/-! ### Down the trees (R244, R245) -/

def RTurn.bcast (t : RTurn) (level : Nat) : Bcast := if level = 3 then t.fleet else t.site
def RTurn.setBcast (t : RTurn) (level : Nat) (x : Bcast) : RTurn :=
  if level = 3 then { t with fleet := x } else { t with site := x }

/-- The frame words of a FETCH request, and the head of a reply. -/
def fetchHead (reply : Bool) (level rid : Nat) (b : Bool) (n : Word) : List PWord :=
  [(w32 (level <<< 30 + rid <<< 16 + (if b then 2 else 1) <<< 8 + (if reply then 2 else 1)), false), (n, false)]

/-- The result of a level is whole, or a half of it is given up: it waits for delivery. -/
def Blk.bcastDone (s : Blk) (c r : Nat) (n : Word) (level : Nat) : Blk :=
  match s.reduction c r, s.rturn c r n with
  | some v, some t =>
    let x := t.bcast level
    if x.done then s else
    let s := s.modTurn c r n (fun t => t.setBcast level { x with done := true })
    s.resultReady c r (resultOf level n (s.packResult c r v n level 3 x.a x.b x.exp (x.sitesA, x.sitesB) true))
  | _, _ => s

/-- Request the half that is wanting (R245): from the parent in the tree that brought the other half; a crown asks the other
crown. -/
def Blk.bcastAsk (s : Blk) (c r : Nat) (n : Word) (level : Nat) (b : Bool) : Blk :=
  match s.rturn c r n with
  | none => s
  | some t =>
    let x := t.bcast level
    let ps := s.treeOf c n
    if x.asked ∨ x.done ∨ !s.inTree c n then s else
    let target := match parentIn ps (!b) s.place with | some p => some p | none => crownIn ps b
    match target with
    | none => s
    | some p =>
      if p = s.place then s else
      (s.modTurn c r n (fun t => t.setBcast level { x with asked := true })).sendWords c p 2 ftFetch
        (fetchHead false level r b n) none

/-- A half of a broadcast reaches a tray, or starts at its crown (R244, R245): it is passed to the children in its tree and to
those that requested it; a second copy, or one after the result was given up, is dropped. -/
def Blk.bcastIn (s : Blk) (c r : Nat) (n : Word) (level : Nat) (b : Bool) (h : RHalf) (sites exp : Nat) : Blk :=
  match s.reduction c r with
  | none => s
  | some v =>
    let x := (v.turnOr n).bcast level
    let held := if b then x.b else x.a
    if x.done ∨ held.isSome then s else
    let other := if b then x.a else x.b
    let x' : Bcast := { x with
      a := (if b then x.a else some h), b := (if b then some h else x.b), sitesA := (if b then x.sitesA else sites),
      sitesB := (if b then sites else x.sitesB), exp := exp, at_ := (if other.isNone then s.tclk else x.at_),
      reqA := (if b then x.reqA else []), reqB := (if b then [] else x.reqB) }
    let s := s.modTurn c r n (fun t => t.setBcast level x')
    let ws := s.packResult c r v n level (if b then 2 else 1) (if b then none else some h) (if b then some h else none)
      exp (if b then (0, sites) else (sites, 0)) false
    let s := (kidsIn (s.treeOf c n) b s.place).foldl (fun s k => s.sendWords c k 2 ftReduce ws (some n)) s
    let s := (if b then x.reqB else x.reqA).foldl (fun s q =>
      s.sendWords c q.1 q.2 ftFetch (fetchHead true level r b n ++ ws) none) s
    if other.isSome then s.bcastDone c r n level else s

/-! ### Up the trees (R233, R236, R237) -/

/-- A tray's half-partial, formed when its inputs are there or at the cut (R236): combined, sent up, or, at a crown, handed to
the primary span instance or broadcast. -/
def Blk.tryHalf (s : Blk) (c r : Nat) (n : Word) (b force : Bool) : Blk :=
  match s.reduction c r, s.rturn c r n with
  | some v, some t =>
    match t.tray with
    | none => s
    | some own =>
      let sent := if b then t.halfB else t.halfA
      let got := if b then t.kidsB else t.kidsA
      let ps := s.treeOf c n
      let kids := kidsIn ps b s.place
      if v.scope = 1 ∨ sent.isSome ∨ !s.inTree c n ∨ (!force ∧ kids.any (fun k => (Store.look got k.toNat).isNone)) then s else
      let mine := fun (i : Nat) => decide (i < v.split) != b
      let es := (List.range v.nel).map (fun i =>
        if mine i then own.elems.getD i (elemEmpty (v.els.getD i 0)) else elemEmpty (v.els.getD i 0))
      let start : RHalf := { elems := es, pres := own.pres, miss := own.miss, mtrunc := own.mtrunc }
      let (h, s) := kids.foldl (fun (a : RHalf × Blk) k =>
        let lost : RHalf := { a.1 with miss := a.1.miss ++ [missEntry (if b then 4 else 3) k] }
        match Store.look got k.toNat with
        | none => (lost, a.2)
        | some x =>
          match a.2.combine c n v.els a.1.elems x.elems with
          | (none, s) => (lost, s)
          | (some es, s) => ({ elems := es, pres := a.1.pres + x.pres, miss := a.1.miss ++ x.miss,
                               mtrunc := a.1.mtrunc || x.mtrunc }, s)) (start, s)
      let up := parentIn ps b s.place
      let gone := if up.isSome then [] else
        ((s.coll c).parts.filter (fun p => decide (siteOf p = siteOf s.place) && !(s.coll c).excl.contains p &&
          !ps.contains p)).map (missEntry 2)
      let (miss, mt) := missMerge ps (h.miss ++ gone) h.mtrunc
      let h : RHalf := { h with miss := miss, mtrunc := mt }
      let s := s.modTurn c r n (fun t => if b then { t with halfB := some h } else { t with halfA := some h })
      let words := fun (level : Nat) => s.packResult c r v n level (if b then 2 else 1) (if b then none else some h)
        (if b then some h else none) (if level = 2 then s.expOf c 2 v.dies else v.exp) (0, 0) false
      match up with
      | some p => s.sendWords c p 2 ftReduce (words 0) (some n)
      | none =>
        if v.scope = 2 then s.bcastIn c r n 2 b h 0 (s.expOf c 2 v.dies)
        else
          let s := match s.parentPlace with
            | some p => s.sendWords c p 3 ftReduce (words 2) (some n)
            | none => s
          if v.dlv / 2 % 2 = 1 then s.bcastIn c r n 2 b h 0 (s.expOf c 2 v.dies) else s
  | _, _ => s

/-- A tray's result (R26, R233, R236): its own contribution, then those of its member dies in ascending place address, when all
that are expected are there or at the cut; the missing are listed, and with them what is no member. -/
def Blk.tryTray (s : Blk) (c r : Nat) (n : Word) (force : Bool) : Blk :=
  match s.reduction c r, s.rturn c r n with
  | some v, some t =>
    let full := t.own.isSome && (!v.dies || (s.expected c n).all (fun d => (Store.look t.dies d.toNat).isSome))
    if s.role ≠ .tray ∨ t.tray.isSome ∨ t.base.isNone ∨ (!force ∧ !full) then s else
    let ins : List (Word × Nat × Option (List ElemV)) := (s.place, 1, t.own) ::
      (if v.dies then (s.coll c).dies.map (fun d =>
        (d, 0, if (s.expected c n).contains d then Store.look t.dies d.toNat else none)) else [])
    let start : RHalf := { elems := v.els.map elemEmpty, pres := 0, miss := [], mtrunc := false }
    let (h, s) := ins.foldl (fun (a : RHalf × Blk) x =>
      let lost : RHalf := { a.1 with miss := a.1.miss ++ [missEntry x.2.1 x.1] }
      match x.2.2 with
      | none => (lost, a.2)
      | some es =>
        match a.2.combine c n v.els a.1.elems es with
        | (none, s) => (lost, s)
        | (some es, s) => ({ a.1 with elems := es, pres := a.1.pres + 1 }, s)) (start, s)
    let miss := if h.pres = 0 ∧ v.dies then [missEntry 2 s.place] else (missMerge [] h.miss false).1
    let h : RHalf := { h with miss := miss }
    let s := s.modTurn c r n (fun t => { t with tray := some h })
    let texp := s.expOf c 1 v.dies
    let s := s.resultReady c r (resultOf 1 n (s.packResult c r v n 1 3 (some h) (some h) texp (0, 0) true))
    (s.tryHalf c r n false false).tryHalf c r n true false
  | _, _ => s

/-- Drop the entries of turns that are acknowledged and have nothing left to do here, sixteen turns after (DESIGN CHOICE, log 22:
until then a request for a half of theirs is answered). -/
def Blk.redPrune (s : Blk) (c r : Nat) : Blk :=
  match s.reduction c r with
  | none => s
  | some v =>
    let ack := s.reg (.err (.ERR_Cc_ACK c))
    let far := fun (n : Word) => decide (sdiff n ack ≤ 0)
    let fin := fun (p : Nat × RTurn) =>
      let n := w32 p.1
      match s.role with
      | .span => p.2.handed && far (n + 16)
      | _ => far (n + 16) && s.turnDone c v n p.2 && (decide (v.scope = 1) || (p.2.bcast v.scope).done)
    let old := (v.turns.filter fin).map (fun p => w32 p.1)
    s.modReduction c r (fun v => { v with
      turns := v.turns.filter (fun p => !fin p),
      closed := old.foldl (fun (m : Option Word) n => match m with
        | some k => some (if 0 < sdiff n k then n else k) | none => some n) v.closed,
      results := v.results.filter (fun x => !(x.sent && far x.turn)) })

/-- The first turn that the tracker has opened and that waits for one of the four, if it may be opened now (R229, R235). -/
def Blk.baseDue (s : Blk) (c r : Nat) : Option (Nat × Nat) :=
  match s.reduction c r with
  | none => none
  | some v =>
    let st := (s.coll c).start
    (v.bases.foldl (fun (a : Option (Nat × Nat)) p => match a with
      | some q => if sdiff (w32 p.1) st < sdiff (w32 q.1) st then some p else a
      | none => some p) none).filter (fun p => (Store.look v.turns p.1).isSome || decide (s.openTurns c v < 4))

/-- Open the turns that wait, in turn order, while at most four are open (R229); `fuel` bounds them. -/
def Blk.openBases : Nat → Blk → Nat → Nat → Blk
  | 0, s, _, _ => s
  | fuel + 1, s, c, r =>
    match s.baseDue c r with
    | none => s
    | some (n, base) =>
      let s := s.modReduction c r (fun v => { v with bases := Store.del v.bases n })
      let gone := match (s.reduction c r).bind Reduction.closed with
        | some k => decide (sdiff (w32 n) k ≤ 0) | none => false
      let s := if gone then s else
        (s.modTurn c r (w32 n) (fun t => if t.base.isSome then t else { t with base := some base })).tryTray c r (w32 n) false
      Blk.openBases fuel s c r

/-- A boundary opens turn `n` of the tracker (R235): its reductions have their cuts from m(n) + P(n). A fifth turn waits (R229). -/
def Blk.redOpen (s : Blk) (c : Nat) (n : Word) (base : Nat) : Blk :=
  if s.role ≠ .tray ∨ sdiff n (s.coll c).start < 0 then s else
  (s.redsOf c).foldl (fun s r =>
    let s := s.modReduction c r (fun v => { v with bases := Store.put v.bases n.toNat ((Store.look v.bases n.toNat).getD base) })
    Blk.openBases 8 s c r) s

/-- The cuts of a turn at a tray (R235): the die cut and the cuts of trees A and B, as T64 values. -/
def Blk.cuts (s : Blk) (c : Nat) (v : Reduction) (n : Word) (base : Nat) : Int × Int × Int :=
  let all : Int := (base + v.dline * tkUs : Nat)
  if v.scope = 1 ∨ !s.inTree c n then (all, all, all) else
  let ps := s.treeOf c n
  let cut := fun (b : Bool) => all - ((depthIn ps b s.place * v.hop * tkUs : Nat) : Int)
  (min (cut false) (cut true) - ((v.hop * tkUs : Nat) : Int), cut false, cut true)

/-! ### Contributions (R227 to R230) -/

/-- Take a contribution apart (R227, R228): reduction, turn and elements. -/
def Blk.readContribution (s : Blk) (c : Nat) (src : Word) (ws : List PWord) : Option (Nat × Word × List ElemV) :=
  match ws with
  | (w0, p0) :: (w1, p1) :: rest =>
    if p0 ∨ p1 ∨ fld w0 31 4 ≠ 0 ∨ 4096 < ws.length then none else
    match s.reduction c (fld w0 3 0) with
    | none => none
    | some v =>
      match readElems (some src) (fun _ => true) v.els 0 rest with
      | some (es, []) => some (fld w0 3 0, w1, es)
      | _ => none
  | _ => none

/-- Whether a contribution of a turn must wait: four turns are open and it would open a fifth (R229). -/
def Blk.mustWait (s : Blk) (c r : Nat) (n : Word) : Bool :=
  match s.reduction c r with
  | none => false
  | some v =>
    s.role == .tray && (Store.look v.turns n.toNat).isNone && decide (0 ≤ sdiff n (s.coll c).start) &&
      !(match v.closed with | some k => decide (sdiff n k ≤ 0) | none => false) && decide (4 ≤ s.openTurns c v)

/-- Book a contribution of this tray (`die` none) or of a member die (R229). -/
def Blk.contribute (s : Blk) (c r : Nat) (n : Word) (die : Option Word) (es : List ElemV) : Blk :=
  match s.reduction c r with
  | none => s
  | some v =>
    let t := v.turnOr n
    let late := t.tray.isSome || (match v.closed with | some k => decide (sdiff n k ≤ 0) | none => false)
    let dup := match die with | none => t.own.isSome | some d => (Store.look t.dies d.toNat).isSome
    if sdiff n (s.coll c).start < 0 then s.count (.wsr .WSR_STALE_CNT) 1
    else if dup then s.count (.wsr .WSR_DUP_CNT) 1
    else if late then s.redLate c r
    else match die with
      | none => (s.modTurn c r n (fun t => { t with own := some es })).tryTray c r n false
      | some d =>
        if !v.dies ∨ !(s.expected c n).contains d then s
        else (s.modTurn c r n (fun t => { t with dies := Store.put t.dies d.toNat es })).tryTray c r n false

/-- Key of the message in progress of a source of collection `c`. -/
def chainKey (c : Nat) (src : Word) (role : Nat) (fetch : Bool) : Nat :=
  ((fld src 27 0 * 4 + role) * 2 + b2n fetch) * 64 + c
def localKey (c : Nat) : Nat := 2 ^ 40 + c

def Blk.chain (s : Blk) (k : Nat) : List PWord := Store.get [] s.red.chains k
def Blk.setChain (s : Blk) (k : Nat) (ws : List PWord) : Blk :=
  s.modRed (fun m => { m with chains := Store.set [] m.chains k ws })

/-- WSR_CTRL.EN, and the unit takes work (R247, R360). -/
def Blk.redEn (s : Blk) : Bool := bit (s.reg (.wsr .WSR_CTRL)) 0 && s.unitUp 0 7

/-- A contribution made at this instance (R227, R230): a die forwards it whole to its tray, a tray books it. -/
def Blk.localContribution (s : Blk) (c : Nat) (ws : List PWord) : Blk :=
  let role := roleCode s.role
  match s.readContribution c (w32 (role <<< 28 + fld s.place 27 0)) ws with
  | none => s.malformed c
  | some (r, n, es) =>
    if s.role = .die then
      if sdiff n (s.coll c).start < 0 then s.count (.wsr .WSR_STALE_CNT) 1
      else s.sendWords c (trayOf s.place) 2 ftReduce ws (some n)
    else s.contribute c r n none es

/-- Take the contributions that wait in the reducer-input queue of a collection; `fuel` bounds the tokens (R227, R229). -/
def Blk.pumpLocal : Nat → Blk → Nat → Blk
  | 0, s, _ => s
  | fuel + 1, s, c =>
    match (s.coll c).redq with
    | none => s
    | some q =>
      let k := localKey c
      match (s.q q).toks with
      | [] => s
      | t :: _ =>
        let hold := (s.chain k).isEmpty && s.mustWait c (fld (t.words.getD 0 0) 3 0) (t.words.getD 1 0)
        if hold ∨ (s.coll c).st ≠ .running then s else
        match s.takeTok q with
        | none => s
        | some (t, s) =>
          let ws := s.chain k ++ (List.range t.words.length).map (fun i => (t.words.getD i 0, t.poiChunk (i / 8)))
          if t.cont then Blk.pumpLocal fuel (s.setChain k ws) c
          else Blk.pumpLocal fuel ((s.setChain k []).localContribution c ws) c

/-- Take one frame of a die's contribution: whether it was taken, and the state then. A payload of 4,096 bytes that is not a
whole contribution is continued in the next frame. -/
def Blk.takeContribution (s : Blk) (f : Frame) (fc : Option Nat) : Bool × Blk :=
  let c := f.coll
  let k := chainKey c f.src f.srole false
  let ws := s.chain k ++ f.words
  let done := fun (s : Blk) => s.frameDone ⟨f, fc⟩
  if !s.redEn then (false, s) else
  match s.readContribution c (w32 (1 <<< 28 + fld f.src 27 0)) ws with
  | none =>
    if f.payload.length = 4096 ∧ ws.length < 4096 then (true, done (s.setChain k ws))
    else (true, (done (s.setChain k [])).malformed c)
  | some (r, n, es) =>
    if s.mustWait c r n then (false, s)
    else (true, (done (s.setChain k [])).contribute c r n (some f.src) es)

/-- The first word of the message that a REDUCE frame belongs to. -/
def Blk.headWord (s : Blk) (f : Frame) : Word :=
  match s.chain (chainKey f.coll f.src f.srole false) with
  | w :: _ => w.1
  | [] => wordAt f.payload 0

/-- LEVEL of a message; zero for a half-partial (Table 7-3). -/
def Blk.headLevel (s : Blk) (f : Frame) : Nat := fld (s.headWord f) 31 30

/-- Gather the payload of a message that may continue over frames of 4,096 bytes: the words of a whole one, behind `skip` words of
a FETCH reply. -/
def Blk.gather (s : Blk) (t : Taken) (fetch : Bool) : Option (List PWord) × Blk :=
  let f := t.f
  let k := chainKey f.coll f.src f.srole fetch
  let skip := if fetch then 2 else 0
  let ws := s.chain k ++ f.words
  let s := s.frameDone t
  if skip + 8 ≤ ws.length ∧ skip + resultLen (ws.drop skip) ≤ ws.length then (some ws, s.setChain k [])
  else if f.payload.length = 4096 then (none, s.setChain k ws)
  else (none, s.setChain k [])

/-- A child's half-partial reaches a tray (R233, R236, R237). -/
def Blk.halfPartialIn (s : Blk) (c : Nat) (src : Word) (x : HalfIn) : Blk :=
  match s.reduction c x.rid with
  | none => s
  | some v =>
    let t := v.turnOr x.turn
    let closed := match v.closed with | some k => decide (sdiff x.turn k ≤ 0) | none => false
    if !(kidsIn (s.treeOf c x.turn) x.b s.place).contains src then s
    else if sdiff x.turn (s.coll c).start < 0 then s.count (.wsr .WSR_STALE_CNT) 1
    else if closed || (if x.b then t.halfB else t.halfA).isSome then s.redLate c x.rid
    else if (Store.look (if x.b then t.kidsB else t.kidsA) src.toNat).isSome then s
    else
      (s.modTurn c x.rid x.turn (fun t =>
        if x.b then { t with kidsB := Store.put t.kidsB src.toNat x.half }
        else { t with kidsA := Store.put t.kidsA src.toNat x.half })).tryHalf c x.rid x.turn x.b false

/-- Take one frame of a child's half-partial: whether it was taken, and the state then. One whose turn cannot be opened waits
behind its credits (R229, R233). A message that is no half-partial of the collection's reductions is malformed (R228, R257). -/
def Blk.takeHalfFrame (s : Blk) (f : Frame) (fc : Option Nat) : Bool × Blk :=
  let c := f.coll
  let ws := s.chain (chainKey c f.src f.srole false) ++ f.words
  let whole := decide (8 ≤ ws.length ∧ resultLen ws ≤ ws.length)
  let x := s.readHalf c ws
  if !s.redEn || (whole && (match x with | some x => s.mustWait c x.rid x.turn | none => false)) then (false, s) else
  match s.gather ⟨f, fc⟩ false with
  | (none, s) => (true, s)
  | (some _, s) => (true, match x with | some x => s.halfPartialIn c f.src x | none => s.malformed c)

/-- Take a frame that waits for the reducers: a contribution of a die or a half-partial of a child. -/
def Blk.takeReduce (s : Blk) (f : Frame) (fc : Option Nat) : Bool × Blk :=
  if f.srole = 1 then s.takeContribution f fc else s.takeHalfFrame f fc

/-- Take the frames that wait behind their credits, each source in its order. -/
def Blk.pumpFrames (s : Blk) : Blk :=
  let w := s.red.wait
  (w.foldl (fun (a : Blk × List (Word × Nat)) e =>
    let key := (e.1.src, e.1.coll)
    let keep := fun (s : Blk) => (s.modRed (fun m => { m with wait := m.wait ++ [e] }), a.2 ++ [key])
    if a.1.frameStale e.1 then (a.1.frameDone ⟨e.1, e.2⟩, a.2)
    else if a.2.contains key then keep a.1
    else match a.1.takeReduce e.1 e.2 with
      | (true, s) => (s, a.2)
      | (false, s) => keep s) (s.modRed (fun m => { m with wait := [] }), [])).1

/-- Take whatever waits for the reducers: local contributions and frames (R229, R247). -/
def Blk.redPump (s : Blk) : Blk :=
  if !s.redEn then s else
  let s := (Store.keys s.colls).foldl (fun s c => (s.redsOf c).foldl (fun s r => Blk.openBases 8 s c r) s) s
  let s := (Store.keys s.colls).foldl (fun s c =>
    match (s.coll c).redq with
    | some q => Blk.pumpLocal ((s.q q).toks.length + 1) s c
    | none => s) s
  s.pumpFrames

/-! ### The span combine (R240 to R243) -/

/-- The place of a site's primary span instance as this instance knows it: itself, one marked PRIMARY in the peer tables, else
the contact of the site. A span instance reaches no site that it has no contact for (R33, R448). -/
def Blk.primaryOf (s : Blk) (site : Nat) : Option Word :=
  if site = siteOf s.place then (if s.boot.isPrimary then some s.place else s.boot.primary.map Prod.fst) else
  let v := s.reg (.boot (.BOOT_SITE_SPAN site))
  if s.role = .span ∧ v = 0xFFFFFFFF#32 then none else
  match s.boot.spans.find? (fun p => decide (siteOf (w32 p.1) = site) && p.2.primary) with
  | some p => some (w32 p.1)
  | none => if v = 0xFFFFFFFF#32 then none else some v

/-- The other primaries of a collection's sites. -/
def Blk.otherPrimaries (s : Blk) (c : Nat) : List Word :=
  ((s.coll c).sites.filter (fun i => i ≠ siteOf s.place)).filterMap s.primaryOf

/-- Whether a site's primary is neither fenced nor silent (R240). -/
def Blk.primaryUp (s : Blk) (site : Nat) : Bool :=
  match s.primaryOf site with
  | none => false
  | some p => !s.hlt.fenced.contains p && !((Store.look s.hlt.peers p.toNat).any (·.silent))

/-- Whether this instance is the lead of a collection (R240). -/
def Blk.isLead (s : Blk) (c : Nat) : Bool :=
  s.role == .span && s.boot.isPrimary && !s.hlt.fencedSelf && (s.coll c).sites.contains (siteOf s.place) &&
    (s.coll c).sites.all (fun i => decide (siteOf s.place ≤ i) || !s.primaryUp i)

/-- The sites whose half is held, as a set of bits. -/
def siteBits (m : Store RHalf) : Nat := (m.map (fun p => 2 ^ p.1)).sum

/-- Send the list of a turn to the other primaries (R241, R242). -/
def Blk.sendList (s : Blk) (c r : Nat) (n : Word) (l : Nat × Nat) : Blk :=
  (s.otherPrimaries c).foldl (fun s p =>
    s.sendWords c p 3 ftList [(w32 r, false), (n, false), (w32 l.1, false), (w32 l.2, false)] none) s

/-- One fleet half (R241): the listed site halves in ascending site index; the others are missing. -/
def Blk.fleetHalf (s : Blk) (c : Nat) (v : Reduction) (n : Word) (b : Bool) (m : Store RHalf) (l : Nat) : RHalf × Blk :=
  let start : RHalf := { elems := v.els.map elemEmpty, pres := 0, miss := [], mtrunc := false }
  let (h, s) := (s.coll c).sites.foldl (fun (a : RHalf × Blk) i =>
    let lost : RHalf := { a.1 with miss := a.1.miss ++ [missEntry (if b then 6 else 5) (w32 (i <<< 25))] }
    if l / 2 ^ i % 2 = 0 then (lost, a.2) else
    match Store.look m i with
    | none => (lost, a.2)
    | some x =>
      match a.2.combine c n v.els a.1.elems x.elems with
      | (none, s) => (lost, s)
      | (some es, s) => ({ elems := es, pres := a.1.pres + x.pres, miss := a.1.miss ++ x.miss,
                           mtrunc := a.1.mtrunc || x.mtrunc }, s)) (start, s)
  let (miss, mt) := missMerge [] h.miss h.mtrunc
  ({ h with miss := miss, mtrunc := mt }, s)

/-- Whether every listed half is held. -/
def RTurn.listHeld (t : RTurn) (l : Nat × Nat) : Bool :=
  (List.range 8).all (fun i => (decide (l.1 / 2 ^ i % 2 = 0) || (Store.look t.sitesA i).isSome) &&
    (decide (l.2 / 2 ^ i % 2 = 0) || (Store.look t.sitesB i).isSome))

/-- Combine the fleet result of a turn whose listed halves are held, hand its halves to the own site's crowns, and deliver it
where DLV delivers at the span (R241, R243). -/
def Blk.fleetCombine (s : Blk) (c r : Nat) (n : Word) (l : Nat × Nat) : Blk :=
  match s.reduction c r, s.rturn c r n with
  | some v, some t =>
    let (hA, s) := s.fleetHalf c v n false t.sitesA l.1
    let (hB, s) := s.fleetHalf c v n true t.sitesB l.2
    let s := s.modTurn c r n (fun t => { t with handed := true })
    let ps := s.treeOf c n
    let half := fun (b : Bool) => s.packResult c r v n 3 (if b then 2 else 1) (if b then none else some hA)
      (if b then some hB else none) v.exp l false
    let s := [false, true].foldl (fun s b => match crownIn ps b with
      | some p => s.sendWords c p 2 ftReduce (half b) (some n)
      | none => s) s
    let s := s.resultReady c r (resultOf 3 n (s.packResult c r v n 3 3 (some hA) (some hB) v.exp l true))
    let own := siteOf s.place
    let site := (Store.look t.sitesA own, Store.look t.sitesB own)
    if site.1.isNone ∧ site.2.isNone then s
    else s.resultReady c r (resultOf 2 n (s.packResult c r v n 2 3 site.1 site.2 (s.expOf c 2 v.dies) (0, 0) true))
  | _, _ => s

/-- The turns of a collection whose list has come and a listed half of which is wanting, in any reduction (R242). -/
def Blk.fleetHeld (s : Blk) (c : Nat) : List Word :=
  (s.redsOf c).flatMap (fun r => (s.turnsUp c r).filter (fun n => match s.rturn c r n with
    | some t => (match t.handed, t.list with | false, some l => !t.listHeld l | _, _ => false)
    | none => false))

/-- Combine every turn of a collection that has its list, in turn order; a turn that waits for a listed half holds every later
fleet result of the collection. A standby takes no part (R29, R242). -/
def Blk.fleetRun (s : Blk) (c : Nat) : Blk :=
  if !s.boot.isPrimary then s else
  let held := s.fleetHeld c
  (s.redsOf c).foldl (fun s r => (s.turnsUp c r).foldl (fun s n =>
    match s.rturn c r n with
    | some t => (match t.handed, t.list with
      | false, some l =>
        if t.listHeld l && !held.any (fun h => decide (sdiff h n < 0)) then s.fleetCombine c r n l else s
      | _, _ => s)
    | none => s) s) s

/-- Form the list of a turn at the lead and send it (R241). -/
def Blk.formList (s : Blk) (c r : Nat) (n : Word) : Blk :=
  match s.rturn c r n with
  | none => s
  | some t =>
    if t.list.isSome then s else
    let l := (siteBits t.sitesA, siteBits t.sitesB)
    let s := (s.countFld (.wsr .WSR_LIST_CNT) 15 0 1).modTurn c r n (fun t => { t with list := some l, listAt := s.tclk })
    (s.sendList c r n l).fleetRun c

/-- Take or lose the lead of the collections (R240, R243): a new lead relays the lists that it holds. -/
def Blk.leadCheck (s : Blk) : Blk :=
  (Store.keys s.colls).foldl (fun s c =>
    let lead := s.isLead c && decide ((s.coll c).st = .running)
    let was := (Store.look s.red.leadOf c).isSome
    if lead && !was then
      let s := s.modRed (fun m => { m with leadOf := Store.put m.leadOf c s.tclk })
      (s.redsOf c).foldl (fun s r => (s.turnsUp c r).foldl (fun s n =>
        match (s.rturn c r n).bind RTurn.list with | some l => s.sendList c r n l | none => s) s) s
    else if !lead && was then
      (s.modRed (fun m => { m with leadOf := Store.del m.leadOf c })).modColl c (fun v => { v with firstLead := false })
    else s) s

/-- Whether this lead may form a list now (R241, R243): the primary that leads from the start at any time, one that has taken the
role once WSR_SPAN_WAIT has passed. -/
def Blk.leadReady (s : Blk) (c : Nat) : Bool :=
  s.isLead c && ((s.coll c).firstLead || (match Store.look s.red.leadOf c with
    | some a => s.passed a (s.us (s.reg (.wsr .WSR_SPAN_WAIT)).toNat)
    | none => false))

/-- Whether both halves of every participating site are held. -/
def Blk.sitesFull (s : Blk) (c : Nat) (t : RTurn) : Bool :=
  (s.coll c).sites.all (fun i => (Store.look t.sitesA i).isSome && (Store.look t.sitesB i).isSome)

/-- A site half reaches a primary span instance (R240, R241), a standby takes none (R29): from a crown of its own site it goes on to the other primaries. -/
def Blk.siteHalfIn (s : Blk) (c : Nat) (x : HalfIn) (site : Nat) (fromCrown : Bool) (ws : List PWord) : Blk :=
  match s.reduction c x.rid with
  | none => s
  | some v =>
    let t := v.turnOr x.turn
    let held := Store.look (if x.b then t.sitesB else t.sitesA) site
    let listed := match t.list with
      | none => true
      | some l => decide ((if x.b then l.2 else l.1) / 2 ^ site % 2 = 1)
    let closed := match v.closed with | some k => decide (sdiff x.turn k ≤ 0) | none => false
    if sdiff x.turn (s.coll c).start < 0 then s.count (.wsr .WSR_STALE_CNT) 1
    else if !s.boot.isPrimary then s
    else if closed || !listed then s.redLate c x.rid
    else if held.isSome then s
    else
      let s := s.modTurn c x.rid x.turn (fun t =>
        let t : RTurn := { t with siteAt := some (t.siteAt.getD s.tclk) }
        if x.b then { t with sitesB := Store.put t.sitesB site x.half } else { t with sitesA := Store.put t.sitesA site x.half })
      let s := if !fromCrown then s else
        (s.otherPrimaries c).foldl (fun s p => s.sendWords c p 3 ftReduce ws (some x.turn)) s
      let s := s.leadCheck
      let full := match s.rturn c x.rid x.turn with | some t => s.sitesFull c t | none => false
      let s := if s.leadReady c && full then s.formList c x.rid x.turn else s
      s.fleetRun c

/-- Send again what a new primary, or the new primary of another site, has not acknowledged (R31, R32): a crown its halves, a
primary its site's halves. `peer` limits it to one destination. -/
def Blk.resendUp (s : Blk) : Blk :=
  (Store.keys s.colls).foldl (fun s c =>
    if (s.coll c).st ≠ .running then s else
    let ack := s.reg (.err (.ERR_Cc_ACK c))
    (s.redsOf c).foldl (fun s r =>
      match s.reduction c r with
      | none => s
      | some v =>
        if v.scope ≠ 3 then s else
        ((s.turnsUp c r).filter (fun n => decide (0 < sdiff n ack))).foldl (fun s n =>
          match s.rturn c r n with
          | none => s
          | some t =>
            let ps := s.treeOf c n
            [false, true].foldl (fun s b =>
              let words := fun (h : RHalf) => s.packResult c r v n 2 (if b then 2 else 1) (if b then none else some h)
                (if b then some h else none) (s.expOf c 2 v.dies) (0, 0) false
              match s.role with
              | .tray =>
                (match (if b then t.halfB else t.halfA), s.parentPlace with
                | some h, some p => if crownIn ps b = some s.place then s.sendWords c p 3 ftReduce (words h) (some n) else s
                | _, _ => s)
              | .span =>
                (match Store.look (if b then t.sitesB else t.sitesA) (siteOf s.place) with
                | some h => if !s.boot.isPrimary then s else
                    (s.otherPrimaries c).foldl (fun s p => s.sendWords c p 3 ftReduce (words h) (some n)) s
                | none => s)
              | .die => s) s) s) s) s

/-! ### Delivery (R246, R369) -/

/-- Whether an alarm of collection `c` of a turn before `n` waits in a tree unit or in a local queue (R369). -/
def Blk.alarmWaits (s : Blk) (c : Nat) (n : Word) : Bool :=
  s.tre.alarms.any (fun p => p.2.any (fun a => decide (a.coll = c) && decide (sdiff a.turn n < 0))) ||
  s.qList.any (fun q => !s.qEgress q && decide (s.qOwner q = c) && (s.q q).toks.any (fun t =>
    decide (t.kind = 3) && t.words.getD 0 0 == 0x0110FFFF#32 && decide (sdiff (t.words.getD 1 0) n < 0)))

/-- The result to deliver next: of the lowest level at which the next turn's result is there (R246). A die takes the turns that
reach it. -/
def Blk.nextResult (s : Blk) (c r : Nat) : Option RResult :=
  match s.reduction c r with
  | none => none
  | some v =>
    [1, 2, 3].findSome? (fun l =>
      let last := Store.look v.last l
      let open_ := v.results.filter (fun x => decide (x.level = l) && !x.sent)
      let next := match last with | some k => k + 1 | none => (s.coll c).start
      if s.role = .die then
        open_.find? (fun x => match last with | some k => decide (0 < sdiff x.turn k) | none => true)
      else open_.find? (fun x => x.turn == next))

/-- The local queue that receives the results of a reduction: RQ, at span instances SQ. -/
def Blk.resultQueue (s : Blk) (c : Nat) (v : Reduction) : Option Nat :=
  match Store.look (s.coll c).queues (if s.role = .span then v.sq else v.rq) with
  | some q => if s.qEn q && !s.qEgress q then some q else none
  | none => none

/-- Enqueue the tokens of a result as long as their queue has credit; the words enqueued so far; `fuel` bounds the tokens. -/
def Blk.enqResult (r : Nat) : Nat → Blk → Nat → RResult → Nat → Nat × Blk
  | 0, s, _, _, pos => (pos, s)
  | fuel + 1, s, q, x, pos =>
    if x.words.length ≤ pos ∨ !s.qRoom q ((8 + 4 * min 64 (x.words.length - pos) + 63) / 64) then (pos, s) else
    let ws := (x.words.drop pos).take 64
    let ps := (x.poi.drop pos).take 64
    let pch := (List.range 8).foldl (fun (m : BitVec 8) i =>
      if ((ps.drop (8 * i)).take 8).any id then m ||| BitVec.ofNat 8 (2 ^ i) else m) 0
    let fin := decide (x.words.length ≤ pos + 64)
    let t := { Token.mk' 5 ws pch (!fin) .none with ack := if fin then some (some (4 * r + x.level), x.turn) else none }
    Blk.enqResult r fuel (s.enqTok q t) q x (pos + ws.length)

/-- Deliver the next result of a reduction as far as its queue takes it, and to the member dies as its delivery begins where DLV bit
4 is set (R244): the level and turn of one whose last token is enqueued,
and the state then. -/
def Blk.deliverResult (s : Blk) (c r : Nat) : Option RResult × Blk :=
  match s.reduction c r, s.nextResult c r with
  | some v, some x =>
    if (s.coll c).restarting ∨ s.alarmWaits c x.turn then (none, s) else
    let (pos, s) := match s.resultQueue c v with
      | none => (x.words.length, s)
      | some q => Blk.enqResult r (x.words.length / 64 + 2) s q x x.pos
    let s := if x.pos = 0 ∧ 0 < pos ∧ s.role = .tray ∧ v.dlv / 16 % 2 = 1 then
        (s.diesNow c).foldl (fun s d =>
          s.sendWords c d 1 ftReduce (x.words.zip x.poi) (some x.turn)) s
      else s
    let fin := decide (x.words.length ≤ pos)
    let s := s.modReduction c r (fun v => { v with
      results := v.results.map (fun y => if y.level = x.level ∧ y.turn = x.turn then { y with pos := pos, sent := fin } else y) })
    if !fin then (none, s) else
    let s := s.modReduction c r (fun v => { v with
      last := Store.put v.last x.level x.turn,
      lastTurn := (if v.lastTurn = 0 ∨ 0 < sdiff x.turn v.lastTurn then x.turn else v.lastTurn), lastA := x.presA, lastB := x.presB, lastMiss := x.miss, lastTrunc := x.mtrunc })
    (some x, if x.poi.any id then s.count (.err (.ERR_Cc_POI c)) 1 else s)
  | _, _ => (none, s)

/-- A restart keeps the results of turn `st` or later and delivers them again from there; entries of earlier turns go (R246,
R363). -/
def Blk.redRestart (s : Blk) (c : Nat) (st : Word) : Blk :=
  let s := (s.redsOf c).foldl (fun s r => s.modReduction c r (fun v => { v with
    turns := v.turns.filter (fun p => decide (0 ≤ sdiff (w32 p.1) st)),
    bases := v.bases.filter (fun p => decide (0 ≤ sdiff (w32 p.1) st)),
    results := (v.results.filter (fun x => decide (0 ≤ sdiff x.turn st))).map (fun x => { x with pos := 0, sent := false }),
    last := [],
    closed := (match v.closed with | some k => some (if sdiff k (st - 1) < 0 then st - 1 else k) | none => none) })) s
  s.setChain (localKey c) []

/-- Teardown drops the reductions of a collection and what waits for them (R247). -/
def Blk.redDrop (s : Blk) (c : Nat) : Blk :=
  let s := (List.range 16).foldl (fun s r => s.setReg (.wsr (.WSR_RD_LATE c r)) 0) s
  let s := (s.red.wait.filter (fun e => e.1.coll = c)).foldl (fun s e => s.frameDone ⟨e.1, e.2⟩) s
  s.modRed (fun m => { m with
    reds := m.reds.filter (fun p => p.1 / 16 ≠ c), wait := m.wait.filter (fun e => e.1.coll ≠ c),
    chains := m.chains.filter (fun p => if 2 ^ 40 ≤ p.1 then p.1 ≠ localKey c else p.1 % 64 ≠ c),
    leadOf := Store.del m.leadOf c })

end Sys2Proof.Machine
end

