-- ==== Sys2Proof/Machine/Tables.lean ====
section
/-!
DEFINITION. The feature table (R280 to R289): rows and keys, FLD and FST, static images, placement in the pool.
-/

namespace Sys2Proof.Machine

/-- The key of a feature that nothing has written (R282). -/
def absentKey (ty : Nat) : Word := if ty = 0 then 0xFFC00000#32 else if ty = 1 then 0x80000000#32 else 0

def FTable.typeOf (t : FTable) (f : Nat) : Nat := t.types.getD f 0
/-- A feature word of a row in the pool; the words beyond NFEAT read zero (R282). -/
def FTable.key (t : FTable) (r f : Nat) : Word :=
  if t.nfeat ≤ f then 0 else (Store.look t.words (256 * r + f)).getD (absentKey (t.typeOf f))
def FTable.poiAt (t : FTable) (r f : Nat) : Bool := Store.get false t.poi (256 * r + f)
/-- Write one feature word. -/
def FTable.put (t : FTable) (r f : Nat) (k : Word) (poi : Bool) : FTable :=
  { t with words := Store.set (absentKey (t.typeOf f)) t.words (256 * r + f) k,
           poi := Store.set false t.poi (256 * r + f) poi }
/-- Whether a feature is static. -/
def FTable.isStatic (t : FTable) (f : Nat) : Bool := decide (t.nfeat ≤ f + t.nstat ∧ f < t.nfeat)
/-- The row of an entity. -/
def FTable.row (t : FTable) (e : Nat) : Option Nat := t.dir.idxOf? e
/-- Stride of a row in bytes (R282). -/
def FTable.stride (t : FTable) : Nat := 64 * ((t.nfeat + 15) / 16)
/-- XM address of feature `f` of a row that the pool does not hold (R283). -/
def FTable.xmOf (t : FTable) (r f : Nat) : Nat := t.xmAddr + (r - t.npool) * t.stride + 4 * f

def Blk.ftable (s : Blk) (c : Nat) : Option FTable := Store.look s.tre.tables c
def Blk.setFtable (s : Blk) (c : Nat) (t : FTable) : Blk := s.modTre (fun m => { m with tables := Store.put m.tables c t })

/-- Count a miss (R286). -/
def Blk.ftMiss (s : Blk) (c n : Nat) : Blk := (s.count (.fea .FEA_MISS_CNT) n).count (.fea (.FEA_Tc_MISS c)) n

/-- The feature words that an FST writes, at key 256 row + feature (R211, R285, R286): lanes as (index, value, poison), each
converted from type `ty`; misses and refused lanes are counted. -/
def Blk.fstWrites (s : Blk) (c e : Nat) (ty : Nat) (lanes : List (Nat × Word × Bool)) : List (Nat × Word × Bool) × Blk :=
  match s.ftable c with
  | none => ([], s.ftMiss c 1)
  | some t =>
    match t.row e with
    | none => ([], s.ftMiss c 1)
    | some r =>
      let live := lanes.filter (fun l => decide (l.1 < t.nfeat ∧ l.1 < 256))
      let s := s.count (.fea (.FEA_Tc_TMIS c)) (live.filter (fun l => t.typeOf l.1 ≠ ty)).length
      let s := s.count (.fea (.FEA_Tc_FSTRO c)) (live.filter (fun l => t.isStatic l.1)).length
      ((live.filter (fun l => !t.isStatic l.1)).map (fun l => (256 * r + l.1, toKey ty l.2.1, l.2.2)), s)

/-- Write feature words. -/
def FTable.putAll (t : FTable) (ws : List (Nat × Word × Bool)) : FTable :=
  ws.foldl (fun t w => t.put (w.1 / 256) (w.1 % 256) w.2.1 w.2.2) t

/-- Write one feature word where its row is held, in the pool or in XM (R283, R289). -/
def Blk.featPut (s : Blk) (c r f : Nat) (k : Word) (poi : Bool) : Blk :=
  match s.ftable c with
  | none => s
  | some t =>
    if r < t.npool then s.setFtable c (t.put r f k poi) else s.xmWrite (t.xmOf r f) (leBytes 4 k.toNat) poi

/-- Put feature words in force. -/
def Blk.fstPut (s : Blk) (c : Nat) (ws : List (Nat × Word × Bool)) : Blk :=
  ws.foldl (fun s w => s.featPut c (w.1 / 256) (w.1 % 256) w.2.1 w.2.2) s

/-- The table as a reader of row `r` sees its features `fs`: those of a row in XM are read from its lines, and a poisoned line
poisons every word taken from it (R283, R289, R357). -/
def Blk.featRow (s : Blk) (c r : Nat) (t : FTable) (fs : List Nat) : FTable × Blk :=
  if r < t.npool then (t, s) else
  let lines := ((fs.map (fun f => t.xmOf r f / 64)).foldl (fun l x => if l.contains x then l else l ++ [x]) [])
  let s := lines.foldl (fun (s : Blk) l => (s.xmRead c (64 * l) 64).2.2) s
  (fs.foldl (fun (t : FTable) f => t.put r f (w32 (leNat (Mem.rdN s.mem.xm (t.xmOf r f) 4)))
    (Store.get false s.mem.xmPoi (t.xmOf r f / 64))) t, s)

/-- The FSTs of a context as feature words. -/
def Ctx.feats (x : Ctx) : List (Nat × Word × Bool) := x.fbuf.map (fun w => (w.1, w.2.1, w.2.2.1))

/-- The FSTs of a context come into force at its FENCE: of two FSTs of one tclk to one word that of the higher-numbered engine stands
(R212). -/
def Blk.fstFence (s : Blk) (x : Ctx) : Blk :=
  match s.ftable x.coll with
  | none => s
  | some t =>
    let e := 4 * x.cluster + x.engine
    let ws := x.fbuf.filter (fun w => match Store.look t.wrote w.1 with
      | some (a, n) => !(decide (a = w.2.2.2) && decide (e < n))
      | none => true)
    if ws.isEmpty then s else
    (s.setFtable x.coll { t with wrote := ws.foldl (fun m w => Store.put m w.1 (w.2.2.2, e)) t.wrote }).fstPut x.coll
      (ws.map (fun w => (w.1, w.2.1, w.2.2.1)))

/-- An FST of the block itself, in force at once. -/
def Blk.fstFeat (s : Blk) (c e : Nat) (ty : Nat) (lanes : List (Nat × Word × Bool)) : Blk :=
  let (ws, s) := s.fstWrites c e ty lanes
  s.fstPut c ws

/-- FLD (R211, R286): the value of each feature index under type `ty`; zero beyond the row or for a miss. The FSTs `own` that the
context has made and not fenced are seen too (R212). -/
def Blk.fldFeat (s : Blk) (c e : Nat) (ty : Nat) (ixs : List Nat) (own : List (Nat × Word × Bool)) : List (Word × Bool) × Blk :=
  let zero := ixs.map (fun _ => ((0 : Word), false))
  match s.ftable c with
  | none => (zero, s.ftMiss c 1)
  | some t =>
    match t.row e with
    | none => (zero, s.ftMiss c 1)
    | some r =>
      let live := fun (f : Nat) => decide (f < t.nfeat ∧ f < 256)
      let (t, s) := s.featRow c r t (ixs.filter live)
      let t := t.putAll (own.filter (fun w => decide (w.1 / 256 = r)))
      (ixs.map (fun f => if live f then (ofKey ty (t.key r f), t.poiAt r f) else (0, false)),
       s.count (.fea (.FEA_Tc_TMIS c)) (ixs.filter (fun f => live f && t.typeOf f ≠ ty)).length)

/-! ### The XM port and the stores of a context (R153, R212, R478) -/

/-- Requests outstanding at most (R478). -/
def Blk.xmTags (s : Blk) : Nat := match s.conf with | .d => 256 | .a64 => 4096

/-- Whether `n` more requests find a tag. -/
def Blk.xmRoom (s : Blk) (n : Nat) : Bool := decide (s.mem.reqs.length + n ≤ s.xmTags)

/-- A request for a line is accepted, under the lowest free tag; without one there is none to answer. A read is answered with the line
as the context sees it. -/
def Blk.xmReq (s : Blk) (ctx c line : Nat) (write : Bool) : Blk :=
  match (List.range s.xmTags).find? (fun t => s.mem.reqs.all (fun r => r.tag != t)) with
  | none => s
  | some t => s.modMem (fun m => { m with reqs := m.reqs ++ [{
      tag := t, line := line, write := write, at_ := s.tclk, late := false, ctx := some ctx, coll := c,
      data := (if write then [] else Mem.rdN (s.seenBy ctx).mem.xm (64 * line) 64),
      poi := !write && Store.get false (s.seenBy ctx).mem.xmPoi line }] })

/-- Lines of XM that the stores of a context will write. -/
def Ctx.xmLines (x : Ctx) : List Nat :=
  x.sbuf.flatMap (fun b => match b.sp with | .xm => linesOf b.addr b.data.length | _ => [])

/-- A SEND or a launch of context `i` sends its stores out (R153): those in XM are requests of its own; its own DS takes what lies there;
the others are seen by the context alone until an observer takes what was sent (`Blk.seeStores`). -/
def Blk.drainStores (s : Blk) (i : Nat) : Blk :=
  match Store.look s.ctxs i with
  | none => s
  | some x =>
    let own := x.sbuf.filter (fun b => b.sp == .ds i)
    let s := own.foldl (fun (s : Blk) b => s.spPut b.sp b.addr b.data) s
    let out := (x.sbuf.filter (fun b => b.sp != .ds i)).map (fun b => (⟨i, x.coll, s.mem.sends, b.sp, b.addr, b.data, [i]⟩ : SeenStore))
    let s := s.modMem (fun m => { m with seen := m.seen ++ out, sends := m.sends + 1 })
    let s := x.xmLines.foldl (fun (s : Blk) l => s.xmReq i x.coll l true) s
    s.modCtxs (fun m => Store.put m i { x with sbuf := [] })

/-- The stores and the FSTs of a context become visible to every observer (R153, R212). -/
def Blk.drainAll (s : Blk) (i : Nat) : Blk :=
  match Store.look s.ctxs i with
  | none => s
  | some x => (((s.fstFence x).modCtxs (fun m => Store.put m i { x with fbuf := [] })).drainStores i).seenAll (fun e => e.ctx == i)

/-- The stores that a collection's contexts have sent out are in its memories: nobody is left who does not see them. -/
def Blk.seenEnd (s : Blk) (c : Nat) : Blk := s.seenAll (fun e => e.coll == c)

/-- Nobody waits any longer for the requests of a collection's contexts. -/
def Blk.forgetReqs (s : Blk) (c : Nat) : Blk :=
  s.modMem (fun m => { m with reqs := m.reqs.map (fun r => if r.coll = c then { r with ctx := none } else r) })

/-! ### Static images (R284, R285) -/

/-- Whether one of `n` bytes of XM from `a` lies in a poisoned line. -/
def Blk.xmBad (s : Blk) (a n : Nat) : Bool := (linesOf a n).any (fun l => Store.get false s.mem.xmPoi l)

/-- The rows of a static image at `a`: entity, and words each with the poison of its line. -/
def Blk.staticRows (s : Blk) (a rows nstat : Nat) : List (Nat × List (Word × Bool)) :=
  (List.range rows).map (fun i =>
    let o := a + i * (8 + 4 * nstat)
    (leNat (Mem.rdN s.mem.xm o 8), (List.range nstat).map (fun k =>
      (w32 (leNat (Mem.rdN s.mem.xm (o + 8 + 4 * k) 4)), s.xmBad (o + 8 + 4 * k) 4))))

/-- Strictly ascending numbers. -/
def ascNat : List Nat → Bool
  | a :: b :: t => decide (a < b) && ascNat (b :: t)
  | _ => true

/-- The static features of row `r` of a table take the words of the image, or their absent keys where the image does not name the
row's entity (R284, R285). -/
def Blk.staticRow (s : Blk) (c r : Nat) (rows : List (Nat × List (Word × Bool))) : Blk :=
  match s.ftable c with
  | none => s
  | some t =>
    let img := rows.find? (fun p => p.1 == t.dir.getD r 0)
    (List.range t.nstat).foldl (fun (s : Blk) k =>
      let f := t.nfeat - t.nstat + k
      match img with
      | some p => let w := p.2.getD k (0, false); s.featPut c r f (toKey (t.typeOf f) w.1) w.2
      | none => s.featPut c r f (absentKey (t.typeOf f)) false) s

/-- Image rows whose entity has no row are counted (R284). -/
def Blk.staticMiss (s : Blk) (c : Nat) (t : FTable) (rows : List (Nat × List (Word × Bool))) : Blk :=
  s.count (.fea (.FEA_Tc_STMISS c)) (rows.filter (fun p => (t.row p.1).isNone)).length

/-- Step 4 of a boundary with a reload requested: the image is read again, and its rows wait to be written (R285). -/
def Blk.staticReload (s : Blk) (c : Nat) : Blk :=
  match s.ftable c with
  | none => s
  | some t =>
    let n := if t.stAddr = 0 then 0 else t.stRows
    let s := (s.xmRead c t.stAddr (n * (8 + 4 * t.nstat))).2.2
    let rows := s.staticRows t.stAddr n t.nstat
    (s.setFtable c { t with reload := some (0, rows) }).staticMiss c t rows

/-- A tclk of a reload that runs: the next row in ascending order is rewritten (R285), one row per tclk (DESIGN CHOICE, log 60). -/
def Blk.reloadTick (s : Blk) : Blk :=
  (Store.keys s.tre.tables).foldl (fun (s : Blk) c =>
    match s.ftable c with
    | some t => (match t.reload with
      | some (r, rows) =>
        (s.setFtable c { t with reload := if r + 1 < t.dir.length then some (r + 1, rows) else none }).staticRow c r rows
      | none => s)
    | none => s) s

/-! ### Placement (R283) -/

/-- The free pieces of an area of `size` bytes beside the pieces in use. -/
def freePieces (size : Nat) (used : List (Nat × Nat)) : List (Nat × Nat) :=
  let us := used.foldl (fun l p => (l.filter (fun q => q.1 ≤ p.1)) ++ [p] ++ (l.filter (fun q => p.1 < q.1))) []
  let r := us.foldl (fun (a : List (Nat × Nat) × Nat) p => (a.1 ++ [(a.2, p.1 - a.2)], p.1 + p.2)) ([], 0)
  (r.1 ++ [(r.2, size - r.2)]).filter (fun p => p.2 ≠ 0)

/-- Take up to `n` rows of `stride` bytes from the lowest free addresses: the pieces taken and the rows they hold. -/
def takeRows (stride : Nat) : Nat → List (Nat × Nat) → List (Nat × Nat) × Nat
  | _, [] => ([], 0)
  | n, p :: t =>
    let k := min n (p.2 / stride)
    let (ps, m) := takeRows stride (n - k) t
    (if k = 0 then ps else (p.1, k * stride) :: ps, k + m)

/-- A feature-table descriptor as read (Table 9-1), its XM offsets already turned into addresses; and whether its fields lie in
range (R281). -/
structure FtdIn where
  nent  : Nat
  nfeat : Nat
  nstat : Nat
  dirAt : Nat
  stAt  : Nat
  stRows : Nat
  xmAt  : Nat
  types : List Nat
  ok    : Bool
  deriving DecidableEq, Repr

/-- Read the descriptor; `base` is added to each offset, 0 meaning none. -/
def ftdOf (b : List Byte) (base : Nat) : FtdIn :=
  let off := fun (i : Nat) => let o := leAt b i 8; if o = 0 then 0 else base + o
  let nfeat := leAt b 4 2
  let nstat := leAt b 6 2
  let types := (List.range nfeat).map (fun i => leAt b (64 + i / 4) 1 / 4 ^ (i % 4) % 4)
  let spare := (List.range 256).all (fun i => decide (i < nfeat) || decide (leAt b (64 + i / 4) 1 / 4 ^ (i % 4) % 4 = 0))
  { nent := leAt b 0 4, nfeat := nfeat, nstat := nstat, dirAt := base + leAt b 8 8, stAt := off 16, stRows := leAt b 24 4,
    xmAt := off 32, types := types,
    ok := decide (1 ≤ leAt b 0 4 ∧ leAt b 0 4 ≤ 65536) && decide (1 ≤ nfeat ∧ nfeat ≤ 256) && decide (nstat ≤ nfeat) &&
      decide (leAt b 8 8 % 8 = 0) && decide (leAt b 28 4 = 0) && decide (leAt b 32 8 % 4096 = 0) &&
      decide (leAt b 40 24 = 0) && spare && types.all (fun t => decide (t < 3)) }

/-- A row of absent keys as it lies in XM: the words beyond NFEAT are zero (R282). -/
def FTable.absentRow (t : FTable) : List Byte :=
  (List.range (t.stride / 4)).flatMap (fun f => leBytes 4 (if t.nfeat ≤ f then 0 else absentKey (t.typeOf f)).toNat)

/-- Load the feature table of a collection at start, or the reason of the refusal (R281, Table 15-4): an address outside the
allocation, which ends at `lim`, is ALLOC; anything else FTABLE. -/
def Blk.loadTable (s : Blk) (c : Nat) (b : List Byte) (base lim : Nat) : Except Nat Blk :=
  let f := ftdOf b base
  let stN := if f.stAt = 0 then 0 else f.stRows * (8 + 4 * f.nstat)
  let stride := 64 * ((f.nfeat + 15) / 16)
  let area := fld (s.reg (.fea .FEA_AREA)) 6 0 * 2 ^ 20
  let (held, npool) := takeRows stride f.nent (freePieces area (s.tre.tables.flatMap (fun p => p.2.held)))
  if !f.ok then .error 5 else
  if lim < f.dirAt + 8 * f.nent ∨ (f.stAt ≠ 0 ∧ lim < f.stAt + stN) ∨
      (f.xmAt ≠ 0 ∧ lim < f.xmAt + (f.nent - npool) * stride) then .error 0x0B else
  let (db, _, s) := s.xmRead c f.dirAt (8 * f.nent)
  let dir := (List.range f.nent).map (fun i => leAt db (8 * i) 8)
  let s := (s.xmRead c f.stAt stN).2.2
  let rows := s.staticRows f.stAt (if f.stAt = 0 then 0 else f.stRows) f.nstat
  if !ascNat dir ∨ dir.any (fun e => decide (2 ^ 48 ≤ e) || decide (entKind e = 0) || decide (fld (entPlace e) 31 28 ≠ 0)) ∨
      !ascNat (rows.map Prod.fst) ∨ (npool < f.nent ∧ f.xmAt = 0) then .error 5 else
  let t : FTable := { dir := dir, nfeat := f.nfeat, nstat := f.nstat, stAddr := f.stAt, stRows := f.stRows,
                      types := f.types, npool := npool, held := held, xmAddr := f.xmAt, reload := none,
                      words := [], poi := [], wrote := [] }
  let s := (List.range (f.nent - npool)).foldl (fun (s : Blk) i => s.xmWrite (f.xmAt + i * stride) t.absentRow false) (s.setFtable c t)
  let s := (rows.foldl (fun (s : Blk) p => match t.row p.1 with
    | some r => s.staticRow c r rows
    | none => s) s).staticMiss c t rows
  .ok (if npool < f.nent then s.emit 0xA 0x0B05 c npool else s)

/-- Free the feature table of a collection (R283); its registers read zero again. -/
def Blk.dropTable (s : Blk) (c : Nat) : Blk :=
  let s := s.modTre (fun m => { m with tables := Store.del m.tables c })
  [Reg.fea (.FEA_Tc_MISS c), .fea (.FEA_Tc_TMIS c), .fea (.FEA_Tc_FSTRO c), .fea (.FEA_Tc_STMISS c), .fea (.FEA_Tc_SPILLRD c),
   .fea (.FEA_Tc_POI c)].foldl (fun s r => s.setReg r 0) s

end Sys2Proof.Machine
end

