-- ==== Sys2Proof/Machine/Late.lean ====
section
/-!
DEFINITION. The lateness stage (R261 to R267): marker stamps of the member dies, the tray median, latenesses and stragglers, the
contributions to the four reductions and the lateness tokens.
-/

namespace Sys2Proof.Machine

def LateTurn.fresh : LateTurn :=
  { mx := none, stamps := [], formed := false, c := 0, median := 0, iqr := 0, dies := [], ref := none, qs := none, qf := none,
    given := false, done := false }

/-- The stage of turn `n` of collection `c`. -/
def Blk.lateT (s : Blk) (c : Nat) (n : Word) : LateTurn := (Store.look s.sk.late (2 ^ 32 * c + n.toNat)).getD LateTurn.fresh
def Blk.setLateT (s : Blk) (c : Nat) (n : Word) (t : LateTurn) : Blk :=
  s.modSk (fun m => { m with late := Store.put m.late (2 ^ 32 * c + n.toNat) t })

/-- Insert by (number, place), ascending (R84, R265). -/
def insLate (x : Int × Word) : List (Int × Word) → List (Int × Word)
  | [] => [x]
  | a :: t => if x.1 < a.1 ∨ (x.1 = a.1 ∧ x.2.toNat < a.2.toNat) then x :: a :: t else a :: insLate x t

/-- The cut of a stage (R262). -/
def LateCfg.cutAt (g : LateCfg) (mx : Dword) : Dword := mx + BitVec.ofNat 64 (g.lcut * tkUs)

/-- The term T_IQR and the IQR of the latenesses (R265). -/
def LateCfg.tIqr (g : LateCfg) (v : List Int) : Int × Int :=
  let n := v.length
  let iqr := v.getD ((3 * n + 3) / 4 - 1) 0 - v.getD ((n + 3) / 4 - 1) 0
  ((g.thrMul : Int) * max iqr g.iqrMin / 16, iqr)

/-- Whether a lateness exceeds the threshold of MODE; the reserved MODE is refused at start. -/
def LateCfg.exceeds (g : LateCfg) (ell t : Int) : Bool :=
  match g.mode with
  | 0 => decide ((g.thrAbs : Int) < ell)
  | 1 => decide (t < ell)
  | _ => decide ((g.thrAbs : Int) < ell ∧ t < ell)

/-- Saturation to 32 signed and unsigned bits. -/
def sat32 (i : Int) : Word := BitVec.ofInt 32 (max (-(2 ^ 31 - 1)) (min i (2 ^ 31 - 1)))
def satU32 (i : Int) : Word := w32 (min i.toNat 0xFFFFFFFF)

/-- Form the stage over the stamps that are there (R262, R265). -/
def LateCfg.form (g : LateCfg) (t : LateTurn) (mx : Dword) (members : List Word) : LateTurn :=
  let full := fun (d : Word) => (Store.look t.stamps d.toNat).map (fun p => (mx + (BitVec.ofInt 64 (d48 (s48 p.1) (s48 mx))), p.2))
  let there := members.filterMap (fun d => (full d).map (fun p => ((p.1 - mx).toInt, d)))
  match (there.foldl (fun l x => insLate x l) [])[(there.length - 1) / 2]? with
  | none => { t with formed := true, done := true }
  | some m =>
    let med := mx + BitVec.ofInt 64 m.1
    let dies := members.map (fun d =>
      match full d with
      | some p => ({ place := d, ell := (p.1 - med).toInt, stamp := p.1, cens := false, hold := p.2, strag := false } : LateDie)
      | none => { place := d, ell := (g.cutAt mx - med).toInt, stamp := g.cutAt mx, cens := true, hold := false, strag := true })
    let (ti, iqr) := g.tIqr (((dies.map (fun d => (d.ell, d.place))).foldl (fun l x => insLate x l) []).map Prod.fst)
    { t with formed := true, c := there.length, median := med, iqr := (max iqr 0).toNat,
             dies := dies.map (fun d => { d with strag := d.cens || g.exceeds d.ell ti }) }

/-- Number of censored members and of stragglers. -/
def LateTurn.ncens (t : LateTurn) : Nat := (t.dies.filter (·.cens)).length
def LateTurn.nstrag (t : LateTurn) : Nat := (t.dies.filter (·.strag)).length

/-- Book a formed stage in the registers of the collection and contribute the median to RREF (R263, Table 8-8). -/
def Blk.lateFormed (s : Blk) (c : Nat) (n : Word) (g : LateCfg) (t : LateTurn) : Blk :=
  if t.c = 0 then s else
  let s := s.setReg (.sku (.SKU_LT_TURN c)) n
  let s := s.setReg2 (.sku (.SKU_LT_MED_HI c)) (.sku (.SKU_LT_MED_LO c)) t.median.toNat
  let s := s.setReg (.sku (.SKU_LT_COUNT c)) (w32 (t.c + t.ncens <<< 8 + t.nstrag <<< 16))
  let s := s.setReg (.sku (.SKU_LT_IQR c)) (satU32 t.iqr)
  let s := (s.count (.sku (.SKU_LT_CENS_CNT c)) t.ncens).count (.sku (.SKU_LT_STRAG_CNT c)) t.nstrag
  s.contribute c g.rref n none
    [⟨.ext false (t.median ^^^ BitVec.ofNat 64 (2 ^ 63)) (w32 (2 <<< 28 + fld s.place 27 0)), false⟩]

/-- The place of the tokens of the stage: the local queue of LQ. -/
def Blk.lateQueue (s : Blk) (c : Nat) (g : LateCfg) : Option Nat :=
  match Store.look (s.coll c).queues g.lq with
  | some q => if s.qEn q && !s.qEgress q then some q else none
  | none => none

/-- Cut words into tokens of 64 chained by CONT; the last names the turn that its taking helps to acknowledge (R158, R362). -/
def lateTokens (n : Word) : Nat → List Word → List Token
  | 0, _ => []
  | fuel + 1, ws =>
    if ws.length ≤ 64 then [{ Token.mk' 3 ws 0 false .none with ack := some (none, n) }]
    else Token.mk' 3 (ws.take 64) 0 true .none :: lateTokens n fuel (ws.drop 64)

/-- Enqueue a token of the stage; the turn waits for its taking (R362). -/
def Blk.lateToken (s : Blk) (c : Nat) (g : LateCfg) (n : Word) (ws : List Word) : Blk :=
  match s.lateQueue c g with
  | none => s
  | some q =>
    let s := s.modColl c (fun v => { v with lateOut := Store.set 0 v.lateOut n.toNat (Store.get 0 v.lateOut n.toNat + 1) })
    (lateTokens n 4 ws).foldl (fun s t => s.enqOrWait q t) s

/-- The features of the members' lateness (R266). -/
def Blk.lateFeatures (s : Blk) (c : Nat) (g : LateCfg) (t : LateTurn) : Blk :=
  if g.fidx = 0xFFFF then s else
  t.dies.foldl (fun s d =>
    let e := entity d.place 1 0
    (s.fstFeat c e 1 [(g.fidx, sat32 d.ell, false)]).fstFeat c e 2 [(g.fidx + 1, w32 (b2n d.strag + 2 * b2n d.cens), false)]) s

/-- The two words of a member in the status-0x10 token (R266); a die of the start that is no longer a member is ABSENT, and its
lateness, which the rule does not give, is free (log 16). -/
def Blk.lateWords (s : Blk) (t : LateTurn) (d : Word) : List Word × Blk :=
  match t.dies.find? (fun x => x.place == d) with
  | some x => ([sat32 x.ell, w32 (b2n x.strag <<< 31 + b2n x.cens <<< 30 + b2n x.hold <<< 28 + dieOf d)], s)
  | none => let (f, s) := s.draw; ([w32 f, w32 (1 <<< 29 + dieOf d)], s)

/-- The elements of the contributions to RLP, RLN and ROFS (R264). -/
def lateElems (g : LateCfg) (t : LateTurn) (r : Dword) (place : Word) : List ElemV × List ElemV × List ElemV :=
  let h := fun (sgn : Bool) (e : Int) (part : Nat) =>
    w32 (1 <<< 28 + b2n sgn <<< 27 + 3 <<< 24 + (BitVec.ofInt 8 e).toNat <<< 16 + part <<< 11)
  let all := t.dies.foldl (fun (v : Hist) d => v.add (intVal d.ell) false) { Hist.empty 0 with h := h true g.eLat 0 }
  let neg := fun (i : Nat) => decide (i = 7 ∨ i = 8 ∨ 2064 ≤ i)
  let pos : Hist := { all with cnt := all.cnt.filter (fun p => !neg p.1) }
  let low : Hist := { all with h := h true g.eLat 1 ||| (all.h &&& 1), cnt := all.cnt.filter (fun p => neg p.1) }
  let top := fun (k : Nat) => ({ TopK.empty with h := w32 (2 <<< 28 + k) } : TopK)
  let dieTop := t.dies.foldl (fun (v : TopK) d =>
    v.offer (d.stamp - r) (w32 (1 <<< 28 + fld d.place 27 0)) (w32 (b2n d.cens)) false) (top g.kd)
  let o := t.median - r
  let ofs := ({ Hist.empty 0 with h := h false g.eOfs 0 } : Hist).add (intVal o.toInt) false
  ([⟨.hist pos, false⟩, ⟨.topk dieTop, false⟩], [⟨.hist low, false⟩],
   [⟨.hist ofs, false⟩, ⟨.topk ((top g.kt).offer o (w32 (2 <<< 28 + fld place 27 0)) 0 false), false⟩])

/-- Whether nothing of a stage remains to be done once the contributions are made: the results that would bring the last token
are not delivered here. -/
def Blk.lateNoOfs (s : Blk) (c : Nat) (g : LateCfg) : Bool :=
  match s.reduction c g.rofs with | some v => decide (v.dlv / 2 % 2 = 0) | none => true

/-- R has arrived and the stage has formed: features, the status-0x10 token, the contributions (R264, R266). -/
def Blk.lateGo (s : Blk) (c : Nat) (n : Word) (g : LateCfg) : Blk :=
  let t := s.lateT c n
  match t.ref with
  | none => s
  | some r =>
    if !t.formed ∨ t.c = 0 then s else
    let s := s.lateFeatures c g t
    let (ws, s) := (s.coll c).dies.foldl (fun (a : List Word × Blk) d =>
      let (w, s) := a.2.lateWords t d
      (a.1 ++ w, s)) ([], s)
    let s := s.lateToken c g n ([0x0210FFFF#32, n, loOf t.median.toNat, hiOf t.median.toNat, w32 t.c, w32 t.ncens,
      w32 t.nstrag, satU32 t.iqr, 0, 0] ++ ws)
    let fin := s.lateNoOfs c g
    if t.given then s else
    let s := s.setLateT c n { t with given := true, done := fin }
    let (p, l, o) := lateElems g t r s.place
    ((s.contribute c g.rlp n none p).contribute c g.rln n none l).contribute c g.rofs n none o

/-- Form the stage of a turn when every expected member's stamp is there, or at the cut (R262). -/
def Blk.lateForm (s : Blk) (c : Nat) (n : Word) (force : Bool) : Blk :=
  match (s.coll c).late with
  | none => s
  | some g =>
    let t := s.lateT c n
    let members := s.expected c n
    match t.mx with
    | none => s
    | some mx =>
      if t.formed ∨ (!force ∧ members.any (fun d => (Store.look t.stamps d.toNat).isNone)) then s else
      let t := g.form t mx members
      let t : LateTurn := { t with done := t.done || (match s.reduction c g.rref with
        | some v => decide (v.dlv / 2 ^ (v.scope - 1) % 2 = 0) | none => true) }
      ((s.setLateT c n t).lateFormed c n g t).lateGo c n g

/-- A member die has left (R26, R262): the turns that waited for it alone are formed. -/
def Blk.dieLeft (s : Blk) : Blk :=
  (Store.keys s.colls).foldl (fun s c =>
    let s := (s.redsOf c).foldl (fun s r => (s.turnsUp c r).foldl (fun s n => s.tryTray c r n false) s) s
    (s.sk.late.filter (fun p => p.1 / 2 ^ 32 = c)).foldl (fun s p => s.lateForm c (w32 p.1) false) s) s

/-- Turn `n` opens at the tray with the marker stamp `mx` (R262). -/
def Blk.lateOpen (s : Blk) (c : Nat) (n : Word) (mx : Dword) : Blk :=
  if s.role ≠ .tray ∨ (s.coll c).late.isNone ∨ sdiff n (s.coll c).start < 0 then s else
  let t := s.lateT c n
  if t.mx.isSome then s else (s.setLateT c n { t with mx := some mx }).lateForm c n false

/-- The MRK record of a member die that opens turn `n` (R262). -/
def Blk.lateStamp (s : Blk) (c : Nat) (die : Word) (n : Word) (stamp : BitVec 48) (hold : Bool) : Blk :=
  if s.role ≠ .tray ∨ (s.coll c).late.isNone ∨ sdiff n (s.coll c).start < 0 ∨
      sdiff n (s.reg (.err (.ERR_Cc_ACK c))) ≤ 0 ∨ !(s.expected c n).contains die then s else
  let t := s.lateT c n
  if t.formed ∨ (Store.look t.stamps die.toNat).isSome then s
  else (s.setLateT c n { t with stamps := Store.put t.stamps die.toNat (stamp.setWidth 64, hold) }).lateForm c n false

/-- The status-0x11 token (R267), once every result that its words need has come. -/
def Blk.lateOfs (s : Blk) (c : Nat) (n : Word) (g : LateCfg) (scope : Nat) : Blk :=
  let t := s.lateT c n
  match t.qs, t.ref with
  | some qs, some r =>
    if t.c = 0 ∨ (scope = 3 ∧ t.qf.isNone) then s else
    let o := (t.median - r).toInt
    let a : Dword := BitVec.ofInt 64 (o - qs)
    let b : Dword := match t.qf with | some q => BitVec.ofInt 64 (o - q) | none => 0
    let s := s.lateToken c g n [0x0211FFFF#32, n, loOf a.toNat, hiOf a.toNat, loOf b.toNat, hiOf b.toNat, loOf r.toNat, hiOf r.toNat]
    let s := s.setReg2 (.sku (.SKU_LT_OFS_HI c)) (.sku (.SKU_LT_OFS_LO c)) a.toNat
    s.setLateT c n { t with qs := none, qf := none, done := true }
  | _, _ => s

/-- The median of a ROFS result; of a histogram that holds nothing it is free (R267). -/
def Blk.lateMedian (s : Blk) (x : RResult) : Int × Blk :=
  match readHist 0 ((x.words.zip x.poi).drop 8) with
  | some (v, _) => (match v.quantile 32768 with
    | some (c, w, _) => ((v.repr c w).toInt, s)
    | none => let (f, s) := s.draw; ((f : Int), s))
  | none => let (f, s) := s.draw; ((f : Int), s)

/-- A result has been delivered: what the lateness stage takes of it (R263, R267). -/
def Blk.lateResult (s : Blk) (c r : Nat) (x : RResult) : Blk :=
  match (s.coll c).late, s.reduction c r with
  | some g, some v =>
    if s.role ≠ .tray then s else
    let t := s.lateT c x.turn
    if r = g.rref ∧ x.level = v.scope then
      if bit (x.words.getD 10 0) 31 then s.setLateT c x.turn { t with done := true } else
      let m := BitVec.ofNat 64 (hiLo (x.words.getD 9 0) (x.words.getD 8 0)) ^^^ BitVec.ofNat 64 (2 ^ 63)
      (s.setLateT c x.turn { t with ref := some m }).lateGo c x.turn g
    else if r = g.rofs ∧ (x.level = 2 ∨ x.level = 3) then
      let (q, s) := s.lateMedian x
      let t : LateTurn := if x.level = 2 then { t with qs := some q } else { t with qf := some q }
      (s.setLateT c x.turn t).lateOfs c x.turn g v.scope
    else s
  | _, _ => s

/-- Drop the stages of turns that are acknowledged (R362). -/
def Blk.latePrune (s : Blk) (c : Nat) (ack : Word) : Blk :=
  s.modSk (fun m => { m with late := m.late.filter (fun p => p.1 / 2 ^ 32 ≠ c || decide (0 < sdiff (w32 p.1) ack)) })

/-- A restart opens the tokens of the turns that are delivered again (R363). -/
def Blk.lateRestart (s : Blk) (c : Nat) : Blk :=
  s.modSk (fun m => { m with late := m.late.map (fun p => if p.1 / 2 ^ 32 ≠ c then p else
    (p.1, { p.2 with qs := none, qf := none, done := p.2.done && (!p.2.formed || p.2.c == 0) })) })

/-- Teardown drops the stages of a collection. -/
def Blk.lateDrop (s : Blk) (c : Nat) : Blk :=
  s.modSk (fun m => { m with late := m.late.filter (fun p => p.1 / 2 ^ 32 ≠ c) })

/-- LATENESS_CUT (R262): LCUT after the tray's marker has passed for some turn of the collection. -/
def execLatenessCut (c : Nat) : State → Host.Outcome State Fault Refusal := lift fun s =>
  match (s.coll c).late with
  | none => s
  | some g =>
    (s.sk.late.filter (fun p => p.1 / 2 ^ 32 = c)).foldl (fun s p =>
      match p.2.mx with
      | some mx => if 0 ≤ (s.t64 - g.cutAt mx).toInt then s.lateForm c (w32 p.1) true else s
      | none => s) s

end Sys2Proof.Machine
end

