-- ==== Sys2Proof/Machine/Jobs.lean ====
section
/-!
DEFINITION. The jobs of the sketch units (R258 to R260, R268 to R277): SKINS, SKMRG, SKQ and TOPK on histograms, top-k lists and
drift tables.
-/

namespace Sys2Proof.Machine

/-- What a sketch job ends with: its status, the words of its token after word 0, whether it set SAT, and the state; or the
fault that refuses it. -/
structure SkEnd where
  status : Nat
  words  : List Word
  sat    : Bool
  s      : Blk

abbrev SkRes := Except JobFault SkEnd

/-- Statuses of Table 8-4. -/
def skEnd (s : Blk) (st : Nat) : SkRes := .ok ⟨st, [], false, s⟩
def badForm (s : Blk) : SkRes := skEnd s 2

/-! ### Images (Tables 8-1, 8-2) -/

/-- Whether an H word is that of a histogram image. -/
def histOk (h : Word) : Bool := decide (fld h 31 28 = 1 ∧ fld h 26 24 < 4 ∧ fld h 15 12 = 0 ∧ fld h 11 1 = 0)
def histWords (h : Word) : Nat := if bit h 27 then 4112 else 2064

/-- A word of Table 8-1 that holds a count. -/
def isCount (i : Nat) : Bool := decide (2 ≤ i ∧ i ≤ 8) || decide (16 ≤ i)

def histOf (ws : List PWord) : Hist :=
  let ix := (List.range ws.length).filter isCount
  { h := (ws.getD 0 (0, false)).1,
    cnt := (ix.filter (fun i => (ws.getD i (0, false)).1 ≠ 0)).map (fun i => (i, (ws.getD i (0, false)).1)),
    poi := (ix.filter (fun i => (ws.getD i (0, false)).2)).map (fun i => (i, true)) }

def histImage (v : Hist) (old : List PWord) : List PWord :=
  (List.range old.length).map (fun i =>
    if i = 0 then (v.h, (old.getD 0 (0, false)).2)
    else if isCount i then (v.count i, Store.get false v.poi i) else old.getD i (0, false))

def topkWords (h : Word) : Nat := 8 + 4 * fld h 8 0
def topkImgOk (h : Word) (n : Word) : Bool := topkOk h && decide (fld h 23 9 = 0) && decide (n.toNat ≤ fld h 8 0)

def topkOf (ws : List PWord) : TopK :=
  let w := fun i => ws.getD i (0, false)
  { h := (w 0).1,
    keys := (List.range (w 1).1.toNat).map (fun i =>
      let o := 8 + 4 * i
      { val := BitVec.ofNat 64 (hiLo (w (o + 1)).1 (w o).1), place := (w (o + 2)).1, seq := (w (o + 3)).1,
        poi := (w o).2 || (w (o + 1)).2 || (w (o + 2)).2 || (w (o + 3)).2 }),
    seen := BitVec.ofNat 64 (hiLo (w 3).1 (w 2).1), nanc := (w 4).1,
    poi := (w 1).2 || (w 2).2 || (w 3).2, npoi := (w 4).2 }

def topkImage (v : TopK) : List PWord :=
  let ws := v.wire
  let a := ws.take 5 ++ [(0, false), (0, false), (0, false)] ++ ws.drop 5
  a ++ List.replicate (topkWords v.h - a.length) (0, false)

/-- Read the histogram or list that a job names, counting its lines once. -/
def Blk.jobHist (s : Blk) (j : Job) (a : Nat) : Except JobFault (List PWord × Blk) :=
  match s.jobPeek j a 1 with
  | .error e => .error e
  | .ok ws => s.jobRead j a (histWords (ws.getD 0 (0, false)).1)

def Blk.jobTopk (s : Blk) (j : Job) (a : Nat) : Except JobFault (List PWord × Blk) :=
  match s.jobPeek j a 1 with
  | .error e => .error e
  | .ok ws => s.jobRead j a (topkWords (ws.getD 0 (0, false)).1)

/-- FORM and H of what stands at an address. -/
def Blk.jobForm (s : Blk) (j : Job) (a : Nat) : Except JobFault Word :=
  (s.jobPeek j a 1).map (fun ws => (ws.getD 0 (0, false)).1)

/-- Write a histogram back; the job's end, with SAT newly set or not. -/
def Blk.putHist (s : Blk) (j : Job) (a : Nat) (old : List PWord) (v : Hist) : SkRes :=
  (s.jobWrite j a (histImage v old)).map (fun s =>
    ⟨0, [], v.sat && !bit (old.getD 0 (0, false)).1 0, s⟩)

def Blk.putTopk (s : Blk) (j : Job) (a : Nat) (v : TopK) : SkRes :=
  (s.jobWrite j a (topkImage v)).map (fun s => ⟨0, [], false, s⟩)

/-! ### SKINS and TOPK (R208, R258) -/

/-- Enabled lanes as values: index, bits, poison. Values of 64 bits take two lanes (R258). -/
def jobLanes (j : Job) (wide : Bool) : List (Nat × Dword × Bool) :=
  if wide then ((List.range 8).filter (fun i => j.mask.getLsbD (2 * i))).map (fun i =>
    (i, BitVec.ofNat 64 (hiLo (j.lanes.getD (2 * i + 1) 0) (j.lanes.getD (2 * i) 0)),
     j.lanePoi.getLsbD (2 * i) || j.lanePoi.getLsbD (2 * i + 1)))
  else ((List.range 16).filter (fun i => j.mask.getLsbD i)).map (fun i =>
    (i, (j.lanes.getD i 0).setWidth 64, j.lanePoi.getLsbD i))

def Blk.skIns (s : Blk) (j : Job) : SkRes :=
  let a := j.field 0 8
  if a % 8 ≠ 0 then badForm s else
  match s.jobForm j a with
  | .error e => .error e
  | .ok h =>
    if fld h 31 28 = 1 then
      if !histOk h then badForm s else
      match s.jobHist j a with
      | .error e => .error e
      | .ok (ws, s) =>
        s.putHist j a ws ((jobLanes j (decide (fld h 26 24 = 3))).foldl (fun v l =>
          v.add (histVal (fld h 26 24) l.2.1) l.2.2) (histOf ws))
    else if fld h 31 28 = 2 then
      if !topkImgOk h 0 then badForm s else
      match s.jobTopk j a with
      | .error e => .error e
      | .ok (ws, s) =>
        if !topkImgOk h (ws.getD 1 (0, false)).1 then badForm s else
        s.putTopk j a ((jobLanes j (decide (fld h 26 24 < 2))).foldl (fun (v : TopK) l =>
          v.offer l.2.1 (w32 (j.field 8 4)) (w32 (j.field 12 4 + l.1)) (l.2.2 || j.descPoi.getD 2 false || j.descPoi.getD 3 false)) (topkOf ws))
    else badForm s

def Blk.skTopk (s : Blk) (j : Job) : SkRes :=
  let a := j.field 0 8
  let ka := j.field 8 8
  let n := j.field 16 4
  if a % 8 ≠ 0 ∨ ka % 8 ≠ 0 ∨ 65536 < n then badForm s else
  match s.jobForm j a with
  | .error e => .error e
  | .ok h =>
    if !topkImgOk h 0 then badForm s else
    match s.jobTopk j a with
    | .error e => .error e
    | .ok (ws, s) =>
      if !topkImgOk h (ws.getD 1 (0, false)).1 then badForm s else
      match s.jobRead j ka (4 * n) with
      | .error e => .error e
      | .ok (ks, s) =>
        let k := fun i => ks.getD i (0, false)
        let f32? := decide (fld h 26 24 = 2)
        s.putTopk j a ((List.range n).foldl (fun (v : TopK) i =>
          let o := 4 * i
          v.offer (BitVec.ofNat 64 (if f32? then (k o).1.toNat else hiLo (k (o + 1)).1 (k o).1)) (k (o + 2)).1 (k (o + 3)).1
            ((k o).2 || (k (o + 1)).2 || (k (o + 2)).2 || (k (o + 3)).2)) (topkOf ws))

/-! ### SKMRG (R250, R254, R255, R258) -/

/-- Words of a histogram part in wire form, found by its run words; none when more words than `ws` are needed. -/
def wireWalk : Nat → List PWord → Nat → Option Nat
  | 0, _, o => some o
  | n + 1, ws, o => match ws[o]? with
    | none => none
    | some r => wireWalk n ws (o + 1 + fld r.1 8 0)

/-- The wire form at an address, as far as it goes: at most 2,063 words; a form that runs past the segment is refused. -/
def Blk.jobWire (s : Blk) (j : Job) (a : Nat) : Except JobFault (List PWord × Blk) :=
  let room := s.jobRoom j a 2063
  if room = 0 then .error ⟨6, a⟩ else
  match s.jobPeek j a room with
  | .error e => .error e
  | .ok ws =>
    let h := (ws.getD 0 (0, false)).1
    let n := (ws.getD 1 (0, false)).1
    let need := if fld h 31 28 = 2 then some (5 + 4 * fld n 8 0) else wireWalk (fld n 10 0) ws 7
    match need with
    | some k => if k ≤ room then s.jobRead j a k else if room < 2063 then .error ⟨6, a⟩ else s.jobRead j a 2063
    | none => if room < 2063 then .error ⟨6, a⟩ else s.jobRead j a 2063

/-- Merge a histogram into the image at `t`. -/
def Blk.mergeHist (s : Blk) (j : Job) (t : Nat) (v : Hist) : SkRes :=
  match s.jobForm j t with
  | .error e => .error e
  | .ok h =>
    if !histOk h then (if fld h 31 28 = 2 then skEnd s 1 else badForm s)
    else if Hist.kind h ≠ Hist.kind v.h then skEnd s 1 else
    match s.jobHist j t with
    | .error e => .error e
    | .ok (ws, s) => s.putHist j t ws ((histOf ws).merge v)

/-- Merge a list into the image at `t`. -/
def Blk.mergeTopk (s : Blk) (j : Job) (t : Nat) (v : TopK) : SkRes :=
  match s.jobForm j t with
  | .error e => .error e
  | .ok h =>
    if !topkImgOk h 0 then (if histOk h then skEnd s 1 else badForm s)
    else if h ≠ v.h then skEnd s 1 else
    match s.jobTopk j t with
    | .error e => .error e
    | .ok (ws, s) =>
      if !topkImgOk h (ws.getD 1 (0, false)).1 then badForm s else s.putTopk j t ((topkOf ws).merge v)

/-- OP 0x2: export a part of an image in wire form. -/
def Blk.skExport (s : Blk) (j : Job) (src dst part room : Nat) : SkRes :=
  let out := fun (s : Blk) (ws : List PWord) =>
    if room < ws.length then skEnd s 3
    else (s.jobWrite j dst ws).map (fun s => (⟨0, [w32 ws.length], false, s⟩ : SkEnd))
  match s.jobForm j src with
  | .error e => .error e
  | .ok h =>
    if histOk h then
      if part = 1 ∧ !bit h 27 then badForm s else
      match s.jobHist j src with
      | .error e => .error e
      | .ok (ws, s) => out s ((histOf ws).wire part)
    else if topkImgOk h 0 then
      match s.jobTopk j src with
      | .error e => .error e
      | .ok (ws, s) => if !topkImgOk h (ws.getD 1 (0, false)).1 then badForm s else out s (topkOf ws).wire
    else badForm s

/-! ### Drift tables (R268 to R276) -/

/-- Header of a drift table. -/
structure DriftHd where
  qpos   : Bool
  skip   : Bool
  kew    : Nat
  nwin   : Nat
  nrows  : Nat
  settle : Nat
  deriving DecidableEq, Repr

def driftHd (s : Blk) (ws : List PWord) : DriftHd :=
  let w := fun i => (ws.getD i (0, false)).1
  { qpos := bit (w 0) 27, skip := bit (w 0) 26, kew := fld (w 0) 23 20, nwin := fld (w 0) 12 0, nrows := (w 1).toNat,
    settle := (if w 2 = 0 then s.reg (.sku .SKU_SETTLE_DEF) else w 2).toNat * tkUs }

/-- Whether a header is that of a drift table that the unit takes: A64 only (R259). -/
def driftOk (s : Blk) (h : Word) (d : DriftHd) : Bool :=
  decide (fld h 31 28 = 3) && s.conf == .a64 && decide (2 ≤ d.nwin ∧ d.nwin ≤ 4096) && decide (1 ≤ d.kew ∧ d.kew ≤ 8) &&
    decide (1 ≤ d.nrows ∧ d.nrows ≤ 65536)

/-- Words of the VALID bitmap and of a row. -/
def DriftHd.vmap (d : DriftHd) : Nat := (d.nwin + 31) / 32
def DriftHd.row (d : DriftHd) : Nat := roundUp (32 + d.vmap + d.nwin) 16

/-- A row as its words. -/
abbrev DRow := List PWord
def DRow.w (r : DRow) (i : Nat) : Word := (r.getD i (0, false)).1
def DRow.set (r : DRow) (i : Nat) (v : Word) : DRow := List.set r i (v, (r.getD i (0, false)).2)
def DRow.ent (r : DRow) : Nat := hiLo (DRow.w r 1) (DRow.w r 0)
def DRow.flag (r : DRow) (i : Nat) : Bool := bit (DRow.w r 6) i
def DRow.setFlag (r : DRow) (i : Nat) (v : Bool) : DRow := DRow.set r 6 (setFld (DRow.w r 6) i i (b2n v))
def DRow.ewma (r : DRow) : W320 := W320.ofImage (wordsBytes ((r.drop 8).take 12 |>.map Prod.fst))
def DRow.ewmaPoi (r : DRow) : Bool := ((r.drop 8).take 12).any Prod.snd
def DRow.setEwma (r : DRow) (v : W320) (poi : Bool) : DRow :=
  r.take 8 ++ (bytesWords 12 v.image).map (fun w => (w, poi)) ++ r.drop 20
/-- VALID of the slot of turn `t`, and its change. -/
def DRow.slot (d : DriftHd) (t : Word) : Nat := t.toNat % d.nwin
def DRow.valid (r : DRow) (k : Nat) : Bool := bit (DRow.w r (32 + k / 32)) (k % 32)
def DRow.setValid (r : DRow) (k : Nat) (v : Bool) : DRow :=
  DRow.set r (32 + k / 32) (setFld (DRow.w r (32 + k / 32)) (k % 32) (k % 32) (b2n v))

/-- The row of an entity by binary search over the rows of a table; `fuel` bounds the steps. -/
def driftFind (rows : List DRow) (e : Nat) : Nat → Nat → Nat → Option Nat
  | 0, _, _ => none
  | fuel + 1, lo, hi =>
    if hi ≤ lo then none else
    let m := (lo + hi) / 2
    let x := DRow.ent (rows.getD m [])
    if x = e then some m else if x < e then driftFind rows e fuel (m + 1) hi else driftFind rows e fuel lo m

/-- Position of a value among its peers (R273); none when the histogram is empty. -/
def qposOf (v : Hist) (x : FVal) : Option Nat :=
  let n := v.total
  if n = 0 then none else
  let cls := v.classOf x
  let below := ((v.order.takeWhile (fun p => p.2 ≠ cls)).map (fun p => (v.count p.2).toNat)).sum
  some (min 0xFFFF (65536 * (2 * below + (v.count cls).toNat) / (2 * n)))

/-- One entry of a sample block (R269). -/
structure DSample where
  ent   : Nat
  trans : Bool
  stale : Bool
  rst   : Bool
  value : Word
  stamp : Dword
  poi   : Bool
  deriving DecidableEq, Repr

/-- What a sample adds to the counters: missed, skipped for a transient, skipped as stale. -/
structure DCount where
  miss  : Nat
  trans : Nat
  stale : Nat
  deriving DecidableEq, Repr

/-- Take a sample into its row (R270, steps 2 to 9, R271, R273): the row, and whether a transient or staleness skipped it. -/
def driftTake (d : DriftHd) (vtype : Nat) (peers : Option Hist) (turn : Word) (r : DRow) (x : DSample) : DRow × Bool × Bool :=
  let r := if !x.rst then r else
    let r := DRow.setFlag (DRow.setFlag (DRow.setEwma r W320.zero false) 0 false) 2 true
    DRow.set ((List.range d.vmap).foldl (fun r i => DRow.set r (32 + i) 0) r) 3 0
  let lturn := DRow.w r 2
  let skip := fun (r : DRow) =>
    DRow.set (DRow.setValid r (DRow.slot d turn) false) 7 (satAdd (DRow.w r 7) 1)
  if DRow.flag r 0 ∧ sdiff turn lturn ≤ 0 then (skip r, false, false) else
  let gap := (sdiff turn lturn - 1).toNat
  let r := if d.nwin ≤ gap then (List.range d.nwin).foldl (fun r k => DRow.setValid r k false) r
    else (List.range gap).foldl (fun r i => DRow.setValid r (DRow.slot d (lturn + 1 + w32 i)) false) r
  let r := DRow.set r 2 turn
  if x.trans then
    (skip (DRow.set (DRow.set r 4 (x.stamp.setWidth 32)) 5 (hiOf x.stamp.toNat)), true, false) else
  let since := (x.stamp - BitVec.ofNat 64 (hiLo (DRow.w r 5) (DRow.w r 4))).toInt
  if 0 ≤ since ∧ since < d.settle then (skip r, true, false) else
  let r := if x.stale then DRow.setFlag r 3 true else DRow.setFlag (DRow.setFlag r 3 false) 5 false
  if x.stale && d.skip then (skip r, false, true) else
  let v := histVal vtype (x.value.setWidth 64)
  let pos := match peers with | some h => qposOf h v | none => none
  if v.isNan || (d.qpos && pos.isNone) then (skip r, false, false) else
  let v := match pos with | some p => if d.qpos then intVal p else v | none => v
  let w := W320.ofVal v
  let xp := x.poi || (d.qpos && (match peers with | some h => h.poi.any (fun p => decide (p.1 ≠ 3)) | none => false))
  let e := DRow.ewma r
  let on := DRow.flag r 0
  let poi := xp || (on && DRow.ewmaPoi r)
  let e : W320 := { val := ewmaStep on e.val w.val d.kew, pinf := (on && e.pinf) || w.pinf, ninf := (on && e.ninf) || w.ninf,
                    nan := (on && e.nan) || w.nan }
  let k := DRow.slot d turn
  let r := DRow.setFlag (DRow.setEwma r e poi) 0 true
  let r := if xp then DRow.setFlag r 1 true else r
  let r := DRow.set (DRow.setValid r k true) 3 (satAdd (DRow.w r 3) 1)
  (List.set r (32 + d.vmap + k) (w32 (f32.bits v), xp), false, false)

/-- OP 0x3: merge a sample block into a drift table. -/
def Blk.skDrift (s : Blk) (j : Job) (src dst peer : Nat) : SkRes :=
  if src % 8 ≠ 0 ∨ dst % 8 ≠ 0 then badForm s else
  match s.jobPeek j dst 3, s.jobPeek j src 8 with
  | .error e, _ => .error e
  | _, .error e => .error e
  | .ok hd, .ok sb =>
    let d := driftHd s hd
    let h := (hd.getD 0 (0, false)).1
    let b := (sb.getD 0 (0, false)).1
    if !driftOk s h d ∨ fld b 31 28 ≠ 4 ∨ 3 ≤ fld b 26 24 then badForm s else
    let n := (sb.getD 2 (0, false)).1.toNat
    match s.jobRead j dst (16 + d.nrows * d.row) with
    | .error e => .error e
    | .ok (tw, s) =>
      match s.jobRead j src (8 + 4 * n) with
      | .error e => .error e
      | .ok (sw, s) =>
        let peers : Except JobFault (Option Hist × Blk) :=
          if !d.qpos then .ok (none, s) else
          match s.jobHist j peer with
          | .error e => .error e
          | .ok (ws, s) => .ok (if histOk (ws.getD 0 (0, false)).1 then some (histOf ws) else none, s)
        match peers with
        | .error e => .error e
        | .ok (hs, s) =>
          if d.qpos ∧ (peer % 8 ≠ 0 ∨ hs.isNone) then badForm s else
          let w := fun i => sw.getD i (0, false)
          let base := BitVec.ofNat 64 (hiLo (w 5).1 (w 4).1)
          let turn := (w 1).1
          let rows := (List.range d.nrows).map (fun i => ((tw.drop (16 + i * d.row)).take d.row : DRow))
          let (rows, cnt) := (List.range n).foldl (fun (a : List DRow × DCount) i =>
            let o := 8 + 4 * i
            let x : DSample :=
              { ent := (w o).1.toNat + fld (w (o + 1)).1 15 0 * 2 ^ 32, trans := bit (w (o + 1)).1 16,
                stale := bit (w (o + 1)).1 17, rst := bit (w (o + 1)).1 18, value := (w (o + 2)).1,
                stamp := base + BitVec.ofNat 64 (16 * (w (o + 3)).1.toNat), poi := (w (o + 2)).2 }
            match driftFind a.1 x.ent 20 0 d.nrows with
            | none => (a.1, { a.2 with miss := a.2.miss + 1 })
            | some k =>
              let (r, tr, st) := driftTake d (fld b 26 24) hs turn (a.1.getD k []) x
              (a.1.set k r, { a.2 with trans := a.2.trans + b2n tr, stale := a.2.stale + b2n st })) (rows, ⟨0, 0, 0⟩)
          match s.jobWrite j (dst + 64) rows.flatten with
          | .error e => .error e
          | .ok s =>
            let s := (s.count (.sku .SKU_DRIFT_MISS) cnt.miss).count (.sku .SKU_SKIP_TRANS) cnt.trans
            skEnd (s.count (.sku .SKU_SKIP_STALE) cnt.stale) 0

/-- The valid slots of a row: offset from the first turn of the window, value × 2^160, poison, and whether it is finite. -/
def driftSlots (d : DriftHd) (r : DRow) : List (Nat × Int × Bool × Bool) :=
  let first := DRow.w r 2 - w32 (d.nwin - 1)
  ((List.range d.nwin).filter (fun u => DRow.valid r (DRow.slot d (first + w32 u)))).map (fun u =>
    let c := r.getD (32 + d.vmap + DRow.slot d (first + w32 u)) (0, false)
    let x := W320.ofVal (f32.val c.1.toNat)
    (u, x.val.toInt, c.2, !(x.pinf || x.ninf || x.nan)))

/-- Read one row (R272, R274 to R276): the four words, the row and the state. A slope over values that are not finite is free:
the spec gives none. -/
def Blk.driftRead (s : Blk) (j : Job) (d : DriftHd) (proj : Bool) (r : DRow) : List PWord × DRow × Blk :=
  let sl := driftSlots d r
  let n := sl.length
  let fin := sl.all (fun p => p.2.2.2)
  let (num, den) := slopeFrac (sl.map (fun p => (p.1, p.2.1)))
  let (free, s) := if fin ∨ n < 2 then (0, s) else s.draw
  let slope := if n < 2 then 0x7FC00000 else if fin then quotF32 num den else free % 2 ^ 32
  let e := DRow.ewma r
  let poi := DRow.ewmaPoi r || sl.any (fun p => p.2.2.1)
  let h := (s.reg (.sku .SKU_HORIZON)).toNat * tkSec / j.pred
  let doProj := proj && decide (j.pred ≠ 0)
  let (free', s) := if doProj ∧ ¬(fin ∨ n < 2) then s.draw else (0, s)
  let p := if !doProj then 0x7FC00000
    else if n < 2 ∨ e.pinf ∨ e.ninf ∨ e.nan then e.toFmt f32
    else if fin then quotF32 (e.val.toInt * den + num * h) den else free' % 2 ^ 32
  let kind := entKind (DRow.ent r)
  let lane := doProj && decide (kind = 5 ∨ kind = 6)
  let sp := s.reg (.sku .SKU_SPARE_DB)
  let v := f32.val p
  let below := v.lt (intVal (fld sp 15 0))
  let reach := !v.isNan && !v.lt (intVal (fld sp 15 0 + fld sp 31 16 : Nat))
  let ev := fun (s : Blk) (code a1 : Nat) =>
    s.emitEv ⟨BitVec.ofNat 16 code, unitSrc j.cluster 8, BitVec.ofNat 64 (DRow.ent r), BitVec.ofNat 48 a1, poi⟩
  let stale := DRow.flag r 3
  let (r, s) :=
    if lane && stale && !DRow.flag r 5 then (DRow.setFlag r 5 true, ev s 0x0A03 j.turn.toNat)
    else if lane && !stale && below && !DRow.flag r 4 then (DRow.setFlag r 4 true, ev s 0x0A01 p)
    else (r, s)
  let r := if lane && reach then DRow.setFlag r 4 false else r
  let flags := n + 2 ^ 16 * b2n (DRow.flag r 1) + 2 ^ 17 * b2n (decide (n < 2)) + 2 ^ 18 * b2n stale +
    2 ^ 19 * b2n (DRow.flag r 2) + 2 ^ 20 * b2n (DRow.flag r 4)
  ([(w32 (e.toFmt f32), DRow.ewmaPoi r), (w32 slope, sl.any (fun p => p.2.2.1)), (w32 p, poi), (w32 flags, false)],
   DRow.setFlag r 2 false, s)

/-- SKQ on a drift table (R274). -/
def Blk.skqDrift (s : Blk) (j : Job) (a out : Nat) : SkRes :=
  match s.jobPeek j a 3 with
  | .error e => .error e
  | .ok hd =>
    let d := driftHd s hd
    let first := j.field 20 4
    let n := j.field 24 4
    if !driftOk s (hd.getD 0 (0, false)).1 d ∨ d.nrows < first + n ∨ out % 8 ≠ 0 then badForm s else
    let at_ := a + 64 + 4 * d.row * first
    match s.jobRead j at_ (n * d.row), s.jobCheck j at_ (4 * n * d.row) true, s.jobCheck j out (16 * n) true with
    | .error e, _, _ => .error e
    | _, .error e, _ => .error e
    | _, _, .error e => .error e
    | .ok (tw, s), .ok _, .ok _ =>
      let rows := (List.range n).map (fun i => ((tw.drop (i * d.row)).take d.row : DRow))
      let (ws, rows, s) := rows.foldl (fun (x : List PWord × List DRow × Blk) r =>
        let (w, r, s) := x.2.2.driftRead j d (j.field 17 1 % 2 = 1) r
        (x.1 ++ w, x.2.1 ++ [r], s)) ([], [], s)
      match s.jobWrite j at_ rows.flatten with
      | .error e => .error e
      | .ok s => (s.jobWrite j out ws).map (fun s => ⟨0, [], false, s⟩)

/-! ### SKQ on a histogram (R252) -/

def Blk.skQuant (s : Blk) (j : Job) : SkRes :=
  let a := j.field 0 8
  let out := j.field 8 8
  let nq := j.field 16 1
  let qa := j.field 28 4
  if a % 8 ≠ 0 then badForm s else
  match s.jobForm j a with
  | .error e => .error e
  | .ok h =>
    if fld h 31 28 = 3 then s.skqDrift j a out
    else if !histOk h ∨ nq = 0 ∨ 16 < nq ∨ out % 8 ≠ 0 ∨ qa % 4 ≠ 0 then badForm s else
    match s.jobHist j a with
    | .error e => .error e
    | .ok (ws, s) =>
      match s.jobRead j qa nq with
      | .error e => .error e
      | .ok (qs, s) =>
        if qs.any (fun q => decide (65536 < q.1.toNat)) then badForm s else
        let v := histOf ws
        let n := v.total
        let poi := v.poi.any (fun p => decide (p.1 ≠ 3))
        let head : List PWord := [(loOf n, poi), (hiOf n, poi)]
        if n = 0 then (s.jobWrite j out head).map (fun s => ⟨4, [], false, s⟩) else
        let body := qs.flatMap (fun q =>
          match v.quantile q.1.toNat with
          | none => []
          | some (c, w, run) =>
            let r := f64.bits (v.repr c w)
            let p := poi || q.2
            [(loOf r, p), (hiOf r, p), (w32 (c <<< 28 + bucketOf c w), p), (w32 (min run 0xFFFFFFFF), p)])
        (s.jobWrite j out (head ++ body)).map (fun s => ⟨0, [], false, s⟩)

/-- SKMRG (R258). -/
def Blk.skMerge (s : Blk) (j : Job) : SkRes :=
  let src := j.field 0 8
  let dst := j.field 8 8
  let op := j.field 16 1
  let part := j.field 17 1
  if op = 3 then s.skDrift j src dst (j.field 24 8)
  else if 3 < op ∨ 1 < part then badForm s
  else if op = 2 then (if src % 8 ≠ 0 ∨ dst % 4 ≠ 0 then badForm s else s.skExport j src dst part (j.field 20 4))
  else if dst % 8 ≠ 0 ∨ src % (if op = 0 then 8 else 4) ≠ 0 then badForm s
  else
    match s.jobForm j src with
    | .error e => .error e
    | .ok h =>
      if fld h 31 28 ≠ 1 ∧ fld h 31 28 ≠ 2 then badForm s
      else if op = 0 then
        if fld h 31 28 = 1 then
          if !histOk h then badForm s else
          match s.jobHist j src with
          | .error e => .error e
          | .ok (ws, s) => s.mergeHist j dst (histOf ws)
        else
          if !topkImgOk h 0 then badForm s else
          match s.jobTopk j src with
          | .error e => .error e
          | .ok (ws, s) =>
            if !topkImgOk h (ws.getD 1 (0, false)).1 then badForm s else s.mergeTopk j dst (topkOf ws)
      else
        match s.jobWire j src with
        | .error e => .error e
        | .ok (ws, s) =>
          if fld h 31 28 = 1 then
            let p := fld h 11 11
            match readHist p ws with
            | some (v, []) =>
              if p = 1 ∧ !bit h 27 then badForm s
              else s.mergeHist j dst { v with h := setFld v.h 11 11 0 }
            | _ => badForm s
          else
            match readTopK ws with
            | some (v, []) => s.mergeTopk j dst v
            | _ => badForm s

/-- Run a sketch job (R208). -/
def Blk.skRun (s : Blk) (j : Job) : SkRes :=
  match j.op with
  | .skins => s.skIns j
  | .skmrg => s.skMerge j
  | .skq => s.skQuant j
  | _ => s.skTopk j

/-- The turn that SKU_SAT names for a job (R278). -/
def Blk.trkTurn (s : Blk) (c : Nat) : Word :=
  let t := s.tracker (s.coll c).trk
  if t.running && s.trkEn (s.coll c).trk then t.turn else 0

/-- The oldest job of a cluster's sketch unit ends (R259): its effect, its counters and its completion token; or it is refused,
and its context takes the fault that is answered. -/
def Blk.skJobEnd (s : Blk) (k : Nat) : Option (Job × JobFault) × Blk :=
  match Store.get [] s.sk.jobs k with
  | [] => (none, s)
  | j :: rest =>
    let s := s.modSk (fun m => { m with jobs := Store.set [] m.jobs k rest })
    if j.dead then (none, s.count (.sku .SKU_JOB_CNT) 1) else
    match s.skRun j with
    | .error e => (some (j, e), s)
    | .ok r =>
      let s := r.s.count (.sku .SKU_JOB_CNT) 1
      let s := if r.status = 1 ∨ r.status = 2 ∨ r.status = 3 then s.count (.sku .SKU_BAD_CNT) 1 else s
      let s := if r.sat then s.satSet j.cluster j.coll (s.trkTurn j.coll) else s
      (none, s.complete j r.status r.words 0)

/-- A link report (R277): the event, the feature in every table that holds the link, the token. -/
def Blk.wrLinkReport (s : Blk) (v : Word) : Blk :=
  let n := fld v 4 0
  if n = 0 ∨ 16 < n then s else
  let e := s.pairVal (.sku .SKU_LINK_ENT_HI) (.sku .SKU_LINK_ENT_LO) % 2 ^ 48
  let s := (s.setReg (.sku .SKU_LINK_REPORT) (w32 n)).emit 8 0x0A02 e n
  let f := s.reg (.sku .SKU_LANES_FIDX)
  let s := if !bit f 31 then s else
    ((Store.keys s.tre.tables).filter (fun c => (s.ftable c).any (fun t => (t.row e).isSome))).foldl (fun s c =>
      s.fstFeat c e 2 [(fld f 7 0, w32 n, false)]) s
  let q := s.reg (.sku .SKU_LINK_Q)
  if bit q 31 ∧ s.qEn (fld q 13 0) then
    s.enqOrWait (fld q 13 0) (Token.mk' 3 [0x0212FFFF#32, loOf e, hiOf e, w32 n] 0 false .none)
  else s

end Sys2Proof.Machine
end

