-- ==== Sys2Proof/Machine/Probes.lean ====
section
/-!
DEFINITION. The probe array of a Toltus D (R88 to R113): event words, pairing, probe groups and their latches, the sampler,
port bandwidth, sensors, analog inputs and digest capture.
-/

namespace Sys2Proof.Machine

/-! ### Angle and turn of a tracker (R74) -/

/-- The angle of a T64 in the tracker's turn (R74): 0 while it has no turn or no prediction. -/
def Tracker.angleAt (t : Tracker) (at_ : Dword) : Nat :=
  if !t.running ∨ t.pred = 0 then 0 else min 0xFFFF ((at_ - t.mstamp).toNat * 65536 / t.pred)

/-- The tracker's angle now. -/
def Blk.angle (s : Blk) (t : Nat) : Nat := (s.tracker t).angleAt s.t64

/-- A register value that a chapter refuses (R509): its byte address and the value written. -/
def Blk.refused (s : Blk) (r : Reg) (v : Word) : Blk := s.emit 0x15 0x1601 (r.addr s.conf) v.toNat

/-! ### Probe groups (R96 to R101) -/

def Group.fresh : Group := { cnt := [], added := [], prev := [], applied := [], markAt := none }

def Blk.group (s : Blk) (g : Nat) : Group := Store.get Group.fresh s.prb.groups g
def Blk.setGroup (s : Blk) (g : Nat) (v : Group) : Blk :=
  s.modPrb (fun m => { m with groups := Store.set Group.fresh m.groups g v })

/-- PRB_CTRL.EN, BW_EN, SNS_EN, DIG_EN. -/
def Blk.prbCtl (s : Blk) (i : Nat) : Bool := bit (s.reg (.prb .PRB_CTRL)) i

/-- OWNER of a group, and who it belongs to: a collection that runs, everybody (global), or nobody (R98). -/
def Blk.gOwner (s : Blk) (g : Nat) : Nat := fld (s.reg (.prb (.PRB_Gg_CTRL g))) 15 8

inductive Owner where
  | none | global | coll (c : Nat)
  deriving DecidableEq, Repr

def Blk.ownerOf (s : Blk) (o : Nat) : Owner :=
  if o = 0xFF then .global else if o < 16 ∧ s.collRuns o then .coll o else .none

/-- Value of counter `k` of a group; counter 8 is the fixed counter. -/
def Blk.counter (s : Blk) (g k : Nat) : Nat := Store.get 0 (s.group g).cnt k

/-- Value of a counter in this tclk: before the tclk's additions (R94, R99). -/
def Blk.before (s : Blk) (g k : Nat) : Nat := (s.counter g k + 2 ^ 48 - Store.get 0 (s.group g).added k) % 2 ^ 48

/-- The nine values of a group in this tclk, the fixed counter first. -/
def Blk.counters (s : Blk) (g : Nat) : List Nat := s.before g 8 :: (List.range 8).map (s.before g)

/-- The two register words that hold a counter of a group; counter 8 is the fixed one. -/
def cntRegs (g k : Nat) : Reg × Reg :=
  if k = 8 then (.prb (.PRB_Gg_FIX_HI g), .prb (.PRB_Gg_FIX_LO g)) else (.prb (.PRB_Gg_CNTc_HI g k), .prb (.PRB_Gg_CNTc_LO g k))

/-- Whether a counter is poisoned: one of its words is marked (R155, R355). -/
def Blk.cntPoi (s : Blk) (g k : Nat) : Bool :=
  Store.get false s.regPoi ((cntRegs g k).1.addr s.conf) || Store.get false s.regPoi ((cntRegs g k).2.addr s.conf)

/-- Poison of the nine values of a group, in the order of `Blk.counters`. -/
def Blk.countersPoi (s : Blk) (g : Nat) : List Bool := s.cntPoi g 8 :: (List.range 8).map (s.cntPoi g)

/-- The counters `ks` of a group are overwritten: their marks go. -/
def Blk.cntClean (s : Blk) (g : Nat) (ks : List Nat) : Blk :=
  ks.foldl (fun s k => (s.clearPoi ((cntRegs g k).1.addr s.conf) 4).clearPoi ((cntRegs g k).2.addr s.conf) 4) s

/-- A restart or host write of the group in this tclk: it falls between the acceptances of the commands now pending, but not
for those accepted in this tclk, whose begin values are taken after it (R94). -/
def Blk.markGroup (s : Blk) (g : Nat) : Blk :=
  let s := s.setGroup g { s.group g with markAt := some s.tclk }
  s.modPrb (fun m => { m with pairs := m.pairs.map (fun p =>
    if p.2.group = g ∧ p.2.tclk = s.tclk then (p.1, { p.2 with vals := s.counters g, poi := s.countersPoi g }) else p) })

/-- Restart every counter of a group from zero (R75 step 3, R100); what this tclk adds stays added. -/
def Blk.groupZero (s : Blk) (g : Nat) : Blk := ((s.setGroup g { s.group g with cnt := (s.group g).added }).cntClean g (List.range 9)).markGroup g

/-- Add to a counter; a wrap sets its bit of PRB_Gg_OVF and raises PRB_CNT_WRAP (R96). -/
def Blk.addCounter (s : Blk) (g k n : Nat) : Blk :=
  let v := s.counter g k + n
  let s := s.setGroup g { s.group g with cnt := Store.set 0 (s.group g).cnt k (v % 2 ^ 48) }
  if v < 2 ^ 48 then s else
  let s := s.setBits (.prb (.PRB_Gg_OVF g)) (w32 (2 ^ k))
  s.emit 3 0x0301 g (s.reg (.prb (.PRB_Gg_OVF g))).toNat

/-- What counter `k` of a group adds in a tclk, by its selection (Table 3-3). -/
def Blk.addition (s : Blk) (g k : Nat) : Nat :=
  let sel := s.reg (.prb (.PRB_Gg_SELc g k))
  let x := Store.get 0 s.prb.pins (32 * g + fld sel 4 0)
  let x' := Store.get 0 (s.group g).prev (fld sel 4 0)
  if !bit sel 31 then 0 else
  match fld sel 29 28 with
  | 0 => x
  | 1 => if x ≠ 0 then 1 else 0
  | 2 => if x ≠ 0 ∧ x' = 0 ∧ !(s.group g).applied.contains k then 1 else 0
  | _ => if max 1 (fld sel 27 24) ≤ x then 1 else 0

/-- The sampler's counter mode: additions to its counter bring d down (R102). -/
def Blk.smpCount (s : Blk) (g k n : Nat) : Blk :=
  let c := s.reg (.prb .PRB_SMP_CTRL)
  if bit c 31 ∧ bit c 30 ∧ fld c 29 24 = g ∧ fld c 22 20 = k ∧ k < 8 ∧ s.ownerOf (fld c 15 8) ≠ .global ∧
      s.ownerOf (fld c 15 8) ≠ .none then
    s.modPrb (fun m => { m with smpD := m.smpD - n })
  else s

/-- Add what counter `k` of a group adds in this tclk, where `n` of it is not added already. -/
def Blk.addTick (s : Blk) (g k n : Nat) : Blk :=
  let was := Store.get 0 (s.group g).added k
  if n ≤ was then s else
  let s := (s.addCounter g k (n - was)).smpCount g k (n - was)
  s.setGroup g { s.group g with added := Store.set 0 (s.group g).added k n }

/-- The additions of this tclk to the counters of a group (R96, R98): an assigned group with EN counts. -/
def Blk.groupAdd (s : Blk) (g : Nat) : Blk :=
  let on := bit (s.reg (.prb (.PRB_Gg_CTRL g))) 31 && decide (s.ownerOf (s.gOwner g) ≠ .none)
  let adds := if on then ((List.range 8).map (fun k => (k, s.addition g k))) ++ [(8, Store.get 0 s.prb.pins (2048 + g))] else []
  adds.foldl (fun s p => s.addTick g p.1 p.2) s

/-- One tclk of a group ends: what it has not yet added is added, and the increments become x′ (R96). -/
def Blk.groupTick (s : Blk) (g : Nat) : Blk :=
  let s := s.groupAdd g
  let prev := s.prb.pins.filterMap (fun p => if p.1 / 32 = g ∧ p.1 < 2048 then some (p.1 % 32, p.2) else none)
  s.setGroup g { s.group g with prev := prev, applied := [], added := [] }

/-- One tclk of the probe array: every group counts, the input FIFO drains one word, a tclk with ready low is counted
(R91, R96). -/
def Blk.probeTick (s : Blk) : Blk :=
  if s.conf = .a64 then s else
  let s := (List.range 64).foldl (fun s g =>
    if bit (s.reg (.prb (.PRB_Gg_CTRL g))) 31 ∨ (s.group g).prev ≠ [] ∨ (s.group g).applied ≠ [] ∨ (s.group g).added ≠ [] ∨
        s.prb.pins.any (fun p => decide (p.1 / 32 = g ∧ p.1 < 2048)) then s.groupTick g else s) s
  let s := if s.prb.rdyLow then s.count (.prb .PRB_RDYLOW_CNT) 1 else s
  s.modPrb (fun m => { m with fifo := m.fifo - 1, rdyLow := decide (2048 - (m.fifo - 1) < s.inst.lanes) })

/-- The tracker of a group (R99). -/
def Blk.groupTrk (s : Blk) (g : Nat) : Nat :=
  match s.ownerOf (s.gOwner g) with
  | .coll c => (s.coll c).trk
  | _ =>
    let l := s.reg (.prb (.PRB_Gg_LATCH g))
    if fld l 29 28 = 1 then fld l 25 24 else s.gtrk

/-- TRANS_ALL (R107). -/
def Blk.transAll (s : Blk) : Bool := bit (s.reg (.prb .PRB_SNS_CTRL)) 31

/-- The CNT record of a latched set (Table 4-4). -/
def cntRecord (g : Nat) (boundary early trans : Bool) (lseq turn : Word) (angle : Nat) (stamp : BitVec 48)
    (v : List Nat) (poi : Bool) : Record :=
  let c := fun i => v.getD (i + 1) 0
  mkRec tCnt poi stamp
    ((g % 64) <<< 232 + (b2n boundary) <<< 231 + (b2n early) <<< 230 + (b2n trans) <<< 229 + lseq.toNat <<< 192 +
      turn.toNat <<< 160 + (angle % 65536) <<< 144 + (v.getD 0 0) <<< 48 + c 0)
    [(c 1) <<< 208 + (c 2) <<< 160 + (c 3) <<< 112 + (c 4) <<< 64 + (c 5) <<< 16, (c 6) <<< 208 + (c 7) <<< 160]

/-- Put a record in the stream of an owner: its collection's, or the global stream (R115). -/
def Blk.ownRec (s : Blk) (own : Owner) (r : Record) : Blk :=
  match own with
  | .coll c => s.collRec c r
  | _ => s.globRec r false

/-- The poison of the nine values goes with them to the latched set (R155). -/
def Blk.latchPoi (s : Blk) (g : Nat) (ps : List Bool) : Blk :=
  let at_ := fun (i : Nat) => if i = 0 then (Reg.prb (.PRB_Gg_LFIX_HI g), Reg.prb (.PRB_Gg_LFIX_LO g))
    else (.prb (.PRB_Gg_LCNTc_HI g (i - 1)), .prb (.PRB_Gg_LCNTc_LO g (i - 1)))
  (List.range 9).foldl (fun s i => if ps.getD i false then
    s.modRegPoi (fun m => Store.set false (Store.set false m ((at_ i).1.addr s.conf) true) ((at_ i).2.addr s.conf) true) else s) s

/-- Latch a group (R99, R117): the nine counters go to the latched set with T64, turn, angle and flags; the counter record of the
latch, none for an unassigned group. A boundary latch is stamped one tk before the marker `m`. -/
def Blk.latchSet (s : Blk) (g : Nat) (boundary : Option Dword) (early : Bool) : Option (Owner × Record) × Blk :=
  match s.ownerOf (s.gOwner g) with
  | .none => (none, s)
  | own =>
    let t := s.tracker (s.groupTrk g)
    let at_ := match boundary with | some m => m - 1 | none => s.t64
    let angle := t.angleAt at_
    let v := s.counters g
    let ps := s.countersPoi g
    let s := s.setReg2 (.prb (.PRB_Gg_LFIX_HI g)) (.prb (.PRB_Gg_LFIX_LO g)) (v.getD 0 0)
    let s := (List.range 8).foldl (fun s k =>
      s.setReg2 (.prb (.PRB_Gg_LCNTc_HI g k)) (.prb (.PRB_Gg_LCNTc_LO g k)) (v.getD (k + 1) 0)) s
    let s := s.latchPoi g ps
    let s := s.setReg2 (.prb (.PRB_Gg_LT64_HI g)) (.prb (.PRB_Gg_LT64_LO g)) at_.toNat
    let s := s.setReg (.prb (.PRB_Gg_LTURN g)) t.turn
    let trans := s.transAll
    let s := s.setReg (.prb (.PRB_Gg_LINFO g))
      (w32 ((b2n trans) <<< 18 + (b2n early) <<< 17 + (b2n boundary.isSome) <<< 16 + angle))
    let lseq := s.reg (.prb (.PRB_Gg_LSEQ g)) + 1
    let s := s.setReg (.prb (.PRB_Gg_LSEQ g)) lseq
    (some (own, cntRecord g boundary.isSome early trans lseq t.turn angle (s48 at_) v (ps.any id)), s)

/-- Latch groups in ascending number: the records formed, and the state then. -/
def Blk.latchAll (s : Blk) (gs : List Nat) (boundary : Option Dword) (early : Bool) : List (Owner × Record) × Blk :=
  gs.foldl (fun (a : List (Owner × Record) × Blk) g =>
    match a.2.latchSet g boundary early with
    | (some r, s) => (a.1 ++ [r], s)
    | (none, s) => (a.1, s)) ([], s)

/-- Place records formed by latches. -/
def Blk.placeLatches (s : Blk) (rs : List (Owner × Record)) : Blk := rs.foldl (fun s r => s.ownRec r.1 r.2) s

/-- Groups whose PRB_Gg_LATCH selects an angle slot (source 1) of tracker `t`, or a time slot (source 2). -/
def Blk.slotGroups (s : Blk) (src t slot : Nat) : List Nat :=
  if s.conf = .a64 then [] else
  (List.range 64).filter (fun g =>
    let l := s.reg (.prb (.PRB_Gg_LATCH g))
    bit l 31 && decide (fld l 29 28 = src ∧ fld l 3 0 = slot) && decide (src = 2 ∨ fld l 25 24 = t))

/-- The groups of a slot latch at its firing (R99). -/
def Blk.slotLatch (s : Blk) (src t slot : Nat) : Blk :=
  match s.latchAll (s.slotGroups src t slot) none false with
  | (rs, s) => s.placeLatches rs

/-- Groups owned by the running collections of a list, in ascending number. -/
def Blk.ownedGroups (s : Blk) (cs : List Nat) : List Nat :=
  if s.conf = .a64 then [] else
  (List.range 64).filter (fun g => match s.ownerOf (s.gOwner g) with | .coll c => cs.contains c | _ => false)

/-- The buffered registers of a group. -/
def groupRwb (g : Nat) : List PrbReg := .PRB_Gg_LATCH g :: (List.range 8).map (.PRB_Gg_SELc g)

/-- Stage a value of a buffered register (R493). -/
def Blk.stage (s : Blk) (r : Reg) (v : Word) : Blk := s.modRwb (fun m => Store.put m (r.addr s.conf) (v, s.tclk))

/-- Take the staged value of a buffered register: at a boundary only one staged in an earlier tclk (R493). -/
def Blk.unstage (s : Blk) (r : Reg) (bound : Bool) : Option (Word × Blk) :=
  match Store.look s.rwb (r.addr s.conf) with
  | none => none
  | some (v, t) => if bound ∧ t = s.tclk then none else some (v, s.modRwb (fun m => Store.del m (r.addr s.conf)))

/-- Put the staged value of a buffered register in force. -/
def Blk.applyReg (s : Blk) (r : Reg) (bound : Bool) : Blk :=
  match s.unstage r bound with
  | none => s
  | some (v, s) => s.setReg r v

/-- Discard the staged value of a buffered register. -/
def Blk.dropStaged (s : Blk) (r : Reg) : Blk := s.modRwb (fun m => Store.del m (r.addr s.conf))

/-- Apply the staged selections and latch of a group: EDGE history restarts (R97). -/
def Blk.applyGroup (s : Blk) (g : Nat) (bound : Bool) : Blk :=
  (groupRwb g).foldl (fun s r =>
    match s.unstage (.prb r) bound with
    | none => s
    | some (v, s) =>
      let s := s.setReg (.prb r) v
      match r with
      | .PRB_Gg_SELc g k => s.setGroup g { s.group g with applied := insNat k (s.group g).applied }
      | _ => s) s

/-- A write of PRB_Gg_SELc or PRB_Gg_LATCH: staged for a group of a running collection, else applied at once (R97, R98). -/
def Blk.wrGroupRwb (s : Blk) (r : PrbReg) (g : Nat) (v : Word) : Blk :=
  let s := s.stage (.prb r) v
  match s.ownerOf (s.gOwner g) with
  | .coll c => if (s.tracker (s.coll c).trk).running then s else s.applyGroup g false
  | _ => s.applyGroup g false

/-- Clear a group (R98): its counters, its latched set and PRB_Gg_LSEQ. It counts as a host write of the counters for DINV, which the
rules leave open (DESIGN CHOICE, log 13). -/
def Blk.clearGroup (s : Blk) (g : Nat) : Blk :=
  let s := ((s.setGroup g { s.group g with cnt := [], added := [] }).cntClean g (List.range 9)).markGroup g
  let rs : List PrbReg := [.PRB_Gg_LFIX_HI g, .PRB_Gg_LFIX_LO g, .PRB_Gg_LT64_HI g, .PRB_Gg_LT64_LO g, .PRB_Gg_LTURN g,
    .PRB_Gg_LINFO g, .PRB_Gg_LSEQ g] ++ (List.range 8).flatMap (fun k => [.PRB_Gg_LCNTc_HI g k, .PRB_Gg_LCNTc_LO g k])
  (rs.foldl (fun s r => s.setReg (.prb r) 0) s).applyGroup g false

/-- PRB_Gg_CTRL (R98, R110, Table 3-8): `full` when the initiator may write OWNER. A reserved OWNER, or one that an owner may
not write, leaves OWNER as it is and is refused. -/
def Blk.wrGroupCtrl (s : Blk) (g : Nat) (full : Bool) (v : Word) : Blk :=
  let r : Reg := .prb (.PRB_Gg_CTRL g)
  let old := s.gOwner g
  let new := fld v 15 8
  let legal := decide (new < 16 ∨ new = 0xFE ∨ new = 0xFF)
  let ok := decide (new = old) || (full && legal)
  let s := s.setReg r (setFld (v &&& 0xC0000000#32) 15 8 (if ok then new else old))
  let s := if ok then s else s.refused r v
  if ok ∧ new = 0xFE then s.clearGroup g
  else if ok ∧ new ≠ old then (match s.ownerOf new with | .coll _ => s | _ => s.applyGroup g false)
  else s

/-- A write of a counter's LO register completes the staged high word (R97); counter 8 is the fixed counter. -/
def Blk.wrCounter (s : Blk) (g k : Nat) (v : Word) : Blk :=
  let hi := s.reg (.prb (if k = 8 then .PRB_Gg_FIX_HI g else .PRB_Gg_CNTc_HI g k))
  let w := (fld hi 15 0 * 2 ^ 32 + v.toNat + Store.get 0 (s.group g).added k) % 2 ^ 48
  ((s.setGroup g { s.group g with cnt := Store.set 0 (s.group g).cnt k w }).cntClean g [k]).markGroup g

/-! ### Event words (R88 to R95) -/

/-- Fields of an event word (Table 3-1). -/
def pw (w : BitVec 128) (hi lo : Nat) : Nat := (w.toNat >>> lo) % 2 ^ (hi - lo + 1)
def pwKind (w : BitVec 128) : Nat := pw w 127 125
def pwChan (w : BitVec 128) : Nat := pw w 124 116
def pwTag (w : BitVec 128) : Nat := pw w 115 108

/-- What becomes of an event word presented for the kind `want` (R89, R91): while ready is low, or for a word of another
kind, nothing; while EN is 0, or for a disabled channel, it is discarded and counted; a bad word is dropped and counted;
otherwise it is accepted. While tl_ready is low it is discarded too (R111, R449). -/
def Blk.acceptWord (s : Blk) (lane : Nat) (w : BitVec 128) (want : Nat) : Bool × Blk :=
  let k := pwKind w
  if s.conf = .a64 ∨ s.inst.lanes ≤ lane ∨ s.prb.rdyLow ∨ !s.unitUp 0 3 ∨ k = 0 ∨ (k < 5 ∧ k ≠ want) then (false, s) else
  if !s.prbCtl 0 ∨ !s.boot.ready then (false, s.count (.prb .PRB_DISC_CNT) 1) else
  let s := s.modPrb (fun m => { m with fifo := min 2048 (m.fifo + 1) })
  if 5 ≤ k ∨ (k ≠ 4 ∧ s.inst.channels ≤ pwChan w) then (false, s.count (.prb .PRB_BADWORD_CNT) 1) else
  if k ≠ 4 ∧ !bit (s.reg (.prb (.PRB_CH_EN (pwChan w / 32)))) (pwChan w % 32) then
    (false, s.count (.prb .PRB_DISC_CNT) 1)
  else (true, s)

/-- The stamp of an accepted word (R90): T64 less its AGE, but never before the last stamp on its channel. -/
def Blk.wordStamp (s : Blk) (w : BitVec 128) : Dword × Blk :=
  let t := s.t64 - BitVec.ofNat 64 (16 * pw w 103 98)
  let c := pwChan w
  let t := match Store.look s.prb.lastStamp c with
    | some p => if (t - p).toInt < 0 then p else t
    | none => t
  (t, s.modPrb (fun m => { m with lastStamp := Store.put m.lastStamp c t }))

/-- Key of the pairing store. -/
def pairKey (chan tag : Nat) : Nat := 256 * chan + tag

/-- Unit 0 of a command record but for type, length and stamp (Table 4-3). -/
def cmdBits (chan tag flags : Nat) (opc : BitVec 16) (b : BitVec 48) (dig da db : Nat) : Nat :=
  (chan % 512) <<< 229 + (tag % 256) <<< 221 + (flags % 1024) <<< 211 + opc.toNat <<< 192 + b.toNat <<< 144 +
    (dig % 2 ^ 32) <<< 64 + (da % 2 ^ 32) <<< 32 + db % 2 ^ 32

/-- FLAGS of a command record (R116). -/
def cmdFlags (straddle sat dinv loss noend nobegin errf dgv rpl mark : Bool) : Nat :=
  512 * b2n straddle + 256 * b2n sat + 128 * b2n dinv + 64 * b2n loss + 32 * b2n noend + 16 * b2n nobegin +
    8 * b2n errf + 4 * b2n dgv + 2 * b2n rpl + b2n mark

/-- Group of a channel, and its two delta selectors (PRB_CH_MAP). -/
def Blk.chGroup (s : Blk) (c : Nat) : Nat := fld (s.reg (.prb (.PRB_CH_MAP c))) 21 16
def Blk.chSel (s : Blk) (c : Nat) (b : Bool) : Nat :=
  let m := s.reg (.prb (.PRB_CH_MAP c))
  if b then fld m 7 4 else fld m 3 0

/-- Tracker against which a record of a group's channels is placed: its collection's, or GTRK (R116). -/
def Blk.streamTrk (s : Blk) (o : Owner) : Nat := match o with | .coll c => (s.coll c).trk | _ => s.gtrk

/-- Close a pending entry as a begin-only record (R92, R93). -/
def Blk.beginOnly (s : Blk) (key : Nat) (p : Pair) (loss : Bool) : Blk :=
  let s := s.modPrb (fun m => { m with pairs := Store.del m.pairs key, ovfSeen := false })
  let s := s.count (.prb .PRB_NOEND_CNT) 1
  let b := s48 p.stamp
  s.ownRec (s.ownerOf (s.gOwner p.group)) (mkRec tCmd false b
    (cmdBits (key / 256) (key % 256) (cmdFlags false false false loss true false false false p.rpl p.mark) p.opc b 0 0 0) [])

/-- Close every pending entry of the channels that `p` selects, in ascending channel and tag (R92). -/
def Blk.closePairs (s : Blk) (p : Nat → Bool) (loss : Bool) : Blk :=
  (s.prb.pairs.filter (fun e => p (e.1 / 256))).foldl (fun s e => s.beginOnly e.1 e.2 loss) s

/-- An accepted BEGIN takes an entry (R92): an older pending one of its CHAN and TAG closes; a full store refuses it. -/
def Blk.takeBegin (s : Blk) (w : BitVec 128) (stamp : Dword) : Blk :=
  let key := pairKey (pwChan w) (pwTag w)
  let s := match Store.look s.prb.pairs key with
    | some p => s.beginOnly key p false
    | none => s
  if 4096 ≤ s.prb.pairs.length then
    let s := s.count (.prb .PRB_PAIR_OVF_CNT) 1
    if s.prb.ovfSeen then s else
    (s.modPrb (fun m => { m with ovfSeen := true })).emit 3 0x0302 (pwChan w) s.prb.pairs.length
  else
    let g := s.chGroup (pwChan w)
    let p : Pair :=
      { stamp := stamp, tclk := s.tclk, opc := BitVec.ofNat 16 (pw w 47 32), mark := decide (pw w 107 107 = 1),
        rpl := decide (pw w 106 106 = 1), qaddr := BitVec.ofNat 48 (pw w 95 48), cseq := w32 (pw w 31 0), group := g,
        vals := s.counters g, poi := s.countersPoi g }
    s.modPrb (fun m => { m with pairs := Store.put m.pairs key p })

/-- The nine deltas of a paired command, the fixed counter first, with the saturation bits (bit 8 fixed, bits 7 to 0 the
counters) and whether they are invalid (R94). -/
def Blk.deltas (s : Blk) (p : Pair) : List Nat × Nat × Bool :=
  let bad := match (s.group p.group).markAt with | some a => decide (p.tclk < a) | none => false
  if bad then (List.replicate 9 0, 0, true) else
  let ds := (List.range 9).map (fun i => ((s.counters p.group).getD i 0 + 2 ^ 48 - p.vals.getD i 0) % 2 ^ 48)
  let sat := (List.range 9).foldl (fun m i =>
    if 2 ^ 32 ≤ ds.getD i 0 then m + 2 ^ (if i = 0 then 8 else i - 1) else m) 0
  (ds.map (fun d => min d 0xFFFFFFFF), sat, false)

/-- Poison of the nine deltas of a paired command: of its begin value or of the counter now; none of an invalid one, which is zero
(R94, R155). -/
def Blk.deltasPoi (s : Blk) (p : Pair) (dinv : Bool) : List Bool :=
  (List.range 9).map (fun i => !dinv && (p.poi.getD i false || (s.countersPoi p.group).getD i false))

/-- Poison of the delta that a selector names. -/
def selPoi (ps : List Bool) (sel : Nat) : Bool :=
  if sel < 8 then ps.getD (sel + 1) false else if sel = 8 then ps.getD 0 false else false

/-- The delta that a selector names (Table 3-7), and its saturation. -/
def selDelta (ds : List Nat) (sat sel : Nat) : Nat × Bool :=
  if sel < 8 then (ds.getD (sel + 1) 0, decide (sat / 2 ^ sel % 2 = 1))
  else if sel = 8 then (ds.getD 0 0, decide (sat / 2 ^ 8 % 2 = 1))
  else (0, false)

/-! ### Sampler (R102, R103) -/

/-- One step of the LFSR. -/
def lfsrStep (l : BitVec 16) : BitVec 16 :=
  let b := (l.getLsbD 0 ^^ l.getLsbD 2) ^^ (l.getLsbD 3 ^^ l.getLsbD 5)
  (l >>> 1) ||| (if b then 0x8000#16 else 0#16)

/-- Reload the down-count. -/
def Blk.smpReload (s : Blk) : Blk :=
  let jit := fld (s.reg (.prb .PRB_SMP_CTRL)) 3 0
  let per := max 1 (s.reg (.prb .PRB_SMP_PERIOD)).toNat
  s.modPrb (fun m => { m with smpD := per + m.smpLfsr.toNat % 2 ^ jit, smpLfsr := lfsrStep m.smpLfsr })

/-- A rise of PRB_SMP_CTRL.EN loads the LFSR, then the down-count. -/
def Blk.smpStart (s : Blk) : Blk :=
  let seed := BitVec.ofNat 16 (fld (s.reg (.prb .PRB_SMP_SEED)) 15 0)
  (s.modPrb (fun m => { m with smpLfsr := if seed = 0 then 0xACE1#16 else seed })).smpReload

/-- PRB_SMP_CTRL (R103, R110): OWNER as for a group, but 0xFF is refused too. -/
def Blk.wrSmpCtrl (s : Blk) (full : Bool) (v : Word) : Blk :=
  let r : Reg := .prb .PRB_SMP_CTRL
  let was := bit (s.reg r) 31
  let old := fld (s.reg r) 15 8
  let new := fld v 15 8
  let ok := decide (new = old) || (full && decide (new < 16 ∨ new = 0xFE))
  let s := s.setReg r (setFld (v &&& 0xFF70000F#32) 15 8 (if ok then new else old))
  let s := if ok then s else s.refused r v
  if !was ∧ bit v 31 then s.smpStart else s

/-- An END that pairs is offered to the sampler: a matching command is counted, and sampled when d reaches 0. -/
def Blk.sample (s : Blk) (chan : Nat) (lat : Nat) (rec_ : Owner → Record) : Blk :=
  let c := s.reg (.prb .PRB_SMP_CTRL)
  let r := s.reg (.prb .PRB_SMP_CHAN)
  if !bit c 31 ∨ chan < fld r 8 0 ∨ fld r 24 16 < chan ∨ lat < 16 * (s.reg (.prb .PRB_SMP_LATMIN)).toNat then s else
  match s.ownerOf (fld c 15 8) with
  | .coll o =>
    let s := if bit c 30 then s else s.modPrb (fun m => { m with smpD := m.smpD - 1 })
    if s.prb.smpD ≠ 0 then s else
    let s := if s.prb.smpBuf.length < 4096 then
        (s.modPrb (fun m => { m with smpBuf := m.smpBuf ++ [(o, rec_ (.coll o))] })).count (.prb .PRB_SMP_TAKEN) 1
      else s.count (.prb .PRB_SMP_MISS) 1
    s.smpReload
  | _ => s

/-! ### Digest capture (R109) -/

/-- An END with a valid digest of a paired command: an original is stored, a replay compared. -/
def Blk.digestIn (s : Blk) (p : Pair) (chan : Nat) (dig : Word) (stamp : BitVec 48) : Blk :=
  if !s.prbCtl 3 then s else
  if !p.rpl then
    s.modPrb (fun m =>
      let l := m.digests.filter (fun d => d.cseq != p.cseq)
      let l := if 4096 ≤ l.length then l.drop 1 else l
      { m with digests := l ++ [{ cseq := p.cseq, chan := chan, value := dig }] })
  else
    let form := fun (s : Blk) (cho out : Nat) (o : Word) => s.globRec (mkRec tDig false stamp
      (cho <<< 229 + chan <<< 220 + out <<< 218 + p.cseq.toNat <<< 160 + o.toNat <<< 64 + dig.toNat <<< 32) []) true
    match s.prb.digests.find? (fun d => d.cseq == p.cseq) with
    | some d =>
      if d.value = dig then form (s.count (.prb .PRB_DIG_MATCH) 1) d.chan 0 d.value
      else form (s.count (.prb .PRB_DIG_MISM) 1) d.chan 1 d.value
    | none => form (s.count (.prb .PRB_DIG_NOORIG) 1) 0 2 0

/-- An accepted END (R92, R93): it pairs, or forms an end-only record. -/
def Blk.takeEnd (s : Blk) (w : BitVec 128) (stamp : Dword) : Blk :=
  let chan := pwChan w
  let tag := pwTag w
  let dgv := decide (pw w 105 105 = 1)
  let errf := decide (pw w 104 104 = 1)
  let dig := if dgv then pw w 31 0 else 0
  let e := s48 stamp
  let key := pairKey chan tag
  match Store.look s.prb.pairs key with
  | none =>
    let s := s.count (.prb .PRB_NOBEGIN_CNT) 1
    s.ownRec (s.ownerOf (s.gOwner (s.chGroup chan))) (mkRec tCmd false e
      (cmdBits chan tag (cmdFlags false false false false false true errf dgv false false) 0 0 dig 0 0) [])
  | some p =>
    let own := s.ownerOf (s.gOwner p.group)
    let (ds, sat, dinv) := s.deltas p
    let zero := decide (own = .none)
    let (da, sa) := if zero then (0, false) else selDelta ds sat (s.chSel chan false)
    let (db, sb) := if zero then (0, false) else selDelta ds sat (s.chSel chan true)
    let ps := s.deltasPoi p dinv
    let poi := !zero && (selPoi ps (s.chSel chan false) || selPoi ps (s.chSel chan true))
    let b := s48 p.stamp
    let flags := fun (o : Owner) =>
      cmdFlags ((s.tracker (s.streamTrk o)).straddle b e) (sa || sb) dinv false false false errf dgv p.rpl p.mark
    let bits := fun o => cmdBits chan tag (flags o) p.opc b dig da db
    let lat := (e - b).toNat
    let d := fun i => ds.getD i 0
    let smp := fun o => mkRec tSmp (poi || ps.any id) e (bits o)
      [p.qaddr.toNat <<< 208 + p.cseq.toNat <<< 176 + (min lat 0xFFFFFFFF) <<< 144 + (b2n s.transAll) <<< 143 +
         sat <<< 134 + (b2n dinv) <<< 133 + (d 0) <<< 96 + (d 1) <<< 64 + (d 2) <<< 32 + d 3,
       (d 4) <<< 224 + (d 5) <<< 192 + (d 6) <<< 160 + (d 7) <<< 128 + (d 8) <<< 96]
    let s := s.modPrb (fun m => { m with pairs := Store.del m.pairs key, ovfSeen := false })
    let s := s.ownRec own (mkRec tCmd poi e (bits own) [])
    let s := s.sample chan lat smp
    if dgv then s.digestIn p chan (w32 dig) e else s

/-- An accepted LOSS word (R92). -/
def Blk.takeLoss (s : Blk) (w : BitVec 128) (stamp : Dword) : Blk :=
  let c := pwChan w
  let n := pw w 31 0
  let s := (s.closePairs (fun k => k = c) true).count (.prb .PRB_LOSS_CNT) n
  s.globRec (mkRec tLoss false (s48 stamp) (c <<< 229 + n <<< 64) []) true

/-! ### Port bandwidth (R104) -/

/-- Length of a window in µs; its number at a T64. -/
def Blk.bwLen (s : Blk) : Nat := fld (s.reg (.prb .PRB_BW_WIN)) 15 0
def Blk.bwNow (s : Blk) : Nat := if s.bwLen = 0 then 0 else s.t64.toNat / (s.bwLen * tkUs)

/-- Start the windows anew: the open window is that of T64, and nothing is counted in it. -/
def Blk.bwRestart (s : Blk) : Blk := s.modPrb (fun m => { m with bwCnt := [], bwWin := s.bwNow })

/-- After a step of time the open window is that of T64 and keeps what was counted (log 13). -/
def Blk.bwStepped (s : Blk) : Blk := s.modPrb (fun m => { m with bwWin := s.bwNow })

/-- Whether a port's counts are copied and recorded. -/
def Blk.bwPort (s : Blk) (p : Nat) : Bool := bit (s.reg (.prb (if p < 32 then .PRB_BW_EN_LO else .PRB_BW_EN_HI))) (p % 32)

/-- An accepted BYTES word adds to the count of the window of its stamp; the open window takes what belongs to one already
closed (DESIGN CHOICE, log 13). While PRB_CTRL.BW_EN is 0 the words are discarded and no window closes: the spec names the bit and gives
it no effect (DESIGN CHOICE, log 13). -/
def Blk.takeBytes (s : Blk) (w : BitVec 128) : Blk :=
  if s.bwLen = 0 ∨ !s.prbCtl 1 then s else
  let t := s.t64.toNat - 16 * pw w 103 98
  let j := t / (s.bwLen * tkUs) - s.prb.bwWin
  let key := 128 * j + 2 * pw w 124 119 + pw w 118 118
  s.modPrb (fun m => { m with bwCnt := Store.set 0 m.bwCnt key (Store.get 0 m.bwCnt key + pw w 31 0) })

/-- Units of the BW record: two ports each, in ascending order. -/
def bwUnits : Nat → List (Nat × Nat) → List Nat
  | 0, _ => []
  | _, [] => []
  | _, [(a, b)] => [a <<< 208 + b <<< 160]
  | fuel + 1, (a, b) :: (c, d) :: t => (a <<< 208 + b <<< 160 + c <<< 112 + d <<< 64) :: bwUnits fuel t

/-- Close the open window (R104). -/
def Blk.bwClose (s : Blk) : Blk :=
  let ports := (List.range 64).filter s.bwPort
  let n := fun (p d : Nat) => Store.get 0 s.prb.bwCnt (2 * p + d)
  let s := ports.foldl (fun s p => [0, 1].foldl (fun s d =>
    let v := w32 (min (n p d) 0xFFFFFFFF)
    let s := s.setReg (.prb (.PRB_BW_LAST p d)) v
    if (s.reg (.prb (.PRB_BW_PEAK p d))).toNat < v.toNat then s.setReg (.prb (.PRB_BW_PEAK p d)) v else s) s) s
  let start := BitVec.ofNat 64 (s.prb.bwWin * s.bwLen * tkUs)
  let mask := (ports.map (fun p => 2 ^ (32 + p))).sum
  let cap := fun x => min x (2 ^ 48 - 1)
  let r := mkRec tBw false (s48 start) (s.bwLen <<< 222 + mask) (bwUnits 40 (ports.map (fun p => (cap (n p 0), cap (n p 1)))))
  let s := s.modPrb (fun m => { m with
    bwWin := m.bwWin + 1, bwCnt := m.bwCnt.filterMap (fun e => if e.1 < 128 then none else some (e.1 - 128, e.2)) })
  s.globRec r true

/-- At a boundary of its tracker the peaks start anew (R104). -/
def Blk.bwBoundary (s : Blk) (t : Nat) : Blk :=
  if s.conf = .a64 ∨ fld (s.reg (.prb .PRB_BW_WIN)) 21 20 ≠ t then s else
  (List.range 64).foldl (fun s p => [0, 1].foldl (fun s d => s.setReg (.prb (.PRB_BW_PEAK p d)) 0) s) s

/-! ### Sensors (R105 to R108) -/

/-- Whether thermal input `i` carries the transient tag. -/
def Blk.snsTag (s : Blk) (i : Nat) : Bool :=
  s.transAll || bit (s.reg (.prb (if i < 32 then .PRB_SNS_TRANS_LO else .PRB_SNS_TRANS_HI))) (i % 32)

/-- One sample of a sensor input: class 0 thermal, 1 voltage; none when its valid line is low (R105 to R107). -/
def Blk.snsSample (s : Blk) (cls i : Nat) (v : Option (BitVec 16)) (stamp : Dword) : Blk :=
  let key := 64 * cls + i
  let tag := if cls = 0 then s.snsTag i else s.transAll
  let val := v.getD 0
  let s := s.setReg (.prb (if cls = 0 then .PRB_SNS_T i else .PRB_SNS_V i))
    (w32 ((b2n v.isSome) <<< 31 + (if cls = 0 then (b2n tag) <<< 30 else 0) + val.toNat))
  let db := s.reg (.prb .PRB_SNS_DB)
  let band := if cls = 0 then fld db 15 0 else fld db 31 16
  let gap := max 1 (fld (s.reg (.prb .PRB_SNS_CTRL)) 15 0)
  let due : Bool := match Store.look s.prb.sensors key with
    | none => true
    | some l =>
      let num := fun (x : BitVec 16) => if cls = 0 then x.toInt else (x.toNat : Int)
      decide (band ≤ (num val - num l.value).natAbs) || (l.valid != v.isSome) || (l.trans != tag) ||
        decide (gap ≤ l.since + 1)
  if !due then s.modPrb (fun m => match Store.look m.sensors key with
    | some l => { m with sensors := Store.put m.sensors key { l with since := l.since + 1 } }
    | none => m)
  else
    let l : SensorLast := { value := val, valid := v.isSome, trans := tag, since := 0 }
    let s := s.modPrb (fun m => { m with sensors := Store.put m.sensors key l })
    let word : Nat := if cls = 0 then (val.signExtend 32).toNat else val.toNat
    s.globRec (mkRec tSns false (s48 stamp)
      (cls <<< 236 + i <<< 230 + (b2n v.isSome) <<< 229 + (b2n tag) <<< 228 + word <<< 64) []) true

/-- The value that a list of valid inputs gives. -/
def pinOf (l : List (Nat × BitVec 16)) (i : Nat) : Option (BitVec 16) := (l.find? (fun p => p.1 = i)).map Prod.snd

/-! ### Writes of the probe array -/

/-- PRB_CTRL (R92, R109): a fall of EN closes every pending entry; a fall of DIG_EN empties the digest store; a rise of BW_EN
starts the windows. -/
def Blk.wrPrbCtrl (s : Blk) (v : Word) : Blk :=
  let old := s.reg (.prb .PRB_CTRL)
  let s := s.setReg (.prb .PRB_CTRL) (v &&& 0xF)
  let s := if bit old 0 ∧ !bit v 0 then s.closePairs (fun _ => true) false else s
  let s := if bit v 3 then s else s.modPrb (fun m => { m with digests := [] })
  let s := if !bit old 1 ∧ bit v 1 then s.bwRestart else s
  if bit old 2 then s else s.modPrb (fun m => { m with sensors := if bit v 2 then [] else m.sensors })

/-- PRB_CH_EN (R92): a fall of a channel's bit closes its pending entries. -/
def Blk.wrChEn (s : Blk) (i : Nat) (v : Word) : Blk :=
  let old := s.reg (.prb (.PRB_CH_EN i))
  let s := s.setReg (.prb (.PRB_CH_EN i)) v
  s.closePairs (fun c => decide (c / 32 = i) && bit old (c % 32) && !bit v (c % 32)) false

/-- PRB_BW_WIN (R104): a new length, like a rise of BW_EN, starts the windows anew and drops what the open one has counted, which the
rule leaves open (DESIGN CHOICE, log 13). -/
def Blk.wrBwWin (s : Blk) (v : Word) : Blk :=
  let old := s.bwLen
  let s := s.setReg (.prb .PRB_BW_WIN) (v &&& 0x0030FFFF)
  if s.bwLen = old then s else s.bwRestart

/-! ### Meanings -/

/-- PROBE_END (R93). -/
def execProbeEnd (lane : Nat) (w : BitVec 128) : State → Host.Outcome State Fault Refusal := lift fun s =>
  match s.acceptWord lane w 2 with
  | (false, s) => s
  | (true, s) => let (t, s) := s.wordStamp w; s.takeEnd w t

/-- PROBE_LOSS (R92). -/
def execProbeLoss (lane : Nat) (w : BitVec 128) : State → Host.Outcome State Fault Refusal := lift fun s =>
  match s.acceptWord lane w 3 with
  | (false, s) => s
  | (true, s) => let (t, s) := s.wordStamp w; s.takeLoss w t

/-- PROBE_BYTES (R104). -/
def execProbeBytes (lane : Nat) (w : BitVec 128) : State → Host.Outcome State Fault Refusal := lift fun s =>
  match s.acceptWord lane w 4 with
  | (false, s) => s
  | (true, s) => s.takeBytes w

/-- COUNTER_WRAP (R96): the host presents `n` on event input `k` of group `g`, or on its cycle input for k = 32, and the
group adds what this tclk adds, once; a counter that wraps sets its bit and raises PRB_CNT_WRAP (DESIGN CHOICE, log 13). -/
def execCounterWrap (g k n : Nat) : State → Host.Outcome State Fault Refusal := lift fun s =>
  if s.conf = .a64 ∨ 64 ≤ g ∨ 32 < k then s else
  let key := if k = 32 then 2048 + g else 32 * g + k
  let n := if k = 32 then n % 4 else n % 16
  (s.modPrb (fun m => { m with pins := Store.set 0 m.pins key n })).groupAdd g

/-- SAMPLE_DRAIN (R103): the oldest sample becomes an SMP record of its collection; that of a collection that no longer runs is dropped
and not counted, which the rule leaves open (DESIGN CHOICE, log 13). -/
def execSampleDrain : State → Host.Outcome State Fault Refusal := lift fun s =>
  match s.prb.smpBuf with
  | [] => s
  | (c, r) :: rest =>
    let s := s.modPrb (fun m => { m with smpBuf := rest })
    if s.collRuns c then s.collRec c r else s

/-- BW_WINDOW_CLOSE (R104): T64 has reached the end of the open window. -/
def execBwWindowClose : State → Host.Outcome State Fault Refusal := lift fun s =>
  if s.conf = .a64 ∨ !s.prbCtl 1 ∨ s.bwLen = 0 ∨ s.t64.toNat < (s.prb.bwWin + 1) * s.bwLen * tkUs then s else s.bwClose

/-- SENSOR_SAMPLE (R105): T64 has reached a multiple of 10 µs not yet sampled; an input that is not listed has its valid line
low. While PRB_CTRL.SNS_EN is 0 no sample is taken, and at its rise every input counts as not yet recorded: the spec gives the bit no
effect (DESIGN CHOICE, log 13). -/
def execSensorSample (ts vs : List (Nat × BitVec 16)) : State → Host.Outcome State Fault Refusal := lift fun s =>
  let k := s.t64.toNat / 160000
  if s.conf = .a64 ∨ !s.prbCtl 2 ∨ s.prb.snsAt = some k then s else
  let s := s.modPrb (fun m => { m with snsAt := some k })
  let st := BitVec.ofNat 64 (160000 * k)
  let s := (List.range 64).foldl (fun s i => s.snsSample 0 i (pinOf ts i) st) s
  (List.range 32).foldl (fun s i => s.snsSample 1 i (pinOf vs i) st) s

/-- The SNS record of an analog input (Table 4-4): its unit, the age of its calibration and whether that is stale. -/
def Blk.analogRec (s : Blk) (i : Nat) (v : Word) : Record :=
  let c := s.reg (.prb (.PRB_AN_CFG i))
  let cal := s.reg2 (.prb (.PRB_AN_CAL_HI i)) (.prb (.PRB_AN_CAL_LO i))
  let age := if cal = 0 then 0xFFFFFF else min 0xFFFFFF ((s.t64 - BitVec.ofNat 64 cal).toNat / tkSec)
  mkRec tSns false (s48 s.t64)
    (2 <<< 236 + i <<< 230 + 1 <<< 229 + (b2n s.transAll) <<< 228 + (b2n (decide (86400 < age))) <<< 227 +
      (fld c 26 24) <<< 224 + age <<< 200 + (fld c 13 0) <<< 186 + v.toNat <<< 64) []

/-- ANALOG_UPDATE (R108). PRB_AN_VAL latches each update; while PRB_AN_CFG.EN or SNS_EN is 0 no record is formed, an effect that the
spec does not give these bits (DESIGN CHOICE, log 13). -/
def execAnalogUpdate (i : Nat) (v : Word) : State → Host.Outcome State Fault Refusal := lift fun s =>
  if s.conf = .a64 ∨ s.inst.analogs ≤ i ∨ 16 ≤ i then s else
  let s := s.setReg (.prb (.PRB_AN_VAL i)) v
  if !bit (s.reg (.prb (.PRB_AN_CFG i))) 31 ∨ !s.prbCtl 2 then s else s.globRec (s.analogRec i v) true

end Sys2Proof.Machine
end

