-- ==== Sys2Proof/Machine/Trees.lean ====
section
/-!
DEFINITION. The tree units (R290 to R309): ensemble images, the walk, scoring jobs, alarms, loads and the blocked swap of a model.
-/

namespace Sys2Proof.Machine

/-! ### Ensemble images (R290 to R292) -/

/-- S(d) of R292, and the offset of the leaves in a tree block. -/
def leafAt (d : Nat) : Nat := roundUp (6 * (2 ^ d - 1)) 8
def treeSize (d : Nat) : Nat := leafAt d + roundUp (3 * 2 ^ d) 8

/-- A node (Table 9-3). -/
structure TNode where
  fidx : Nat
  thr  : Word
  def_ : Bool
  res  : Nat
  deriving DecidableEq, Repr

def tnodeOf (b : List Byte) : TNode :=
  let v := leAt b 0 6
  { fidx := v >>> 40, thr := w32 (v >>> 8), def_ := decide (v / 128 % 2 = 1), res := v % 128 }

/-- A signed number of `n` bits. -/
def sext (n v : Nat) : Int := (BitVec.ofNat n v).toInt

/-- An ensemble of the image bytes after a placement. -/
def ensOf (b : List Byte) (shard : Bool) (nper : Nat) : Ens :=
  { modelId := w32 (leAt b 4 4), ntrees := leAt b 8 2, depth := leAt b 10 1, scale := BitVec.ofNat 8 (leAt b 11 1),
    bias := sext 48 (leAt b 12 6),
    thr := (List.range 4).map (fun k =>
      (decide (leAt b (26 + 8 * k) 1 % 2 = 1), decide (leAt b (26 + 8 * k) 1 / 2 % 2 = 1), sext 48 (leAt b (20 + 8 * k) 6))),
    trees := b.drop 64, treePoi := [], shard := shard, nper := nper }

/-- Whether the fields of the first 64 bytes that give the length of the image are in range. -/
def ensHead (b : List Byte) : Bool :=
  decide (leAt b 0 4 = 0x54450001) && decide (1 ≤ leAt b 8 2 ∧ leAt b 8 2 ≤ 32768) && decide (1 ≤ leAt b 10 1 ∧ leAt b 10 1 ≤ 12)

/-- Whether the other fields and reserved bits are in order. -/
def ensFields (b : List Byte) : Bool :=
  let d := leAt b 10 1
  decide ((sext 48 (leAt b 12 6)).natAbs ≤ 2 ^ 46 - 1) && decide (leAt b 18 2 ≤ 256) &&
  (List.range 4).all (fun k => decide (leAt b (26 + 8 * k) 1 < 4 ∧ leAt b (27 + 8 * k) 1 = 0)) && decide (leAt b 56 8 = 0) &&
  (List.range (leAt b 8 2)).all (fun t => (List.range (2 ^ d - 1)).all (fun x =>
    decide ((tnodeOf (slice b (64 + t * treeSize d + 6 * x) 6)).res = 0)))

/-! ### Slots and the tree stores (R303, R307, R308) -/

def EnsSlot.empty : EnsSlot :=
  { active := none, staged := none, loading := false, loadAt := 0, loadAddr := 0, loadCtl := 0, missed := false, lstat := 0, ver := 0, old := [] }

def Blk.slot (s : Blk) (n : Nat) : EnsSlot := Store.get EnsSlot.empty s.tre.slots n
def Blk.setSlot (s : Blk) (n : Nat) (v : EnsSlot) : Blk :=
  s.modTre (fun m => { m with slots := Store.set EnsSlot.empty m.slots n v })

/-- OWNER of a slot (Table 9-10). -/
def Blk.slotOwner (s : Blk) (n : Nat) : Nat := fld (s.reg (.tre (.TRE_En_CTRL n))) 7 0

/-- The staged version: a new load discards it (R305). -/
def EnsSlot.stagedNow (v : EnsSlot) : Option Ens := if v.loading then none else v.staged
/-- READY: a staged version is ready. -/
def EnsSlot.ready (v : EnsSlot) : Bool := v.stagedNow.isSome

/-- Number of shards of an ensemble, and bytes that its `i`-th cluster holds. -/
def Ens.shards (e : Ens) : Nat := if e.shard then (e.ntrees + e.nper - 1) / e.nper else 1
def Ens.bytesAt (e : Ens) (i : Nat) : Nat :=
  (if e.shard then min e.nper (e.ntrees - i * e.nper) else e.ntrees) * treeSize e.depth

/-- Bytes of an ensemble in cluster `k`, over the clusters granted to its owner. -/
def Ens.bytesIn (e : Ens) (cs : List Nat) (k : Nat) : Nat :=
  match cs.idxOf? k with | some i => e.bytesAt i | none => 0

/-- Bytes in use of the tree store of cluster `k`: active, staged and replaced versions that jobs still use. -/
def Blk.treeUsed (s : Blk) (k : Nat) : Nat :=
  (s.tre.slots.map (fun p =>
    let cs := (s.coll (s.slotOwner p.1)).clusters
    ((p.2.active.toList ++ p.2.stagedNow.toList ++ p.2.old.map Prod.snd).map (fun e => e.bytesIn cs k)).sum)).sum

/-- The tree store of a cluster in bytes. -/
def treeStore : Nat := 2048 * 1024

/-- TRE_FREE_MIN in KiB. -/
def Blk.treeFreeMin (s : Blk) : Nat :=
  (List.range (max s.logical 1)).foldl (fun m k => min m ((treeStore - s.treeUsed k) / 1024)) 2048

/-- The version that a job of version `ver` uses. -/
def EnsSlot.version (v : EnsSlot) (ver : Word) : Option Ens :=
  if v.ver = ver then v.active else (v.old.find? (fun p => p.1 == ver)).map Prod.snd

/-- Free the replaced versions that no job uses, running or blocked in its launch (R307). -/
def Blk.freeVersions (s : Blk) (n : Nat) : Blk :=
  let v := s.slot n
  let of := fun (ver : Word) (j : Job) => decide (j.op = .tscore) && j.ver == ver && decide (j.field 0 2 = n)
  let used := fun (ver : Word) => s.tre.jobs.any (fun p => p.2.any (of ver)) ||
    s.ctxs.any (fun p => match p.2.blocked with | .launch j _ => of ver j | _ => false)
  s.setSlot n { v with old := v.old.filter (fun p => used p.1) }

/-- The scheduler core gives slots to a collection at start (R308), and takes them back at teardown. -/
def Blk.giveSlot (s : Blk) (c : Nat) (e : DEns) : Blk :=
  (s.setReg (.tre (.TRE_En_CTRL e.slot)) (w32 (b2n e.shard <<< 31 + (e.nper - 1) <<< 16 + c))).setReg
    (.tre (.TRE_En_ALQ e.slot)) (w32 e.alq)

def Blk.slotsOf (s : Blk) (c : Nat) : List Nat := (List.range s.conf.slots).filter (fun n => s.slotOwner n == c)

def Blk.dropSlots (s : Blk) (c : Nat) : Blk :=
  let s := (s.slotsOf c).foldl (fun s n =>
    let s := [(TreReg.TRE_En_CTRL n), .TRE_En_ADDR_HI n, .TRE_En_ADDR_LO n, .TRE_En_BLOCK n, .TRE_En_BTURN n, .TRE_En_ALQ n,
      .TRE_En_NANCNT n, .TRE_En_ALMCNT n, .TRE_En_JOBCNT n, .TRE_En_POICNT n].foldl
        (fun s r => s.setReg (.tre r) ((Reg.tre r).info s.conf).rst) s
    s.setSlot n .empty) s
  s

/-! ### Loading (R305) -/

/-- What a load of slot `n` ends with: its status and the staged ensemble (Table 9-7). The checks in which several fail are taken in
the order ADDR and POISON of the header, FORMAT of the fields that give the length, ADDR and POISON of the whole, CHECK, FORMAT,
BADFEAT, NOROOM (DEDUCED, log 17). -/
def Blk.loadImage (s : Blk) (n : Nat) : Nat × Option Ens × Blk :=
  let c := s.slotOwner n
  let a := (s.slot n).loadAddr
  let base := s.reg2 (.boot (.BOOT_Cc_CA_BASE_HI c)) (.boot (.BOOT_Cc_CA_BASE_LO c))
  let size := 2 ^ 20 * (s.reg (.boot (.BOOT_Cc_CA_SIZE c))).toNat
  let within := fun (len : Nat) => decide (c < 64) && decide (base ≤ a ∧ a + len ≤ base + size)
  if !within 64 then (7, none, s) else
  let (h, p, s') := s.xmRead c a 64
  if p then (6, none, s') else
  if !ensHead h then (3, none, s') else
  let len := 64 + leAt h 8 2 * treeSize (leAt h 10 1)
  if !within len then (7, none, s') else
  let (b, p, s) := s.xmRead c a len
  if p then (6, none, s) else
  if crc32c (slice b 0 52 ++ b.drop 56) ≠ w32 (leAt b 52 4) then (2, none, s) else
  if !ensFields b then (3, none, s) else
  if (match s.ftable c with | some t => t.nfeat | none => 0) < leAt b 18 2 then (4, none, s) else
  let ctl := (s.slot n).loadCtl
  let e := ensOf b (bit ctl 31) (fld ctl 30 16 + 1)
  let cs := (s.coll c).clusters
  if cs.length < e.shards ∨ cs.any (fun k => decide (treeStore < s.treeUsed k + e.bytesIn cs k)) then (5, none, s)
  else (1, some e, s)

/-- A write of TRE_En_LOAD (R305): LOADING is set, a staged version that is READY is discarded, and the
load takes the address and the placement as they stand (R310). -/
def Blk.wrTreLoad (s : Blk) (n : Nat) (v : Word) : Blk :=
  if !bit v 0 then s else s.setSlot n { s.slot n with
    loading := true, loadAt := s.tclk, loadAddr := s.reg2 (.tre (.TRE_En_ADDR_HI n)) (.tre (.TRE_En_ADDR_LO n)), loadCtl := s.reg (.tre (.TRE_En_CTRL n)) }

/-- MODEL_LOAD_DONE (R305). -/
def execModelLoadDone (n : Nat) : State → Host.Outcome State Fault Refusal := lift fun s =>
  if !(s.slot n).loading then s else
  let s := s.setSlot n { s.slot n with staged := none }
  let (st, e, s) := s.loadImage n
  let s := s.setSlot n { s.slot n with loading := false, staged := e, lstat := st }
  if st = 1 then s else s.emit 9 0x0B04 n st

/-- TRE_En_CTRL (Table 9-10): an OWNER that is neither a collection nor 0xFE is left as it was and reported. -/
def Blk.wrTreCtrl (s : Blk) (n : Nat) (v : Word) : Blk :=
  let r := Reg.tre (.TRE_En_CTRL n)
  if fld v 7 0 < 64 ∨ fld v 7 0 = 0xFE then s.setReg r (v &&& 0xFFFF00FF)
  else (s.setReg r (setFld (v &&& 0xFFFF00FF) 7 0 (fld (s.reg r) 7 0))).refused r v

/-- TRE_En_BLOCK (R306): a write clears MISSED. -/
def Blk.wrTreBlock (s : Blk) (n : Nat) (v : Word) : Blk :=
  (s.setReg (.tre (.TRE_En_BLOCK n)) (v &&& 0xC0000000)).setSlot n { s.slot n with missed := false }

/-- Step 4 of a boundary of tracker `trk` that opens turn `t` (R306). -/
def Blk.swapModels (s : Blk) (trk : Nat) (t : Word) : Blk :=
  ((List.range s.conf.slots).filter (fun n => bit (s.reg (.tre (.TRE_En_BLOCK n))) 31)).foldl (fun s n =>
    let c := s.slotOwner n
    if 64 ≤ c ∨ !s.collRuns c ∨ (s.coll c).trk ≠ trk then s else
    let v := s.slot n
    let b := s.reg (.tre (.TRE_En_BLOCK n))
    let bt := s.reg (.tre (.TRE_En_BTURN n))
    let ready := v.staged.isSome && (!v.loading || v.loadAt == s.tclk)
    let next := bit b 30
    let s := if ready && (next || t == bt) then
        let old := v.ver
        let v' : EnsSlot := { v with active := v.staged, staged := none, ver := old + 1,
                                     old := v.old ++ (v.active.toList.map (fun e => (old, e))) }
        let s := ((s.setSlot n v').freeVersions n).setReg (.tre (.TRE_En_BLOCK n)) (b &&& 0x7FFFFFFF)
        s.emit 9 0x0B02 n (old.toNat % 65536 * 65536 + (old + 1).toNat % 65536)
      else if !next && (t == bt || decide (0 < sdiff t bt)) then
        ((s.setSlot n { v with missed := true }).setReg (.tre (.TRE_En_BLOCK n)) (b &&& 0x7FFFFFFF)).emit 9 0x0B03 n bt.toNat
      else s
    s) s

/-! ### The walk and the score (R293 to R296) -/

/-- Whether bytes [a, a + n) of the copy in cluster `k` hold a word with an uncorrectable error. -/
def Ens.poiAt (e : Ens) (k a n : Nat) : Bool := (unitsOf 4 a n).any (fun u => Store.get false e.treePoi (2 ^ 26 * k + u))

/-- The cluster whose tree unit walks tree `i` of a job launched in cluster `k`: of a sharded ensemble that of its shard, among the
granted clusters `cs` (R303). -/
def Ens.home (e : Ens) (cs : List Nat) (k i : Nat) : Nat := if e.shard then cs.getD (i / e.nper) k else k

/-- The walk in cluster `k` of one tree at byte offset `o` from position `x`: leaf position, NaN routings, poison (R294). `n` counts the levels left. -/
def Ens.walk (e : Ens) (t : FTable) (k row o : Nat) : Nat → Nat → Nat → Bool → Nat × Nat × Bool
  | 0, x, nan, poi => (x, nan, poi)
  | n + 1, x, nan, poi =>
    let nd := tnodeOf (slice e.trees (o + 6 * x) 6)
    let poi := poi || e.poiAt k (o + 6 * x) 6
    let v := t.key row nd.fidx
    if nd.thr = 0 ∧ nd.def_ then Ens.walk e t k row o n (2 * x + 2) nan poi
    else
      let poi := poi || t.poiAt row nd.fidx
      if t.typeOf nd.fidx = 0 ∧ v = 0xFFC00000#32 then Ens.walk e t k row o n (2 * x + 1 + b2n nd.def_) (nan + 1) poi
      else Ens.walk e t k row o n (2 * x + 1 + b2n (decide (nd.thr.toNat ≤ v.toNat))) nan poi

/-- Score, NaN routings and poison of a row (R295, R296), tree `i` walked in cluster `home i`. -/
def Ens.score (e : Ens) (t : FTable) (home : Nat → Nat) (row : Nat) : Int × Nat × Bool :=
  (List.range e.ntrees).foldl (fun (a : Int × Nat × Bool) i =>
    let o := i * treeSize e.depth
    let (x, nan, poi) := e.walk t (home i) row o e.depth 0 a.2.1 a.2.2
    let l := o + leafAt e.depth + 3 * (x - (2 ^ e.depth - 1))
    (a.1 + sext 24 (leAt e.trees l 3), nan, poi || e.poiAt (home i) l 3)) (e.bias, 0, false)

/-- The thresholds met (R299). -/
def Ens.alarm (e : Ens) (score : Int) : Nat :=
  ((List.range 4).map (fun k => match e.thr.getD k (false, false, 0) with
    | (true, dir, v) => if (if dir then decide (score ≤ v) else decide (v ≤ score)) then 2 ^ k else 0
    | _ => 0)).sum

/-! ### Scoring jobs (R297 to R301) -/

/-- What a job adds up. -/
structure TCount where
  scored : Nat
  missed : Nat
  alarms : Nat
  nan    : Nat
  poi    : Nat
  deriving DecidableEq, Repr

/-- One entity of a job: its score record, and the state with its alarm (R298, R299). -/
def Blk.scoreOne (s : Blk) (j : Job) (n : Nat) (e : Ens) (t : FTable) (alen : Bool) (ent : Nat) (row : Option Nat) (ct : TCount) :
    List PWord × TCount × Blk :=
  let ver := j.ver.toNat % 65536
  match row with
  | none =>
    ([(w32 ent, false), (w32 (ent / 2 ^ 32 % 65536 + (2 ^ 4) <<< 16), false), (0, false), (w32 (ver <<< 16), false)],
     { ct with missed := ct.missed + 1 }, s.ftMiss j.coll 1)
  | some r =>
    let loads := e.shards
    let s := (List.range (loads - 1)).foldl (fun (s : Blk) _ => (s.featRow j.coll r t (List.range t.nfeat)).2) s
    let (t, s) := s.featRow j.coll r t (List.range t.nfeat)
    let t := t.putAll (j.feats.filter (fun w => decide (w.1 / 256 = r)))
    let (sc, nan, poi) := e.score t (e.home (s.coll j.coll).clusters j.cluster) r
    let al := e.alarm sc
    let s := if t.npool ≤ r then s.count (.fea (.FEA_Tc_SPILLRD j.coll)) loads else s
    let s := s.count (.fea (.FEA_Tc_POI j.coll)) (loads * ((List.range t.nfeat).filter (t.poiAt r)).length)
    let s := s.modTre (fun m => { m with pairs := m.pairs + e.ntrees })
    let raise := alen && decide (al ≠ 0)
    let s := if !raise then s else
      s.modTre (fun m => { m with alarms := Store.put m.alarms j.cluster (Store.get [] m.alarms j.cluster ++
        [{ coll := j.coll, slot := n, turn := w32 (j.field 12 4), ent := ent, score := sc, alarm := al, poi := poi,
           dpoi := j.descPoi.getD 3 false, ver := j.ver, at_ := s.t64 }]) })
    let bits : Nat := (BitVec.ofInt 48 sc).toNat
    ([(w32 ent, false), (w32 (ent / 2 ^ 32 % 65536 + (al + 2 ^ 5 * b2n poi) <<< 16 + min nan 255 <<< 24), poi), (w32 bits, poi),
      (w32 (bits / 2 ^ 32 + ver <<< 16), poi)],
     { scored := ct.scored + 1, missed := ct.missed, alarms := ct.alarms + b2n raise, nan := ct.nan + nan,
       poi := ct.poi + b2n poi }, s)

/-- Score a job: status and words 3 to 8 of its completion token, and the state; or the memory fault that it takes (R297 to R301). -/
def Blk.treRun (s : Blk) (j : Job) : Except JobFault (Nat × List Nat × Blk) :=
  let n := j.field 0 2
  let mode := j.field 2 1
  let fl := j.field 3 1
  let first := j.field 4 4
  let num := j.field 8 4
  let list := j.field 16 8
  let out := j.field 24 8
  let fail := fun (st : Nat) => (.ok (st, [0, 0, 0, 0, 0, 0], s) : Except JobFault (Nat × List Nat × Blk))
  let ens := if n < 256 ∧ s.slotOwner n = j.coll then (s.slot n).version j.ver else none
  match ens with
  | none => fail 1
  | some e =>
    if 1 < mode ∨ 4 ≤ fl ∨ 65536 < num ∨ (fl % 2 = 0) ≠ (out = 0) then fail 2 else
    match s.ftable j.coll with
    | none => fail 3
    | some t =>
      if mode = 0 ∧ t.dir.length < first + num then fail 2 else
      let ents : Except JobFault (List (Nat × Option Nat) × Blk) :=
        if mode = 0 then .ok ((List.range num).map (fun i => (t.dir.getD (first + i) 0, some (first + i))), s)
        else (s.jobRead j list (2 * num)).map (fun p =>
          ((List.range num).map (fun i =>
            let x := hiLo (p.1.getD (2 * i + 1) (0, false)).1 (p.1.getD (2 * i) (0, false)).1 % 2 ^ 48
            (x, t.row x)), p.2))
      match ents, (if fl % 2 = 1 then s.jobCheck j out (16 * num) true else .ok (.pool, 0)) with
      | .error f, _ => .error f
      | _, .error f => .error f
      | .ok (es, s), .ok _ =>
        let (ws, ct, s) := es.foldl (fun (a : List PWord × TCount × Blk) x =>
          let (w, ct, s) := a.2.2.scoreOne j n e t (decide (fl / 2 = 1)) x.1 x.2 a.2.1
          (a.1 ++ w, ct, s)) ([], (⟨0, 0, 0, 0, 0⟩ : TCount), s)
        let s := (s.count (.tre (.TRE_En_NANCNT n)) ct.nan).count (.tre (.TRE_En_POICNT n)) ct.poi
        let res := [j.ver.toNat, ct.scored, ct.missed, ct.alarms, min ct.nan 0xFFFFFFFF, ct.poi]
        if fl % 2 = 0 then .ok (0, res, s) else (s.jobWrite j out ws).map (fun s => (0, res, s))

/-- The completion of the scored job of cluster `k`, once none of its alarms waits (R299, R301). -/
def Blk.treComplete (s : Blk) (k : Nat) : Blk :=
  match Store.look s.tre.scored k, Store.get [] s.tre.jobs k with
  | some (st, ws), j :: rest =>
    if !(Store.get [] s.tre.alarms k).isEmpty then s else
    let s := s.modTre (fun m => { m with scored := Store.del m.scored k, jobs := Store.set [] m.jobs k rest })
    let n := j.field 0 2
    let s := s.count (.tre .TRE_JOB_CNT) 1
    let s := if n < 256 then (s.count (.tre (.TRE_En_JOBCNT n)) 1).freeVersions n else s
    s.complete j st (j.turn :: w32 (j.field 12 4) :: ws) (if j.descPoi.getD 3 false then 1 else 0)
  | _, _ => s

/-- The oldest job of a cluster's tree unit ends (R301): it is scored, and completes once its alarms are enqueued; or it is refused,
and its context takes the fault that is answered. -/
def Blk.treJobEnd (s : Blk) (k : Nat) : Option (Job × JobFault) × Blk :=
  if (Store.look s.tre.scored k).isSome then (none, s.treComplete k) else
  match Store.get [] s.tre.jobs k with
  | [] => (none, s)
  | j :: rest =>
    if j.dead then (none, (s.modTre (fun m => { m with jobs := Store.set [] m.jobs k rest })).count (.tre .TRE_JOB_CNT) 1) else
    match s.treRun j with
    | .error e => (some (j, e), s.modTre (fun m => { m with jobs := Store.set [] m.jobs k rest }))
    | .ok (st, ws, s) =>
      (none, (s.modTre (fun m => { m with scored := Store.put m.scored k (st, ws.map w32) })).treComplete k)

/-! ### Alarms (R299, R300, R369) -/

/-- The words of an alarm token (R299). -/
def Alarm.words (a : Alarm) : List Word :=
  let b : Nat := (BitVec.ofInt 64 a.score).toNat
  [0x0110FFFF#32, a.turn, loOf a.ent, hiOf a.ent, loOf b, hiOf b,
   w32 (a.alarm + 2 ^ 4 * b2n a.poi + a.ver.toNat % 65536 * 65536), w32 a.slot]

/-- Whether a result of a turn after the alarm's has been delivered at this instance (R369). -/
def Blk.alarmLate (s : Blk) (a : Alarm) : Bool :=
  (s.redsOf a.coll).any (fun r => match s.reduction a.coll r with
    | some v => v.last.any (fun p => decide (0 < sdiff p.2 a.turn))
    | none => false)

/-- The queue of an alarm. -/
def Blk.alarmQueue (s : Blk) (a : Alarm) : Option Nat :=
  Store.look (s.coll a.coll).queues (fld (s.reg (.tre (.TRE_En_ALQ a.slot))) 13 0)

/-- Take the oldest alarm of a tree unit that is late, or that its queue has room for. -/
def Blk.enqAlarm (s : Blk) (k : Nat) : Blk :=
  let as := Store.get [] s.tre.alarms k
  let can := fun (a : Alarm) => s.alarmLate a || (match s.alarmQueue a with | some q => s.qEn q && s.qRoom q 1 | none => false)
  match as.findIdx? can with
  | none => s
  | some i =>
    match as[i]? with
    | none => s
    | some a =>
      let s := s.modTre (fun m => { m with alarms := Store.set [] m.alarms k (as.eraseIdx i) })
      if s.alarmLate a then (s.count (.err .ERR_ALM_LATE) 1).emit 0xE 0x0E08 a.coll a.turn.toNat
      else match s.alarmQueue a with
        | none => s
        | some q =>
          let s := s.enqTok q (Token.mk' 3 a.words (if a.poi || a.dpoi then 1 else 0) false .none)
          let s := s.count (.tre (.TRE_En_ALMCNT a.slot)) 1
          let s := s.emitEv ⟨0x0B01, unitSrc 0 9, BitVec.ofNat 64 a.ent, BitVec.ofNat 48 (a.slot <<< 16 + a.alarm), a.poi⟩
          if s.freezes a.coll then s.fwAlarm (some a.coll) a.at_ else s

/-- A tclk in which more than 256 alarms of a tree unit wait: its pipelines are paused, and the tclk is counted (R300). -/
def Blk.alarmPause (s : Blk) : Blk :=
  s.count (.tre .TRE_ALQ_PAUSE) (s.tre.alarms.filter (fun p => decide (256 < p.2.length))).length

/-- ALARM_ENQUEUE (R299, R300, R369): the tree unit of cluster `k` enqueues a waiting alarm. -/
def execAlarmEnqueue (k : Nat) : State → Host.Outcome State Fault Refusal := lift fun s =>
  if (Store.get [] s.tre.alarms k).isEmpty then s else (s.enqAlarm k).idleNow k

end Sys2Proof.Machine
end

