-- ==== Sys2Proof/Machine/Start.lean ====
section
/-!
DEFINITION. What a collection start takes (R178 to R181, R332, R333, R343, R451, R452, R455): the checks of the descriptor and of
the program images, the placement of programs on clusters, segments, queues with their credits, flow contexts, contexts.
-/

namespace Sys2Proof.Machine

/-! ### The descriptor (R451, R452) -/

/-- The allocation of collection `c` at this instance: address and size in bytes. -/
def Blk.alloc (s : Blk) (c : Nat) : Nat × Nat :=
  (s.reg2 (.boot (.BOOT_Cc_CA_BASE_HI c)) (.boot (.BOOT_Cc_CA_BASE_LO c)), 2 ^ 20 * (s.reg (.boot (.BOOT_Cc_CA_SIZE c))).toNat)

/-- Tables of a descriptor as offset and length. -/
def Desc.tables (d : Desc) : List (Nat × Nat) :=
  [(32, 4 * d.npl), (40, 16 * d.nprog), (48, 16 * d.nq), (56, 16 * d.nseg), (64, 8 * d.nens), (72, 80 * d.nred)].map
    (fun p => (leAt d.hdr p.1 8, p.2))

/-- Whether the fields of header and tables lie in their ranges (Tables 15-2, 15-3). A segment number given twice to one role is
out of range (DEDUCED, log 19). -/
def Desc.fieldsOk (d : Desc) (conf : Conf) : Bool :=
  d.fmt == 0x43440001#32 && d.zerosOk && d.tabsOk && decide (d.coll < conf.colls ∧ d.trk < conf.trackers ∧ d.part < 4096) &&
  decide (1 ≤ d.nprog ∧ d.nprog ≤ 16 ∧ d.nred ≤ 16 ∧ 1 ≤ d.nq ∧ d.nq ≤ 4096 ∧ d.nseg ≤ 8 ∧ d.nens ≤ 16) &&
  decide (1 ≤ d.npl ∧ d.npl ≤ 16384 ∧ d.rights < 8 ∧ d.ncl ≤ 64) &&
  d.places.all (fun p => decide (fld p 31 28 = 0 ∧ fld p 4 0 = 0)) && ascending d.places &&
  d.queues.all (fun q => decide (q.peer < 4)) && decide ((d.queues.filter (fun q => q.peer = 1)).length = 1) &&
  (List.range d.segs.length).all (fun i => (List.range i).all (fun j =>
    match d.segs[i]?, d.segs[j]? with
    | some a, some b => decide (a.k ≠ b.k) || (a.roles &&& b.roles) == 0
    | _, _ => true))

/-- Read the descriptor at an offset of the allocation: the reason of a refusal (0 none) and the descriptor. A poisoned line counts
as a failed CHECK (DEDUCED, log 19). -/
def Blk.readDesc (s : Blk) (c ofs : Nat) : Nat × Desc × Blk :=
  let (base, size) := s.alloc c
  let d := descOf (fun o n => if o + n ≤ size then Mem.rdN s.mem.xm (base + o) n else List.replicate n 0)
  if size < ofs + 256 then (0x0B, d, s) else
  let d := descOf (fun o n => if o = 0 ∧ n = 256 then Mem.rdN s.mem.xm (base + ofs) 256
    else if o + n ≤ size then Mem.rdN s.mem.xm (base + o) n else [])
  let (_, p0, s) := s.xmRead c (base + ofs) 256
  if d.fmt ≠ 0x43440001#32 ∨ 16384 < d.npl ∨ 4096 < d.nq then (1, d, s) else
  if d.tables.any (fun t => decide (size < t.1 + t.2)) then (0x0B, d, s) else
  let (p, s) := d.tables.foldl (fun (a : Bool × Blk) t =>
    let (_, p, s) := a.2.xmRead c (base + t.1) t.2
    (a.1 || p, s)) (p0, s)
  (if p || !d.checkOk || !d.fieldsOk s.conf || decide (d.coll ≠ c) then 1 else 0, d, s)

/-- This instance's bit of a ROLES field. -/
def Blk.hasRole (s : Blk) (r : BitVec 3) : Bool := r.getLsbD (roleCode s.role - 1)

/-! ### Program images (Table 5-10, R179) -/

/-- A slot word of an image. -/
def slotDefs (h : List Byte) : List SlotDef :=
  ((List.range 32).map (fun i => (i, w32 (leAt h (32 + 4 * i) 4)))).filterMap (fun p =>
    if bit p.2 31 then some { n := p.1, out := bit p.2 30, peri := bit p.2 29, lq := fld p.2 28 15, tmo := fld p.2 14 0 }
    else none)

/-- Whether the fields of an image lie in their ranges. -/
def imageOk (h : List Byte) : Bool :=
  let im := leAt h 4 4
  let ds := leAt h 8 4
  decide (leAt h 0 4 = 0x44580001) && decide (im % 4 = 0 ∧ 4 ≤ im ∧ im ≤ 32768) && decide (ds % 1024 = 0 ∧ ds ≤ 65536) &&
  decide (leAt h 12 4 ≤ ds) && decide (leAt h 16 4 % 4 = 0 ∧ leAt h 16 4 < im) &&
  (decide (leAt h 20 4 = 0xFFFFFFFF) || decide (leAt h 20 4 % 4 = 0 ∧ leAt h 20 4 < im)) && decide (leAt h 24 1 < 3 ∧ leAt h 25 1 < 32)

/-- Whether the units that a program names are present and licensed (R179). -/
def Blk.unitsOk (s : Blk) (u : Nat) : Bool :=
  (decide (u % 2 = 0) || (s.conf == .a64 && (match s.lic.force with | some l => l.tree | none => false))) &&
  (decide (u / 8 % 2 = 0) || s.hasFuller) && (decide (u / 16 % 2 = 0) || s.conf == .a64)

/-- Load the program image at an offset of the allocation: a refusal, or the program. -/
def Blk.progImage (s : Blk) (c ofs : Nat) : Except Nat Prog × Blk :=
  let (base, size) := s.alloc c
  if size < ofs + 160 then (.error 0x0B, s) else
  let h := Mem.rdN s.mem.xm (base + ofs) 160
  if !imageOk h then (.error 2, s) else
  let im := leAt h 4 4
  let n := 160 + im + leAt h 12 4
  if size < ofs + n then (.error 0x0B, s) else
  let (b, p, s) := s.xmRead c (base + ofs) n
  if p ∨ crc32c (slice b 0 28 ++ b.drop 32) ≠ w32 (leAt b 28 4) then (.error 2, s) else
  if !s.unitsOk (leAt b 25 1) then (.error 4, s) else
  (.ok { im := bytesWords (im / 4) ((b.drop 160).take im), entry := leAt b 16 4,
         handler := (if leAt b 20 4 = 0xFFFFFFFF then none else some (leAt b 20 4)), place_ := leAt b 24 1, dsLen := leAt b 8 4,
         data := b.drop (160 + im), ltmo := leAt b 26 2, units := BitVec.ofNat 8 (leAt b 25 1), slots := slotDefs b }, s)

/-- Load the images of every program of this role. -/
def Blk.progImages (s : Blk) (c : Nat) (d : Desc) : Except Nat (List Prog) × Blk :=
  (d.progs.filter (fun p => s.hasRole p.2)).foldl (fun (a : Except Nat (List Prog) × Blk) p =>
    match a.1 with
    | .error e => (.error e, a.2)
    | .ok ps => let (r, s) := a.2.progImage c p.1; (r.map (fun x => ps ++ [x]), s)) (.ok [], s)

/-! ### Placement (R180) -/

/-- Where an instance of a program runs: program, instance index, cluster, engine, context of the engine. -/
structure Spot where
  prog    : Nat
  inst    : Nat
  cluster : Nat
  engine  : Nat
  ctx     : Nat
  deriving DecidableEq, Repr

/-- Engines per cluster and contexts per engine (Table 5-1). -/
def enginesOf : Conf → Nat | .d => 1 | .a64 => 4
def perEngineOf : Conf → Nat | .d => 16 | .a64 => 4

/-- Number of a context (R183). -/
def ctxNo (conf : Conf) (k e i : Nat) : Nat := (k * (enginesOf conf) + e) * (perEngineOf conf) + i

/-- Bytes of IM and DS of an engine that loaded contexts and planned instances use, and the context numbers taken. -/
def Blk.engineUse (s : Blk) (ps : List Prog) (plan : List Spot) (k e : Nat) : Nat × Nat × List Nat :=
  let cs := s.ctxs.filter (fun p => decide (p.2.cluster = k ∧ p.2.engine = e))
  let sp := plan.filter (fun p => decide (p.cluster = k ∧ p.engine = e))
  let pr := sp.filterMap (fun p => ps[p.prog]?)
  ((cs.map (fun p => 4 * p.2.im.length)).sum + (pr.map (fun p => 4 * p.im.length)).sum,
   (cs.map (fun p => p.2.dsLen)).sum + (pr.map Prog.dsLen).sum,
   cs.map (fun p => p.1 % (perEngineOf s.conf)) ++ sp.map Spot.ctx)

/-- Plan one instance of program `pi` on the engines `es` of cluster `k`: the lowest engine, then the lowest context, with room. -/
def Blk.planOne (s : Blk) (ps : List Prog) (plan : List Spot) (pi inst k : Nat) (es : List Nat) : Option (List Spot) :=
  match ps[pi]? with
  | none => none
  | some p =>
    es.findSome? (fun e =>
      let (im, ds, used) := s.engineUse ps plan k e
      if 32768 < im + 4 * p.im.length ∨ 65536 < ds + p.dsLen then none else
      ((List.range (perEngineOf s.conf)).find? (fun i => !used.contains i)).map (fun i => plan ++ [⟨pi, inst, k, e, i⟩]))

/-- Plan every program's instances on cluster `k`, the `j`-th of the grant. -/
def Blk.planOn (s : Blk) (ps : List Prog) (plan : List Spot) (k j : Nat) : Option (List Spot) :=
  let en := (enginesOf s.conf)
  (List.range ps.length).foldl (fun (a : Option (List Spot)) pi =>
    a.bind (fun plan =>
      let kind := (ps[pi]?.map Prog.place_).getD 0
      if kind = 0 then (if j = 0 then s.planOne ps plan pi 0 k (List.range en) else some plan)
      else if kind = 1 then s.planOne ps plan pi j k (List.range en)
      else (List.range en).foldl (fun (a : Option (List Spot)) e =>
        a.bind (fun plan => s.planOne ps plan pi (en * j + e) k [e])) (some plan))) (some plan)

/-- Bytes of CSM of a cluster (Table 5-2). -/
def csmBytes : Conf → Nat | .d => 624 * 1024 | .a64 => 1536 * 1024

/-- Pieces of the CSM in use on clusters `ks`, and of the pool, by the other collections. -/
def Blk.csmUsed (s : Blk) (c : Nat) (ks : List Nat) : List (Nat × Nat) :=
  (s.colls.filter (fun p => p.1 ≠ c ∧ p.2.clusters.any ks.contains)).flatMap (fun p =>
    (p.2.segs.filter (fun g => g.2.kind == .csm)).map (fun g => (g.2.base, g.2.size)))
def Blk.poolUsed (s : Blk) (c : Nat) : List (Nat × Nat) :=
  (s.colls.filter (fun p => p.1 ≠ c)).flatMap (fun p =>
    (p.2.segs.filter (fun g => g.2.kind == .pool)).map (fun g => (g.2.base, g.2.size)))

/-- Place pieces of the given sizes one after another at the lowest free addresses of an area. -/
def placePieces (size : Nat) : List Nat → List (Nat × Nat) → Option (List Nat)
  | [], _ => some []
  | n :: t, used =>
    if n = 0 then (placePieces size t used).map (fun l => 0 :: l) else
    match (freePieces size (used.foldl (fun l p => insPiece p l) [])).find? (fun p => decide (n ≤ p.2)) with
    | none => none
    | some p => (placePieces size t ((p.1, n) :: used)).map (fun l => p.1 :: l)
where
  insPiece (p : Nat × Nat) (l : List (Nat × Nat)) : List (Nat × Nat) := if l.contains p then l else l ++ [p]

/-- The clusters and the plan of a grant: the lowest-numbered logical clusters that hold what every program and the CSM segments
need (R180). -/
def Blk.grantPlan (s : Blk) (c : Nat) (ps : List Prog) (csm : List Nat) (n : Nat) : Option (List Nat × List Spot) :=
  let r := (List.range s.logical).foldl (fun (a : List Nat × List Spot) k =>
    if n ≤ a.1.length ∨ (s.clu k).disabled then a else
    match s.planOn ps a.2 k a.1.length with
    | none => a
    | some plan =>
      if (placePieces (csmBytes s.conf) csm (s.csmUsed c (a.1 ++ [k]))).isSome then (a.1 ++ [k], plan) else a) ([], [])
  if r.1.length < n then none else some r

/-- Bytes of the shared pool left to pool segments (R150, R283, R347). -/
def Blk.poolArea (s : Blk) : Nat :=
  match s.conf with
  | .d => 0
  | .a64 => 2 ^ 20 * (128 - fld (s.reg (.fea .FEA_AREA)) 6 0) - 1024 * fld (s.reg (.qsc .QSC_QSTORE)) 19 0

/-- The segments of this role, placed on the clusters of the grant: a refusal, or the segments (R152, R452). -/
def Blk.planSegs (s : Blk) (c : Nat) (d : Desc) (ks : List Nat) : Except Nat (Store Segment) :=
  let mine := d.segs.filter (fun g => s.hasRole g.roles)
  let (base, size) := s.alloc c
  if mine.any (fun g => decide (g.region = 2 ∧ size < g.ofs + g.size)) then .error 0x0B else
  if s.conf = .d ∧ mine.any (fun g => g.region = 1) then .error 4 else
  match placePieces (csmBytes s.conf) ((mine.filter (·.region = 0)).map DSeg.size) (s.csmUsed c ks),
      placePieces s.poolArea ((mine.filter (·.region = 1)).map DSeg.size) (s.poolUsed c) with
  | some cs, some pl =>
    .ok ((mine.foldl (fun (a : Store Segment × List Nat × List Nat) g =>
      if g.region = 0 then (Store.put a.1 g.k ⟨.csm, a.2.1.headD 0, g.size, g.rd, g.wr⟩, a.2.1.tail, a.2.2)
      else if g.region = 1 then (Store.put a.1 g.k ⟨.pool, a.2.2.headD 0, g.size, g.rd, g.wr⟩, a.2.1, a.2.2.tail)
      else (Store.put a.1 g.k ⟨.xm, base + g.ofs, g.size, g.rd, g.wr⟩, a.2.1, a.2.2)) (([] : Store Segment), cs, pl)).1)
  | _, _ => .error 2

/-! ### Queues (R332, R333, R349) -/

/-- The peer of an egress queue of PEER kind 2 or 3 at this instance. -/
def Blk.queuePeer (s : Blk) (kind : Nat) : Option (Word × Nat) :=
  if kind = 2 then s.parentPlace.map (fun p => (p, s.parentRole))
  else if s.role = .span ∧ s.boot.isPrimary then none else (s.boot.primary.map Prod.fst |>.or (match s.role with
    | .tray => s.parentPlace | _ => none)).map (fun p => (p, 3))

/-- Members of a hashed local queue: one for each instance of the program placed EACH that reads it (R349). -/
def membersOf (ps : List Prog) (grant lq : Nat) (q : DQueue) : Nat :=
  if q.hashed ∧ q.peer = 0 ∧ ps.any (fun p => decide (p.place_ = 1) && p.slots.any (fun x => decide (x.lq = lq) && !x.out)) then
    max 1 grant else 1

/-- Assign one hardware queue, the lowest free number, to logical queue `lq` of collection `c`. -/
def Blk.assignQueue (s : Blk) (c lq : Nat) (e : DQueue) : Except Nat (Nat × Blk) :=
  let peer := if e.peer < 2 then none else s.queuePeer e.peer
  if 2 ≤ e.peer ∧ peer.isNone then .error 3 else
  match (List.range s.conf.queues).find? (fun q => !s.qEn q) with
  | none => .error 3
  | some q =>
    let p := peer.getD (0, 0)
    let s := s.setReg (.qsc (.QSC_Qq_CFG q)) (qCfgWord peer.isSome e.spill e.hashed e.cls 0 c lq)
    let s := s.setReg (.qsc (.QSC_Qq_CAP q)) (w32 e.cap)
    let s := s.setReg (.qsc (.QSC_Qq_QUANT q)) (w32 (e.quant % 2 ^ 14))
    let s := s.setReg (.qsc (.QSC_Qq_RATE q)) (w32 (e.rate % 2 ^ 20))
    let s := s.setReg (.qsc (.QSC_Qq_BURST q)) (w32 (e.burst % 2 ^ 20))
    .ok (q, s.setQ q { Queue.fresh with peer := p.1, peerRole := p.2, dq := e.lqr, cap := max 1 e.cap, sampAt := s.tclk })

/-- Assign the queues of this role: the first member of each logical queue, and the reducer input. -/
def Blk.assignQueues (s : Blk) (c : Nat) (d : Desc) (ps : List Prog) (grant : Nat) : Except Nat (Store Nat × Option Nat × Blk) :=
  (List.range d.queues.length).foldl (fun (a : Except Nat (Store Nat × Option Nat × Blk)) lq =>
    a.bind (fun (m, red, s) =>
      match d.queues[lq]? with
      | none => .ok (m, red, s)
      | some e =>
        if !s.hasRole e.roles then .ok (m, red, s) else
        (s.assignQueue c lq e).bind (fun (q, s) =>
          let m := Store.put m lq q
          let red := if e.peer = 1 then some q else red
          ((List.range (membersOf ps grant lq e - 1)).foldl (fun (a : Except Nat Blk) _ =>
            a.bind (fun s => (s.assignQueue c lq e).map Prod.snd)) (.ok s)).map (fun s => (m, red, s))))) (.ok ([], none, s))

/-- The hardware queue of a slot of instance `i`; none when the slot names no queue that it may use (R157, R179). -/
def Blk.slotQueue (s : Blk) (c : Nat) (d : Desc) (m : Store Nat) (x : SlotDef) (i : Nat) : Option Nat :=
  let lq := if x.peri then x.lq + i else x.lq
  match Store.look m lq, d.queues[lq]? with
  | some q, some e =>
    if !x.out ∧ e.peer ≠ 0 then none
    else if !x.out ∧ e.hashed then (s.groupOf c lq)[i]?.or (some q)
    else some q
  | _, _ => none

/-! ### Contexts (R181) -/

/-- The instances of a program over a grant of `n` clusters. -/
def instsOf (conf : Conf) (p : Prog) (n : Nat) : Nat :=
  if p.place_ = 0 then 1 else if p.place_ = 1 then n else (enginesOf conf) * n

/-- A context in the state of R181. -/
def ctxOf (c : Nat) (p : Prog) (sp : Spot) (insts : Nat) (slots : Store Slot) (start : Word) (restart : Bool) (now : Nat) : Ctx :=
  { coll := c, prog := sp.prog, inst := sp.inst, insts := insts, cluster := sp.cluster, engine := sp.engine, im := p.im, imPoi := [],
    dsLen := p.dsLen, handler := p.handler, ltmo := p.ltmo, units := p.units, pc := p.entry, sreg := [], spoi := 0, vreg := [],
    vpoi := 0, preg := [], ppoi := 0, wreg := [], wpoi := 0, slots := slots, credits := [], usedTree := 0, usedSketch := 0,
    usedFuller := 0, sbuf := [], fbuf := [], got := [], blocked := .no, blockAt := now, rel := none, inHandler := false, epc := 0, ecause := 0, retired := 0,
    start := start, restart := restart }

/-- Write DS_INIT followed by zeros, unpoisoned, to the DS slice of context `i` (R181). -/
def Blk.initDs (s : Blk) (i : Nat) (data : List Byte) : Blk :=
  let a := 2 ^ 20 * i
  s.modMem (fun m => { m with
    ds := Mem.wrN (m.ds.filter (fun p => p.1 / 2 ^ 20 ≠ i)) a data,
    dsPoi := m.dsPoi.filter (fun p => p.1 / 2 ^ 18 ≠ i) })

/-- Load the contexts of a plan; an output slot that would hold no credit, or a slot without its queue, refuses the start (R179,
R333). The answer counts the output slots bound to each queue. -/
def Blk.loadCtxs (s : Blk) (c : Nat) (d : Desc) (m : Store Nat) (ps : List Prog) (n : Nat) (plan : List Spot) : Except Nat Blk :=
  let bound : Except Nat (List (Spot × Prog × Store Slot)) := plan.foldl (fun a sp =>
    a.bind (fun l => match ps[sp.prog]? with
      | none => .error 2
      | some p =>
        (p.slots.foldl (fun (a : Except Nat (Store Slot)) x => a.bind (fun st =>
          match s.slotQueue c d m x sp.inst with
          | none => .error 2
          | some q => .ok (Store.put st x.n ⟨x.out, q, x.tmo⟩))) (.ok [])).map (fun st => l ++ [(sp, p, st)]))) (.ok [])
  bound.bind (fun l =>
    let outs := fun (q : Nat) => (l.map (fun x => (x.2.2.filter (fun sl => sl.2.out ∧ sl.2.q = q)).length)).sum
    if l.any (fun x => x.2.2.any (fun sl => sl.2.out && decide ((s.q sl.2.q).cap < outs sl.2.q))) then .error 3 else
    .ok (l.foldl (fun s x =>
      let i := ctxNo s.conf x.1.cluster x.1.engine x.1.ctx
      let cx := ctxOf c x.2.1 x.1 (instsOf s.conf x.2.1 n) x.2.2 0 false s.tclk
      let cr := x.2.2.foldl (fun (m : Store Nat) sl =>
        if sl.2.out then Store.set 0 m sl.1 ((s.q sl.2.q).cap / outs sl.2.q) else m) []
      (s.modCtxs (fun m => Store.put m i { cx with credits := cr })).initDs i x.2.1.data) s))

/-- Contexts of a collection, by number. -/
def Blk.ctxsOf (s : Blk) (c : Nat) : List (Nat × Ctx) := s.ctxs.filter (fun p => p.2.coll = c)

/-- Count the time that a context has been blocked. -/
def Blk.blkCount (s : Blk) (k : Nat) (x : Ctx) : Blk :=
  if x.blocked = .no then s else s.count (.dxe (.DXE_CXc_BLK k)) (s.tclk - x.blockAt)

/-- Load a context again in the state of R181 at a restart; its slots keep their queues and start with their credits. -/
def Blk.reloadCtx (s : Blk) (c i : Nat) (x : Ctx) (start : Word) : Blk :=
  match (s.coll c).progs[x.prog]? with
  | none => s
  | some p =>
    let sp : Spot := ⟨x.prog, x.inst, x.cluster, x.engine, 0⟩
    let outs := fun (q : Nat) => ((s.ctxsOf c).map (fun y => (y.2.slots.filter (fun sl => sl.2.out ∧ sl.2.q = q)).length)).sum
    let cr := x.slots.foldl (fun (m : Store Nat) sl =>
      if sl.2.out then Store.set 0 m sl.1 ((s.q sl.2.q).cap / outs sl.2.q) else m) []
    let cx := ctxOf c p sp x.insts x.slots start true s.tclk
    ((s.blkCount i x).modCtxs (fun m => Store.put m i { cx with credits := cr, retired := x.retired })).initDs i p.data

/-- Remove the contexts of a collection. -/
def Blk.dropCtxs (s : Blk) (c : Nat) : Blk :=
  let s := s.seenEnd c
  let s := (s.ctxsOf c).foldl (fun s p => (s.blkCount p.1 p.2).idleNow p.2.cluster) s
  s.modCtxs (fun m => m.filter (fun p => p.2.coll ≠ c))

/-! ### Flow contexts (R343, R455) -/

/-- Open a context, or keep the failure. -/
def openAll (c : Nat) (l : List (Bool × Nat × Word × Nat)) (s : Blk) : Option Blk :=
  l.foldl (fun (a : Option Blk) x => a.bind (fun s => s.openFlow x.1 x.2.1 x.2.2.1 x.2.2.2 0 (some c))) (some s)

/-- The neighbours of this tray in the trees of turn `n`: parents and children in both, and between crowns each other. -/
def Blk.treePeers (s : Blk) (ps : List Word) : List Word :=
  let me := s.place
  let l := [false, true].flatMap (fun b => (parentIn ps b me).toList ++ kidsIn ps b me)
  let cr := [false, true].filterMap (fun b => crownIn ps b)
  ((l ++ (if cr.contains me then cr else [])).filter (· ≠ me)).foldl (fun a p => insPlace p a) []

/-- The contexts that a collection uses at this instance. `up` lists (class, kind) of the egress queues of the descriptor by role:
bit 0 die, bit 1 tray. -/
def Blk.flowsOf (s : Blk) (c : Nat) (ps : List Word) (dies : List Word) (up : Nat → Nat → List Nat) : List (Bool × Nat × Word × Nat) :=
  let both := fun (k : Nat) (p : Word) (r : Nat) => [(false, k, p, r), (true, k, p, r)]
  match s.role with
  | .die => (3 :: 4 :: up 1 2).map (fun k => (false, k, trayOf s.place, 2)) ++ [(true, 3, trayOf s.place, 2)]
  | .tray =>
    (s.treePeers ps).flatMap (fun p => both 3 p 2) ++
    dies.flatMap (fun d => (3 :: 4 :: up 1 2).map (fun k => (true, k, d, 1)) ++ [(false, 3, d, 1)]) ++
    (match s.parentPlace with
     | some p => both 3 p 3 ++ (up 2 2 ++ up 2 3).map (fun k => (false, k, p, 3))
     | none => [])
  | .span =>
    ps.flatMap (fun p => both 3 p 2 ++ (up 2 2 ++ up 2 3).map (fun k => (true, k, p, 2))) ++
    (s.otherPrimaries c).flatMap (fun p => both 3 p 3)

/-- Classes of the egress queues of a role (bit) and PEER kind. -/
def Desc.egress (d : Desc) (roleBit kind : Nat) : List Nat :=
  ((d.queues.filter (fun q => q.peer = kind ∧ q.roles.getLsbD (roleBit - 1))).map DQueue.cls).foldl (fun a k => insNat k a) []

/-! ### Lateness (R261) -/

/-- The lateness block; none without EN. -/
def lateOf (h : List Byte) : Option LateCfg :=
  let b0 := leAt h 96 1
  if b0 / 128 = 0 then none else
  some { mode := b0 / 32 % 4, rref := b0 % 16, rlp := leAt h 97 1 % 16, rln := leAt h 98 1 % 16, rofs := leAt h 99 1 % 16,
         thrAbs := leAt h 100 4, thrMul := leAt h 104 2, iqrMin := leAt h 106 2, eLat := sext 8 (leAt h 108 1),
         eOfs := sext 8 (leAt h 109 1), kd := leAt h 110 1 + 1, kt := leAt h 111 1 + 1, fidx := leAt h 112 2, lq := leAt h 114 2,
         lcut := (if leAt h 116 4 = 0 then 20000 else leAt h 116 4) }

/-- Whether the lateness block is in order (R261). That the collection is in tray and span roles is read from the ROLES of its
programs and queues (DEDUCED, log 19). -/
def Desc.lateOk (d : Desc) : Bool :=
  match lateOf d.hdr with
  | none => true
  | some g =>
    let red := fun (r : Nat) => (d.reds.find? (fun b => redRid b = r)).map (fun b => redOf b 0)
    let roles := d.progs.foldl (fun (m : BitVec 3) p => m ||| p.2) (d.queues.foldl (fun m q => m ||| q.roles) 0)
    match red g.rref, red g.rlp, red g.rln, red g.rofs with
    | some a, some p, some n, some o =>
      decide (g.mode ≠ 3) && roles.getLsbD 1 && roles.getLsbD 2 &&
      [a, p, n, o].all (fun v => decide (v.scope = o.scope ∧ 2 ≤ v.scope) && !v.dies) &&
      decide (a.els = [0x30] ∧ p.els = [0x50, 0x60] ∧ n.els = [0x51] ∧ o.els = [0x50, 0x60]) &&
      (decide (o.scope ≠ 3) || decide (o.dlv / 2 % 2 = 1 ∧ o.dlv / 4 % 2 = 1))
    | _, _, _, _ => false

/-- Whether the reduction descriptors are in order: ranges, and RIDs that differ (R223, R257). -/
def Desc.redsOk (d : Desc) : Bool :=
  d.reds.all redOk && decide ((d.reds.map redRid).Nodup)

/-! ### Taking a start's resources (R455) -/

/-- Give the ensemble slots (R308); a slot of another collection refuses the start. A D instance has no tree units and gives none; a
span instance without them neither (DEDUCED, log 17). -/
def Blk.takeSlots (s : Blk) (c : Nat) (d : Desc) : Except Nat Blk :=
  if d.ens.isEmpty then .ok s else
  if s.conf = .d ∨ (s.role ≠ .tray ∧ !s.unitsOk 1) then .ok s else
  if !s.unitsOk 1 then .error 4 else
  if d.ens.any (fun e => decide (s.slotOwner e.slot ≠ 0xFE) || (match d.queues[e.alq]? with
      | some q => decide (q.cls ≠ 0) | none => true)) then .error 0x0C
  else .ok (d.ens.foldl (fun s e => s.giveSlot c e) s)

/-- Load the feature table where FTAB asks it (R281, R283); a D instance holds none (R280). -/
def Blk.takeFtable (s : Blk) (c : Nat) (d : Desc) : Except Nat Blk :=
  if d.rights / 4 % 2 = 0 then .ok s else
  if s.conf = .d then .ok s else
  let (base, size) := s.alloc c
  s.loadTable c (slice d.hdr 128 96) base (base + size)

/-- Whether a generation may start here (R454). -/
def Blk.genOk (s : Blk) (c : Nat) (g : BitVec 16) : Bool :=
  decide ((0 : Int) < (g - (s.reg (.boot (.BOOT_Cc_LASTGEN c))).setWidth 16).toInt)

/-- Checks of a start that need no other instance (R453): allocation, partition, generation. -/
def Blk.startChecks (s : Blk) (c : Nat) (d : Desc) : Nat :=
  if fld (s.reg (.boot (.BOOT_Cc_CA_GEN c))) 15 0 ≠ d.gen.toNat then 0x0B
  else if (s.role ≠ .span ∧ d.part ≠ s.part) ∨ d.places.any (fun p => (s.partOf p).any (· ≠ d.part)) then 8
  else if !s.genOk c d.gen then 0x0A
  else if !d.redsOk then 6
  else if s.role ≠ .die ∧ !d.lateOk then 7
  else 0

/-- Take what the start of collection `c` needs at this instance; a refusal leaves nothing taken (R455, R458). -/
def Blk.takeStart (s : Blk) (c : Nat) (d : Desc) (dies : List Word) : Except Nat Blk :=
  if s.startChecks c d ≠ 0 then .error (s.startChecks c d) else
  if s.coreLost 2 then .error 0x0D else
  let (ps, s) := s.progImages c d
  ps.bind (fun ps =>
    let n := match s.conf with | .d => 1 | .a64 => max 1 d.ncl
    match s.grantPlan c ps ((d.segs.filter (fun g => s.hasRole g.roles && decide (g.region = 0))).map DSeg.size) n with
    | none => .error 2
    | some (ks, plan) =>
      (s.planSegs c d ks).bind (fun segs =>
      (s.assignQueues c d ps n).bind (fun (m, red, s) =>
      (s.loadCtxs c d m ps n plan).bind (fun s =>
      (s.takeFtable c d).bind (fun s =>
      (s.takeSlots c d).bind (fun s =>
        let s := s.modColl c (fun v => { v with
          trk := d.trk, part := d.part, level := b2n (s.role == .span), snap := decide (d.rights % 2 = 1),
          freeze := decide (d.rights / 2 % 2 = 1), ftab := decide (d.rights / 4 % 2 = 1), parts := d.places, clusters := ks,
          segs := segs, progs := ps, queues := m, rlq := d.rlq, redq := red, dies := dies, late := lateOf d.hdr, ncl := n })
        match openAll c (s.flowsOf c (d.places.filter (fun p => decide (siteOf p = siteOf s.place))) dies d.egress) s with
        | none => .error 9
        | some s => .ok s))))))

/-- Free the hardware queues of a collection: the queue registers return to reset (R332). -/
def Blk.freeQueues (s : Blk) (c : Nat) : Blk :=
  ((Store.keys s.qsc.queues).filter (fun q => s.qEn q && decide (s.qOwner q = c))).foldl (fun s q =>
    let s := [QscReg.QSC_Qq_CFG q, .QSC_Qq_CAP q, .QSC_Qq_QUANT q, .QSC_Qq_RATE q, .QSC_Qq_BURST q, .QSC_Qq_SPILL q].foldl
      (fun s r => s.setReg (.qsc r) ((Reg.qsc r).info s.conf).rst) s
    s.modQsc (fun m => { m with queues := Store.del m.queues q, active := m.active.map (fun p => (p.1, p.2.filter (· ≠ q))) })) s

/-- Free everything that a collection has taken here. -/
def Blk.freeColl (s : Blk) (c : Nat) : Blk :=
  let s := (((s.dropCtxs c).dropSlots c).dropTable c).redDrop c
  let s := (s.lateDrop c).freeQueues c
  s.leaveFlows (fun f => f.colls.contains c) (some c)

end Sys2Proof.Machine
end

