-- ==== Sys2Proof/Machine/Coll.lean ====
section
/-!
DEFINITION. The life of a running collection (R361 to R367, R459, R460): commit, acknowledgement of turns, faults and restarts,
teardown.
-/

namespace Sys2Proof.Machine

/-! ### Acknowledgement (R362) -/

/-- The results that a RECV at this instance takes: key 4 RID + level of each that DLV delivers to a queue here. -/
def Blk.ackKeys (s : Blk) (c : Nat) : List Nat :=
  (s.redsOf c).flatMap (fun r => match s.reduction c r with
    | none => []
    | some v => if (s.resultQueue c v).isSome then (s.dlvLevels v).map (fun l => 4 * r + l) else [])

/-- Whether nothing stands between turn `n` and its acknowledgement but the order of turns. -/
def Blk.turnMet (s : Blk) (c : Nat) (n : Word) : Bool :=
  let v := s.coll c
  let ack := s.reg (.err (.ERR_Cc_ACK c))
  (s.ackKeys c).all (fun k => decide (0 ≤ sdiff ((Store.look v.taken k).getD ack) n)) &&
  (s.role != .tray || v.late.isNone || ((s.lateT c n).done && Store.get 0 v.lateOut n.toNat == 0)) &&
  (!s.histOn c || (match v.histTo with | some h => decide (0 ≤ sdiff h n) | none => false))

/-- Whether the collection has none of the three things of R362. -/
def Blk.ackBare (s : Blk) (c : Nat) : Bool :=
  (s.ackKeys c).isEmpty && (s.role != .tray || (s.coll c).late.isNone) && !s.histOn c

/-- Turn `n` is acknowledged: what was kept for it goes. -/
def Blk.setAck (s : Blk) (c : Nat) (n : Word) : Blk :=
  let s := s.setReg (.err (.ERR_Cc_ACK c)) n
  let s := (s.redsOf c).foldl (fun s r => s.redPrune c r) s
  (s.latePrune c n).modColl c (fun v => { v with
    lateOut := v.lateOut.filter (fun p => decide (0 < sdiff (w32 p.1) n)),
    locs := v.locs.filter (fun p => decide (0 < sdiff (w32 p.1) n)) })

/-- Acknowledge every turn in order that has nothing left to wait for; `fuel` bounds the turns. -/
def Blk.ackRun : Nat → Blk → Nat → Blk
  | 0, s, _ => s
  | fuel + 1, s, c =>
    let n := s.reg (.err (.ERR_Cc_ACK c)) + 1
    if (s.coll c).st ≠ .running ∨ s.ackBare c ∨ !s.turnMet c n ∨ 0 < sdiff n (s.turnOf c) then s
    else Blk.ackRun fuel (s.setAck c n) c

/-- Step 7 of the boundary that opens turn `m` (R362): a collection with nothing to wait for acknowledges turn m − 2. -/
def Blk.ackBoundary (s : Blk) (c : Nat) (m : Word) : Blk :=
  if (s.coll c).st = .running ∧ s.ackBare c ∧ sdiff (s.reg (.err (.ERR_Cc_ACK c))) (m - 2) < 0 ∧
      0 ≤ sdiff (m - 2) (s.coll c).sturn then s.setAck c (m - 2)
  else s

/-- A RECV has taken a token that ends a result or a lateness token. -/
def Blk.ackTaken (s : Blk) (c : Nat) (a : Option Nat × Word) : Blk :=
  let s := s.modColl c (fun v => match a.1 with
    | some k => { v with taken := Store.put v.taken k a.2 }
    | none => { v with lateOut := Store.set 0 v.lateOut a.2.toNat (Store.get 0 v.lateOut a.2.toNat - 1) })
  Blk.ackRun 64 s c

/-! ### Stopping, and what a stop discards (R182, R363) -/

/-- The jobs of a collection that stops: what a unit has taken runs on to its end, with output and token discarded; a Fuller job that
waits for an engine is removed, and so are alarms that wait (R182, R329, R363). -/
def Blk.dropJobs (s : Blk) (c : Nat) : Blk :=
  let own := fun (j : Job) => decide (j.coll = c) && j.hist.isNone
  let kill := fun (j : Job) => if own j then { j with dead := true } else j
  let s := s.modSk (fun m => { m with jobs := m.jobs.map (fun p => (p.1, p.2.map kill)) })
  let s := s.modTre (fun m => { m with
    scored := m.scored.filter (fun p => match (Store.get [] m.jobs p.1) with | j :: _ => !own j | [] => true),
    jobs := m.jobs.map (fun p => (p.1, p.2.map kill)),
    alarms := (m.alarms.map (fun p => (p.1, p.2.filter (fun a => a.coll ≠ c)))).filter (fun p => !p.2.isEmpty) })
  let s := s.modFul (fun m => { m with
    queue := m.queue.filter (fun j => !own j),
    engines := m.engines.map (fun p => (p.1, { p.2 with job := p.2.job.map kill })) })
  (List.range s.conf.slots).foldl (fun s n => if s.slotOwner n = c then s.freeVersions n else s) s

/-- Empty a local queue: SEQ continues, slot credits stay with their slots, units of frames are freed (R363, R460). -/
def Blk.emptyQueue (s : Blk) (q : Nat) : Blk :=
  let ts := (s.q q).toks
  let s := s.modQ q (fun v => { v with toks := [] })
  let s := ts.foldl (fun s t => match t.from_ with | .frame _ _ => s.giveCredit t.from_ | _ => s) s
  s.unspill q

/-- The local queues of a collection. -/
def Blk.localQueues (s : Blk) (c : Nat) : List Nat := s.qList.filter (fun q => !s.qEgress q && decide (s.qOwner q = c))

/-! ### Restart (R363 to R367) -/

/-- Restarts within ERR_RST_WIN. -/
def Blk.rstsNow (s : Blk) (c : Nat) : List Nat :=
  (s.coll c).rsts.filter (fun t => !s.passed t (s.sec (s.reg (.err .ERR_RST_WIN)).toNat))

/-- Whether an entry of the flight window belongs to a stream of collection `c` in its generation. -/
def Blk.fwOf (s : Blk) (c : Nat) (e : FwEntry) : Bool :=
  decide (e.strm ≠ 128 ∧ e.strm / 2 = c ∧ e.gen = (s.coll c).gen.toNat)

/-- Records of the collection's streams after turn `s0` that the flight window does not hold (R364). -/
def Blk.gapCount (s : Blk) (c : Nat) (s0 : Word) : Nat :=
  ((s.rcp.srcs.filter (fun x => x.strm / 2 = c ∧ x.strm ≠ 128)).map (fun x =>
    let first := x.after s0
    let n := (x.next - first).toNat
    if 2 ^ 31 ≤ n then 0 else
    let held := (s.rcp.fwEnts.filter (fun f => s.fwOf c f && f.place == x.place && f.strm == x.strm)).map (fun f =>
      let lo := max (sdiff f.seq0 first) 0
      let hi := min (sdiff (f.seq0 + w32 f.nrec) first) n
      (hi - lo).toNat)
    n - held.sum)).sum

/-- The records of collection `c` that a frame of the flight window holds, read from XM. -/
def Blk.fwRead (s : Blk) (c : Nat) (e : FwEntry) : List Record × Blk :=
  let a := s.reg2 (.rcp .RCP_FW_BASE_HI) (.rcp .RCP_FW_BASE_LO) + e.off
  let p := s.fwPayload e
  let (_, _, s') := s.xmRead c a (16 + p.length)
  let poim := (List.range (roundUp p.length 64 / 64)).foldl (fun (m : Nat) k =>
    if s.xmBad (a + 16 + 64 * k) (min 64 (p.length - 64 * k)) then m + 2 ^ k else m) 0
  match decodeFrame { Frame.empty with payload := p, poim := BitVec.ofNat 64 poim } with
  | some (_, _, rs) => (rs, s')
  | none => ([], s')

/-- The frames of the member dies' streams from turn `st` on are delivered again from the flight window, in their order (R364). What takes
records of a collection at a tray is the lateness stage. -/
def Blk.replayFrames (s : Blk) (c : Nat) (st : Word) : Blk :=
  (s.rcp.fwEnts.filter (fun e => s.fwOf c e && (match s.rcp.srcs.find? (fun x => x.place == e.place && x.strm == e.strm) with
    | some x => decide (0 < sdiff (e.seq0 + w32 e.nrec) (x.after (st - 1)))
    | none => false))).foldl (fun s e =>
      let (rs, s) := s.fwRead c e
      rs.foldl (fun s r => if r.type = tMrk then
        s.lateStamp c e.place (w32 (uf (r.unit 0) 223 192)) r.stamp (decide (uf (r.unit 0) 229 229 = 1)) else s) s) s

/-- Replay of the record inputs from turn `st` (R364): a tray delivers again what its flight window holds; what cannot be delivered
again is counted; a die puts a GAP record ahead of its next local delivery. -/
def Blk.replay (s : Blk) (c : Nat) (st : Word) : Blk :=
  let s := if s.role = .tray then s.replayFrames c st else s
  let old := (s.coll c).locs.filter (fun p => decide (0 ≤ sdiff (w32 p.1) st))
  let nr := (old.map (fun p => p.2.1)).sum
  let no := (old.map (fun p => p.2.2.1)).sum
  let n := match s.role with | .die => nr + no | .tray => s.gapCount c (st - 1) | .span => 0
  if n = 0 then s else
  let s := (s.count (.err (.ERR_Cc_GAP c)) n).emit 0xD 0x0E0B c n
  match s.role, (old.foldl (fun l p => l.takeWhile (fun q => decide (sdiff (w32 q.1) st ≤ sdiff (w32 p.1) st)) ++ [p] ++
      l.dropWhile (fun q => decide (sdiff (w32 q.1) st ≤ sdiff (w32 p.1) st))) ([] : Store (Nat × Nat × BitVec 48 × BitVec 48))) with
  | .die, p :: t =>
    let g := mkRec tGap false (((p :: t).getLast?.map (fun x => x.2.2.2.2)).getD 0)
      ((nr % 2 ^ 32) <<< 192 + p.2.2.2.1.toNat <<< 144 + (no % 2 ^ 32) <<< 64) []
    let s := s.modColl c (fun v => { v with locs := v.locs.filter (fun p => decide (sdiff (w32 p.1) st < 0)) })
    (s.modRcp (fun x => { x with out := .loc c (s.lqOf c) (g.inStream false c) :: x.out })).drainOut
  | _, _ => s

/-- A new grant, taken when a cluster of the old one is lost (R180): the instances move with their indices; none when the
programs no longer fit. -/
def Blk.regrant (s : Blk) (c : Nat) : Option Blk :=
  let v := s.coll c
  if v.clusters.all (fun k => !(s.clu k).disabled && decide (k < max s.logical 1)) then some s else
  let olds := s.ctxsOf c
  let s' := s.dropCtxs c
  let csm := (v.segs.filter (fun g => g.2.kind == .csm)).map (fun g => g.2.size)
  match s'.grantPlan c v.progs csm v.clusters.length with
  | none => none
  | some (ks, plan) =>
    match placePieces (csmBytes s.conf) csm (s'.csmUsed c ks) with
    | none => none
    | some at_ =>
      let segs := (v.segs.foldl (fun (a : Store Segment × List Nat) g =>
        if g.2.kind == .csm then (Store.put a.1 g.1 { g.2 with base := a.2.headD 0 }, a.2.tail)
        else (Store.put a.1 g.1 g.2, a.2)) (([] : Store Segment), at_)).1
      let s' := s'.modColl c (fun v => { v with clusters := ks, segs := segs })
      some (plan.foldl (fun s sp =>
        match olds.find? (fun p => decide (p.2.prog = sp.prog ∧ p.2.inst = sp.inst)) with
        | none => s
        | some p => s.modCtxs (fun m => Store.put m (ctxNo s.conf sp.cluster sp.engine sp.ctx)
            { p.2 with cluster := sp.cluster, engine := sp.engine })) s')

/-- The contexts of a collection may issue: those of its clusters that nap ask to wake (R169, R459). -/
def Blk.wakeColl (s : Blk) (c : Nat) : Blk :=
  if (s.coll c).begun then (s.ctxsOf c).foldl (fun s p => s.wakeReq p.2.cluster) s else s

/-- Hold a collection: every context stays stopped (R367). -/
def Blk.holdColl (s : Blk) (c : Nat) : Blk :=
  (s.modColl c (fun v => { v with held := true, restarting := false })).emit 0xD 0x0E07 c (s.rstsNow c).length

/-- DXE_LOADED (R184). -/
def Blk.loadedEv (s : Blk) (c : Nat) (restart : Bool) (start : Word) : Blk :=
  s.emit 6 0x0602 (c + (s.coll c).gen.toNat <<< 16) (b2n restart <<< 32 + start.toNat)

/-- The restart of a faulted collection (R363). -/
def Blk.restart (s : Blk) (c : Nat) : Blk :=
  let st := s.reg (.err (.ERR_Cc_ACK c)) + 1
  let s := ((s.seenEnd c).forgetReqs c).dropJobs c
  let s := (s.localQueues c).foldl Blk.emptyQueue s
  let s := (s.redRestart c st).lateRestart c
  let s := s.modColl c (fun v => { v with restarting := false, start := st, taken := [], lateOut := [] })
  let s := (s.setReg (.err (.ERR_Cc_START c)) st).replay c st
  match s.regrant c with
  | none => s.holdColl c
  | some s =>
    let s := (s.ctxsOf c).foldl (fun s p => s.reloadCtx c p.1 p.2 st) s
    let s := s.wakeColl c
    ((s.loadedEv c true st).emit 0xD 0x0E06 c st.toNat).releaseWaits

/-- Whether a control core of a cluster of the collection is absent (R429). -/
def Blk.collCoreLost (s : Blk) (c : Nat) : Bool :=
  (s.coll c).clusters.any (fun k => !(s.clu k).disabled && s.coreLost (0x40 + k))

/-- Scalar register `r` and its poison. -/
def Ctx.s (x : Ctx) (r : Nat) : Dword := if r = 0 then 0 else Store.get 0 x.sreg r
def Ctx.sp (x : Ctx) (r : Nat) : Bool := r != 0 && x.spoi.getLsbD r

/-- Write scalar register `rd` of a context: s0 stays zero. -/
def Ctx.setS (x : Ctx) (rd : Nat) (v : Dword) (poi : Bool) : Ctx :=
  if rd = 0 then x else
  { x with sreg := Store.set 0 x.sreg rd v,
           spoi := if poi then x.spoi ||| BitVec.ofNat 32 (2 ^ rd) else x.spoi &&& ~~~(BitVec.ofNat 32 (2 ^ rd)) }

/-- A release from a wait in this tclk is taken back, where the context has not gone on since (R200). -/
def Ctx.unrelease (x : Ctx) (now : Nat) : Ctx :=
  match x.rel with
  | none => x
  | some r =>
    if r.at_ = now ∧ x.blocked = .no ∧ x.pc = r.pc + 4 ∧ x.retired = r.retired + 1 then
      { x.setS r.rd r.val r.poi with pc := r.pc, retired := r.retired, blocked := r.blocked, blockAt := r.blockAt, rel := none }
    else x

/-- A collection is faulted (R174, R361, R366, R367, R376). `cause` is the word of Table 12-5. A fault of a context whose control
core is absent is held until the core is back (Table 14-4). -/
def Blk.faultColl (s : Blk) (c : Nat) (cause : Word) (pc : Nat) : Blk :=
  let v := s.coll c
  if v.st ≠ .running ∨ v.held then s else
  let s := s.modCtxs (fun m => m.map (fun p => if p.2.coll = c then (p.1, p.2.unrelease s.tclk) else p))
  let eng := decide (fld cause 23 20 = 1)
  let k := match Store.look s.ctxs (fld cause 9 0) with | some x => x.cluster | none => 0
  if eng ∧ s.coreLost (0x40 + k) then
    s.setCore (0x40 + k) { s.fcore (0x40 + k) with held := (s.fcore (0x40 + k)).held ++ [(c, cause, pc)] }
  else
  let key := if eng then fld cause 9 0 else 1024
  let note := fun (s : Blk) =>
    let s := s.setReg (.err (.ERR_Cc_CAUSE c)) cause
    (if eng then s.setReg (.err (.ERR_Cc_PC c)) (w32 pc) else s).modColl c (fun v => { v with faultAt := some (s.tclk, key) })
  let again : Option Bool := match v.faultAt with
    | some (t, k) => if t = s.tclk then some (decide (key < k)) else none
    | none => none
  match again with
  | some true => note s
  | some false => s
  | none =>
    let s := ((note s).emit 0xD 0x0E05 (c + v.gen.toNat <<< 16) cause.toNat).flushReq 1 0x0E05
    let rs := s.rstsNow c
    if (s.reg (.err .ERR_RST_MAX)).toNat ≤ rs.length then (s.modColl c (fun v => { v with rsts := rs })).holdColl c
    else
      let s := (s.count (.err (.ERR_Cc_RST_CNT c)) 1).modColl c (fun v => { v with rsts := rs ++ [s.tclk] })
      if s.collCoreLost c then s.modColl c (fun v => { v with restarting := true }) else s.restart c

/-- Fault every collection with a malformed contribution in this command (R228, origin 2). -/
def Blk.redFaults (s : Blk) : Blk :=
  let bad := s.red.bad
  bad.foldl (fun s c => s.faultColl c (w32 (2 <<< 20)) 0) (s.modRed (fun m => { m with bad := [] }))

/-- An exception faults the collection of context `k` (R173, R174, Tables 5-12 to 5-14). -/
def Blk.dxFault (s : Blk) (k : Nat) (x : Ctx) (code sub addr slot : Nat) : Blk :=
  let cause := w32 (code <<< 28 + sub <<< 24 + slot)
  let s := s.blkCount k x
  let s := s.modCtxs (fun m => Store.put m k { x with blocked := .faulted, blockAt := s.tclk, got := [] })
  let s := s.count (.dxe .DXE_FLT_CNT) 1
  let s := s.setReg (.dxe .DXE_LF_CTX) (w32 (k % 1024 + x.coll <<< 16))
  let s := (s.setReg (.dxe .DXE_LF_PC) (w32 x.pc)).setReg (.dxe .DXE_LF_CAUSE) cause
  let s := s.setReg2 (.dxe .DXE_LF_ADDR_HI) (.dxe .DXE_LF_ADDR_LO) addr
  let s := (s.setReg (.dxe (.DXE_CXc_CAUSE k)) cause).setReg (.dxe (.DXE_CXc_EADDR k)) (w32 addr)
  s.faultColl x.coll (w32 (code <<< 28 + sub <<< 24 + 1 <<< 20 + k % 1024)) x.pc

/-- A job ends in a fault of its context (R172): PRIV with its subcode, at the context's pc. -/
def Blk.jobFault (s : Blk) (j : Job) (f : JobFault) : Blk :=
  match Store.look s.ctxs j.ctx with
  | none => s
  | some x => s.dxFault j.ctx x 2 f.sub f.addr 0

/-! ### Commit (R459) -/

/-- Release the contexts of a committed collection once the boundary that opens turn STURN − 1 has come. -/
def Blk.releaseColl (s : Blk) (c : Nat) : Blk :=
  let v := s.coll c
  if v.st = .running ∧ !v.begun ∧ (s.tracker v.trk).running ∧ 0 ≤ sdiff (s.turnOf c) (v.sturn - 1) then
    (s.modColl c (fun v => { v with begun := true })).wakeColl c
  else s

/-- The scheduler core assigns unassigned probe groups to a collection that starts at a die (R98). No rule says which ones: each bit of
the free value `n` stands for one group (log 61). -/
def Blk.assignGroups (s : Blk) (c n : Nat) : Blk :=
  { s with regs := (List.range 64).foldl (fun m g =>
      let r := Reg.prb (.PRB_Gg_CTRL g)
      if s.gOwner g = 0xFE ∧ n / 2 ^ g % 2 = 1 then
        Store.set (r.info s.conf).rst m (r.addr s.conf) (setFld (s.reg r) 15 8 c)
      else m) s.regs }

/-- COMMIT takes effect at this instance: trees, EXP, START, registers (R459). `d` is the descriptor's reductions and the values
of its header that are loaded now. -/
def Blk.commitColl (s : Blk) (c : Nat) (d : Desc) (sturn : Word) (excl : List Word) (owner : Nat) : Blk :=
  let s := s.modColl c (fun v => { v with
    st := .running, sturn := sturn, start := sturn, excl := excl, dies := v.dies.filter (fun p => !excl.contains p), begun := false })
  let ps := s.treeOf c sturn
  let s := (openAll c (s.flowsOf c ps (s.coll c).dies d.egress) s).getD s
  let s := d.reds.foldl (fun s b =>
    let v := redOf b 0
    s.modRed (fun m => { m with reds := Store.put m.reds (16 * c + redRid b) { v with exp := s.expOf c v.scope v.dies } })) s
  let s := (s.ctxsOf c).foldl (fun s p => s.modCtxs (fun m => Store.put m p.1 { p.2 with start := sturn })) s
  let s := s.setReg (.boot (.BOOT_Cc_LASTGEN c)) ((s.coll c).gen.setWidth 32)
  let s := (s.setReg (.err (.ERR_Cc_ACK c)) (sturn - 1)).setReg (.cpi (.CPI_Cc_OWNER c)) (w32 owner)
  let s := s.setReg (.rcp (.RCP_HIST_QUOTA c)) d.histq
  let fr := Reg.rcp (if c < 32 then .RCP_FW_FRZ_EN_LO else .RCP_FW_FRZ_EN_HI)
  let s := if (s.coll c).freeze then s.setBits fr (w32 (2 ^ (c % 32))) else s
  let s := if s.role ≠ .die then s else
    let s := s.setReg (.rcp (.RCP_ROUTE c)) d.route
    let s := s.setReg (.rcp (.RCP_LQ c)) (w32 ((Store.look (s.coll c).queues d.rlq).getD 0))
    (s.setStream (2 * c) .fresh).setStream (2 * c + 1) .fresh
  let s := (s.emit 0x14 0x1402 (c + (s.coll c).gen.toNat <<< 16) sturn.toNat).loadedEv c false sturn
  let s := s.leadCheck
  let s := (s.modColl c (fun v => { v with firstLead := (Store.look s.red.leadOf c).isSome })).releaseColl c
  if s.role ≠ .die then s else
  let (n, s) := s.draw
  s.assignGroups c n

/-! ### Teardown (R460) -/

/-- Whether a teardown of any collection is pending here. -/
def Blk.tearing (s : Blk) : Bool := s.colls.any (fun p => p.2.st == .tearing)

/-- Steps 1 and 2 of a teardown: contexts stop, and stores that nothing has made visible are lost (R153); jobs run out, slots and table are freed, local queues are emptied, tokens that wait for
them and frames that wait for the units are freed. -/
def Blk.stopColl (s : Blk) (c : Nat) : Blk :=
  let s := s.forgetReqs c
  let s := ((((s.dropJobs c).dropCtxs c).dropSlots c).dropTable c).redDrop c
  let s := s.lateDrop c
  let s := ((s.dropStaged (.rcp (.RCP_ROUTE c))).dropStaged (.rcp (.RCP_LQ c))).dropStaged (.fea (.FEA_Tc_RELOAD c))
  let qs := s.localQueues c
  let gone := s.qsc.waitIn.filter (fun e => qs.contains e.2.1)
  let s := s.modQsc (fun m => { m with waitIn := m.waitIn.filter (fun e => !qs.contains e.2.1) })
  let s := gone.foldl (fun s e => s.giveCredit e.2.2.from_) s
  let s := qs.foldl Blk.emptyQueue s
  let s := s.modFul (fun m => { m with queue := m.queue.filter (fun j => !(j.hist.isSome && decide (j.coll = c))) })
  let s := (s.qList.filter (fun q => s.qEgress q && decide (s.qOwner q = c))).foldl (fun s q =>
    s.modQ q (fun v => { v with frames := [], openToks := [], elig := none, wheel := none })) s
  let keep := fun (o : RecOut) => match o with | .loc k _ _ => decide (k ≠ c) | .frame m _ _ _ => decide (m / 2 ≠ c ∨ m = 128)
  s.modRcp (fun r => { r with
    histPend := Store.del r.histPend c,
    out := r.out.filter keep,
    srcs := r.srcs.filter (fun x => decide (x.strm / 2 ≠ c ∨ x.strm = 128)) })

/-- Whether every unit that the collection's send contexts have sent has been freed (R460, step 3). -/
def Blk.reclaimed (s : Blk) (c : Nat) : Bool :=
  s.qsc.flows.all (fun p => p.2.recv || !p.2.colls.contains c || p.2.limit == p.2.sent + w32 p.2.grant ||
    decide (0 < sdiff p.2.limit (p.2.sent + w32 p.2.grant)))

/-- Probe groups and the record route of a collection that is gone (R98, R127). -/
def Blk.dropOwned (s : Blk) (c : Nat) : Blk :=
  if s.role ≠ .die then s else
  let s := ((List.range 64).filter (fun g => s.gOwner g = c)).foldl (fun s g =>
    let r := Reg.prb (.PRB_Gg_CTRL g)
    ((groupRwb g).foldl (fun s r => s.dropStaged (.prb r)) (s.setReg r (setFld (s.reg r) 15 8 0xFE))).clearGroup g) s
  let s := (s.setReg (.rcp (.RCP_ROUTE c)) 0).setReg (.rcp (.RCP_LQ c)) 0
  (s.setStream (2 * c) .fresh).setStream (2 * c + 1) .fresh

/-- The instance's own part of a teardown is done: queues and contexts are freed (R460, steps 3 and 4). -/
def Blk.closeOwn (s : Blk) (c : Nat) (forced : Nat) : Blk :=
  let s := (s.dropOwned c).freeQueues c
  let s := s.leaveFlows (fun f => f.colls.contains c) (some c)
  s.modColl c (fun v => { v with td := v.td.map (fun t => { t with own := true, forced := forced }) })

end Sys2Proof.Machine
end

