-- ==== Sys2Proof/Machine/Span.lean ====
section
/-!
DEFINITION. Span instances of a site: peer tables (R448), rank and primary (R29, R31, R32).
-/

namespace Sys2Proof.Machine

/-- A peer never heard. -/
def Peer.fresh : Peer :=
  { m0 := none, m1 := none, role := 0, ready := false, fself := false, part := 0, grd := 0, chunks := 0, silent := false,
    down0 := false, down1 := false }

/-- Time since a peer was last heard on a network is at least `n` tclk. -/
def Blk.quiet (s : Blk) (at_ : Option Nat) (n : Nat) : Bool := match at_ with | some a => s.passed a n | none => true

/-! ### Peer tables (R448) -/

/-- Entries of a site in the peer tables, this instance included at its own. -/
def Blk.spanCount (s : Blk) (site : Nat) : Nat :=
  (s.boot.spans.filter (fun p => siteOf (w32 p.1) = site)).length + (if siteOf s.place = site then 1 else 0)

/-- Enter a span instance in the peer tables; a ninth one of a site is refused (R24). -/
def Blk.spanEnter (s : Blk) (p : Word) (f : SpanPeer → SpanPeer) : Bool × Blk :=
  if p = s.place then (false, s) else
  match Store.look s.boot.spans p.toNat with
  | some o => (true, s.modBoot (fun b => { b with spans := Store.put b.spans p.toNat (f o) }))
  | none =>
    if 8 ≤ s.spanCount (siteOf p) then (false, s)
    else (true, s.modBoot (fun b => { b with spans := Store.put b.spans p.toNat (f ⟨false, false, false, 0⟩) }))

/-- The other span instances of the own site that are in the table. -/
def Blk.siteSpans (s : Blk) : List Word :=
  (s.boot.spans.filter (fun p => siteOf (w32 p.1) = siteOf s.place)).map (fun p => w32 p.1)

/-- The payload of a TABLE frame for the own site (Table 16-7): every span instance of the site that is heard and this
one, ascending, with its flags. -/
def Blk.tablePayload (s : Blk) : List Byte :=
  let ps := s.siteSpans.foldl (fun l p => insPlace p l) [s.place]
  leBytes 4 1 ++ leBytes 4 (siteOf s.place) ++ leBytes 4 ps.length ++ ps.flatMap (fun p =>
    let o := Store.get (⟨false, false, false, 0⟩ : SpanPeer) s.boot.spans p.toNat
    let fl := if p = s.place then b2n s.boot.ready + 2 * b2n s.boot.isPrimary else b2n o.ready + 2 * b2n o.primary
    leBytes 4 p.toNat ++ leBytes 4 fl)

/-- Send the TABLE frame to the span instances of the site that `p` selects. -/
def Blk.tableTo (s : Blk) (p : SpanPeer → Bool) : Blk :=
  (s.siteSpans.filter (fun x => p (Store.get ⟨false, false, false, 0⟩ s.boot.spans x.toNat))).foldl (fun s x =>
    let s := s.sendMsg 2 x 3 ftPeer none s.tablePayload 0 none
    (s.spanEnter x (fun o => { o with sentAt := s.tclk })).2) s

/-- Contacts of the other sites (R448). -/
def Blk.contacts (s : Blk) : List Word :=
  ((List.range 8).filter (fun i => i ≠ siteOf s.place)).map (fun i => s.reg (.boot (.BOOT_SITE_SPAN i))) |>.filter
    (· ≠ 0xFFFFFFFF#32)

/-- The primary sends its site's table to the contact of every other site (R448). -/
def Blk.tableOut (s : Blk) : Blk :=
  if !s.boot.isPrimary ∨ !s.boot.ready then s else
  s.contacts.foldl (fun s x => s.sendMsg 2 x 3 ftPeer none s.tablePayload 0 none) s

/-- Span instances of the site heard with READY that have not answered this instance's table. -/
def Blk.unanswered (s : Blk) : Nat :=
  (s.siteSpans.filter (fun x =>
    let o := Store.get (⟨false, false, false, 0⟩ : SpanPeer) s.boot.spans x.toNat
    o.ready && !o.acked)).length

/-! ### Rank and primary (R29, R31, R32) -/

/-- Open the contexts of the block's own streams with a peer (R343): classes C1 to C3 and C6 in both directions, C4, which
carries the records, towards the parent, and C7, which carries pattern sets, from it (DESIGN CHOICE, log 8); none when a context or a grant is wanting. -/
def Blk.attachFlows (s : Blk) (peer : Word) (role : Nat) : Option Blk :=
  let up := decide (roleCode s.role < role)
  [(false, 1), (true, 1), (false, 2), (true, 2), (false, 3), (true, 3), (!up, 4), (false, 6), (true, 6), (up, 7)].foldl (fun (a : Option Blk) x =>
    a.bind (fun s => s.openFlow x.1 x.2 peer role 0 none)) (some s)

/-- Send the PRIMARY frame to every tray of the directory and every span instance of the site (R32). -/
def Blk.sendPrimary (s : Blk) : Blk :=
  let body := leBytes 4 3 ++ leBytes 4 s.place.toNat ++ leBytes 4 (match s.boot.primary with | some p => p.2.toNat | none => 0)
  let s := (Store.keys s.boot.trays).foldl (fun s t => s.sendMsg 1 (w32 t) 2 ftPeer none body 0 none) s
  let s := s.siteSpans.foldl (fun s p => s.sendMsg 1 p 3 ftPeer none body 0 none) s
  s.modBoot (fun b => { b with primAt := s.tclk })

/-- Become primary of the site (R31, R32): a new epoch, the contexts with the trays of the directory, the PRIMARY frame, the
table to the other sites, and the results not yet acknowledged. -/
def Blk.becomePrimary (s : Blk) : Blk :=
  if s.boot.isPrimary then s else
  let e := s.boot.epochMax + 1
  let s := s.modBoot (fun b => { b with isPrimary := true, epochMax := e, primary := some (s.place, e) })
  let s := (Store.keys s.boot.trays).foldl (fun s t => (s.attachFlows (w32 t) 2).getD s) s
  s.sendPrimary.tableOut.resendUp.leadCheck

/-- The primaries of the eight sites as this instance knows them, and what it does when they have changed: what they have not
acknowledged is sent again, and the lead is decided afresh (R31, R240, R243). -/
def Blk.primaries (s : Blk) : List (Option Word) := (List.range 8).map s.primaryOf
def Blk.newPrimaries (s : Blk) (old : List (Option Word)) : Blk := (if s.primaries = old then s else s.resendUp).leadCheck

/-- A ready span instance becomes primary when it is the first in rank that is ready, not fenced and not silent (R29). -/
def Blk.rankCheck (s : Blk) : Blk :=
  if s.hlt.fencedSelf then s.modBoot (fun b => { b with isPrimary := false }) else
  if s.role ≠ .span ∨ !s.boot.ready then s else
  let above := s.siteSpans.any (fun x => decide (x.toNat < s.place.toNat) && !s.hlt.fenced.contains x &&
    (Store.get (⟨false, false, false, 0⟩ : SpanPeer) s.boot.spans x.toNat).ready)
  if above then s else s.becomePrimary

/-- A heartbeat of a span instance of the own site has been heard (R448); the rank is decided anew (R29). -/
def Blk.spanHeard (s : Blk) (p : Word) (ready : Bool) : Blk :=
  if s.role = .span ∧ siteOf p = siteOf s.place then (s.spanEnter p (fun o => { o with ready := ready })).2.rankCheck else s

end Sys2Proof.Machine
end

