-- ==== Sys2Proof/Machine/Health.lean ====
section
/-!
DEFINITION. The health unit (R385 to R411): suspicion from digests, field tests, the watch list, unit history, guard
groups, heartbeats, the fence vote and fences. Operations first, then one meaning for each of its commands.
-/

namespace Sys2Proof.Machine

/-- One day in tk and in seconds. -/
def tkDay : Nat := 86400 * tkSec

def Blk.hltCtl (s : Blk) (i : Nat) : Bool := bit (s.reg (.hlt .HLT_CTRL)) i

/-- Whether the tray decides on failures itself (R398). -/
def Blk.alone (s : Blk) : Bool := s.hltCtl 4 || s.parentPlace.isNone

/-- Send to the site's primary span instance in class C6 (R397). -/
def Blk.toPrimary (s : Blk) (payload : List Byte) : Blk :=
  match s.parentPlace with
  | some p => if s.role = .tray then s.sendMsg 6 p 3 ftHealth none payload 0 none else s
  | none => s

/-! ### History records (R397, Tables 13-3 and 13-4) -/

/-- The bytes of a history record. -/
def Blk.histBytes (s : Blk) (type ent d0 d1 : Nat) (rseq : Word) : List Byte :=
  let (utcS, ns, _) := s.utc s.t64
  leBytes 32 (type <<< 248 + ent <<< 200 + utcS.toNat <<< 160 + ns.toNat <<< 130 + d1 <<< 64 + d0 <<< 32 + rseq.toNat)

/-- Fields of a history record. -/
def recType (b : List Byte) : Nat := leAt b 31 1
def recEnt (b : List Byte) : Nat := leNat (slice b 0 32) >>> 200 % 2 ^ 48
def recD0 (b : List Byte) : Nat := leAt b 4 4
def recD1 (b : List Byte) : Nat := leAt b 8 8
def recRseq (b : List Byte) : Word := w32 (leAt b 0 4)
def recUtc (b : List Byte) : Nat := leNat (slice b 0 32) >>> 160 % 2 ^ 40

/-- Whether a record also goes to the primary span instance: DIGEST, TEST with FAIL, CE, WATCH_IN and WATCH_OUT. -/
def recUp (type d0 : Nat) : Bool := decide (type = 2 ∨ (type = 1 ∧ d0 % 16 = 3) ∨ type = 3 ∨ type = 4 ∨ type = 5)

/-- The tray writes a history record: into the ring in XM, into the flash log, and to the primary span instance (R397). -/
def Blk.histRec (s : Blk) (type ent d0 d1 : Nat) : Blk :=
  let b := s.histBytes type ent d0 d1 s.hlt.rseq
  let ring := fld (s.reg (.hlt .HLT_HIST_SIZE)) 15 0 * 2 ^ 20
  let s := if ring = 0 then s else
    (s.xmWrite (s.reg2 (.hlt .HLT_HIST_BASE_HI) (.hlt .HLT_HIST_BASE_LO) + s.hlt.histOff) b false).modHlt
      (fun h => { h with histOff := (h.histOff + 32) % ring })
  let log := fld (s.reg (.hlt .HLT_FLOG_SIZE)) 23 0 * 1024
  let s := if log = 0 then s else
    let at_ := (s.reg (.hlt .HLT_FLOG_BASE)).toNat + s.hlt.flogOff
    ((s.modMem (fun m => { m with flash := Mem.wrN m.flash at_ b })).modHlt
        (fun h => { h with flogOff := (h.flogOff + 32) % log })).setBusy Domain.flash
  let s := s.modHlt (fun h => { h with rseq := h.rseq + 1 })
  if recUp type d0 then s.toPrimary (leBytes 4 1 ++ b) else s

/-! ### The watch list (R393 to R395) -/

/-- Make a field test of a tested entity due at once (R385, R389). -/
def Blk.dueNow (s : Blk) (ent : Nat) : Blk :=
  s.modHlt (fun h => match Store.look h.due ent with
    | some d => { h with due := Store.put h.due ent { d with now := true } }
    | none => h)

/-- Take an entry off the list, with its WATCH_OUT record and event. -/
def Blk.watchLeave (s : Blk) (ent : Nat) (early retired : Bool) : Blk :=
  match Store.look s.hlt.watch ent with
  | none => s
  | some w =>
    let s := s.modHlt (fun h => { h with watch := Store.del h.watch ent })
    let s := s.histRec 5 ent (b2n early + 2 * b2n retired + (min w.clean 255) <<< 8) 0
    s.emit 0x10 0x1004 ent (b2n early + 2 * b2n retired)

/-- The non-permanent entry with the most clean days, the lower entity among equals (R395). -/
def Blk.watchVictim (s : Blk) : Option Nat :=
  (s.hlt.watch.foldl (fun (b : Option (Nat × Nat)) p =>
    if p.2.perm then b else match b with
      | none => some (p.1, p.2.clean)
      | some (e, c) => if c < p.2.clean then some (p.1, p.2.clean) else some (e, c)) none).map Prod.fst

/-- Put an entity on the watch list (R393, R395); reason 1 naming, 2 FAIL, 3 CE, 4 host. -/
def Blk.watchIn (s : Blk) (ent reason : Nat) : Blk :=
  if (Store.look s.hlt.watch ent).isSome || s.hlt.retired.contains ent then s else
  let put := fun (s : Blk) =>
    let s := s.modHlt (fun h => { h with watch := (Store.put h.watch ent
      { perm := false, clean := 0, since := s.cal, pass := false, bad := false }) })
    ((s.histRec 4 ent reason 0).emit 0x10 0x1003 ent reason).dueNow ent
  if s.hlt.watch.length < 4096 then put s else
  match s.watchVictim with
  | some v => put (s.watchLeave v true false)
  | none => (s.modHlt (fun h => { h with wlFull := true })).emit 0x10 0x1009 ent 0

/-- A FAIL, naming or excess report of a listed entity: its clean days and its 24 h period begin again (R394). -/
def Blk.watchBad (s : Blk) (ent : Nat) : Blk :=
  s.modHlt (fun h => match Store.look h.watch ent with
    | some w => { h with watch := Store.put h.watch ent { w with clean := 0, since := s.cal, pass := false, bad := false } }
    | none => h)

/-! ### Failures (R398) -/

/-- Book a failure at the deciding instance: a CLASS record, and, when it makes the unit permanent, a RETIRE_PROP record and
event. `keep` bounds the table; the records formed are answered for the instance's own use. -/
def Blk.failure (s : Blk) (ent at_ : Nat) : List (Nat × Nat × Nat) × Blk :=
  let win := fld (s.reg (.hlt .HLT_PERM)) 31 16 * 86400
  let n := fld (s.reg (.hlt .HLT_PERM)) 15 0
  let live := s.hlt.fails.filter (fun p => match p.2.getLast? with | some t => decide (at_ ≤ t + win) | none => false)
  let old := (Store.get [] live ent).filter (fun t => decide (at_ ≤ t + win))
  let ts := old ++ [at_]
  let live := if live.length < 131072 || (Store.look live ent).isSome then live else
    match (live.foldl (fun (b : Option (Nat × Nat)) p =>
      let t := (p.2.getLast?).getD 0
      match b with | none => some (p.1, t) | some (e, u) => if t < u then some (p.1, t) else some (e, u)) none) with
    | some (e, _) => Store.del live e
    | none => live
  let s := s.modHlt (fun h => { h with fails := Store.put live ent ts })
  let perm := decide (n ≤ ts.length)
  let cls := (6, b2n perm + (min ts.length 15) <<< 4, ts.headD at_)
  if perm && decide (old.length < n) then
    ([cls, (7, ts.length, s.place.toNat)], s.emit 0x10 0x1005 ent ts.length)
  else ([cls], s)

/-- A tray alone decides from its own history; a tray with a span instance leaves the decision to it (R398). -/
def Blk.trayFailure (s : Blk) (ent : Nat) : Blk :=
  if !s.alone then s else
  let (rs, s) := s.failure ent (s.utc s.t64).1.toNat
  rs.foldl (fun s r =>
    let s := s.histRec r.1 ent r.2.1 r.2.2
    if r.1 = 7 ∨ r.2.1 % 2 = 1 then
      s.modHlt (fun h => match Store.look h.watch ent with
        | some w => { h with watch := Store.put h.watch ent { w with perm := true } }
        | none => h)
    else s) s

/-! ### Digests (R385, R386) -/

/-- One naming of an engine entity by a mismatch. -/
def Blk.nameEngine (s : Blk) (ent partner : Nat) (replayed : Bool) (digO digR : Word) : Blk :=
  let rep := match Store.look s.hlt.named ent with
    | some t => decide (s.cal ≤ t + ((s.reg (.hlt .HLT_REPEAT)).toNat * tkSec : Nat))
    | none => false
  let s := s.modHlt (fun h => { h with named := Store.put h.named ent s.cal })
  let s := s.histRec 2 ent (partner % 512 + (b2n replayed) <<< 9 + (b2n rep) <<< 10) (digO.toNat <<< 32 + digR.toNat)
  let s := s.emit 0x10 0x1001 ent (partner % 512 + (b2n rep) <<< 10)
  let s := ((s.watchBad ent).watchIn ent 1).dueNow ent
  if rep then s.trayFailure ent else s

/-- A tray takes a DIG record of a member die (R385): outcome 1 MATCH, 2 MISMATCH, 3 NOORIG as its record gives it. -/
def Blk.digest (s : Blk) (die : Word) (mismatch noorig : Bool) (chO chR : Nat) (digO digR : Word) : Blk :=
  if noorig then s.count (.hlt .HLT_DIG_NOORIG) 1
  else if !mismatch then s.count (.hlt .HLT_DIG_OK) 1
  else
    let s := s.nameEngine (entity die 2 chO) chR (decide (chO = chR)) digO digR
    if chO = chR then s else s.nameEngine (entity die 2 chR) chO true digO digR

/-! ### Field tests of a die (R390 to R392) -/

/-- The hottest valid thermal input selected for a channel (R390). -/
def Blk.hotOf (s : Blk) (chan : Nat) : Option Int :=
  let sel := fun i => bit (s.reg (.hlt (if i < 32 then .HLT_TEMP_MAP_LO chan else .HLT_TEMP_MAP_HI chan))) (i % 32)
  (List.range 64).foldl (fun (m : Option Int) i =>
    match Store.look s.prb.sensors i with
    | some v =>
      if sel i && v.valid then
        match m with | none => some v.value.toInt | some x => some (max x v.value.toInt)
      else m
    | none => m) none

/-- Whether an ordered test of a channel may be placed now, heat apart: tests enabled, no emergency, no manual stress, a
set held, the channel tested and not under test, a slot free (R390, R392, R470). -/
def Blk.mayPlace (s : Blk) (chan : Nat) : Bool :=
  decide (s.role = .die) && s.hltCtl 0 && !s.pwr.emerg && s.hlt.manual.isNone && s.hlt.patSet.isSome &&
  decide (chan < 512) && decide (fld (s.reg (.hlt (.HLT_ETYPE chan))) 15 0 ≠ 0) &&
  !(s.hlt.tests.any (fun t => t.2.chan = chan)) && decide (s.hlt.tests.length < 8)

/-- Raise the test request in the lowest free slot, with both stress lines (R391). -/
def Blk.placeTest (s : Blk) (chan : Nat) (cool : Bool) : Blk :=
  match s.hlt.patSet, freeKey s.hlt.tests 8 0 with
  | some p, some k =>
    s.modHlt (fun h => { h with tests := (Store.put h.tests k
      { chan := chan, v := true, f := true, setId := p.setId, exp := p.exp, len := 64 + p.len, cool := cool,
        at_ := s.tclk, gntAt := none }) })
  | _, _ => s

/-- A test ends: the die drops request and stress lines and reports the result to its tray as a TEST record (R391, R392). -/
def Blk.endTest (s : Blk) (k result reason : Nat) (sig : Dword) : Blk :=
  match Store.look s.hlt.tests k with
  | none => s
  | some t =>
    let s := s.modHlt (fun h => { h with tests := Store.del h.tests k })
    let d0 := result + reason <<< 4 + (b2n t.cool) <<< 8 + (t.setId % 65536) <<< 16
    s.sendMsg 6 (trayOf s.place) 2 ftHealth none
      (leBytes 4 1 ++ s.histBytes 1 (entity s.place 2 t.chan) d0 sig.toNat 0) 0 none

/-- Every test of the die ends ABORT with a reason, and the stress lines drop (R392, R425, R429). -/
def Blk.abortTests (s : Blk) (reason : Nat) : Blk :=
  let s := s.modHlt (fun h => { h with manual := none })
  (Store.keys s.hlt.tests).foldl (fun s k => s.endTest k 4 reason 0) s

/-! ### The tray's schedule (R388, R389) -/

/-- When a tested engine is due (R389): at once when named or listed anew; else after the retry, watch or normal interval. -/
def Blk.dueAt (s : Blk) (ent : Nat) (d : DueT) : Int :=
  if d.now then d.ended else
  d.ended + ((if d.retry then (s.reg (.hlt .HLT_RETRY)).toNat
    else if (Store.look s.hlt.watch ent).isSome then (s.reg (.hlt .HLT_INT_WATCH)).toNat
    else (s.reg (.hlt .HLT_INT_NORM)).toNat) * tkSec : Nat)

/-- Tests ordered at a die. -/
def Blk.ordersAt (s : Blk) (place : Word) : Nat :=
  (s.hlt.due.filter (fun p => p.2.order && entPlace p.1 == place)).length

/-- Whether the tray may order a test of an entity now: its engine is tested, a member, due, and its die has room. -/
def Blk.mayOrder (s : Blk) (ent : Nat) (d : DueT) : Bool :=
  !d.order && !s.hlt.retired.contains ent && s.boot.members.contains (entPlace ent) && decide (s.dueAt ent d ≤ s.cal) &&
  decide (s.ordersAt (entPlace ent) < max 1 (min 8 (fld (s.reg (.hlt .HLT_MAXPAR)) 3 0)))

/-- The test that comes first: ascending due time, then ascending entity (R389). -/
def Blk.firstDue (s : Blk) : Option Nat :=
  (s.hlt.due.foldl (fun (b : Option (Nat × Int)) p =>
    if !s.mayOrder p.1 p.2 then b else
    let t := s.dueAt p.1 p.2
    match b with
    | none => some (p.1, t)
    | some (e, u) => if t < u then some (p.1, t) else some (e, u)) none).map Prod.fst

/-- The first directory entry of an engine type: offset and SETID (R388). -/
def Blk.patEntry (s : Blk) (etype : Nat) : Nat → Nat → Option (Nat × Nat)
  | 0, _ => none
  | n + 1, at_ =>
    let b := Mem.rdN s.mem.flash at_ 8
    if leAt b 0 4 = 0 then none
    else if leAt b 6 2 = etype then some (leAt b 0 4, leAt b 4 2)
    else Blk.patEntry s etype n (at_ + 8)

/-- A tray books a test's end (R389, R392, R394): due time, clean day, watch list and failure. -/
def Blk.testEnded (s : Blk) (ent d0 d1 : Nat) : Blk :=
  let res := d0 % 16
  let s := s.histRec 1 ent d0 d1
  let s := s.modHlt (fun h => match Store.look h.due ent with
    | some _ => { h with due := (Store.put h.due ent
        { ended := s.cal, now := false, retry := decide (res = 4 ∨ res = 5), order := false }) }
    | none => h)
  let s := if res = 1 ∨ res = 2 then s.countFld (.hlt .HLT_TEST_CNT) 15 0 1
           else if res = 3 then s.countFld (.hlt .HLT_TEST_CNT) 31 16 1 else s
  if res = 1 then
    s.modHlt (fun h => match Store.look h.watch ent with
      | some w => { h with watch := Store.put h.watch ent { w with pass := true } }
      | none => h)
  else if res = 3 then
    let s := s.emit 0x10 0x1002 ent (res + (d0 / 256 % 2) <<< 8 + (d0 >>> 16) <<< 16)
    ((s.watchBad ent).watchIn ent 2).trayFailure ent
  else s

/-- A die ceases to be a member (R26): its tests end ABORT reason 4 (R392), and no turn waits for it any more. -/
def Blk.memberGone (s : Blk) (place : Word) : Blk :=
  if !s.boot.members.contains place then s else
  let s := { s with boot := { s.boot with members := s.boot.members.filter (· ≠ place) } }
  let s := s.leaveFlows (fun f => f.peer == place && f.peerRole == 1) none
  let es := (s.hlt.due.filter (fun p => p.2.order && entPlace p.1 == place)).map Prod.fst
  (es.foldl (fun s e => s.testEnded e (4 + 4 <<< 4) 0) s).dieLeft

/-! ### Guard groups (R399 to R402) -/

/-- Places of the group by rank. -/
def Blk.grdMem (s : Blk) : List Word := (List.range 12).map (fun r => s.reg (.hlt (.HLT_GRD_MEM r)))
def Blk.grdRank (s : Blk) (p : Word) : Option Nat := placeIx s.grdMem p

/-- Whether the group is valid (R399): twelve distinct trays of one site in ascending order, this one among them, and every
other member advertising the same group and chunk count. -/
def Blk.grdValid (s : Blk) : Bool :=
  let ms := s.grdMem
  ascending ms && ms.all (fun p => decide (siteOf p = siteOf s.place)) && ms.contains s.place &&
  ms.all (fun p => p == s.place || match Store.look s.hlt.peers p.toNat with
    | some v => decide (v.grd = fld (s.reg (.hlt .HLT_GRD_ID)) 11 0) && (v.chunks == s.reg (.hlt .HLT_GRD_CHUNKS))
    | none => false)

/-- Bring GRD_INVALID up to date (R399). -/
def Blk.grdCheck (s : Blk) : Blk :=
  s.modHlt (fun h => { h with grdInvalid := s.hltCtl 3 && !s.grdValid })

/-- Doubling in GF(2^8) modulo x^8 + x^4 + x^3 + x^2 + 1 (R400). -/
def gfDouble (b : Byte) : Byte := if b.getLsbD 7 then (b <<< 1) ^^^ 0x1D#8 else b <<< 1
/-- g^k times a byte, with g = 0x02. -/
def gfMulG : Nat → Byte → Byte
  | 0, b => b
  | k + 1, b => gfMulG k (gfDouble b)

/-- Whether a rank is a data member at a stripe offset t (R400). -/
def grdData (r t : Nat) : Bool := decide (t % 12 ≠ r ∧ (t + 1) % 12 ≠ r)
/-- Stripe of chunk `n` of rank `r` (R400). -/
def grdStripe (r n : Nat) : Nat :=
  12 * (n / 10) + ((List.range 12).filter (grdData r)).getD (n % 10) 0
/-- Index k of rank `r` among the data members of a stripe. -/
def grdK (r st : Nat) : Nat := ((List.range r).filter (fun x => grdData x (st % 12))).length
/-- Byte address of this holder's parity chunk of a stripe (DESIGN CHOICE, log 9): P and Q of a cycle in turn. -/
def Blk.grdParity (s : Blk) (st : Nat) (q : Bool) : Nat :=
  s.reg2 (.hlt .HLT_GRD_PAR_BASE_HI) (.hlt .HLT_GRD_PAR_BASE_LO) + 4096 * (2 * (st / 12) + b2n q)

/-- XM addresses of the chunks of the guarded regions, in order (R399, R400). -/
def Blk.grdChunks (s : Blk) : List Nat :=
  (List.range 8).flatMap (fun i =>
    let base := s.reg2 (.hlt (.HLT_GRD_SRC_HI i)) (.hlt (.HLT_GRD_SRC_LO i))
    (List.range (s.reg (.hlt (.HLT_GRD_SRC_LEN i))).toNat).map (fun n => base + 4096 * n))

def zeros4k : List Byte := List.replicate 4096 0

/-- The payload of a delta, acknowledgement or commit (the spec gives no layout; DESIGN CHOICE, log 9). -/
def deltaHead (kind chunk k : Nat) (q : Bool) (half : Nat) (epoch : Word) : List Byte :=
  leBytes 4 kind ++ leBytes 4 chunk ++ leBytes 4 (k + (b2n q) <<< 4 + half <<< 8) ++ leBytes 4 epoch.toNat

/-- Half `i` of a chunk. -/
def halfChunk (b : List Byte) (i : Nat) : List Byte := slice b (2048 * i) 2048

/-- A member ends an epoch: deltas of the changed chunks go to the holders of P and Q (R401). -/
def Blk.guardEpoch (s : Blk) : Blk :=
  let s := s.grdCheck
  match s.grdRank s.place with
  | none => s
  | some r =>
    if !s.hltCtl 3 || s.hlt.grdInvalid || !s.hlt.awaited.isEmpty then s else
    let ep := s.hlt.epoch + 1
    let cs := s.grdChunks
    let cs := cs.take (s.reg (.hlt .HLT_GRD_CHUNKS)).toNat
    let ds := (List.range cs.length).filterMap (fun n =>
      let now := Mem.rdN s.mem.xm (cs.getD n 0) 4096
      let old := Store.get zeros4k s.hlt.shadow n
      if now = old then none else some (n, now, List.zipWith (· ^^^ ·) old now))
    let s := s.modHlt (fun h => { h with epoch := ep, flight := ds.map (fun d => (d.1, d.2.1)), holders := [] })
    let s := ds.foldl (fun s d =>
      let st := grdStripe r d.1
      let k := grdK r st
      let ms := s.grdMem
      [(ms.getD (st % 12) 0, false), (ms.getD ((st + 1) % 12) 0, true)].foldl (fun s h =>
        [0, 1].foldl (fun s i =>
          let s := s.sendMsg 6 h.1 2 ftHealth none (deltaHead 2 d.1 k h.2 i ep ++ halfChunk d.2.2 i) 0 none
          s.modHlt (fun x => { x with awaited := x.awaited ++ [(h.1, 2 * d.1 + i)], holders := insPlace h.1 x.holders }))
          s) s) s
    if ds.isEmpty then s.modHlt (fun h => { h with cepoch := ep }) else s

/-! ### Heartbeats, votes and fences (R403 to R409) -/

/-- The 64-byte payload of a heartbeat (Table 13-5). -/
def Blk.heartbeat (s : Blk) (net : Nat) : List Byte :=
  let own := s.hlt.own
  let va := own.getD 0 0
  let vb := own.getD 1 0
  let na := decide (0 < own.length)
  let nb := decide (1 < own.length)
  leBytes 2 0x4842 ++
    leBytes 1 (roleCode s.role + 4 * b2n s.boot.ready + 8 * b2n s.hlt.fencedSelf + 16 * b2n na + 32 * b2n nb) ++
    leBytes 1 net ++ leBytes 4 s.place.toNat ++ leBytes 2 s.part ++ leBytes 2 (fld (s.reg (.hlt .HLT_GRD_ID)) 11 0) ++
    leBytes 4 s.hlt.hseq.toNat ++ leBytes 8 s.t64.toNat ++ leBytes 4 va.toNat ++ leBytes 4 vb.toNat ++
    leBytes 4 (s.reg (.hlt .HLT_GRD_CHUNKS)).toNat ++ leBytes 4 s.hlt.cepoch.toNat ++ leBytes 24 0

/-- The 64-byte payload of a notice (Table 13-8). -/
def Blk.noticeBytes (s : Blk) (n : Notice) (net : Nat) : List Byte :=
  leBytes 2 0x464E ++ leBytes 1 (b2n n.op + 2 * b2n n.vote) ++ leBytes 1 net ++ leBytes 4 s.place.toNat ++
    leBytes 2 n.part ++ leBytes 2 (fld (s.reg (.hlt .HLT_GRD_ID)) 11 0) ++ leBytes 4 n.nseq.toNat ++
    leBytes 8 n.t64.toNat ++ leBytes 4 n.target.toNat ++ leBytes 36 0

/-- Drive a frame on M0 or M1 (R483): HLT_HB_DMAC, tl_mn_sa, HLT_HB_ETYPE, payload. -/
def Blk.mgmtSend (s : Blk) (net : Nat) (payload : List Byte) : Blk :=
  let dmac := s.reg2 (.hlt .HLT_HB_DMAC_HI) (.hlt .HLT_HB_DMAC_LO)
  let sa := if net = 0 then s.inst.macs.1 else s.inst.macs.2
  let et := fld (s.reg (.hlt .HLT_HB_ETYPE)) 15 0
  let be := fun (n v : Nat) => (leBytes n v).reverse
  { s with port := { s.port with mgmt := s.port.mgmt ++ [(net, be 6 dmac ++ be 6 sa ++ be 2 et ++ payload)] } }

def Blk.mgmtClear (s : Blk) : Blk := { s with port := { s.port with mgmt := [] } }

/-- A heartbeat on both networks (R403). -/
def Blk.sendHeartbeat (s : Blk) : Blk :=
  let s := (s.mgmtSend 0 (s.heartbeat 0)).mgmtSend 1 (s.heartbeat 1)
  s.modHlt (fun h => { h with hseq := h.hseq + 1 })

/-- Broadcast EFFECTIVE for a fenced participant down both trees, as the crown that hears the notice (R408): to the children in both
trees, to the other tree's crown, which starts it down that tree, and, where the collection has a reduction of fleet scope, to the
site's primary span instance, which uses the trees too (R232; DEDUCED, log 55). -/
def Blk.sendEffective (s : Blk) (y : Word) : Blk :=
  (Store.keys s.colls).foldl (fun s c =>
    let v := s.coll c
    let ps := s.parts c
    let me := s.place
    let crown := crownIn ps false == some me || (crownIn ps true == some me && crownIn ps false == some y)
    if v.st ≠ .running ∨ s.role ≠ .tray ∨ !v.parts.contains y ∨ !crown then s else
    let n := s.turnOf c + 2
    let body := leBytes 4 0xA ++ leBytes 4 y.toNat ++ leBytes 4 n.toNat
    let kids := ((kidsIn ps false me ++ kidsIn ps true me ++ (crownIn ps true).toList).filter (fun p => p ≠ me ∧ p ≠ y)).foldl
      (fun l p => insPlace p l) []
    let s := kids.foldl (fun s p => s.sendMsg 2 p 2 ftCollctl (some (c, v.gen)) body 0 none) s
    let wide := (s.redsOf c).any (fun r => (s.reduction c r).any (fun v => decide (v.scope = 3)))
    let s := match s.parentPlace with
      | some p => if wide then s.sendMsg 2 p 3 ftCollctl (some (c, v.gen)) body 0 none else s
      | none => s
    s.modColl c (fun v => { v with gone := v.gone ++ [(y, n)] })) s

/-- Apply a fence or a lift (R37, R406, R407, R409); one already applied is counted and does nothing more. -/
def Blk.applyFence (s : Blk) (fence : Bool) (y : Word) (vote : Bool) : Blk :=
  let s := s.count (.hlt .HLT_FENCE_CNT) 1
  if s.hlt.fenced.contains y = fence then s else
  let s := s.modHlt (fun h => { h with
    fenced := if fence then insPlace y h.fenced else h.fenced.filter (· ≠ y),
    fencedSelf := if y = s.place then fence else h.fencedSelf,
    own := h.own.filter (· ≠ y) })
  let s := s.emit 0x10 0x1006 y.toNat (b2n fence + 2 * b2n vote)
  if fence then ((s.memberGone y).sendEffective y).rankCheck.leadCheck else s.leadCheck

/-- Send a fence or lift notice for the partition of the place on M0, M1 and in class C2; this instance applies it where it is of
that partition, or a span instance, and else remembers that it has been fenced (R37, R406, R407, R409). -/
def Blk.sendFence (s : Blk) (fence : Bool) (y : Word) (vote : Bool) : Blk :=
  let part := (s.partOf y).getD s.part
  let n : Notice := { op := fence, vote := vote, target := y, part := part, nseq := s.hlt.nseq, t64 := s.t64, left := 2 }
  let s := s.modHlt (fun h => { h with nseq := h.nseq + 1, notices := h.notices ++ [n] })
  let s := if s.role = .die then s else
    (s.mgmtSend 0 (s.noticeBytes n 0)).mgmtSend 1 (s.noticeBytes n 1)
  let body := leBytes 4 (b2n fence) ++ leBytes 4 y.toNat ++ leBytes 4 (b2n vote)
  let s := s.knownPeers.foldl (fun s p => s.sendMsg 2 p.1 p.2 ftFence none body 0 none) s
  if s.role = .span ∨ part = s.part then s.applyFence fence y vote
  else (s.count (.hlt .HLT_FENCE_CNT) 1).modHlt (fun h => { h with
    fencedOut := (if fence then insPlace y h.fencedOut else h.fencedOut.filter (· ≠ y)), own := h.own.filter (· ≠ y) })

/-- Whether a place has been fenced, here or in its own partition. -/
def Blk.isFenced (s : Blk) (p : Word) : Bool := s.hlt.fenced.contains p || s.hlt.fencedOut.contains p

/-- Members of the guard group that can vote: not fenced. -/
def Blk.voters (s : Blk) : List Word := s.grdMem.filter (fun p => !s.isFenced p)

/-- Distinct members that have voted for `y` within the window, `y` itself never (R405). -/
def Blk.votesFor (s : Blk) (y : Word) : Nat :=
  let win := s.ms (fld (s.reg (.hlt .HLT_VOTE)) 15 0)
  (s.voters.filter (fun p => p != y && s.hlt.votes.any (fun v => v.voter == p && v.target == y &&
    !s.passed v.at_ (win + 1)))).length

/-- Count the votes for `y`: enough fence it; a group with too few voters raises HLT_GRD_LOST (R405). -/
def Blk.tally (s : Blk) (y : Word) : Blk :=
  let thr := fld (s.reg (.hlt .HLT_VOTE)) 19 16
  if !s.hltCtl 2 ∨ s.isFenced y ∨ !s.grdMem.contains y then s
  else if (s.voters.filter (· ≠ y)).length < thr then
    if s.hlt.grdLost then s else
    (s.modHlt (fun h => { h with grdLost := true })).emit 0x10 0x1008 (fld (s.reg (.hlt .HLT_GRD_ID)) 11 0)
      (12 - (s.voters.filter (· ≠ y)).length)
  else if thr ≤ s.votesFor y then s.sendFence true y true
  else s

/-- Book votes of a member, newest time for each target. -/
def Blk.bookVotes (s : Blk) (voter : Word) (ys : List Word) : Blk :=
  let win := s.ms (fld (s.reg (.hlt .HLT_VOTE)) 15 0)
  let keep := s.hlt.votes.filter (fun v => !s.passed v.at_ (win + 1) && !(v.voter == voter))
  let s := s.modHlt (fun h => { h with votes := keep ++ ys.map (fun y => ⟨voter, y, s.tclk⟩) })
  ys.foldl Blk.tally s

def Blk.silentTime (s : Blk) : Nat := s.ms (fld (s.reg (.hlt .HLT_HB_SILENT)) 7 0)

/-- One heartbeat period for one peer: missed heartbeats are counted and a network that is down for a peer still heard on the
other is raised once (R404). -/
def Blk.hbPeriod (s : Blk) (pk : Nat) : Blk :=
  match Store.look s.hlt.peers pk with
  | none => s
  | some p =>
    if p.silent then s else
    let q0 := s.quiet p.m0 (s.ms 1)
    let q1 := s.quiet p.m1 (s.ms 1)
    let s := if q0 then s.count (.hlt .HLT_HB_MISS0) 1 else s
    let s := if q1 then s.count (.hlt .HLT_HB_MISS1) 1 else s
    let d0 := s.quiet p.m0 s.silentTime && !s.quiet p.m1 s.silentTime
    let d1 := s.quiet p.m1 s.silentTime && !s.quiet p.m0 s.silentTime
    let s := if d0 && !p.down0 then s.emit 0x10 0x1007 pk 0 else s
    let s := if d1 && !p.down1 then s.emit 0x10 0x1007 pk 1 else s
    s.modHlt (fun h => { h with peers := Store.put h.peers pk { p with down0 := d0, down1 := d1 } })

/-! ### Meanings -/

/-- TEST_DUE (R389): the tray orders the test that comes first, sending the set when the die does not hold it; without a
set, or with one that fails its check, the test ends NOSET (R388). -/
def execTestDue (place : Word) (chan : Nat) : State → Host.Outcome State Fault Refusal := lift fun s =>
  let ent := entity place 2 chan
  let ety := Store.get 0 s.hlt.types (512 * place.toNat + chan)
  if s.role ≠ .tray ∨ !s.hltCtl 0 ∨ ety = 0 ∨ s.firstDue ≠ some ent then s else
  match s.patEntry ety 256 (s.reg (.hlt .HLT_PAT_DIR)).toNat with
  | none => s.testEnded ent 6 0
  | some (ofs, sid) =>
    let h := Mem.rdN s.mem.flash ofs 64
    let len := leAt h 8 4
    let body := Mem.rdN s.mem.flash (ofs + 64) len
    let crc := w32 (leAt h 12 4)
    if leAt h 0 4 ≠ 0x50530001 ∨ crc32c body ≠ crc then s.testEnded ent (6 + sid <<< 16) 0 else
    let s := s.modHlt (fun x => { x with due := match Store.look x.due ent with
      | some d => Store.put x.due ent { d with order := true }
      | none => x.due })
    if Store.look s.hlt.sent place.toNat = some (sid, crc) then s else
    let all := h ++ body
    let s := (List.range ((all.length + 4091) / 4092)).foldl (fun s i =>
      s.sendMsg 7 place 1 ftHealth none (leBytes 4 5 ++ (all.drop (4092 * i)).take 4092) 0 none) s
    s.modHlt (fun x => { x with sent := Store.put x.sent place.toNat (sid, crc) })

/-- TEST_PLACE (R390): the die is hot enough and places the ordered test. -/
def execTestPlace (chan : Nat) : State → Host.Outcome State Fault Refusal := lift fun s =>
  match s.hotOf chan with
  | none => s
  | some t =>
    if s.mayPlace chan ∧ s16 (fld (s.reg (.hlt .HLT_HOT)) 15 0) ≤ t then s.placeTest chan false else s

/-- HOT_WAIT_EXPIRE (R390): the test is placed without heat and recorded COOL. -/
def execHotWaitExpire (chan : Nat) : State → Host.Outcome State Fault Refusal := lift fun s =>
  if s.mayPlace chan then s.placeTest chan true else s

/-- TEST_GRANT (R391, R470): the host grants a request. -/
def execTestGrant (k : Nat) : State → Host.Outcome State Fault Refusal := lift fun s =>
  s.modHlt (fun h => match Store.look h.tests k with
    | some t => if t.gntAt.isSome then h else { h with tests := Store.put h.tests k { t with gntAt := some s.tclk } }
    | none => h)

/-- TEST_DONE (R391, Table 13-2): PASS, PASS_COOL or FAIL by the signature. -/
def execTestDone (k : Nat) (sig : Dword) : State → Host.Outcome State Fault Refusal := lift fun s =>
  match Store.look s.hlt.tests k with
  | none => s
  | some t => if t.gntAt.isNone then s else s.endTest k (if sig = t.exp then (if t.cool then 2 else 1) else 3) 0 sig

/-- TEST_ABORT (R391): ABORT, reason 1. -/
def execTestAbort (k : Nat) : State → Host.Outcome State Fault Refusal := lift fun s =>
  match Store.look s.hlt.tests k with
  | none => s
  | some t => if t.gntAt.isNone then s else s.endTest k 4 1 0

/-- GRANT_TIMEOUT (R391): no grant within HLT_GNT_TMO. -/
def execGrantTimeout (k : Nat) : State → Host.Outcome State Fault Refusal := lift fun s =>
  match Store.look s.hlt.tests k with
  | none => s
  | some t =>
    if t.gntAt.isNone ∧ s.passed t.at_ (s.ms (s.reg (.hlt .HLT_GNT_TMO)).toNat) then s.endTest k 5 0 0 else s

/-- RUN_TIMEOUT (R391): no DONE within HLT_RUN_TMO of the grant. -/
def execRunTimeout (k : Nat) : State → Host.Outcome State Fault Refusal := lift fun s =>
  match Store.look s.hlt.tests k with
  | none => s
  | some t => match t.gntAt with
    | some g => if s.passed g (s.ms (s.reg (.hlt .HLT_RUN_TMO)).toNat) then s.endTest k 4 2 0 else s
    | none => s

/-- PATTERN_SET_RECEIVE (R388): a die takes a part of a set, and stores the whole set at HLT_PAT_BASE. -/
def execPatternSetReceive (f : RxFrame) : State → Host.Outcome State Fault Refusal := lift fun s =>
  match s.takeSub f ftHealth 5 with
  | (s, none) => s
  | (s, some t) =>
    let s := s.frameDone t
    if s.role ≠ .die ∨ leAt t.f.payload 0 1 ≠ 5 then s else
    let buf := s.hlt.patBuf ++ t.f.payload.drop 4
    let len := leAt buf 8 4
    if 64 ≤ buf.length ∧ (leAt buf 0 4 ≠ 0x50530001 ∨ fld (s.reg (.hlt .HLT_PAT_SIZE)) 15 0 * 1024 < 64 + len) then
      s.modHlt (fun h => { h with patBuf := [] })
    else if buf.length < 64 ∨ buf.length < 64 + len then s.modHlt (fun h => { h with patBuf := buf })
    else
      let s := s.modHlt (fun h => { h with patBuf := [] })
      if crc32c (slice buf 64 len) ≠ w32 (leAt buf 12 4) then s else
      let s := s.xmWrite (s.reg2 (.hlt .HLT_PAT_BASE_HI) (.hlt .HLT_PAT_BASE_LO)) (slice buf 0 (64 + len)) false
      s.modHlt (fun h => { h with patSet := some { setId := leAt buf 4 2, etype := leAt buf 6 2, len := len,
                                                   crc := w32 (leAt buf 12 4), exp := BitVec.ofNat 64 (leAt buf 16 8) } })

/-- One item of an engine-type report of die `src`: [24:16] channel, [15:0] ETYPE (R388; DESIGN CHOICE, log 9). -/
def Blk.typeIn (s : Blk) (src w : Word) : Blk :=
  let chan := fld w 24 16
  let ent := entity src 2 chan
  let s := s.modHlt (fun h => { h with types := Store.set 0 h.types (512 * src.toNat + chan) (fld w 15 0) })
  if fld w 15 0 = 0 then s.modHlt (fun h => { h with due := Store.del h.due ent })
  else if (Store.look s.hlt.due ent).isSome then s
  else s.modHlt (fun h => { h with due := Store.put h.due ent ⟨s.cal, false, false, false⟩ })

/-- ENGINE_TYPES_RECEIVE (R388): a tray takes a die's engine-type report. -/
def execEngineTypesReceive (f : RxFrame) : State → Host.Outcome State Fault Refusal := lift fun s =>
  match s.takeSub f ftHealth 6 with
  | (s, none) => s
  | (s, some t) =>
    let s := s.frameDone t
    if s.role ≠ .tray ∨ leAt t.f.payload 0 1 ≠ 6 then s else
    (List.range (t.f.payload.length / 4 - 1)).foldl (fun s i => s.typeIn t.f.src (wordAt t.f.payload (i + 1))) s

/-- The records of a HEALTH frame of kind 0x01. -/
def healthRecords (p : List Byte) : List (List Byte) :=
  (List.range ((p.length - 4) / 32)).map (fun i => slice p (4 + 32 * i) 32)

/-- A record that a tray takes: TEST of a die; CLASS and RETIRE_PROP of its span instance, which make an entry permanent (R392,
R398). -/
def Blk.resultIn (s : Blk) (srole : Nat) (b : List Byte) : Blk :=
  let ent := recEnt b
  if recType b = 1 ∧ srole = 1 then s.testEnded ent (recD0 b) (recD1 b)
  else if (recType b = 6 ∨ recType b = 7) ∧ srole = 3 then
    let s := s.histRec (recType b) ent (recD0 b) (recD1 b)
    if recType b = 7 ∨ recD0 b % 2 = 1 then
      s.modHlt (fun h => match Store.look h.watch ent with
        | some w => { h with watch := Store.put h.watch ent { w with perm := true } }
        | none => h)
    else s
  else s

/-- TEST_RESULT_RECEIVE (R392, R398): a tray takes TEST records of a die, or CLASS and RETIRE_PROP of its span instance. -/
def execTestResultReceive (f : RxFrame) : State → Host.Outcome State Fault Refusal := lift fun s =>
  match s.takeSub f ftHealth 1 with
  | (s, none) => s
  | (s, some t) =>
    let s := s.frameDone t
    if s.role ≠ .tray ∨ leAt t.f.payload 0 1 ≠ 1 then s else
    (healthRecords t.f.payload).foldl (fun s b => s.resultIn t.f.srole b) s

/-- A record that a span instance takes from tray `src` (R398). -/
def Blk.historyIn (s : Blk) (src : Word) (b : List Byte) : Blk :=
  let old := match Store.look s.hlt.rseqOf src.toNat with
    | some r => decide ((recRseq b).toNat ≤ r.toNat)
    | none => false
  if old then s else
  let s := s.modHlt (fun h => { h with rseqOf := Store.put h.rseqOf src.toNat (recRseq b) })
  let fail := (recType b = 1 ∧ recD0 b % 16 = 3) ∨ (recType b = 2 ∧ recD0 b / 1024 % 2 = 1)
  if ¬fail ∨ !s.boot.isPrimary then s else
  let (rs, s) := s.failure (recEnt b) (recUtc b)
  rs.foldl (fun s r => s.sendMsg 6 src 2 ftHealth none
    (leBytes 4 1 ++ s.histBytes r.1 (recEnt b) r.2.1 r.2.2 0) 0 none) s

/-- HISTORY_RECORD_RECEIVE (R398): a span instance takes records; failures are booked by the primary, and CLASS and
RETIRE_PROP go back to the tray. A record whose RSEQ is not above the last taken from its place is ignored. -/
def execHistoryRecordReceive (f : RxFrame) : State → Host.Outcome State Fault Refusal := lift fun s =>
  match s.takeSub f ftHealth 1 with
  | (s, none) => s
  | (s, some t) =>
    let s := s.frameDone t
    if s.role ≠ .span ∨ leAt t.f.payload 0 1 ≠ 1 then s else
    (healthRecords t.f.payload).foldl (fun s b => s.historyIn t.f.src b) s

/-- A period of 24 h of a watched entity, when it has ended (R394). -/
def Blk.cleanDay1 (s : Blk) (e : Nat) : Blk :=
  match Store.look s.hlt.watch e with
  | none => s
  | some w =>
    if s.cal < w.since + (tkDay : Nat) then s else
    let clean := if w.pass && !w.bad then w.clean + 1 else 0
    let s := s.modHlt (fun h => { h with watch := (Store.put h.watch e
      { w with clean := clean, since := w.since + (tkDay : Nat), pass := false, bad := false }) })
    if !w.perm ∧ fld (s.reg (.hlt .HLT_WL_CLEAN)) 7 0 ≤ clean ∧ 0 < clean then s.watchLeave e false false else s

/-- CLEAN_DAY (R394): periods of 24 h that have ended are counted; entries with enough consecutive clean days leave. -/
def execCleanDay : State → Host.Outcome State Fault Refusal := lift fun s =>
  (Store.keys s.hlt.watch).foldl Blk.cleanDay1 s

/-- CE_DAY_END (R396): one CE record for each entity with a non-zero total of the UTC day that has ended. -/
def execCeDayEnd : State → Host.Outcome State Fault Refusal := lift fun s =>
  let today := (s.utc s.t64).1.toNat / 86400
  if today ≤ s.hlt.ceDay then s else
  let start := s.hlt.ceDay * 86400
  let s := s.hlt.ceTot.foldl (fun s p => s.histRec 3 p.1 (min p.2 0xFFFFFFFF) start) s
  s.modHlt (fun h => { h with ceTot := [], ceDay := today })

/-- GUARD_EPOCH_END (R401). -/
def execGuardEpochEnd : State → Host.Outcome State Fault Refusal := lift fun s =>
  if s.role = .tray then s.guardEpoch else s

/-- GUARD_DELTA_RECEIVE (R401): a holder stages a delta and acknowledges it. -/
def execGuardDeltaReceive (f : RxFrame) : State → Host.Outcome State Fault Refusal := lift fun s =>
  match s.takeSub f ftHealth 2 with
  | (s, none) => s
  | (s, some t) =>
    let s := s.frameDone t
    let p := t.f.payload
    if s.role ≠ .tray ∨ leAt p 0 1 ≠ 2 ∨ (s.grdRank t.f.src).isNone then s else
    let m := leAt p 8 4
    let d : Delta := { place := t.f.src, epoch := w32 (leAt p 12 4), chunk := leAt p 4 4, k := m % 16,
                       q := decide (m / 16 % 2 = 1), half := m / 256 % 2, data := slice p 16 2048 }
    let s := s.modHlt (fun h => { h with staged := h.staged ++ [d] })
    s.sendMsg 6 t.f.src 2 ftHealth none (leBytes 4 3 ++ slice p 4 12) 0 none

/-- GUARD_ACK_RECEIVE (R401): when every delta of the epoch is acknowledged, the member sends its commit. -/
def execGuardAckReceive (f : RxFrame) : State → Host.Outcome State Fault Refusal := lift fun s =>
  match s.takeSub f ftHealth 3 with
  | (s, none) => s
  | (s, some t) =>
    let s := s.frameDone t
    let p := t.f.payload
    let key := (t.f.src, 2 * leAt p 4 4 + leAt p 8 4 / 256 % 2)
    if leAt p 0 1 ≠ 3 ∨ w32 (leAt p 12 4) ≠ s.hlt.epoch ∨ !s.hlt.awaited.contains key then s else
    let s := s.modHlt (fun h => { h with awaited := h.awaited.filter (· ≠ key) })
    if !s.hlt.awaited.isEmpty then s else
    let s := s.hlt.holders.foldl (fun s h => s.sendMsg 6 h 2 ftHealth none
      (leBytes 4 4 ++ leBytes 4 0 ++ leBytes 4 0 ++ leBytes 4 s.hlt.epoch.toNat) 0 none) s
    s.modHlt (fun h => { h with shadow := h.flight.foldl (fun m e => Store.set zeros4k m e.1 e.2) h.shadow,
                                flight := [], holders := [], cepoch := h.epoch })

/-- GUARD_COMMIT_RECEIVE (R400, R401): the holder applies the staged deltas of the member's epoch to its parity. -/
def execGuardCommitReceive (f : RxFrame) : State → Host.Outcome State Fault Refusal := lift fun s =>
  match s.takeSub f ftHealth 4 with
  | (s, none) => s
  | (s, some t) =>
    let s := s.frameDone t
    let p := t.f.payload
    match s.grdRank t.f.src with
    | none => s
    | some r =>
      if leAt p 0 1 ≠ 4 then s else
      let mine := fun (d : Delta) => d.place == t.f.src && d.epoch == w32 (leAt p 12 4)
      let s := (s.hlt.staged.filter mine).foldl (fun s d =>
        let a := s.grdParity (grdStripe r d.chunk) d.q + 2048 * d.half
        let old := Mem.rdN s.mem.xm a 2048
        let x := if d.q then d.data.map (gfMulG d.k) else d.data
        s.xmWrite a (List.zipWith (· ^^^ ·) old x) false) s
      s.modHlt (fun h => { h with staged := h.staged.filter (fun d => !mine d) })

/-- REBUILD_DONE (R402): the rebuild has finished its last stripe, or ends because another member is lost: how
many stripes were done by then is a free value. -/
def execRebuildDone : State → Host.Outcome State Fault Refusal := lift fun s =>
  match s.hlt.rebuild with
  | none => s
  | some rb =>
    let lost := (List.range 12).filter (fun r => s.isFenced (s.grdMem.getD r 0) && r != rb.a && rb.b != some r)
    let total := 12 * (((s.reg (.hlt .HLT_GRD_CHUNKS)).toNat + 9) / 10)
    let (f, s) := s.draw
    let n := if lost.isEmpty then total else f % (total + 1)
    (s.modHlt (fun h => { h with rebuild := none })).setReg (.hlt .HLT_GRD_RB_STAT) (w32 (n % 2 ^ 24))

/-- HEARTBEAT_SEND (R403, R404, R407): a heartbeat on M0 and M1 with any notice repeats; missed heartbeats are counted. -/
def execHeartbeatSend : State → Host.Outcome State Fault Refusal := lift fun s =>
  if !s.hltCtl 1 ∨ s.role = .die then s else
  let s := s.mgmtClear.sendHeartbeat
  let s := s.hlt.notices.foldl (fun s n =>
    (s.mgmtSend 0 (s.noticeBytes n 0)).mgmtSend 1 (s.noticeBytes n 1)) s
  let rest := (s.hlt.notices.filter (fun n => decide (1 < n.left))).map (fun n => { n with left := n.left - 1 })
  let s := s.modHlt (fun h => { h with notices := rest })
  (Store.keys s.hlt.peers).foldl Blk.hbPeriod s

/-- HEARTBEAT_RECEIVE (R403 to R405, R483): the peer is heard; its votes are counted. -/
def execHeartbeatReceive (n : Nat) (f : MgmtFrame) : State → Host.Outcome State Fault Refusal := lift fun s =>
  if s.role = .die ∨ mgmtFmt f (fld (s.reg (.hlt .HLT_HB_ETYPE)) 15 0) ≠ some 0x4842 then s else
  let b := f.bytes
  let place := w32 (leAt b 4 4)
  if place = s.place ∧ leAt b 2 1 % 4 = roleCode s.role then s else
  let fl := leAt b 2 1
  let old := Store.get Peer.fresh s.hlt.peers place.toNat
  let p : Peer := { old with
    m0 := (if n = 0 then some s.tclk else old.m0), m1 := (if n = 0 then old.m1 else some s.tclk), role := fl % 4,
    ready := decide (fl / 4 % 2 = 1), fself := decide (fl / 8 % 2 = 1), part := leAt b 8 2 % 4096,
    grd := leAt b 10 2 % 4096, chunks := w32 (leAt b 32 4), silent := false }
  let s := s.modHlt (fun h => { h with peers := Store.put h.peers place.toNat p, own := h.own.filter (· ≠ place) })
  let s := s.grdCheck
  let s := if p.role = 3 then s.spanHeard place p.ready else s
  let votes := (if fl / 16 % 2 = 1 then [w32 (leAt b 24 4)] else []) ++ (if fl / 32 % 2 = 1 then [w32 (leAt b 28 4)] else [])
  if p.fself ∨ s.isFenced place ∨ !s.grdMem.contains place then s else s.bookVotes place votes

/-- PEER_SILENT (R404, R405): neither network has carried a heartbeat of the peer for HLT_HB_SILENT; a member votes. -/
def execPeerSilent (place : Word) : State → Host.Outcome State Fault Refusal := lift fun s =>
  match Store.look s.hlt.peers place.toNat with
  | none => s
  | some p =>
    if !s.hltCtl 1 ∨ p.silent ∨ !s.quiet p.m0 s.silentTime ∨ !s.quiet p.m1 s.silentTime then s else
    let s := s.modHlt (fun h => { h with peers := Store.put h.peers place.toNat { p with silent := true } })
    let s := s.leadCheck
    if !s.hltCtl 2 ∨ s.role ≠ .tray ∨ !s.grdMem.contains place ∨ s.hlt.fencedSelf ∨ s.hlt.own.contains place ∨
        s.isFenced place then s else
    if 2 ≤ s.hlt.own.length then s else
    let s := s.modHlt (fun h => { h with own := h.own ++ [place] })
    let s := s.mgmtClear.sendHeartbeat
    s.bookVotes s.place s.hlt.own

/-- FENCE_NOTICE_RECEIVE (R407): a notice of the own partition, or, at a span instance, of a sender of its site. -/
def execFenceNoticeReceive (_n : Nat) (f : MgmtFrame) : State → Host.Outcome State Fault Refusal := lift fun s =>
  if s.role = .die ∨ mgmtFmt f (fld (s.reg (.hlt .HLT_HB_ETYPE)) 15 0) ≠ some 0x464E then s else
  let b := f.bytes
  let sender := w32 (leAt b 4 4)
  if (s.role ≠ .span ∧ leAt b 8 2 % 4096 = s.part) ∨ (s.role = .span ∧ siteOf sender = siteOf s.place) then
    s.applyFence (decide (leAt b 2 1 % 2 = 1)) (w32 (leAt b 24 4)) (decide (leAt b 2 1 / 2 % 2 = 1))
  else s

/-- FENCE_FRAME_RECEIVE (R406, Table 16-7). -/
def execFenceFrameReceive (f : RxFrame) : State → Host.Outcome State Fault Refusal := lift fun s =>
  match s.takeFrame f ftFence with
  | (s, none) => s
  | (s, some t) =>
    let s := s.frameDone t
    s.applyFence (bit (wordAt t.f.payload 0) 0) (wordAt t.f.payload 1) (bit (wordAt t.f.payload 2) 0)

/-- TL_MN_UP_CHANGE (R483): tl_mn_up drives M0_DOWN or M1_DOWN. -/
def execTlMnUpChange (n : Nat) (up : Bool) : State → Host.Outcome State Fault Refusal := lift fun s =>
  s.modHlt (fun h => if n = 0 then { h with m0Down := !up } else if n = 1 then { h with m1Down := !up } else h)

/-- MEMBER_DETACH (R26). -/
def execMemberDetach (place : Word) : State → Host.Outcome State Fault Refusal := lift fun s =>
  if s.role = .tray then s.memberGone place else s

/-! ### Writes of health registers -/

/-- A write of HLT_WL_ADD_LO adds the entity (R393). -/
def Blk.wrWatchAdd (s : Blk) (v : Word) : Blk :=
  let s := s.setReg (.hlt .HLT_WL_ADD_LO) v
  s.watchIn (fld (s.reg (.hlt .HLT_WL_ADD_HI)) 15 0 * 2 ^ 32 + v.toNat) 4

/-- A write of HLT_CE_REPORT posts a corrected-error count (R396); a total above HLT_CE_THR puts the entity on the list and
resets its clean days (R393, R394). -/
def Blk.wrCeReport (s : Blk) (v : Word) : Blk :=
  let s := s.setReg (.hlt .HLT_CE_REPORT) v
  let ent := s.pairVal (.hlt .HLT_CE_ENT_HI) (.hlt .HLT_CE_ENT_LO) % 2 ^ 48
  let tot := Store.get 0 s.hlt.ceTot ent + v.toNat
  let day := if s.hlt.ceTot.isEmpty then (s.utc s.t64).1.toNat / 86400 else s.hlt.ceDay
  let s := s.modHlt (fun h => { h with ceTot := Store.set 0 h.ceTot ent tot, ceDay := day })
  if (s.reg (.hlt .HLT_CE_THR)).toNat < tot then (s.watchBad ent).watchIn ent 3 else s

/-- A write of HLT_RETIRE_LO confirms retirement (R398): RETIRED, the entry leaves, the unit's tests end. -/
def Blk.wrRetire (s : Blk) (v : Word) : Blk :=
  let s := s.setReg (.hlt .HLT_RETIRE_LO) v
  let ent := fld (s.reg (.hlt .HLT_RETIRE_HI)) 15 0 * 2 ^ 32 + v.toNat
  let s := (s.histRec 8 ent 0 0).watchLeave ent false true
  s.modHlt (fun h => { h with retired := insNat ent h.retired, due := Store.del h.due ent })

/-- A completed pair of HLT_STRESS raises or withdraws the manual stress lines (R392). -/
def Blk.wrStress (s : Blk) (v : Word) : Blk :=
  let s := s.setReg (.hlt .HLT_STRESS) v
  if s.role ≠ .die then s else
  s.modHlt (fun h => { h with manual := if bit v 31 then some (fld v 24 16, bit v 0, bit v 1) else none })

/-- A completed pair of HLT_FENCE fences or lifts a place (R409). -/
def Blk.wrFence (s : Blk) (v : Word) : Blk :=
  ((s.setReg (.hlt .HLT_FENCE) v).mgmtClear).sendFence (bit v 31) (w32 (fld v 27 0)) false

/-- A write of HLT_GRD_REBUILD starts a rebuild of one or two lost members; with three or more lost it starts none (R402). -/
def Blk.wrRebuild (s : Blk) (v : Word) : Blk :=
  let s := s.setReg (.hlt .HLT_GRD_REBUILD) v
  if !bit v 31 ∨ s.role ≠ .tray then s else
  let a := fld v 27 24
  let b := if bit v 19 then some (fld v 23 20) else none
  let lost := (List.range 12).filter (fun r => s.isFenced (s.grdMem.getD r 0) || r == a || b == some r)
  if 3 ≤ lost.length then
    (s.modHlt (fun h => { h with grdLost := true })).emit 0x10 0x1008 (fld (s.reg (.hlt .HLT_GRD_ID)) 11 0) lost.length
  else (s.modHlt (fun h => { h with rebuild := some ⟨a, b, bit v 16⟩ })).setReg (.hlt .HLT_GRD_RB_STAT) (w32 (2 ^ 31))

/-- A die reports a changed engine type to its tray (R388). -/
def Blk.wrEtype (s : Blk) (c : Nat) (v : Word) : Blk :=
  let old := s.reg (.hlt (.HLT_ETYPE c))
  let s := s.setReg (.hlt (.HLT_ETYPE c)) v
  if s.role = .die ∧ s.boot.attached ∧ old ≠ v then
    s.sendMsg 6 (trayOf s.place) 2 ftHealth none (leBytes 4 6 ++ leBytes 4 (c <<< 16 + fld v 15 0)) 0 none
  else s

/-- A write of the guard registers is checked against the group's validity (R399). -/
def Blk.wrGuard (s : Blk) (r : HltReg) (v : Word) : Blk := (s.setReg (.hlt r) v).grdCheck

end Sys2Proof.Machine
end

