-- ==== Sys2Proof/Machine/CollCtl.lean ====
section
/-!
DEFINITION. Collection control (R453 to R460): the start and its acknowledgements, re-reach, commit and abort, the outcome asked of
a parent, effective turns, teardown. A node's frames are those of Table 16-8.
-/

namespace Sys2Proof.Machine

/-- A node by place and role code. -/
abbrev Node := Word × Nat

/-! ### Frames (Table 16-8) -/

/-- Send a COLLCTL frame of collection `c` and generation `g` to a node in class C2. -/
def Blk.ctl (s : Blk) (c : Nat) (g : BitVec 16) (n : Node) (ws : List Word) : Blk :=
  s.sendMsg 2 n.1 n.2 ftCollctl (some (c, g)) (wordsBytes ws) 0 none

/-- Cut a place list into frames of one SUB, the count given in each; `fuel` bounds the frames. -/
def placeFrames (head : List Word) : Nat → List Word → List (List Word)
  | 0, _ => []
  | fuel + 1, ps => if ps.length ≤ 1021 then [head ++ ps] else (head ++ ps.take 1021) :: placeFrames head fuel (ps.drop 1021)

/-- Send an outcome or an acknowledgement: three words and a place list. -/
def Blk.ctlList (s : Blk) (c : Nat) (g : BitVec 16) (n : Node) (ws : List Word) : Blk :=
  (placeFrames (ws.take 3) (ws.length / 1021 + 1) (ws.drop 3)).foldl (fun s f => s.ctl c g n f) s

/-- COMMIT and ABORT as words. -/
def commitWords (sturn : Word) (excl : List Word) : List Word := [4, sturn, w32 excl.length] ++ excl
def abortWords (reason : Nat) (place : Word) : List Word := [5, w32 reason, place]

/-! ### Who coordinates (R453, R460) -/

/-- Sites of a place list, ascending. -/
def sitesOf (ps : List Word) : List Nat := (List.range 8).filter (fun i => ps.any (fun p => decide (siteOf p = i)))
def atSite (ps : List Word) (i : Nat) : List Word := ps.filter (fun p => siteOf p = i)

/-- The coordinator of a collection over the places `ps`: crown A of the one site, else the lead span instance as this instance
sees it. -/
def Blk.coordOf (s : Blk) (ps : List Word) : Option Node :=
  match sitesOf ps with
  | [i] => (crownIn (atSite ps i) false).map (fun p => (p, 2))
  | is => ((is.find? s.primaryUp).bind s.primaryOf).map (fun p => (p, 3))

/-- The next node on the way to the coordinator (R25, R453): a die goes by its parent, a tray by its primary where it does not
reach the node itself, a span instance by the primary of the other site (DESIGN CHOICE, log 21). -/
def Blk.hopTo (s : Blk) (n : Option Node) : Option Node :=
  let up := s.parentPlace.map (fun p => (p, s.parentRole))
  match s.role, n with
  | .die, _ => up
  | .tray, some n => if n.2 = 2 ∧ siteOf n.1 = siteOf s.place then some n else up
  | .tray, none => up
  | .span, some n => if n.2 = 3 ∨ siteOf n.1 = siteOf s.place then some n else (s.primaryOf (siteOf n.1)).map (fun p => (p, 3))
  | .span, none => none

/-- The member dies of a tray, as nodes. -/
def Blk.dieNodes (s : Blk) : List Node := if s.role = .tray then s.boot.members.map (fun p => (p, 1)) else []

/-- Whether a descriptor makes the span instances of its sites take part (DESIGN CHOICE, log 21). -/
def Desc.toSpan (d : Desc) : Bool := d.reds.any (fun b => (redOf b 0).scope = 3) || d.progs.any (fun p => p.2.getLsbD 2)

/-- Where START goes from this instance (R455): to the children in tree A and the member dies; from the lead span to each
site's crown A and to the other primaries; from a coordinating crown to its site's primary. -/
def Blk.startKids (s : Blk) (ps : List Word) (coord toSpan : Bool) : List Node :=
  match s.role with
  | .die => []
  | .tray =>
    let tree := atSite ps (siteOf s.place)
    s.dieNodes ++ (kidsIn tree false s.place).map (fun p => (p, 2)) ++
      (if coord ∧ toSpan then (s.parentPlace.toList).map (fun p => (p, 3)) else [])
  | .span =>
    if !coord ∨ (sitesOf ps).length < 2 then [] else
    (sitesOf ps).filterMap (fun i => (crownIn (atSite ps i) false).map (fun p => (p, 2))) ++
      ((sitesOf ps).filter (· ≠ siteOf s.place)).filterMap (fun i => (s.primaryOf i).map (fun p => (p, 3)))

/-! ### A start in progress -/

/-- Whether a start of generation `g` of collection `c` is in progress here. -/
def Blk.starting (s : Blk) (c : Nat) (g : Nat) : Bool :=
  (s.coll c).st == .starting && decide ((s.coll c).gen.toNat = g) && (s.coll c).cs.isSome

def Blk.modCs (s : Blk) (c : Nat) (f : CStart → CStart) : Blk := s.modColl c (fun v => { v with cs := v.cs.map f })

/-- A COLLCTL frame that its rule does not take (R454). -/
def Blk.ctlStale (s : Blk) : Blk := s.count (.boot .BOOT_STALE_CNT) 1

/-- The initiator's registers at a refusal (R458). -/
def Blk.startRefused (s : Blk) (c reason : Nat) (place : Word) : Blk :=
  let s := s.setReg (.boot .BOOT_CS_STAT) (w32 (3 <<< 28 + reason <<< 16 + c))
  (s.setReg (.boot .BOOT_CS_PLACE) place).emit 0x14 0x1403 (reason + c <<< 8) place.toNat

/-- The initiator learns the outcome (R458, R459). -/
def Blk.noteOutcome (s : Blk) (c : Nat) (g : BitVec 16) (ws : List Word) : Blk :=
  match s.boot.csInit with
  | some (c', g', _) =>
    if c' ≠ c ∨ g' ≠ g then s else
    let s := s.modBoot (fun b => { b with csInit := none })
    if ws.headD 0 = 4 then
      let s := s.setReg (.boot .BOOT_CS_STAT) (w32 (2 <<< 28 + c))
      (s.setReg (.boot .BOOT_CS_TURN) (ws.getD 1 0)).setReg (.boot .BOOT_CS_EXCL) (ws.getD 2 0)
    else s.startRefused c (fld (ws.getD 1 0) 7 0) (ws.getD 2 0)
  | none => s

/-- Whether this instance is the initiator of a start. -/
def Blk.isInit (s : Blk) (c : Nat) (g : Nat) : Bool :=
  match s.boot.csInit with | some (c', g', _) => decide (c' = c ∧ g'.toNat = g) | none => false

/-- Add the elements of a list to an ascending list of places. -/
def addPlaces (l ps : List Word) : List Word := ps.foldl (fun a p => insPlace p a) l

/-- The outcome of a start at this instance (R458, R459): it goes down both trees, to the dies and to the nodes that were started;
COMMIT takes effect where the instance is not excluded and has its resources, else everything is freed. -/
def Blk.outcome (s : Blk) (c : Nat) (ws : List Word) : Blk :=
  let v := s.coll c
  match v.cs with
  | none => s
  | some cs =>
    let g := v.gen
    let tree := atSite v.parts (siteOf s.place)
    let down : List Node := if s.role ≠ .tray then [] else (kidsIn tree false s.place ++ kidsIn tree true s.place).map (fun p => (p, 2))
    let dsts : List Node := (cs.kids.map (fun (k : CKid) => (k.place, k.role)) ++ down ++ cs.relay.map (fun p => (p, 2))).foldl
      (fun (l : List Node) n => if l.contains n then l else l ++ [n]) []
    let s := dsts.foldl (fun (s : Blk) (n : Node) => s.ctlList c g n ws) s
    let s := if cs.coord ∧ !dsts.contains cs.init ∧ cs.init.1 ≠ s.place then s.ctlList c g cs.init ws else s
    let owner := match s.boot.csInit with | some (c', g', o) => if c' = c ∧ g' = g then o else 0xFF | none => 0xFF
    let excl := ws.drop 3
    let (_, d, _) := s.readDesc c cs.ofs
    let ok := ws.headD 0 == 4 && cs.own == some 0 && !excl.contains s.place
    let s := if ok then
        (s.modColl c (fun v => { v with cs := none, outcome := some (g, ws) })).commitColl c d (ws.getD 1 0) excl owner
      else (s.freeColl c).setColl c { Coll.idle with outcome := some (g, ws) }
    s.noteOutcome c g ws

/-- The refusals known at a node, its own with its place; the first in place order. -/
def Blk.firstRefusal (s : Blk) (cs : CStart) : Option (Nat × Word) :=
  let own := match cs.own with | some r => if r = 0 then [] else [(r, s.place)] | none => []
  (own ++ cs.kids.filterMap CKid.refusal).foldl (fun (a : Option (Nat × Word)) x => match a with
    | none => some x
    | some y => some (if x.2.toNat < y.2.toNat then x else y)) none

/-- Every exclusion that the children have listed. -/
def CStart.excluded (cs : CStart) : List Word := addPlaces [] (cs.kids.flatMap CKid.excl)

/-- Acknowledge upward, or decide at the coordinator, once the own work is done and every child has answered or is excluded (R455,
R458, R459). -/
def Blk.startAgg (s : Blk) (c : Nat) : Blk :=
  let v := s.coll c
  match v.cs with
  | none => s
  | some cs =>
    if v.st ≠ .starting ∨ cs.own.isNone ∨ cs.acked.isSome ∨ cs.kids.any (fun k => !k.done) then s else
    if cs.coord then
      match s.firstRefusal cs with
      | some (r, p) => s.outcome c (abortWords r p)
      | none => s.outcome c (commitWords (s.turnOf c + 3) cs.excluded)
    else
      let ws := match s.firstRefusal cs with
        | some (r, p) => [2, w32 r, 1, p]
        | none => [2, 0, w32 cs.excluded.length] ++ cs.excluded
      let s := s.modCs c (fun cs => { cs with acked := some s.tclk })
      match cs.up with
      | some n => s.ctlList c v.gen n ws
      | none => s

/-- The instance's own work of a start (R455). -/
def Blk.startOwn (s : Blk) (c : Nat) : Blk :=
  match (s.coll c).cs with
  | none => s
  | some cs =>
    let (r, d, s) := s.readDesc c cs.ofs
    let r := if r = 0 ∧ (cs.check ≠ d.check ∨ d.gen ≠ (s.coll c).gen) then 1 else r
    let dies := (cs.kids.filter (fun k => k.role = 1)).map CKid.place
    let (r, s) := if r ≠ 0 then (r, s) else match s.takeStart c d dies with
      | .ok s => (0, s)
      | .error e => (e, s)
    s.modCs c (fun cs => { cs with own := some r, waitAt := none })

/-- Send WAIT up (R456). -/
def Blk.startWait (s : Blk) (c : Nat) : Blk :=
  let s := match (s.coll c).cs.bind CStart.up with | some n => s.ctl c (s.coll c).gen n [3] | none => s
  s.modCs c (fun cs => { cs with waitAt := some s.tclk })

/-- START words. -/
def startWords (tree ofs : Nat) (check init : Word) : List Word := [1, w32 tree, loOf ofs, hiOf ofs, check, init]

/-- A start reaches this instance from a node (R454 to R457): a second START of the same start changes only where the
acknowledgement goes. -/
def Blk.startIn (s : Blk) (c : Nat) (g : BitVec 16) (tree ofs : Nat) (check init : Word) (src : Node) : Blk :=
  let v := s.coll c
  if v.st = .starting ∧ v.gen = g then
    match v.cs with
    | none => s
    | some cs =>
      if cs.coord then s else
      let s := s.modCs c (fun cs => { cs with up := some src, acked := none, kids := cs.kids.filter (fun k => k.role ≠ 2 ∨ k.done) })
      if cs.own.isNone then s.startWait c else s.startAgg c
  else if v.st ≠ .idle then (if src.1 = s.place then s.startRefused c 0x0A s.place else s.ctl c g src [2, 0x0A, 1, s.place])
  else
    let (r, d, _) := s.readDesc c ofs
    let ps := if r = 0 then d.places else []
    let coord := match s.coordOf ps with | some n => n.1 == s.place && n.2 == roleCode s.role | none => false
    -- a site that the lead re-reaches through its crown B is started from there, place by place (R457)
    let wide := decide (tree = 1) && s.role == .tray && decide (src.2 = 3)
    let kids : List Node := if r ≠ 0 then s.dieNodes
      else if wide then s.dieNodes ++ ((atSite ps (siteOf s.place)).filter (· ≠ s.place)).map (fun p => (p, 2))
      else if tree = 1 then s.dieNodes else s.startKids ps coord d.toSpan
    let mk := fun (n : Node) => ({ place := n.1, role := n.2, heard := s.tclk, again := wide, done := false, excl := [],
                                   refusal := none } : CKid)
    let cs : CStart := { coord := coord, init := (if init = src.1 then src else (init, 2)), up := (if coord then none else some src), ofs := ofs,
                         check := check, kids := kids.map mk, relay := [], own := none, acked := none, at_ := s.tclk,
                         waitAt := none, commitIn := [] }
    let s := s.setColl c { Coll.idle with st := .starting, gen := g, parts := ps, trk := d.trk, part := d.part, cs := some cs }
    let s := kids.foldl (fun s n => s.ctl c g n (startWords (if wide then 1 else 0) ofs check init)) s
    if s.tearing then s.startWait c else (s.startOwn c).startAgg c

/-! ### Initiator and coordinator -/

/-- The collection that a descriptor offset belongs to: the lowest whose allocation holds, at the offset, a header that names it
(DEDUCED, log 21). -/
def Blk.findColl (s : Blk) (ofs : Nat) : Option Nat :=
  (List.range s.conf.colls).find? (fun c =>
    let (base, size) := s.alloc c
    decide (ofs + 256 ≤ size) && decide ((Mem.rd s.mem.xm (base + ofs + 4)).toNat % 64 = c))

/-- A write of 1 to BOOT_CS_GO by an initiator of level `lvl` and tenant `ten` (R453). -/
def Blk.csGo (s : Blk) (lvl ten : Nat) : Blk :=
  let ofs := s.reg2 (.boot .BOOT_CS_ADDR_HI) (.boot .BOOT_CS_ADDR_LO)
  match s.findColl ofs with
  | none => s.startRefused 0 0x0B s.place
  | some c =>
    let (r, d, s) := s.readDesc c ofs
    let priv := s.reg (.boot .BOOT_CS_PRIV)
    let r := if r ≠ 0 then r else if s.startChecks c d ≠ 0 then s.startChecks c d
      else if (s.coll c).st ≠ .idle then 0x0A
      else if lvl = 2 ∧ ((d.rights / 2 % 2 = 1 ∧ !bit priv 0) ∨ (d.rights % 2 = 1 ∧ !bit priv 1)) then 0x0F
      else 0
    if r ≠ 0 then s.startRefused c r s.place else
    let s := s.modBoot (fun b => { b with csInit := some (c, d.gen, if lvl = 2 then ten else 0xFF) })
    let s := s.setReg (.boot .BOOT_CS_STAT) (w32 (1 <<< 28 + c))
    let me : Node := (s.place, roleCode s.role)
    let coord := s.coordOf d.places
    if coord = some me then s.startIn c d.gen 0 ofs d.check s.place me
    else match s.hopTo coord with
      | some n => s.ctl c d.gen n (startWords 0 ofs d.check s.place)
      | none => s

/-- Whether START or TEARDOWN from `src` comes from above in the tree, so that this instance takes it; otherwise it is on its way to the
coordinator and goes on. -/
def Blk.fromAbove (s : Blk) (ps : List Word) (src : Node) : Bool :=
  let coord := s.coordOf ps
  if coord = some (s.place, roleCode s.role) then true else
  match s.role with
  | .die => true
  | .tray => decide (src.2 = 2) || decide (src.2 = 3) && decide (1 < (sitesOf ps).length)
  | .span => decide (some src = coord)

/-- Relay a frame of the way to the coordinator. -/
def Blk.relayUp (s : Blk) (c : Nat) (g : BitVec 16) (ps : List Word) (src : Node) (ws : List Word) : Blk :=
  match s.hopTo (s.coordOf ps) with
  | some n => if n = src then s else s.ctl c g n ws
  | none => s

/-! ### Meanings: start -/

/-- Words of a frame's payload. -/
def Frame.word (f : Frame) (i : Nat) : Word := wordAt f.payload i
def Frame.node (f : Frame) : Node := (f.src, f.srole)
def Frame.gen16 (f : Frame) : BitVec 16 := BitVec.ofNat 16 f.gen

/-- Places of a frame from word 3 on. -/
def Frame.placeList (f : Frame) : List Word := placesFrom f.payload 3 (f.payload.length / 4 - 3)

/-- COLLECTION_START_REQUEST's effect is `Blk.csGo`, reached by the register write (Cp.lean).

Take a COLLCTL frame of SUB `sub`; its units are free at once. -/
def takeCtl (sub : Nat) (r : RxFrame) (f : Blk → Frame → Blk) : State → Host.Outcome State Fault Refusal := lift fun s =>
  match s.takeSub r ftCollctl sub with
  | (s, none) => s
  | (s, some t) =>
    -- an instance that holds tl_ready low takes no part in any tree (R41)
    if s.boot.ready then f (s.frameDone t) t.f else s.frameDone t

/-- COLLCTL_START (R454, R455). -/
def execCollctlStart (r : RxFrame) : State → Host.Outcome State Fault Refusal := takeCtl 1 r fun s f =>
  let c := f.coll
  if s.conf.colls ≤ c then s.ctlStale else
  let ofs := hiLo (f.word 3) (f.word 2)
  let d := s.readDesc c ofs
  if d.1 = 0 ∧ (s.coll c).st = .idle ∧ !s.fromAbove d.2.1.places f.node then
    s.relayUp c f.gen16 d.2.1.places f.node (startWords 0 ofs (f.word 4) (f.word 5))
  else s.startIn c f.gen16 (fld (f.word 1) 0 0) ofs (f.word 4) (f.word 5) f.node

/-- Crown B forwards a frame of a re-reached member to crown A, with the member as its source (R457; DESIGN CHOICE, log 21). -/
def Blk.forward (s : Blk) (f : Frame) (dst : Word) : Blk :=
  match s.blockQueue 2 dst 2 with
  | (none, s) => s
  | (some q, s) => s.enqFrame q { f with dst := dst, drole := 2, credits := [.none], sent := 0, lv := false }

/-- COLLCTL_ACK (R455, R457, R458). -/
def execCollctlAck (r : RxFrame) : State → Host.Outcome State Fault Refusal := takeCtl 2 r fun s f =>
  let c := f.coll
  let reason := fld (f.word 1) 7 0
  let n := (f.word 2).toNat
  if !s.starting c f.gen then
    if s.isInit c f.gen ∧ reason ≠ 0 then s.noteOutcome c f.gen16 (abortWords reason (if n = 0 then f.src else f.word 3))
    else s.ctlStale
  else
    match (s.coll c).cs with
    | none => s
    | some cs =>
      let s := if cs.relay.contains f.src then
          (match crownIn (atSite (s.coll c).parts (siteOf s.place)) false with
          | some a => if a = s.place then s else s.forward f a
          | none => s)
        else s
      let s := s.modCs c (fun cs => { cs with kids := cs.kids.map (fun (k : CKid) =>
        if k.place ≠ f.src ∨ k.role ≠ f.srole ∨ k.done then k else
        if reason ≠ 0 then { k with done := true, heard := s.tclk, refusal := some (reason, if n = 0 then f.src else f.word 3) }
        else
          let ex := addPlaces k.excl (f.placeList.take n)
          { k with heard := s.tclk, excl := ex, done := decide (n ≤ ex.length) }) })
      s.startAgg c

/-- COLLCTL_WAIT (R456): a WAIT counts as being heard. -/
def execCollctlWait (r : RxFrame) : State → Host.Outcome State Fault Refusal := takeCtl 3 r fun s f =>
  let c := f.coll
  if !s.starting c f.gen then s.ctlStale else
  let s := match (s.coll c).cs, crownIn (atSite (s.coll c).parts (siteOf s.place)) false with
    | some cs, some a => if cs.relay.contains f.src ∧ a ≠ s.place then s.forward f a else s
    | _, _ => s
  s.modCs c (fun cs => { cs with kids := cs.kids.map (fun (k : CKid) =>
    if k.place = f.src ∧ k.role = f.srole then { k with heard := s.tclk } else k) })

/-- START_WAIT_REPEAT (R456): 1 ms has passed since the last WAIT. -/
def execStartWaitRepeat (c : Nat) : State → Host.Outcome State Fault Refusal := lift fun s =>
  match (s.coll c).cs with
  | some cs => (match cs.waitAt with
    | some t => if cs.own.isNone ∧ s.passed t (s.ms 1) then s.startWait c else s
    | none => s)
  | none => s

/-- Re-reach the members of a silent subtree from crown A (R457): through crown B, or directly when it lies in the subtree. -/
def Blk.reachA (s : Blk) (c : Nat) (root : Word) : Blk :=
  match (s.coll c).cs with
  | none => s
  | some cs =>
    let v := s.coll c
    let tree := atSite v.parts (siteOf s.place)
    let ms := subtreeIn tree false 20 root
    let mk := fun (p : Word) => ({ place := p, role := 2, heard := s.tclk, again := true, done := false, excl := [],
                                   refusal := none } : CKid)
    let s := s.modCs c (fun cs => { cs with
      kids := (cs.kids.filter (fun k => k.role ≠ 2 ∨ !ms.contains k.place)) ++ ms.map mk })
    match crownIn tree true with
    | some b =>
      if ms.contains b ∨ b = s.place then
        ms.foldl (fun s p => s.ctl c v.gen (p, 2) (startWords 0 cs.ofs cs.check cs.init.1)) s
      else s.ctl c v.gen (b, 2) [8, root]
    | none => s

/-- Crown B is asked to re-reach a subtree (R457). -/
def Blk.reachB (s : Blk) (c : Nat) (root : Word) : Blk :=
  match (s.coll c).cs with
  | none => s
  | some cs =>
    let v := s.coll c
    let ms := subtreeIn (atSite v.parts (siteOf s.place)) false 20 root
    let s := s.modCs c (fun cs => { cs with relay := addPlaces cs.relay ms })
    ms.foldl (fun s p => s.ctl c v.gen (p, 2) (startWords 1 cs.ofs cs.check cs.init.1)) s

/-- A child is excluded: listed, with its event. -/
def Blk.excludeKid (s : Blk) (c : Nat) (k : CKid) (ps : List Word) (fenced : Bool) : Blk :=
  let s := ps.foldl (fun s p => s.emit 0x14 0x1404 p.toNat (b2n fenced + c <<< 8)) s
  let s := s.modCs c (fun cs => { cs with kids := cs.kids.map (fun x =>
    if x.place = k.place ∧ x.role = k.role then { x with done := true, excl := addPlaces x.excl ps } else x) })
  s.startAgg c

/-- A tray child has been silent (R457). -/
def Blk.traySilent (s : Blk) (c : Nat) (cs : CStart) (k : CKid) : Blk :=
  let v := s.coll c
  let site := atSite v.parts (siteOf k.place)
  if s.role = .span then
    match crownIn site true with
    | some b =>
      if k.again ∨ b = k.place then s.excludeKid c k site false else
      let s := s.modCs c (fun cs => { cs with kids := cs.kids.map (fun x =>
        if x.place = k.place ∧ x.role = 2 then { x with place := b, again := true, heard := s.tclk } else x) })
      s.ctl c v.gen (b, 2) (startWords 1 cs.ofs cs.check cs.init.1)
    | none => s
  else
    let a := crownIn site false
    let b := crownIn site true
    if k.again then
      if a = some s.place then (s.sendFence true k.place false).excludeKid c k [k.place] true
      else s.excludeKid c k [k.place] false
    else if a = some s.place then (s.reachA c k.place).startAgg c
    else
      let ms := subtreeIn site false 20 k.place
      let s := match a with | some a => s.ctl c v.gen (a, 2) [8, k.place] | none => s
      let s := match b with
        | some b => if ms.contains b then s else if b = s.place then s.reachB c k.place else s.ctl c v.gen (b, 2) [8, k.place]
        | none => s
      let s := s.modCs c (fun cs => { cs with kids := cs.kids.filter (fun x => x.place ≠ k.place ∨ x.role ≠ 2) })
      s.startAgg c

/-- REREACH_TIMEOUT (R455, R457): a child has not been heard for BOOT_RR. -/
def execRereachTimeout (c : Nat) (child : Word) : State → Host.Outcome State Fault Refusal := lift fun s =>
  match (s.coll c).cs with
  | none => s
  | some cs =>
    match cs.kids.find? (fun k => k.place == child && !k.done) with
    | none => s
    | some k =>
      if !s.passed k.heard (s.us (fld (s.reg (.boot .BOOT_RR)) 15 0)) then s
      else if k.role = 1 then s.excludeKid c k [k.place] false
      else if k.role = 3 then s.excludeKid c k [] false
      else s.traySilent c cs k

/-- COLLCTL_REREACH (R457). -/
def execCollctlRereach (r : RxFrame) : State → Host.Outcome State Fault Refusal := takeCtl 8 r fun s f =>
  let c := f.coll
  if !s.starting c f.gen then s.ctlStale else
  let tree := atSite (s.coll c).parts (siteOf s.place)
  if crownIn tree false = some s.place then
    let ms := subtreeIn tree false 20 (f.word 1)
    -- the asking node has asked crown B itself
    match crownIn tree true with
    | some b => if ms.contains b ∨ b = s.place then s.reachA c (f.word 1) else
        let mk := fun (p : Word) => ({ place := p, role := 2, heard := s.tclk, again := true, done := false, excl := [],
                                       refusal := none } : CKid)
        s.modCs c (fun cs => { cs with kids := cs.kids ++ ms.map mk })
    | none => s
  else s.reachB c (f.word 1)

/-- START_TIMEOUT (R458): BOOT_CS_TMO has passed at the coordinator. -/
def execStartTimeout (c : Nat) : State → Host.Outcome State Fault Refusal := lift fun s =>
  match (s.coll c).cs with
  | none => s
  | some cs =>
    if !cs.coord ∨ !s.passed cs.at_ (s.ms (s.reg (.boot .BOOT_CS_TMO)).toNat) then s else
    match s.firstRefusal cs with
    | some (r, p) => s.outcome c (abortWords r p)
    | none => s.outcome c (abortWords 0x0E 0)

/-- COLLCTL_COMMIT (R459). -/
def execCollctlCommit (r : RxFrame) : State → Host.Outcome State Fault Refusal := takeCtl 4 r fun s f =>
  let c := f.coll
  let n := (f.word 2).toNat
  if !s.starting c f.gen then
    if s.isInit c f.gen then s.noteOutcome c f.gen16 [4, f.word 1, f.word 2] else s.ctlStale
  else
    let s := s.modCs c (fun cs => { cs with commitIn := addPlaces cs.commitIn (f.placeList.take n) })
    match (s.coll c).cs with
    | some cs => if cs.commitIn.length < n then s else s.outcome c (commitWords (f.word 1) cs.commitIn)
    | none => s

/-- COLLCTL_ABORT (R458). -/
def execCollctlAbort (r : RxFrame) : State → Host.Outcome State Fault Refusal := takeCtl 5 r fun s f =>
  let c := f.coll
  let ws := abortWords (fld (f.word 1) 7 0) (f.word 2)
  if s.starting c f.gen then s.outcome c ws
  else if s.isInit c f.gen then s.noteOutcome c f.gen16 ws else s.ctlStale

/-- OUTCOME_TIMEOUT (R459): BOOT_RR has passed since the acknowledgement; both tree parents are asked. -/
def execOutcomeTimeout (c : Nat) : State → Host.Outcome State Fault Refusal := lift fun s =>
  match (s.coll c).cs with
  | none => s
  | some cs =>
    match cs.acked with
    | none => s
    | some t =>
      if !s.passed t (s.us (fld (s.reg (.boot .BOOT_RR)) 15 0)) then s else
      let tree := atSite (s.coll c).parts (siteOf s.place)
      let ps := if s.role ≠ .tray then [] else [false, true].filterMap (fun b => (parentIn tree b s.place).map (fun p => (p, 2)))
      let dsts : List Node := if ps.isEmpty then cs.up.toList else ps.foldl (fun l n => if l.contains n then l else l ++ [n]) []
      dsts.foldl (fun s n => s.ctl c (s.coll c).gen n [9]) (s.modCs c (fun cs => { cs with acked := some s.tclk }))

/-- COLLCTL_OUTCOME (R459): a node that holds the outcome answers it; one that still waits for it answers nothing. -/
def execCollctlOutcome (r : RxFrame) : State → Host.Outcome State Fault Refusal := takeCtl 9 r fun s f =>
  let c := f.coll
  if s.starting c f.gen then s else
  match (s.coll c).outcome with
  | some (g, ws) => if g = f.gen16 then s.ctlList c g f.node ws else s.ctlStale
  | none => s.ctlStale

/-- COLLCTL_EFFECTIVE (R232, R408): from its turn on, the trees leave the fenced place out; it goes on down both trees. -/
def execCollctlEffective (r : RxFrame) : State → Host.Outcome State Fault Refusal := takeCtl 0xA r fun s f =>
  let c := f.coll
  let v := s.coll c
  if (v.st ≠ .running ∧ v.st ≠ .starting) ∨ v.gen ≠ f.gen16 then s.ctlStale else
  let y := f.word 1
  let n := f.word 2
  if v.gone.any (fun p => p.1 == y) ∨ !v.parts.contains y then s else
  let ps := s.treeOf c (s.turnOf c)
  let kids := (kidsIn ps false s.place ++ kidsIn ps true s.place).foldl (fun l p => insPlace p l) []
  let s := if s.role ≠ .tray then s else kids.foldl (fun s p => s.ctl c v.gen (p, 2) [0xA, y, n]) s
  let s := s.modColl c (fun v => { v with gone := v.gone ++ [(y, n)] })
  (openAll c (if s.role = .tray then (s.treePeers (s.treeOf c n)).flatMap (fun p => [(false, 3, p, 2), (true, 3, p, 2)]) else []) s).getD s

/-! ### Teardown (R460) -/

/-- A teardown ends at this instance when its own part and its children's are done: TD_DONE goes up, the collection is idle, and
starts that have waited go on (R456). -/
def Blk.tdAgg (s : Blk) (c : Nat) : Blk :=
  let v := s.coll c
  match v.td with
  | none => s
  | some t =>
    if !t.own ∨ !t.kids.isEmpty then s else
    let s := match t.up with | some n => s.ctl c v.gen n [7] | none => s
    let s := s.setColl c Coll.idle
    let s := s.setReg (.boot .BOOT_TD_STAT) (w32 (2 <<< 28 + c))
    let s := (s.setReg (.cpi (.CPI_Cc_OWNER c)) 0xFE).emit 0x14 0x1405 (c + v.gen.toNat <<< 16) t.forced
    if s.tearing then s else
    (s.colls.filter (fun p => p.2.cs.any (fun cs => cs.own.isNone))).foldl (fun s p => (s.startOwn p.1).startAgg p.1) s

/-- Look whether the send contexts of a teardown are reclaimed. -/
def Blk.tdPoll (s : Blk) (c : Nat) : Blk :=
  match (s.coll c).td with
  | none => s
  | some t => if t.own ∨ !s.reclaimed c then s else (s.closeOwn c 0).tdAgg c

def Blk.tdPollAll (s : Blk) : Blk := (Store.keys s.colls).foldl (fun s c => s.tdPoll c) s

/-- Carry out a teardown here (R460); while the scheduler core is absent it is held (Table 14-4). `up` is the node that takes
TD_DONE. -/
def Blk.tdIn (s : Blk) (c : Nat) (up : Option Node) : Blk :=
  if s.coreLost 2 then
    s.modFwc (fun m => { m with heldTd := m.heldTd ++ [(c, match up with | some n => 2 ^ 32 * n.2 + n.1.toNat | none => 0)] })
  else
  let v := s.coll c
  let ps := s.treeOf c (s.turnOf c)
  let coord := s.coordOf v.parts == some (s.place, roleCode s.role)
  let kids : List Node := match s.role with
    | .die => []
    | .tray => v.dies.map (fun p => (p, 1)) ++ (kidsIn ps false s.place).map (fun p => (p, 2)) ++
        (if coord ∧ (s.redsOf c).any (fun r => match s.reduction c r with | some v => decide (v.scope = 3) | none => false) then
          (s.parentPlace.toList).map (fun p => (p, 3)) else [])
    | .span => if coord then s.startKids (v.parts.filter (fun p => !v.excl.contains p)) true false else []
  let s := s.modColl c (fun v => { v with st := .tearing, restarting := false, held := false, cs := none,
                                          td := some { at_ := s.tclk, kids := kids, up := up, forced := 0, own := false } })
  let s := s.setReg (.boot .BOOT_TD_STAT) (w32 (1 <<< 28 + c))
  let s := kids.foldl (fun s n => s.ctl c v.gen n [6]) s
  (s.stopColl c).tdPoll c

/-- A write of BOOT_TD (R460): `lvl` and `ten` are those of the writer. False when the value is refused: no running collection of
that generation, or another tenant's. -/
def Blk.tdGo (s : Blk) (v : Word) (lvl ten : Nat) : Bool × Blk :=
  if !bit v 31 then (true, s) else
  let c := fld v 21 16
  let k := s.coll c
  let owner := fld (s.reg (.cpi (.CPI_Cc_OWNER c))) 7 0
  if s.conf.colls ≤ c ∨ k.st ≠ .running ∨ k.gen.toNat ≠ fld v 15 0 ∨ (lvl = 2 ∧ owner ≠ ten) then (false, s) else
  let s := s.setReg (.boot .BOOT_TD_STAT) (w32 (1 <<< 28 + c))
  let coord := s.coordOf k.parts
  if coord = some (s.place, roleCode s.role) then (true, s.tdIn c none) else
  match s.hopTo coord with
  | some n => (true, s.ctl c k.gen n [6])
  | none => (true, s)

/-- COLLCTL_TEARDOWN (R460): it goes on to the coordinator, or is carried out. -/
def execCollctlTeardown (r : RxFrame) : State → Host.Outcome State Fault Refusal := takeCtl 6 r fun s f =>
  let c := f.coll
  let v := s.coll c
  if v.st ≠ .running ∧ v.st ≠ .tearing ∨ v.gen ≠ f.gen16 then s.ctlStale
  else if v.st = .tearing then s
  else if !s.fromAbove v.parts f.node then s.relayUp c v.gen v.parts f.node [6]
  else s.tdIn c (if s.coordOf v.parts = some (s.place, roleCode s.role) then none else some f.node)

/-- COLLCTL_TD_DONE (R460). -/
def execCollctlTdDone (r : RxFrame) : State → Host.Outcome State Fault Refusal := takeCtl 7 r fun s f =>
  let c := f.coll
  let v := s.coll c
  if (v.st ≠ .running ∧ v.st ≠ .tearing) ∨ v.gen ≠ f.gen16 then s.ctlStale else
  (s.modColl c (fun v => { v with td := v.td.map (fun t => { t with kids := t.kids.filter (· ≠ f.node) }) })).tdAgg c

/-- TEARDOWN_FORCE_CLOSE (R460): BOOT_TD_TMO has passed; the contexts not reclaimed are closed by force. -/
def execTeardownForceClose (c : Nat) : State → Host.Outcome State Fault Refusal := lift fun s =>
  match (s.coll c).td with
  | none => s
  | some t =>
    if t.own ∨ !s.passed t.at_ (s.ms (s.reg (.boot .BOOT_TD_TMO)).toNat) then s else
    let n := (s.qsc.flows.filter (fun p => !p.2.recv && p.2.colls.contains c && decide (sdiff p.2.limit (p.2.sent + w32 p.2.grant) < 0))).length
    (s.closeOwn c n).tdAgg c

/-- CREDIT_RECEIVE (R345): the LIMIT of the sender's context is taken with the frame; a teardown that has waited for it goes on
(R460). -/
def execCreditReceive (f : RxFrame) : State → Host.Outcome State Fault Refusal := lift fun s =>
  (s.takeFrame f ftCredit).1.tdPollAll

/-! ### Jobs that end (R171, R172) -/

/-- What becomes of the end of a job: its fault, if it has one. -/
def Blk.jobEnded (r : Option (Job × JobFault) × Blk) : Blk := match r with | (some (j, f), s) => s.jobFault j f | (none, s) => s

/-- SKETCH_JOB_DONE (R258 to R277): the oldest job of cluster `k`'s sketch unit ends. -/
def execSketchJobDone (k : Nat) : State → Host.Outcome State Fault Refusal := lift fun s =>
  if (Store.get [] s.sk.jobs k).isEmpty then s else
  (Blk.jobEnded (s.skJobEnd k)).redPump.redFaults.idleNow k

/-- TSCORE_JOB_DONE (R290 to R299): the oldest job of cluster `k`'s tree unit ends. -/
def execTscoreJobDone (k : Nat) : State → Host.Outcome State Fault Refusal := lift fun s =>
  if (Store.get [] s.tre.jobs k).isEmpty then s else (Blk.jobEnded (s.treJobEnd k)).idleNow k

end Sys2Proof.Machine
end

