-- ==== Sys2Proof/Machine/Firmware.lean ====
section
/-!
DEFINITION. Firmware cores, updates, operating points, clamp, emergencies, wake tokens and licences (R412 to R440, R481).
-/

namespace Sys2Proof.Machine

/-! ### Cores (R412, R429 to R431) -/

/-- Crashes of a core within FWC_CRASH_LIM.WIN. -/
def Blk.crashesIn (s : Blk) (x : Nat) : Nat :=
  let win := s.sec (fld (s.reg (.fwc .FWC_CRASH_LIM)) 15 0)
  ((s.fcore x).crashes.filter (fun t => !s.passed t (win + 1))).length

/-- Cores that the instance has: 0, 1, 2 and one control core for each cluster (Table 14-1). -/
def Blk.hasCore (s : Blk) (x : Nat) : Bool := decide (x ≤ 2 ∨ (0x40 ≤ x ∧ x < 0x40 + s.conf.clusters))

/-! ### Clusters, points and supply (R422, R481) -/

/-- SLOTS and VCODE of an operating point. -/
def Blk.oppSlots (s : Blk) (k : Nat) : Nat := fld (s.reg (.pwr (.PWR_OPP k))) 26 24
def Blk.oppCode (s : Blk) (k : Nat) : Nat := fld (s.reg (.pwr (.PWR_OPP k))) 15 0

/-- Ask the host for a supply code (R481); a later request waits its turn. -/
def Blk.vreq (s : Blk) (k opp : Nat) : Blk :=
  s.modPwr (fun m => { m with vreqs := m.vreqs ++ [⟨k, BitVec.ofNat 16 (s.oppCode opp), opp, s.tclk⟩] })

/-- Move a cluster to a point (R422): to fewer slots at once, and the lower code is asked for afterwards; to more slots once
the host has acknowledged the higher code. Never above PWR_CLk_CAP. -/
def Blk.moveTo (s : Blk) (k opp : Nat) : Blk :=
  let opp := min opp (fld (s.reg (.pwr (.PWR_CLk_CAP k))) 2 0)
  let c := s.clu k
  if opp = c.opp then s
  else if s.oppSlots c.opp < s.oppSlots opp then
    if s.pwr.vreqs.any (fun v => v.cluster = k) then s else s.vreq k opp
  else
    let s := s.modPwr (fun m => { m with vreqs := m.vreqs.filter (fun v => v.cluster ≠ k ∨ s.oppSlots v.opp ≤ s.oppSlots c.opp) })
    (s.setClu k { c with opp := opp }).vreq k opp

/-- Force clusters to OPP 0 in hardware (R425, R429). -/
def Blk.forceSafe (s : Blk) (ks : List Nat) : Blk :=
  ks.foldl (fun s k =>
    let s := s.modPwr (fun m => { m with vreqs := m.vreqs.filter (fun v => v.cluster ≠ k) })
    s.setClu k { s.clu k with opp := 0 }) s

/-! ### Emergencies (R426) -/

/-- Set EMERG for a cause (1 clamp, 2 power warning, 3 supply, 4 limit); a power handover not yet read is abandoned (R419). -/
def Blk.emergSet (s : Blk) (cause : Nat) : Blk :=
  let s := s.modPwr (fun m => { m with lastCond := s.tclk })
  if s.pwr.emerg then s else
  let s := s.modPwr (fun m => { m with emerg := true })
  let s := s.emit 0x12 0x1202 (1 + cause <<< 1) s.t64.toNat
  if (s.fcore 1).st = .handover then
    (s.setCore 1 { s.fcore 1 with st := .run }).modFwc (fun m => { m with powerDue := true })
  else s

/-- Any clamp hold runs. -/
def Blk.clamped (s : Blk) : Bool := s.pwr.clus.any (fun p => p.2.clampAt.isSome)

/-! ### The handover block (R419 to R421) -/

/-- A component record: tag, state version, length and state. -/
def hoRec (x : Nat × Nat × List Byte) : List Byte :=
  leBytes 2 x.1 ++ leBytes 2 x.2.1 ++ leBytes 4 x.2.2.length ++ x.2.2

/-- The component records of a handover block, at most `n`: tag and state version. -/
def hoParse : Nat → List Byte → List (Nat × Nat)
  | 0, _ => []
  | n + 1, b =>
    if b.length < 8 ∨ b.length < 8 + leAt b 4 4 then [] else (leAt b 0 2, leAt b 2 2) :: hoParse n (b.drop (8 + leAt b 4 4))

/-- The header of a handover block (R420). The rule places FMT alone; the other fields follow it in its order, four bytes each, and the
length is that of the records (DESIGN CHOICE, log 78). -/
def hoHeader (old new turn : Word) (n : Nat) (body : List Byte) : List Byte :=
  leBytes 4 0x48420001 ++ leBytes 4 old.toNat ++ leBytes 4 new.toNat ++ leBytes 4 turn.toNat ++ leBytes 4 n ++
    leBytes 4 body.length ++ leBytes 4 (crc32c body).toNat ++ leBytes 36 0

/-- First byte of the handover block. -/
def Blk.hoBase (s : Blk) : Nat := s.reg2 (.fwc .FWC_HO_BASE_HI) (.fwc .FWC_HO_BASE_LO)

/-- The old images of the cores `xs` write their state into the handover block (R419, R420). -/
def Blk.hoWrite (s : Blk) (xs : List Nat) (new turn : Word) : Blk :=
  let (rs, s) := xs.foldl (fun (a : List (Nat × Nat × List Byte) × Blk) x =>
    let (d, s) := a.2.draw
    let own := Config.handover d
    (a.1 ++ own, s.modFwc (fun m => { m with hoTags := Store.set [] m.hoTags x (own.map (fun r => r.1 % 65536)) }))) ([], s)
  let body := rs.flatMap hoRec
  s.xmWrite s.hoBase (hoHeader (s.reg (.fwc .FWC_FWVER)) new turn rs.length body ++ body) false

/-- The component records of the handover block (R420); it has none when it is not one, or its CRC fails. -/
def Blk.hoBlock (s : Blk) : List (Nat × Nat) × Blk :=
  let (h, _, s) := s.xmRead 0x3F s.hoBase 64
  let (body, _, s) := s.xmRead 0x3F (s.hoBase + 64) (leAt h 20 4)
  (if slice h 0 4 ≠ leBytes 4 0x48420001 ∨ leAt h 24 4 ≠ (crc32c body).toNat then [] else hoParse (leAt h 16 4) body, s)

/-- The image that core `x` now runs reads the handover block (R420): a component without a record starts afresh; so does one whose
state version is not accepted, and then FWC_HO_DROP names it. -/
def Blk.hoRead (s : Blk) (x : Nat) : Blk :=
  let tags := Store.get [] s.fwc.hoTags x
  let (rs, s) := s.hoBlock
  let (d, s) := s.draw
  let drops := tags.filter (fun t => match rs.find? (fun r => r.1 = t) with
    | some r => !Config.accepts d r.1 r.2
    | none => false)
  let fresh := tags.filter (fun t => drops.contains t || !rs.any (fun r => r.1 = t))
  drops.foldl (fun s t => s.emitCore x 0x1108 x t) (s.modFwc (fun m => { m with hoFresh := Store.set [] m.hoFresh x fresh }))

/-! ### Crashes -/

/-- Take a cluster out of service (R428, R431): it naps until reset, and every collection on it faults with origin 0x5. -/
def Blk.loseCluster (s : Blk) (k : Nat) : Blk :=
  let s := s.setClu k { s.clu k with disabled := true, nap := true, waking := false }
  let s := s.modPwr (fun m => { m with wakeQ := m.wakeQ.filter (fun q => q % 64 ≠ k) })
  (Store.keys s.colls).foldl (fun s c =>
    if (s.coll c).st = .running ∧ (s.coll c).clusters.contains k then s.faultColl c (w32 (5 <<< 20)) 0 else s) s

/-- T64 of the turn deadline of a collection whose control core crashes now (R430). -/
def Blk.turnDeadline (s : Blk) (c : Nat) : Dword :=
  let t := s.tracker (s.coll c).trk
  let grace := BitVec.ofNat 64 ((s.reg (.fwc .FWC_CC_GRACE)).toNat * tkUs)
  if t.running ∧ t.pred ≠ 0 then t.mstamp + BitVec.ofNat 64 t.pred + grace else s.t64 + grace

/-- A core crashes (R421, R429, R431): cause 1 watchdog, 2 machine-mode fault, 3 uncorrectable error, 4 handover failure. -/
def Blk.crash (s : Blk) (x cause : Nat) : Blk :=
  let v := s.fcore x
  if !s.hasCore x ∨ v.st = .off ∨ v.st = .held then s else
  let revert := decide (cause = 1) && (match v.tookAt with | some t => !s.passed t (s.sec 1) | none => false)
  let v := { v with st := .restart, crashes := v.crashes ++ [s.tclk] }
  let v := if revert then { v with img := v.prevImg, onPrev := true, tookAt := none } else v
  let s := s.setCore x v
  let s := (s.setReg (.fwc (.FWC_COREx_CAUSE x)) (w32 (cause % 16))).count (.fwc (.FWC_COREx_CRASHES x)) 1
  let s := s.emitCore x 0x1101 x (cause % 16)
  let s := s.flushReq 1 0x1101
  let s := if revert then
      (s.modFwc (fun m => { m with upd := 9, updCore := x, since := s.tclk })).emitCore x 0x1105 x v.img.toNat |>.hoRead x
    else s
  let n := s.crashesIn x
  let held := decide (fld (s.reg (.fwc .FWC_CRASH_LIM)) 23 16 ≤ n)
  let s := if held then (s.setCore x { s.fcore x with st := .held }).emitCore x 0x1102 x n else s
  if x = 0 then
    let s := if held ∧ s.fwc.upd = 1 then
        (s.modFwc (fun m => { m with upd := 0xA, checking := none })).clearBusy Domain.update
      else s
    if s.lic.checking.isSome then
      ((s.modLic (fun m => { m with checking := none })).setReg (.lic .LIC_RESULT) (w32 (2 + 5 <<< 4))).emit 0x13 0x1302 5 0
    else s
  else if x = 1 then
    (s.modPwr (fun m => { m with pcLost := true })).forceSafe (List.range s.logical) |>.abortTests 5
  else if x = 2 then
    -- a start not yet placed is abandoned and refused (Table 14-4)
    (s.colls.filter (fun p => p.2.cs.any (fun cs => cs.own.isNone))).foldl (fun s p =>
      (s.modCs p.1 (fun cs => { cs with own := some 0x0D, waitAt := none })).startAgg p.1) s
  else if 0x40 ≤ x then
    let k := x - 0x40
    let s := s.setCore x { s.fcore x with deadline := (s.colls.filter (fun p =>
      decide (p.2.st = .running) && p.2.clusters.contains k)).map (fun p => (p.1, s.turnDeadline p.1)) }
    if held then s.loseCluster k else s
  else s

/-! ### Bundles and updates (R415 to R421) -/

/-- A bundle in XM by its fields; none when a field is out of range or a reserved field is non-zero (Table 14-2). -/
def bundleOf (b : List Byte) : Option Bundle :=
  let kinds := leAt b 4 1
  let len := leAt b 20 4
  let ks := (List.range 4).filter (fun i => decide (kinds / 2 ^ i % 2 = 1))
  if leAt b 0 4 ≠ 0x46570001 ∨ 16 ≤ kinds ∨ leAt b 5 3 ≠ 0 ∨ leAt b 56 8 ≠ 0 ∨ len < 64 ∨ 16777216 < len ∨
      ks.any (fun i => decide (leAt b (24 + 4 * i) 4 < 64 ∨ len < leAt b (24 + 4 * i) 4 + leAt b (40 + 4 * i) 4)) then none
  else some { kinds := BitVec.ofNat 4 kinds, ifver := w32 (leAt b 8 4), fwver := w32 (leAt b 12 4), svn := w32 (leAt b 16 4) }

/-- Whether an interface version accepts the host's (R414). -/
def verOk (fw host : Word) : Bool := decide (fld fw 31 16 = fld host 31 16 ∧ fld host 15 0 ≤ fld fw 15 0)

/-- Core numbers that a bundle's images serve, the power core apart. -/
def Blk.handCores (s : Blk) (b : Bundle) : List Nat :=
  (if b.kinds.getLsbD 0 then [0] else []) ++ (if b.kinds.getLsbD 2 then [2] else []) ++
    (if b.kinds.getLsbD 3 then (List.range s.conf.clusters).map (0x40 + ·) else [])

/-- Start the handover of a core (R419). -/
def Blk.handStart (s : Blk) (x : Nat) : Blk :=
  if (s.fcore x).st = .held then s else s.setCore x { s.fcore x with st := .handover }

/-- Start the handover of the cores `xs` to the images of bundle `b` at turn `n`: their old images write the handover block and stop
(R419). -/
def Blk.handAll (s : Blk) (xs : List Nat) (b : Bundle) (n : Word) : Blk :=
  let ys := xs.filter (fun x => decide ((s.fcore x).st ≠ .held))
  if ys.isEmpty then s else ys.foldl Blk.handStart (s.hoWrite ys b.fwver n)

/-- When every image of an activation has taken over, the bundle runs and the status is ACTIVE (Table 14-3). -/
def Blk.updCheck (s : Blk) : Blk :=
  match s.fwc.active with
  | none => s
  | some b =>
    if s.fwc.powerDue ∨ s.fwc.cores.any (fun p => p.2.st = .handover) then s else
    let s := s.modFwc (fun m => { m with active := none, running := b, since := s.tclk,
                                         upd := (if m.upd = 9 then 9 else 8) })
    (s.setReg (.fwc .FWC_FW_VER) b.ifver).setReg (.fwc .FWC_FWVER) b.fwver

/-- Step 4 of a boundary that opens turn `n` of tracker `t`, for the firmware complex (R418, R419): an armed bundle activates,
or is deferred while EMERG is 1; the power image takes over at a later boundary once every other handover has completed. -/
def Blk.fwcBoundary (s : Blk) (t : Nat) (n : Word) : Blk :=
  let arm := s.reg (.fwc .FWC_UPD_ARM)
  if fld arm 21 16 ≠ t then s else
  match s.fwc.armed with
  | some b =>
    if !(n == s.reg (.fwc .FWC_UPD_TURN) || bit arm 30 || decide (s.fwc.upd = 7)) then s
    else if s.pwr.emerg then
      if s.fwc.upd = 7 then s else
      (s.modFwc (fun m => { m with upd := 7 })).emit 0x11 0x1104 (s.reg (.fwc .FWC_UPD_TURN)).toNat t
    else
      let s := s.modFwc (fun m => { m with armed := none, active := some b, powerDue := b.kinds.getLsbD 1 })
      let s := s.setReg (.fwc .FWC_UPD_ARM) (setFld arm 31 31 0)
      (s.handAll (s.handCores b) b n).updCheck
  | none =>
    match s.fwc.active with
    | some b =>
      if s.fwc.powerDue ∧ !s.pwr.emerg ∧ !s.fwc.cores.any (fun p => p.2.st = .handover) then
        (s.modFwc (fun m => { m with powerDue := false })).handAll [1] b n
      else s
    | none => s

/-! ### Licences (R432, R433) -/

/-- A licence object checked against a device identity, its signature apart: the reason of Table 14-10 (0 none) and the
licence. -/
def licenceOf (b : List Byte) (dev : BitVec 256) : Nat × Option Licence :=
  let role := leAt b 36 1
  let feat := leAt b 37 1
  let clus := leAt b 38 1
  if leNat (slice b 4 32) ≠ dev.toNat then (2, none) else
  if leAt b 0 4 ≠ 0x4C430001 ∨ (role ≠ 2 ∧ role ≠ 3) ∨ 8 ≤ feat ∨ 2 < clus ∨ leAt b 39 1 ≠ 0 ∨ leNat (slice b 44 52) ≠ 0 then
    (3, none)
  else if role = 3 ∧ feat / 4 % 2 = 0 then (4, none)
  else (0, some { role := if role = 2 then .tray else .span, tree := decide (feat % 2 = 1), ful := decide (feat / 2 % 2 = 1),
                  lh := decide (feat / 4 % 2 = 1), clus := 16 * 2 ^ clus, serial := w32 (leAt b 40 4) })

/-- The mailbox as bytes. -/
def Blk.licMbox (s : Blk) : List Byte := (List.range 48).flatMap (fun w => leBytes 4 (s.reg (.lic (.LIC_MBOX w))).toNat)

/-! ### Meanings -/

/-- UPDATE_STAGED (R417, Table 14-3): the signature's verdict, then format, SVN and interface version, in order. -/
def execUpdateStaged (r : Verdict) : State → Host.Outcome State Fault Refusal := lift fun s =>
  match s.fwc.checking with
  | none => s
  | some ob =>
    let code := match r with
      | .refuse n => n % 16
      | .ok => match ob with
        | none => 4
        | some b => if b.svn.toNat < s.fwc.svnMin.toNat then 5
                    else if !verOk b.ifver (s.reg (.fwc .FWC_HOST_VER)) then 6 else 2
    let s := s.clearBusy Domain.update
    s.modFwc (fun m => { m with checking := none, upd := code, staged := (if code = 2 then ob else m.staged) })

/-- SVN_RAISE (R416): the bundle has run 24 h without reverting. -/
def execSvnRaise : State → Host.Outcome State Fault Refusal := lift fun s =>
  if s.passed s.fwc.since (s.sec 86400) ∧ s.fwc.upd ≠ 9 ∧ s.fwc.svnMin.toNat < s.fwc.running.svn.toNat then
    s.modFwc (fun m => { m with svnMin := m.running.svn })
  else s

/-- HANDOVER_COMPLETE (R419, R420): the new image of a core has read its state from the handover block and runs. -/
def execHandoverComplete (x : Nat) : State → Host.Outcome State Fault Refusal := lift fun s =>
  match s.fwc.active with
  | none => s
  | some b =>
    let v := s.fcore x
    if v.st ≠ .handover then s else
    let s := s.setCore x { v with st := .run, prevImg := v.img, img := b.fwver, onPrev := false, tookAt := some s.tclk }
    let s := s.hoRead x
    (s.emitCore x 0x1103 b.fwver.toNat x).updCheck

/-- CORE_WATCHDOG (R429, R421). -/
def execCoreWatchdog (x : Nat) : State → Host.Outcome State Fault Refusal := lift fun s => s.crash x 1

/-- CORE_CRASH (R413, R429). -/
def execCoreCrash (x : Nat) (cause : Word) : State → Host.Outcome State Fault Refusal := lift fun s =>
  s.crash x (fld cause 3 0)

/-- COMPONENT_FAULT (R413): the component is restarted alone. -/
def execComponentFault (x comp : Nat) : State → Host.Outcome State Fault Refusal := lift fun s =>
  if s.hasCore x then s.emitCore x 0x1107 x (comp % 65536) else s

/-- CC_DEADLINE (R430): collections whose turn deadline has passed while their control core is absent fault. -/
def execCcDeadline (k : Nat) : State → Host.Outcome State Fault Refusal := lift fun s =>
  let x := 0x40 + k
  if !s.coreLost x then s else
  let due := (s.fcore x).deadline.filter (fun d => decide (d.2.toNat ≤ s.t64.toNat))
  let s := s.setCore x { s.fcore x with deadline := (s.fcore x).deadline.filter (fun d => !due.contains d) }
  due.foldl (fun s d => if (s.coll d.1).st = .running then s.faultColl d.1 (w32 (5 <<< 20)) 0 else s) s

/-- Whether a sensor is watched by clamp and loops (R423): in D the inputs that PWR_CLAMP_SEL selects and the block's own
sensor, number 64; in A64 sensors 0 to 67 by physical cluster and 68 to 71 shared. -/
def Blk.watched (s : Blk) (i : Nat) : Bool :=
  match s.conf with
  | .d => decide (i = 64) || (decide (i < 64) &&
      bit (s.reg (.pwr (if i < 32 then .PWR_CLAMP_SEL_LO else .PWR_CLAMP_SEL_HI))) (i % 32))
  | .a64 => decide (i < 72)

/-- Physical cluster of a logical one: the k-th good one (R436). -/
def Blk.physOf (s : Blk) (k : Nat) : Nat := ((List.range 68).filter (fun i => !s.inst.defect.getLsbD i)).getD k 0

/-- Clusters that a sensor belongs to (R425). -/
def Blk.clustersOf (s : Blk) (i : Nat) : List Nat :=
  match s.conf with
  | .d => [0]
  | .a64 => if i < 68 then (List.range s.logical).filter (fun k => s.physOf k = i) else List.range s.logical

/-- Set or clear the transient tag of a sensor; a die shows it in PRB_SNS_TRANS (R107). -/
def Blk.setTag (s : Blk) (i : Nat) (on : Bool) : Blk :=
  let s := s.modPwr (fun m => { m with tags := if on then insNat i m.tags else m.tags.filter (· ≠ i) })
  if s.role = .die ∧ i < 64 then
    let r : Reg := .prb (if i < 32 then .PRB_SNS_TRANS_LO else .PRB_SNS_TRANS_HI)
    s.setReg r (setFld (s.reg r) (i % 32) (i % 32) (b2n on))
  else s

/-- One sensor at a tick of the power loop: its transient tag (R424). -/
def Blk.tagTick (s : Blk) (i : Nat) (v : BitVec 16) : Blk :=
  let thr : Int := (fld (s.reg (.pwr .PWR_TRANS)) 15 0 : Nat)
  let quiet := fld (s.reg (.pwr .PWR_TRANS)) 31 16
  let d := match Store.look s.pwr.tick i with | some o => v.toInt - o.toInt | none => 0
  let s := s.modPwr (fun m => { m with tick := Store.put m.tick i v })
  if thr < d ∨ d < -thr then
    (s.setTag i true).modPwr (fun m => { m with quiet := Store.set 0 m.quiet i 0 })
  else if s.pwr.tags.contains i then
    let n := Store.get 0 s.pwr.quiet i + 1
    if quiet ≤ (n - 1) * 100 then (s.setTag i false).modPwr (fun m => { m with quiet := Store.set 0 m.quiet i 0 })
    else s.modPwr (fun m => { m with quiet := Store.set 0 m.quiet i n })
  else s

/-- POWER_TICK (R423, R424, R426): tags, the limit, temperatures, and a point for each cluster, which is firmware's own
choice and so a free value. -/
def execPowerTick (ts : List (Nat × BitVec 16)) : State → Host.Outcome State Fault Refusal := lift fun s =>
  if s.pwr.pcLost ∨ !bit (s.reg (.pwr .PWR_CTRL)) 0 then s else
  let ts := ts.filter (fun p => s.watched p.1)
  let s := ts.foldl (fun s p => s.tagTick p.1 p.2) s
  let lim := s16 (fld (s.reg (.pwr .PWR_TEMP_LIM)) 31 16)
  let above := ts.any (fun p => decide (lim < p.2.toInt))
  let s := if above then s.emergSet 4 else if s.pwr.limit then s.modPwr (fun m => { m with lastCond := s.tclk }) else s
  let s := s.modPwr (fun m => { m with limit := above })
  (List.range s.logical).foldl (fun s k =>
    let mine := (ts.filter (fun p => s.conf = .d ∨ p.1 = s.physOf k)).map (fun p => p.2)
    let hot := mine.foldl (fun (a : BitVec 16) v => if a.toInt < v.toInt then v else a) (mine.headD 0)
    let (f, s) := s.draw
    let s := s.setClu k { s.clu k with temp := hot, chosen := f % 8 }
    if (s.clu k).clampAt.isSome ∨ (s.clu k).disabled then s else s.moveTo k (f % 8)) s

/-- CLAMP_SAMPLE (R425): every sensor against its value 100 µs earlier; a rise above 5 °C trips the clamp. -/
def execClampSample (ts : List (Nat × BitVec 16)) : State → Host.Outcome State Fault Refusal := lift fun s =>
  ts.foldl (fun s p =>
    if !s.watched p.1 then s else
    let h := Store.get [] s.pwr.hist p.1
    let s := s.modPwr (fun m => { m with hist := Store.set [] m.hist p.1 ((p.2 :: h).take 10) })
    match h[9]? with
    | none => s
    | some o =>
      let rise := p.2.toInt - o.toInt
      if rise ≤ 640 then s else
      let ks := s.clustersOf p.1
      let s := s.forceSafe ks
      let s := ks.foldl (fun s k => s.setClu k { s.clu k with clampAt := some s.tclk }) s
      let s := (s.setTag p.1 true).modPwr (fun m => { m with quiet := Store.set 0 m.quiet p.1 0 })
      let s := ((s.emergSet 1).emit 0x12 0x1201 p.1 rise.toNat).count (.pwr .PWR_CLAMP_CNT) 1
      let s := s.flushReq 1 0x1201
      if s.role = .die then s.abortTests 3 else s) s

/-- CLAMP_HOLD_END (R425): PWR_CLAMP_HOLD has passed since the cluster's last trip. -/
def execClampHoldEnd (k : Nat) : State → Host.Outcome State Fault Refusal := lift fun s =>
  match (s.clu k).clampAt with
  | none => s
  | some t =>
    if !s.passed t (s.us (s.reg (.pwr .PWR_CLAMP_HOLD)).toNat) then s else
    let s := s.setClu k { s.clu k with clampAt := none }
    let s := s.modPwr (fun m => { m with lastCond := s.tclk })
    if s.pwr.pcLost ∨ (s.clu k).disabled then s else s.moveTo k (s.clu k).chosen

/-- EMERG_CALM (R426): no condition has held for PWR_CALM, and the power core clears EMERG. -/
def execEmergCalm : State → Host.Outcome State Fault Refusal := lift fun s =>
  if s.pwr.emerg ∧ !s.pwr.pcLost ∧ !s.clamped ∧ !s.pwr.warnLow ∧ !s.pwr.supply ∧ !s.pwr.limit ∧
      s.passed s.pwr.lastCond (s.ms (fld (s.reg (.pwr .PWR_CALM)) 15 0)) then
    (s.modPwr (fun m => { m with emerg := false })).emit 0x12 0x1202 0 s.t64.toNat
  else s

/-- SUPPLY_FAULT (R426, R481). -/
def execSupplyFault : State → Host.Outcome State Fault Refusal := lift fun s => s.emergSet 3

/-- POWER_WARNING (R376, R378, R426): a flush starts or is extended, and EMERG is set. -/
def execPowerWarning : State → Host.Outcome State Fault Refusal := lift fun s =>
  ((s.flushReq 2 0).emergSet 2).modPwr (fun m => { m with warnLow := true })

/-- TL_PWR_WARN_N_HIGH (R378, R426): the line has been high for 10 ms; flushes may start again. -/
def execTlPwrWarnNHigh : State → Host.Outcome State Fault Refusal := liftS fun s =>
  let s := s.modEvr (fun v => { v with flushedPw := false })
  let s := s.modBlk (fun b => b.modPwr (fun m =>
    { m with warnLow := false, lastCond := if m.warnLow then max m.lastCond (b.tclk - b.ms 10) else m.lastCond }))
  match s.evr.flush, s.evr.held with
  | none, some h => (s.modEvr (fun v => { v with held := none })).flushStart h.cause h.code h.t64
  | _, _ => s

/-- The next supply request is presented when the one before it has ended (R481). -/
def Blk.vreqNext (s : Blk) : Blk :=
  s.modPwr (fun m => match m.vreqs with
    | v :: t => { m with vreqs := { v with at_ := s.tclk } :: t }
    | [] => m)

/-- VREQ_ACK (R422, R481): the cluster's new point takes effect. -/
def execVreqAck : State → Host.Outcome State Fault Refusal := lift fun s =>
  match s.pwr.vreqs with
  | [] => s
  | v :: t =>
    let s := (s.modPwr (fun m => { m with vreqs := t })).vreqNext
    let c := s.clu v.cluster
    if s.oppSlots c.opp < s.oppSlots v.opp ∧ c.clampAt.isNone ∧ !s.pwr.pcLost ∧ !c.disabled ∧ 6 < s.boot.stage then
      s.setClu v.cluster { c with opp := v.opp }
    else s

/-- LICENCE_RESULT (R433): the signature's verdict, then the object's own checks; a valid licence is stored and pending. -/
def execLicenceResult (r : Verdict) : State → Host.Outcome State Fault Refusal := lift fun s =>
  match s.lic.checking with
  | none => s
  | some (why, ol) =>
    let s := s.modLic (fun m => { m with checking := none })
    let reason := match r with | .refuse n => n % 16 | .ok => why
    match reason, ol with
    | 0, some l =>
      let s := s.modLic (fun m => { m with stored := some l, newer := true })
      (s.setReg (.lic .LIC_RESULT) 6).emit 0x13 0x1301 l.serial.toNat (roleCode l.role)
    | n, _ => (s.setReg (.lic .LIC_RESULT) (w32 (2 + n <<< 4))).emit 0x13 0x1302 n 0

/-! ### Writes of firmware, power and licence registers -/

/-- A write of 1 to FWC_UPD_GO has the security core copy and check a bundle (R417). -/
def Blk.wrUpdGo (s : Blk) (v : Word) : Blk :=
  if !bit v 0 then s
  else if s.secLost then s.modFwc (fun m => { m with upd := 0xA })
  else
    let a := s.reg2 (.fwc .FWC_UPD_ADDR_HI) (.fwc .FWC_UPD_ADDR_LO)
    let (b, _, s) := s.xmRead 0x3F a 64
    (s.modFwc (fun m => { m with upd := 1, checking := some (bundleOf b) })).setBusy Domain.update

/-- A write of FWC_UPD_ARM arms the staged bundle or disarms it (R418). -/
def Blk.wrUpdArm (s : Blk) (v : Word) : Blk :=
  let s := s.setReg (.fwc .FWC_UPD_ARM) v
  s.modFwc (fun m =>
    if bit v 31 then (match m.staged with | some b => { m with armed := some b, staged := none } | none => m)
    else match m.armed with | some b => { m with armed := none, staged := some (m.staged.getD b) } | none => m)

/-- A completed pair of LIC_INSTALL (R433). -/
def Blk.wrLicInstall (s : Blk) (v : Word) : Blk :=
  let s := s.setReg (.lic .LIC_INSTALL) v
  if !bit v 0 then s
  else if s.secLost then (s.setReg (.lic .LIC_RESULT) (w32 (2 + 5 <<< 4))).emit 0x13 0x1302 5 0
  else (s.modLic (fun m => { m with checking := some (licenceOf s.licMbox s.inst.devId) })).setReg (.lic .LIC_RESULT) 1

/-- A completed pair of PWR_CL_DISABLE (R428). -/
def Blk.wrClDisable (s : Blk) (v : Word) : Blk :=
  let s := s.setReg (.pwr .PWR_CL_DISABLE) v
  if fld v 5 0 < s.logical then s.loseCluster (fld v 5 0) else s

/-- A lower PWR_CLk_CAP moves a cluster that runs above it (R422). -/
def Blk.wrClCap (s : Blk) (k : Nat) (v : Word) : Blk :=
  let s := s.setReg (.pwr (.PWR_CLk_CAP k)) v
  if fld v 2 0 < (s.clu k).opp then s.moveTo k (fld v 2 0) else s

end Sys2Proof.Machine
end

