-- ==== Sys2Proof/Machine/Bringup.lean ====
section
/-!
DEFINITION. Bring-up and attachment: reset, stages S0 to S8, training, the attach and peer-table exchanges, the primary
span instance (R24 to R32, R441 to R450, R465, R480, R481).
-/

namespace Sys2Proof.Machine

/-! ### Reports (R441, R442) -/

/-- Raise a report as BOOT_STAGE. -/
def Blk.stageEv (s : Blk) (word detail : Word) : Blk := s.emit 0x14 0x1401 word.toNat detail.toNat

/-- The report word (R442). -/
def reportWord (stage result code : Nat) : Word := w32 (stage <<< 28 + result <<< 24 + code)

/-- Write a stage report: 1 PASS, 2 FAIL, 3 WAIT, 4 DEFER. A report equal to the last one of the stage is not repeated. The
reports of S0 and S1 wait until the recorder starts at the end of S1. -/
def Blk.report (s : Blk) (result code : Nat) (detail : Word) : Blk :=
  let b := s.boot
  if b.result = result ∧ b.code.toNat = code ∧ b.detail = detail then s else
  let w := reportWord b.stage result code
  let s := s.modBoot (fun b => { b with result := result, code := BitVec.ofNat 16 code, detail := detail })
  let s := (s.setReg (.boot .BOOT_REPORT) w).setReg (.boot .BOOT_DETAIL) detail
  if b.stage ≤ 1 then s.modBoot (fun b => { b with early := b.early ++ [(w, detail)] }) else s.stageEv w detail

/-- The event recorder has started: the early reports reach it in order. -/
def Blk.earlyOut (s : Blk) : Blk :=
  s.boot.early.foldl (fun s e => s.stageEv e.1 e.2) (s.modBoot (fun b => { b with early := [] }))

def pass : Nat := 1
def fail : Nat := 2
def wait : Nat := 3
def defer : Nat := 4

/-- Whether the present stage has ended or stopped: a FAIL stands until reset (R442). -/
def Blk.stageOver (s : Blk) : Bool := decide (s.boot.result = fail) || decide (s.boot.stage = 8 ∧ s.boot.result = pass)

/-! ### S5: training (R445, R480) -/

/-- Ports of the configuration in the order of training: XM channels, then fabric pairs at 4 and 5. -/
def Blk.trainPorts (s : Blk) : List Nat := match s.conf with | .d => [0, 4] | .a64 => [0, 1, 2, 3, 4, 5]

def Train.fresh : Train := { req := false, full := false, done := false, at_ := 0 }

def Blk.train (s : Blk) (k : Nat) : Train := Store.get Train.fresh s.boot.trains k
def Blk.setTrain (s : Blk) (k : Nat) (t : Train) : Blk :=
  s.modBoot (fun b => { b with trains := Store.put b.trains k t })

/-- Raise the training request of a port: a fast start when its saved settings pass the short check. -/
def Blk.trainStart (s : Blk) (k : Nat) : Blk :=
  s.setTrain k { req := true, full := !s.inst.fastOk.contains k, done := false, at_ := s.tclk }

/-- Train the next port that has not been trained, if any. -/
def Blk.trainNext (s : Blk) : Blk :=
  match s.trainPorts.find? (fun k => !(s.train k).done) with
  | some k => s.trainStart k
  | none => s

/-- tl_ready falls and a stage begins anew, or the next stage begins. -/
def Blk.setStage (s : Blk) (n : Nat) : Blk :=
  s.modBoot (fun b => { b with stage := n, result := 0, code := 0, detail := 0, stageAt := s.tclk })

/-! ### S7: attach (R447, R448) -/

/-- Send an attach frame, request or reply, with the partition of the attaching instance (R36, R447). -/
def Blk.sendAttach (s : Blk) (dst : Word) (role part : Nat) (w0 w1 : Nat) : Blk :=
  match s.blockQueue 2 dst role with
  | (none, s) => s
  | (some q, s) =>
    s.enqFrame q { Frame.empty with
      dst := dst, src := s.place, drole := role, srole := roleCode s.role, cls := 2, lh := s.lhTo dst, ftype := ftAttach,
      part := part, payload := leBytes 4 w0 ++ leBytes 4 w1, credits := [.none] }

/-- Send the attach request to the parent. -/
def Blk.attachSend (s : Blk) : Blk :=
  match s.parentPlace with
  | none => s
  | some p =>
    (s.sendAttach p s.parentRole s.part 1 s.part).modBoot (fun b => { b with attAt := s.tclk, attAns := false })

/-- Whether the place, parent and partition of the instance can be right: a die's parent is its tray, a tray's parent lies
in its site, and a tray or span place has no die field (R17, R20, R25, R447). -/
def Blk.placeValid (s : Blk) : Bool :=
  match s.role with
  | .die => s.reg (.boot .BOOT_PARENT) == trayOf s.place
  | .tray => decide (dieOf s.place = 0) && (match s.parentPlace with
      | some p => decide (siteOf p = siteOf s.place ∧ dieOf p = 0)
      | none => true)
  | .span => decide (dieOf s.place = 0)

/-- Begin S8. -/
def Blk.pass7 (s : Blk) : Blk := (s.report pass 0x700 0).setStage 8

/-- A span instance passes S7 once BOOT_SPAN_WAIT has passed and every ready instance it has heard has answered (R448). -/
def Blk.spanS7 (s : Blk) : Blk :=
  if s.passed s.boot.stageAt (s.ms (fld (s.reg (.boot .BOOT_SPAN_WAIT)) 15 0)) ∧ s.unanswered = 0 then s.pass7
  else s.report wait 0x705 (w32 s.unanswered)

/-- Begin S7. -/
def Blk.enterS7 (s : Blk) : Blk :=
  let s := s.setStage 7
  if s.role = .span then s.tableTo (fun o => !o.acked) else
  if s.role = .tray ∧ s.parentPlace.isNone then s
  else if s.placeValid then s.attachSend else s.report fail 0x704 0

/-! ### S6: clusters (R422, R436, R481) -/

/-- Good clusters: in A64 the physical clusters that the defect map leaves; D has one. -/
def Blk.goodClusters (s : Blk) : Nat :=
  match s.conf with
  | .d => 1
  | .a64 => ((List.range 68).filter (fun i => !s.inst.defect.getLsbD i)).length

/-- Begin S6: the logical map, then a supply request for each point. -/
def Blk.enterS6 (s : Blk) : Blk :=
  let s := s.setStage 6
  let good := s.goodClusters
  let s := s.modLic (fun m => { m with good := good })
  if s.conf = .a64 ∧ good < 16 then s.report fail 0x601 (w32 good) else
  let lic := match s.lic.force with | some l => l.clus | none => 16
  let n := min lic (if 64 ≤ good then 64 else if 32 ≤ good then 32 else 16)
  let deg := decide (s.conf = .a64 ∧ n < lic)
  let s := s.modLic (fun m => { m with logical := n, degraded := deg })
  let s := if deg then s.emit 0x13 0x1303 n good else s
  let s := s.modPwr (fun m => { m with vreqs := [] })
  (List.range 8).foldl (fun s k => s.vreq 0 k) s

/-! ### S3 to S5 -/

/-- S3: version, then licence (R414, R433, R444). The role is that of the licence. -/
def Blk.runS3 (s : Blk) : Blk :=
  let host := s.reg (.fwc .FWC_HOST_VER)
  if !verOk s.fwc.running.ifver host then
    let new := !(decide (s.boot.result = wait) && s.boot.detail == host)
    let s := (s.modFwc (fun m => { m with vref := true })).report wait 0x301 host
    if new then s.emit 0x11 0x1106 host.toNat s.fwc.running.ifver.toNat else s
  else
    let s := s.modFwc (fun m => { m with vref := false })
    match s.conf, s.lic.stored with
    | .d, _ => (s.report pass 0x300 0).setStage 4
    | .a64, none => s.report fail 0x302 (w32 (fld (s.reg (.lic .LIC_RESULT)) 7 4))
    | .a64, some l =>
      ({ s with role := l.role }.modLic (fun m => { m with force := some l })).report pass 0x300 0 |>.setStage 4

/-- A die whose only master is port 60 (R446). -/
def Blk.defers (s : Blk) : Bool := decide (s.role = .die) && s.inst.port60

/-- Begin S5: every port is trained. -/
def Blk.enterS5 (s : Blk) : Blk :=
  ((s.setStage 5).modBoot (fun b => { b with trains := [], fullAny := false, recWritten := false })).trainNext

/-- S4: epoch, then lock (R446). -/
def Blk.runS4 (s : Blk) : Blk :=
  if !s.boot.epochSeen then s.report wait 0x403 0
  else if s.defers then (s.report defer 0x402 0).enterS5
  else if s.time.lock then (s.report pass 0x400 0).enterS5
  else s.report wait 0x401 (w32 (min s.time.lastE 0xFFFFFFFF))

/-- S5 ends once every port is trained, and, where S4 was deferred, the servo is in lock: a record of saved settings is
written after any full training, and the block returns its beat credits (R445, R446, R472). -/
def Blk.runS5 (s : Blk) : Blk :=
  if s.trainPorts.any (fun k => !(s.train k).done) then s else
  let crd := match s.conf with | .d => 1024 | .a64 => 256
  let s := (List.range s.conf.pairs).foldl (fun s p =>
    if Store.get 0 s.qsc.fiCrd p = 0 then s.modQsc (fun m => { m with fiCrd := Store.put m.fiCrd p crd }) else s) s
  let s := if s.boot.fullAny ∧ !s.boot.recWritten then
      { s with inst := { s.inst with fastOk := s.trainPorts } }.modBoot (fun b => { b with recWritten := true })
    else s
  if s.defers ∧ !s.time.lock then s.report wait 0x504 0
  else (s.report pass (if s.boot.fullAny then 0x501 else 0x500) 0).enterS6

/-! ### S2: cores (R416, R442, R443) -/

/-- Cores of the instance (Table 14-1). -/
def Blk.allCores (s : Blk) : List Nat := [0, 1, 2] ++ (List.range s.conf.clusters).map (0x40 + ·)

/-- S2: the boot bundle is verified and the cores are released; once every core has reported, the scheduler core loads the
event slot table and the stage waits for BOOT_GO. -/
def Blk.runS2 (s : Blk) : Blk :=
  if s.boot.waitGo then s else
  if s.allCores.all (fun x => (s.fcore x).st = .off) then
    if !s.inst.bundleOk ∨ s.inst.bundle.kinds ≠ 0xF then s.report fail 0x201 0
    else if s.inst.bundle.svn.toNat < s.fwc.svnMin.toNat then s.report fail 0x202 0
    else
      (s.allCores.foldl (fun s x => s.setCore x { FCore.fresh with st := CoreSt.boot, img := s.inst.bundle.fwver, prevImg := s.inst.bundle.fwver }) s).modBoot (fun b => { b with stageAt := s.tclk })
  else
    let s := s.allCores.foldl (fun s x => s.setCore x { s.fcore x with st := .run }) s
    let b := s.inst.bundle
    let s := s.modFwc (fun m => { m with running := b, since := s.tclk })
    let s := (s.setReg (.fwc .FWC_FW_VER) b.ifver).setReg (.fwc .FWC_FWVER) b.fwver
    let s := s.inst.slotTab.foldl (fun s e => if s.conf.codeSlots ≤ e.1 then s else
      (s.setReg (.evr (.EVR_SLi_CODE e.1)) (e.2.1 &&& 0xE000FFFF)).setReg (.evr (.EVR_SLi_RATE e.1)) e.2.2) s
    (s.modBoot (fun b => { b with waitGo := true })).report wait 0x2FF 0

/-- S0 and S1 (R46, R435). -/
def Blk.runS0 (s : Blk) : Blk :=
  let s := if s.inst.trefSeen then s else s.loseTref
  (s.report pass (if s.time.trefLost then 1 else 0) 0).setStage 1

def Blk.runS1 (s : Blk) : Blk :=
  match s.inst.mapFail with
  | some (code, det) => (s.report fail code.toNat det).earlyOut
  | none => ((s.report pass 0x100 0).earlyOut).setStage 2

/-- S6 ends when every supply request of its own has been acknowledged: clusters start at OPP 0. -/
def Blk.runS6 (s : Blk) : Blk :=
  if !s.pwr.vreqs.isEmpty then s else
  let s := (List.range s.logical).foldl (fun s k => s.setClu k { s.clu k with opp := 0 }) s
  (s.report pass 0x600 (w32 s.logical)).enterS7

/-- S8: tl_ready rises in the tclk after the report; a span instance of first rank becomes primary (R29, R32, R449). -/
def Blk.runS8 (s : Blk) : Blk :=
  ((s.report pass 0x800 0).modBoot (fun b => { b with ready := true })).rankCheck

/-- What the present stage does when it looks at its condition. -/
def Blk.runStage (s : Blk) : Blk :=
  if s.stageOver then s else
  match s.boot.stage with
  | 0 => s.runS0
  | 1 => s.runS1
  | 2 => s.runS2
  | 3 => s.runS3
  | 4 => s.runS4
  | 5 => s.runS5
  | 6 => s.runS6
  | 7 => if s.role = .span then s.spanS7 else if s.role = .tray ∧ s.parentPlace.isNone then s.pass7 else s
  | _ => s.runS8

/-! ### Writes of bring-up registers -/

/-- A write of 1 to BOOT_GO ends the wait at S2; S3 begins and draws the salt (R350, R443). -/
def Blk.wrBootGo (s : Blk) (v : Word) : Blk :=
  if !bit v 0 ∨ !s.boot.waitGo ∨ s.boot.stage ≠ 2 then s else
  let s := (s.modBoot (fun b => { b with waitGo := false })).report pass 0x200 0
  let (f, s) := s.draw
  (s.modQsc (fun m => { m with salt := BitVec.ofNat 64 f, rekeyAt := s.tclk })).setStage 3

/-- A write of FWC_HOST_VER repeats the version check while S3 waits for it (R414, R443). -/
def Blk.wrHostVer (s : Blk) (v : Word) : Blk :=
  let s := s.setReg (.fwc .FWC_HOST_VER) v
  if s.boot.stage = 3 ∧ s.boot.result = wait then s.runS3 else s

/-- Detach from the parent (R450). -/
def Blk.detach (s : Blk) : Blk :=
  match s.parentPlace with
  | none => s
  | some p =>
    (s.leaveFlows (fun f => f.peer == p && f.peerRole == s.parentRole) none).modBoot (fun b => { b with attached := false })

/-- A completed pair of BOOT_RERUN (R450). -/
def Blk.wrRerun (s : Blk) (v : Word) : Blk :=
  let n := fld v 3 0
  let s := s.setReg (.boot .BOOT_RERUN) v
  if n ≠ 4 ∧ n ≠ 5 ∧ n ≠ 7 then s else
  if s.colls.any (fun p => p.2.st = .running ∨ p.2.held ∨ p.2.restarting) ∨ s.boot.stage < 8 then
    s.modBoot (fun b => { b with rerunRef := true })
  else
    let s := (s.modBoot (fun b => { b with ready := false, rerunRef := false, isPrimary := false })).detach
    if n = 4 then s.setStage 4 else if n = 5 then s.enterS5 else s.enterS7

/-! ### Meanings -/

/-- RESET_ASSERT (R465, R487): every output takes its reset value and requests in flight are abandoned. -/
def execResetAssert (s : State) : Host.Outcome State Fault Refusal :=
  .next (s.modBlk (fun b =>
    { b with
      inReset := true
      boot := { b.boot with ready := false, trains := [] }
      port := { PortState.reset with ppReady := false }
      time := { b.time with strobe0 := none, strobe1 := none, ppsFall := none }
      pwr := { b.pwr with vreqs := [] }
      hlt := { b.hlt with tests := [], manual := none }
      mem := { b.mem with reqs := [] }
      cp := .reset }))

/-- RESET_RELEASE (R465, R3): everything is as after reset; what the host chip and its memories hold survives, and the role
is that of the stored licence. -/
def execResetRelease (s : State) : Host.Outcome State Fault Refusal :=
  let b := s.blk
  if !b.inReset then .next s else
  let role := match b.conf, b.lic.stored with | .d, _ => Role.die | .a64, some l => l.role | .a64, none => b.role
  .next { s with
    blk := Blk.fresh b.conf role b.inst b.lic.stored b.fwc.svnMin b.draws b.mem.xm b.mem.xmPoi b.mem.flash b.mem.areas,
    evr := .reset, snap := .reset }

/-- STAGE_ADVANCE (R441, Table 15-1). -/
def execStageAdvance : State → Host.Outcome State Fault Refusal := lift Blk.runStage

/-- CORE_REPORT_TIMEOUT (Table 15-1): a released core has not reported within 100 ms. -/
def execCoreReportTimeout (x : Nat) : State → Host.Outcome State Fault Refusal := lift fun s =>
  if s.boot.stage = 2 ∧ s.boot.result ≠ fail ∧ (s.fcore x).st = .boot ∧ s.passed s.boot.stageAt (s.ms 100) then
    s.report fail 0x203 (w32 x)
  else s

/-- TRAINING_DONE (R445, R480). -/
def execTrainingDone (k : Nat) (cfg : BitVec 256) : State → Host.Outcome State Fault Refusal := lift fun s =>
  let t := s.train k
  if s.boot.stage ≠ 5 ∨ s.stageOver ∨ !t.req then s else
  let s := s.setTrain k { t with req := false, done := true }
  let s := s.modBoot (fun b => { b with fullAny := b.fullAny || t.full })
  let s := s.modPort (fun p => { p with cfgo := Store.put p.cfgo k cfg })
  s.trainNext.runS5

/-- A training of port `k` has failed: a fast start is retried as full training; a full one fails S5 (R445, R480). -/
def Blk.trainFailed (s : Blk) (k : Nat) : Blk :=
  let t := s.train k
  if !t.full then s.setTrain k { t with req := true, full := true, at_ := s.tclk }
  else
    let s := s.setTrain k { t with req := false }
    if k < 4 then s.report fail 0x502 (w32 k) else s.report fail 0x503 (w32 (k - 4))

/-- TRAINING_FAIL (R480). -/
def execTrainingFail (k : Nat) : State → Host.Outcome State Fault Refusal := lift fun s =>
  if s.boot.stage ≠ 5 ∨ s.stageOver ∨ !(s.train k).req then s else s.trainFailed k

/-- TRAINING_TIMEOUT (R480): no answer within 5 ms, or 250 ms for full training. -/
def execTrainingTimeout (k : Nat) : State → Host.Outcome State Fault Refusal := lift fun s =>
  let t := s.train k
  if s.boot.stage ≠ 5 ∨ s.stageOver ∨ !t.req ∨ !s.passed t.at_ (s.ms (if t.full then 250 else 5)) then s
  else s.trainFailed k

/-- VREQ_TIMEOUT (R481): the request is withdrawn; at S6 it is reported and made again (DEDUCED, log 10). -/
def execVreqTimeout : State → Host.Outcome State Fault Refusal := lift fun s =>
  match s.pwr.vreqs with
  | [] => s
  | v :: t =>
    if !s.passed v.at_ (s.ms 1) then s else
    let s := s.emitAt 0x12 v.cluster 0x1505 v.cluster v.code.toNat
    if s.boot.stage = 6 then
      ((s.modPwr (fun m => { m with vreqs := { v with at_ := s.tclk } :: t })).report wait 0x602 (w32 v.cluster))
    else (s.modPwr (fun m => { m with vreqs := t })).vreqNext

/-- What a parent answers to an attach request: the low byte of the S7 code (R17, R19, R24, R35, R447). -/
def Blk.attachCode (s : Blk) (f : Frame) : Nat :=
  match s.role with
  | .die => 4
  | .tray =>
    if f.srole ≠ 1 ∨ trayOf f.src ≠ s.place then 4
    else if s.boot.members.contains f.src then 2
    else if 32 ≤ s.boot.members.length then 3
    else if fld (wordAt f.payload 1) 11 0 ≠ s.part then 4 else 0
  | .span =>
    if f.srole ≠ 2 ∨ siteOf f.src ≠ siteOf s.place ∨ dieOf f.src ≠ 0 then 4
    else if (Store.look s.boot.trays f.src.toNat).isSome then 0
    else if 16384 ≤ s.boot.trays.length then 3
    else if 262144 < ((s.boot.trays.map (fun p => Config.diesOf p.1)).sum + Config.diesOf f.src.toNat) then 3 else 0

/-- The words of a refusal in the log of the refusing instance: the stage word of the attaching instance (DESIGN CHOICE,
log 11). -/
def refusalWord (code : Nat) : Word := reportWord 7 (if code = 4 then fail else wait) (0x700 + code)

/-- The second argument of BOOT_STAGE for a refusal: [31:0] the place of the attaching instance, [33:32] its role code, and, for a
duplicate, [35:34] the role code of the instance attached there, whose place is the same (R19; DESIGN CHOICE, log 11). -/
def refusalArg (code : Nat) (f : Frame) : Nat :=
  f.src.toNat + f.srole <<< 32 + (if code = 2 then 1 else 0) <<< 34

/-- A die that attaches contributes to the collections that name it from the first boundary on (R26). -/
def Blk.joinDie (s : Blk) (p : Word) : Blk :=
  (Store.keys s.colls).foldl (fun s c =>
    if s.collRuns c ∧ (s.coll c).dies.contains p then
      s.modColl c (fun v => { v with joins := Store.put v.joins p.toNat (s.turnOf c + 1) })
    else s) s

/-- Accept or refuse an attach and answer (R19, R23, R24, R26, R343, R447). A place in the request that is refused as a duplicate
or beyond a limit leaves every attachment as it is. -/
def Blk.attachAnswer (s : Blk) (f : Frame) : Blk :=
  let part := fld (wordAt f.payload 1) 11 0
  let code := s.attachCode f
  let (code, s) := if code ≠ 0 then (code, s) else
    match s.attachFlows f.src f.srole with
    | none => (3, s)
    | some s => (0, s)
  let s := if code ≠ 0 then s.emit 0x14 0x1401 (refusalWord code).toNat (refusalArg code f)
    else if s.role = .tray then (s.modBoot (fun b => { b with members := insPlace f.src b.members })).joinDie f.src
    else s.modBoot (fun b => { b with trays := Store.put b.trays f.src.toNat part })
  s.sendAttach f.src f.srole part 2 code

/-- ATTACH_REQUEST (R447): a parent that has not yet passed S8 does not answer. -/
def execAttachRequest (f : RxFrame) : State → Host.Outcome State Fault Refusal := lift fun s =>
  match s.takeSub f ftAttach 1 with
  | (s, none) => s
  | (s, some t) =>
    let s := s.frameDone t
    if !s.boot.ready then s else s.attachAnswer t.f

/-- ATTACH_REPLY (R343, R447): an acceptance opens the contexts with the parent and S7 passes; a refusal is reported. -/
def execAttachReply (f : RxFrame) : State → Host.Outcome State Fault Refusal := lift fun s =>
  match s.takeSub f ftAttach 2 with
  | (s, none) => s
  | (s, some t) =>
    let s := s.frameDone t
    if s.boot.stage ≠ 7 ∨ s.boot.result = fail ∨ s.boot.attached ∨
        s.parentPlace ≠ some t.f.src then s else
    let s := s.modBoot (fun b => { b with attAns := true })
    match fld (wordAt t.f.payload 1) 7 0 with
    | 0 =>
      match s.attachFlows t.f.src t.f.srole with
      | none => s.report wait 0x703 0
      | some s => (s.modBoot (fun b => { b with attached := true })).pass7
    | 2 => s.report wait 0x702 0
    | 3 => s.report wait 0x703 0
    | _ => s.report fail 0x704 0

/-- ATTACH_RETRY (R447): 100 ms without an acceptance; no answer at all gives WAIT 0x0701. -/
def execAttachRetry : State → Host.Outcome State Fault Refusal := lift fun s =>
  if s.boot.stage ≠ 7 ∨ s.role = .span ∨ s.parentPlace.isNone ∨ s.boot.attached ∨ !s.placeValid ∨
      !s.passed s.boot.attAt (s.ms 100) then s else
  let s := if s.boot.attAns ∨ s.boot.result = fail then s else s.report wait 0x701 0
  s.attachSend

/-- Take the entries of a TABLE frame of another site; the answer counts those taken (R24, R448). The sender's table says who is
primary there. -/
def Blk.takeTable (s : Blk) (f : Frame) : Nat × Blk :=
  let n := min (wordAt f.payload 2).toNat (f.payload.length / 8)
  let site := fld (wordAt f.payload 1) 2 0
  let s := if (List.range n).any (fun i => bit (wordAt f.payload (4 + 2 * i)) 1) then
      s.modBoot (fun b => { b with spans := b.spans.map (fun e =>
        if siteOf (w32 e.1) = site then (e.1, { e.2 with primary := false }) else e) })
    else s
  (List.range n).foldl (fun (a : Nat × Blk) i =>
    let p := wordAt f.payload (3 + 2 * i)
    let fl := wordAt f.payload (4 + 2 * i)
    let (ok, s) := a.2.spanEnter p (fun o => { o with ready := bit fl 0, primary := bit fl 1 })
    (a.1 + b2n ok, if ok then s else if p = s.place then s else s.stageEv (refusalWord 3) p)) (0, s)

/-- PEER_TABLE (R448): answered from the own S7 on. A table of the own site enters its sender; one of another site enters
its entries, and a contact that is not primary relays it to its primary. -/
def execPeerTable (f : RxFrame) : State → Host.Outcome State Fault Refusal := lift fun s =>
  match s.takeSub f ftPeer 1 with
  | (s, none) => s
  | (s, some t) =>
    if s.role ≠ .span ∨ s.boot.stage < 7 then s else
    let site := fld (wordAt t.f.payload 1) 2 0
    let before := s.boot.spans.length
    if site = siteOf s.place then
      let n := min (wordAt t.f.payload 2).toNat (t.f.payload.length / 8)
      let me := (List.range n).find? (fun i => wordAt t.f.payload (3 + 2 * i) == t.f.src)
      let fl := match me with | some i => wordAt t.f.payload (4 + 2 * i) | none => 0
      let (ok, s) := s.spanEnter t.f.src (fun o => { o with ready := bit fl 0, primary := bit fl 1 })
      let s := if ok then s else s.stageEv (refusalWord 3) t.f.src
      let s := s.sendMsg 2 t.f.src 3 ftPeer none (leBytes 4 2 ++ leBytes 4 (b2n ok)) 0 none
      if before < s.boot.spans.length then s.tableOut else s
    else
      let old := s.primaries
      let (n, s) := s.takeTable t.f
      let s := s.newPrimaries old
      let s := s.sendMsg 2 t.f.src 3 ftPeer none (leBytes 4 2 ++ leBytes 4 n) 0 none
      match s.boot.primary with
      | some (p, _) =>
        if p ≠ s.place ∧ siteOf t.f.src ≠ siteOf s.place then s.sendMsg 2 p 3 ftPeer none t.f.payload 0 none else s
      | none => s

/-- PEER_TABLE_ACK (R24, R448): an answer that counts no entry taken is a refusal, and the instance stays at S7. -/
def execPeerTableAck (f : RxFrame) : State → Host.Outcome State Fault Refusal := lift fun s =>
  match s.takeSub f ftPeer 2 with
  | (s, none) => s
  | (s, some t) =>
    if s.role ≠ .span then s else
    match Store.look s.boot.spans t.f.src.toNat with
    | none => s
    | some o =>
      let ok := decide (wordAt t.f.payload 1 ≠ 0)
      let s := s.modBoot (fun b => { b with spans := Store.put b.spans t.f.src.toNat { o with acked := o.acked || ok } })
      if s.boot.stage = 7 then s.spanS7 else s

/-- PEER_TABLE_REPEAT (R448): every 100 ms to each peer that has not answered. -/
def execPeerTableRepeat : State → Host.Outcome State Fault Refusal := lift fun s =>
  if s.role ≠ .span ∨ s.boot.stage < 7 then s else s.tableTo (fun o => !o.acked && s.passed o.sentAt (s.ms 100))

/-- SPAN_WAIT_EXPIRE (R448). -/
def execSpanWaitExpire : State → Host.Outcome State Fault Refusal := lift fun s =>
  if s.role = .span ∧ s.boot.stage = 7 ∧
      s.passed s.boot.stageAt (s.ms (fld (s.reg (.boot .BOOT_SPAN_WAIT)) 15 0)) then s.spanS7 else s

/-- Take the sender of a PRIMARY frame as primary when its epoch is greater, or equal with a lower place (R32): the contexts
with it open, a primary that it replaces stops, and what is not acknowledged is sent again (R31). -/
def Blk.adopt (s : Blk) (p epoch : Word) : Blk :=
  let s := s.modBoot (fun b => { b with epochMax := if b.epochMax.toNat < epoch.toNat then epoch else b.epochMax })
  let newer := match s.boot.primary with
    | none => true
    | some (q, e) => decide (e.toNat < epoch.toNat ∨ (e = epoch ∧ p.toNat < q.toNat))
  if !newer then s else
  let old := s.boot.primary.map Prod.fst
  let s := s.modBoot (fun b => { b with primary := some (p, epoch), isPrimary := false })
  let s := if s.role = .tray then (s.setReg (.boot .BOOT_PRIMARY) p) else s
  if old = some p ∨ s.role ≠ .tray then s else
  let s := if s.boot.attached then (s.attachFlows p 3).getD s else s
  if old.isNone ∧ s.reg (.boot .BOOT_PARENT) = p then s else s.resendUp

/-- PRIMARY_FRAME (R32): of the own site, at a tray or span instance. -/
def execPrimaryFrame (f : RxFrame) : State → Host.Outcome State Fault Refusal := lift fun s =>
  match s.takeSub f ftPeer 3 with
  | (s, none) => s
  | (s, some t) =>
    let s := s.frameDone t
    if s.role = .die ∨ t.f.srole ≠ 3 ∨ siteOf t.f.src ≠ siteOf s.place ∨
        t.f.src = s.place then s
    else s.adopt t.f.src (wordAt t.f.payload 2)

/-- PRIMARY_REPEAT (R32). -/
def execPrimaryRepeat : State → Host.Outcome State Fault Refusal := lift fun s =>
  if s.boot.isPrimary ∧ s.passed s.boot.primAt (s.ms 100) then s.sendPrimary else s

/-- SPAN_PEER_SILENT (R29, R448): silent on both networks for 10 ms; it leaves the table, and the next in rank may become
primary. -/
def execSpanPeerSilent (p : Word) : State → Host.Outcome State Fault Refusal := lift fun s =>
  let gone := match Store.look s.hlt.peers p.toNat with
    | some v => s.quiet v.m0 (s.ms 10) && s.quiet v.m1 (s.ms 10)
    | none => true
  if s.role ≠ .span ∨ siteOf p ≠ siteOf s.place ∨ (Store.look s.boot.spans p.toNat).isNone ∨ !gone then s else
  let s := s.modBoot (fun b => { b with spans := Store.del b.spans p.toNat })
  let s := if s.boot.stage = 7 then s.spanS7 else s
  s.rankCheck.tableOut

end Sys2Proof.Machine
end

