-- ==== Sys2Proof/Machine/Trace.lean ====
section
/-!
DEFINITION. Core trace and the debug authorisations (R138 to R147, R434).
-/

namespace Sys2Proof.Machine

/-! ### Buffers and sources (R138) -/

def TraceBuf.fresh : TraceBuf :=
  { active := false, full := false, nap := false, wptr := 0, laps := 0, bytes := [], sinceAlign := 0, stampT := 0,
    napIn := false, ovf := 0, stampAt := 0, stopAt := none, srcs := [] }

def TraceSrc.fresh : TraceSrc := { lost := 0, on := false, base := 0, dbase := 0, count := 0, next := 0, excl := false, gate := none }

def Blk.tbuf (s : Blk) (b : Nat) : TraceBuf := Store.get TraceBuf.fresh s.trace.bufs b
def Blk.setTbuf (s : Blk) (b : Nat) (v : TraceBuf) : Blk :=
  s.modTrace (fun m => { m with bufs := Store.set TraceBuf.fresh m.bufs b v })
def Blk.modTbuf (s : Blk) (b : Nat) (f : TraceBuf → TraceBuf) : Blk := s.setTbuf b (f (s.tbuf b))

def Blk.tsrc (s : Blk) (b i : Nat) : TraceSrc := Store.get TraceSrc.fresh (s.tbuf b).srcs i
def Blk.modTsrc (s : Blk) (b i : Nat) (f : TraceSrc → TraceSrc) : Blk :=
  s.modTbuf b (fun v => { v with srcs := Store.set TraceSrc.fresh v.srcs i (f (Store.get TraceSrc.fresh v.srcs i)) })

/-- Bytes of a buffer (Table 4-10). -/
def Blk.tbSize (s : Blk) : Nat := match s.conf with | .d => 16384 | .a64 => 65536

/-- Sources that a buffer has. -/
def Blk.tbSources (s : Blk) (b : Nat) : List Nat :=
  match s.conf with
  | .d => [0, 4, 5, 6, 7]
  | .a64 => if b = 64 then [5, 6, 7] else [0, 1, 2, 3, 4]

def Blk.ctrCtl (s : Blk) (b : Nat) : Word := s.reg (.ctr (.CTR_CTRL b))
def Blk.ctrOwn (s : Blk) (b : Nat) : Nat := fld (s.reg (.ctr (.CTR_OWN b))) 7 0

/-- Whether a buffer is written at all: EN, and an owner (R139). -/
def Blk.tbLive (s : Blk) (b : Nat) : Bool := bit (s.ctrCtl b) 31 && decide (s.ctrOwn b ≠ 0xFE)

/-- Whether a grant is in force: 0 SEC, 1 PRIV, 2 XTEN. -/
def Blk.granted (s : Blk) (i : Nat) : Bool := s.trace.grants.getLsbD i

/-- Whether a firmware core, a source of the buffer, is in excluded code: the security core without SEC, another core in machine mode
without PRIV (R139). -/
def Blk.coreExcl (s : Blk) (b i : Nat) : Bool :=
  4 ≤ i && (s.tbSources b).contains i && (if i = 7 then !s.granted 0 else !s.granted 1 && Config.machineMode i s.tclk)

/-- Whether nothing is written to a buffer or watched for it: no EN, and no comparator enabled. -/
def Blk.tbOff (s : Blk) (b : Nat) : Bool :=
  !bit (s.ctrCtl b) 31 && (List.range 8).all (fun k => !bit (s.reg (.ctr (.CTR_CMPi_CTRL b k))) 31)

/-! ### Packets (R141 to R143) -/

/-- Write whole packets; stop mode stops at the last that fits (R143). -/
def Blk.tbPut (s : Blk) (b : Nat) (bs : List Byte) : Blk :=
  let v := s.tbuf b
  if !s.tbLive b ∨ v.full ∨ v.nap then s else
  let size := s.tbSize
  if bit (s.ctrCtl b) 30 ∧ (size < v.wptr + bs.length ∨ v.laps ≠ 0) then s.setTbuf b { v with full := true, active := false } else
  let bytes := (List.range bs.length).foldl (fun m i => Mem.wr m ((v.wptr + i) % size) (bs.getD i 0)) v.bytes
  (s.clearPoi (0x340000 + 0x10000 * b + v.wptr) (min bs.length (size - v.wptr))).setTbuf b { v with
    bytes := bytes, wptr := (v.wptr + bs.length) % size, laps := v.laps + (v.wptr + bs.length) / size,
    sinceAlign := v.sinceAlign + bs.length }

/-- Offer a packet of a source. Congestion of the input, of which no rule says when it comes, is a free value: it loses the packet,
which is counted (R143). -/
def Blk.tbSend (s : Blk) (b i : Nat) (bs : List Byte) : Blk :=
  if !s.tbLive b ∨ (s.tbuf b).full ∨ (s.tbuf b).nap then s else
  let n := s.trace.packets
  let s := s.modTrace (fun m => { m with packets := n + 1 })
  if Config.congested n then
    (s.modTbuf b (fun v => { v with ovf := min (v.ovf + 1) 0xFFFFFFFF })).modTsrc b i (fun x => { x with lost := x.lost + 1 })
  else s.tbPut b bs

/-- A SYNC for a source: its bases start at the address of the next instruction it retires (R141, R142). -/
def Blk.tbSync (s : Blk) (b i addr : Nat) : Blk :=
  let s := s.tbPut b (leBytes 1 (0x40 + i) ++ leBytes 8 s.t64.toNat ++ leBytes 4 addr)
  let s := s.modTbuf b (fun v => { v with stampT := s.t64, stampAt := s.tclk })
  s.modTsrc b i (fun x => { x with base := addr, dbase := 0, count := 0, next := addr })

/-- An ALIGN, with a SYNC for each source being traced (R142). -/
def Blk.tbAlign (s : Blk) (b : Nat) : Blk :=
  let s := (s.tbPut b (List.replicate 12 0)).modTbuf b (fun v => { v with sinceAlign := 0 })
  (List.range 8).foldl (fun s i => if (s.tsrc b i).on then s.tbSync b i (s.tsrc b i).next else s) s

/-- The packets lost are told in an OVF for each source that lost some, and an ALIGN (R142, R143). -/
def Blk.tbOvf (s : Blk) (b : Nat) : Blk :=
  let is := (List.range 8).filter (fun i => decide ((s.tsrc b i).lost ≠ 0))
  if is = [] then s else
  (is.foldl (fun s i => (s.tbPut b (leBytes 1 (0x70 + i) ++ uv (s.tsrc b i).lost)).modTsrc b i (fun x => { x with lost := 0 })) s).tbAlign b

/-- What goes ahead of a packet: the packets lost, an ALIGN when CTR_SYNC_INT bytes have passed since the last, and a STAMP when CTR_TS_INT tclk
have passed since the last stamp; before the first SYNC there is none (R142). -/
def Blk.tbPrep (s : Blk) (b : Nat) : Blk :=
  let s := s.tbOvf b
  let s := if max 256 (fld (s.reg (.ctr (.CTR_SYNC_INT b))) 15 0) ≤ (s.tbuf b).sinceAlign then s.tbAlign b else s
  let v := s.tbuf b
  if 0 < v.stampAt ∧ v.stampAt + fld (s.reg (.ctr (.CTR_TS_INT b))) 15 0 ≤ s.tclk then
    (s.tbPut b (leBytes 1 0x30 ++ uv (s.t64 - v.stampT).toNat)).modTbuf b (fun v =>
      { v with stampT := s.t64, stampAt := s.tclk })
  else s

/-- A GATE for a source: 1 stop event, 2 range, 3 excluded code, 4 source disabled; during a nap it is held for the exit
(R142, R144). -/
def Blk.tbGate (s : Blk) (b i reason : Nat) : Blk :=
  if !(s.tsrc b i).on then s else
  if (s.tbuf b).nap then s.modTsrc b i (fun x => { x with on := false, gate := some reason }) else
  let s := (s.tbPrep b).tbSend b i (leBytes 1 (0x60 + i) ++ leBytes 1 reason)
  s.modTsrc b i (fun x => { x with on := false })

/-- zigzag of a difference of two addresses divided by the unit. -/
def zigAddr (a b u : Nat) : Nat :=
  let d : Int := ((a : Int) - (b : Int)) / (u : Int)
  if 0 ≤ d then 2 * d.toNat else 2 * (-d).toNat - 1

/-- A FLOW of a source to `target` (Table 4-11). -/
def Blk.tbFlow (s : Blk) (b i u target : Nat) (exc : Bool) : Blk :=
  let x := s.tsrc b i
  let s := s.tbSend b i (leBytes 1 (0x10 + 8 * b2n exc + i) ++ uv x.count ++ uv (zigAddr target x.base u))
  s.modTsrc b i (fun x => { x with base := target, count := 0, next := target })

/-! ### Start, stop, comparators, ranges (R140) -/

/-- A start event: the buffer becomes active, with an ALIGN; a stop of the same tclk wins. -/
def Blk.tbStart (s : Blk) (b : Nat) : Blk :=
  let v := s.tbuf b
  if !s.tbLive b ∨ v.active ∨ v.full ∨ v.stopAt = some s.tclk then s else
  (s.setTbuf b { v with active := true }).tbAlign b

/-- A stop event: the buffer is inactive and the trace of its sources stops. -/
def Blk.tbStop (s : Blk) (b : Nat) : Blk :=
  let s := s.modTbuf b (fun v => { v with stopAt := some s.tclk })
  if !(s.tbuf b).active then s else
  ((List.range 8).foldl (fun s i => s.tbGate b i 1) s).modTbuf b (fun v => { v with active := false })

/-- A trigger slot has fired: buffers whose CTR_TRIG selects it start or stop (R140). -/
def Blk.slotTrace (s : Blk) (src t slot : Nat) : Blk :=
  (List.range s.conf.traceBufs).foldl (fun s b =>
    let g := s.reg (.ctr (.CTR_TRIG b))
    if bit g 31 ∧ fld g 30 29 = src ∧ fld g 3 0 = slot ∧ (src = 2 ∨ fld g 25 20 = t) then
      (if bit g 28 then s.tbStop b else s.tbStart b) else s) s

/-- The comparators of a buffer against an address of kind 0 instruction, 1 load, 2 store (R140): a match acts whether or not the buffer
is written. -/
def Blk.tbCompare (s : Blk) (b i kind addr : Nat) : Blk :=
  let hits := (List.range 8).filter (fun k =>
    let c := s.reg (.ctr (.CTR_CMPi_CTRL b k))
    let m := s.reg (.ctr (.CTR_CMPi_MASK b k))
    bit c 31 && bit c (16 + i) && decide (fld c 30 29 = kind ∨ (fld c 30 29 = 3 ∧ kind ≠ 0)) &&
      decide (w32 addr &&& ~~~m = s.reg (.ctr (.CTR_CMPi_ADDR b k)) &&& ~~~m))
  let act := fun k => fld (s.reg (.ctr (.CTR_CMPi_CTRL b k))) 28 27
  let s := hits.foldl (fun s k => if act k = 1 then s.tbStop b else s) s
  hits.foldl (fun s k =>
    if act k = 0 then s.tbStart b
    else if act k = 2 then
      s.emitAt 5 b 0x0501 (fld (s.reg (.ctr (.CTR_CMPi_CTRL b k))) 15 0 + k <<< 16 + b <<< 20) addr
    else s) s

/-- Whether the ranges of a buffer let an address through: instruction or data ranges (R140). -/
def Blk.tbRange (s : Blk) (b i addr : Nat) (data : Bool) : Bool :=
  let rs := (List.range 4).filter (fun j =>
    let c := s.reg (.ctr (.CTR_RNGj_CTRL b j))
    bit c 31 && (bit c 29 == data) && bit c (16 + i))
  let cov := fun j => decide ((s.reg (.ctr (.CTR_RNGj_LO b j))).toNat ≤ addr ∧ addr < (s.reg (.ctr (.CTR_RNGj_HI b j))).toNat)
  let exc := fun j => bit (s.reg (.ctr (.CTR_RNGj_CTRL b j))) 30
  !(rs.any (fun j => exc j && cov j)) && (rs.all exc || rs.any (fun j => !exc j && cov j))

/-- Whether the code of a collection on an engine is excluded from a buffer (R139). -/
def Blk.tbExcl (s : Blk) (b c : Nat) : Bool :=
  decide (s.ctrOwn b ≠ c) && decide (s.ctrOwn b ≠ 0xFF) && !s.granted 2

/-! ### What an engine retires -/

/-- Buffer and source of a context's engine. -/
def Blk.tbOf (s : Blk) (x : Ctx) : Nat × Nat := match s.conf with | .d => (0, 0) | .a64 => (x.cluster, x.engine)

/-- Why a source is not traced at an instruction: 0 it is traced, else the GATE reason. -/
def Blk.tbWhy (s : Blk) (b i c pc : Nat) : Nat :=
  if !(s.tbuf b).active then 1
  else if !bit (s.ctrCtl b) (8 + i) then 4
  else if s.tbExcl b c then 3
  else if !s.tbRange b i pc false then 2 else 0

/-- A source starts to be traced at `pc`, or, another context having run, shows the switch as a transfer (DESIGN CHOICE, log 14). -/
def Blk.tbBegin (s : Blk) (b i pc : Nat) : Blk :=
  let s := if (s.tsrc b i).on then s else ((s.tbPrep b).tbSync b i pc).modTsrc b i (fun t => { t with on := true })
  if (s.tsrc b i).next = pc then s else (s.tbPrep b).tbFlow b i 4 pc false

/-- A traced source counts an instruction, and shows a taken transfer to `npc` (R141). -/
def Blk.tbCount (s : Blk) (b i npc : Nat) (taken : Bool) : Blk :=
  let s := if taken then s.tbPrep b else s
  let s := s.modTsrc b i (fun t => { t with count := t.count + 1, next := npc })
  if taken then s.tbFlow b i 4 npc false else s

/-- A context retires the instruction at `pc` and goes on at `npc`; `taken` when that is a taken transfer (R140, R141). -/
def Blk.traceRetire (s : Blk) (x : Ctx) (pc npc : Nat) (taken : Bool) : Blk :=
  let (b, i) := s.tbOf x
  if s.tbOff b then s else
  let s := s.modTsrc b i (fun t => { t with excl := s.tbExcl b x.coll })
  let why := s.tbWhy b i x.coll pc
  let s := if !s.tbLive b then s else if why ≠ 0 then s.tbGate b i why else (s.tbBegin b i pc).tbCount b i npc taken
  s.tbCompare b i 0 pc

/-- A context enters its handler at `target` (R174, Table 4-11 with X = 1). -/
def Blk.traceExc (s : Blk) (x : Ctx) (target : Nat) : Blk :=
  let (b, i) := s.tbOf x
  if s.tbLive b ∧ (s.tsrc b i).on ∧ s.tbWhy b i x.coll target = 0 then (s.tbPrep b).tbFlow b i 4 target true else s

/-- The pieces, offset and size, in which an access of `n` bytes is traced: of 8 bytes, and one of the rest (Table 4-11). -/
def dataParts (n : Nat) : List (Nat × Nat) :=
  (List.range (n / 8)).map (fun k => (8 * k, 8)) ++ (if n % 8 = 0 then [] else [(8 * (n / 8), n % 8)])

/-- A context accesses `size` bytes at `addr` with a value; the SYNC of an instruction that is traced comes first (R140, R141,
R142). An access of more than 8 bytes is traced in pieces (DESIGN CHOICE, log 14). -/
def Blk.traceAccess (s : Blk) (x : Ctx) (store : Bool) (size addr value : Nat) : Blk :=
  let (b, i) := s.tbOf x
  if s.tbOff b then s else
  let s :=
    if s.tbLive b ∧ (s.tbuf b).active ∧ bit (s.ctrCtl b) 29 ∧ bit (s.ctrCtl b) (8 + i) ∧ !s.tbExcl b x.coll ∧ s.tbRange b i addr true then
      let s := if s.tbWhy b i x.coll x.pc = 0 then s.tbBegin b i x.pc else s
      (dataParts size).foldl (fun s p =>
        let s := s.tbPrep b
        let d := (s.tsrc b i).dbase
        (s.tbSend b i (leBytes 1 (0x20 + 8 * b2n store + i) ++ uv (zigAddr (addr + p.1) d 1) ++ leBytes 1 p.2 ++
          leBytes p.2 (value >>> (8 * p.1) % 2 ^ (8 * p.2)))).modTsrc b i (fun t => { t with dbase := addr + p.1 })) s
    else s
  s.tbCompare b i (if store then 2 else 1) addr

/-! ### Nap (R144) -/

/-- The buffer of a cluster marks nap entry when it is active, and is retained through the nap. -/
def Blk.traceNap (s : Blk) (k : Nat) : Blk :=
  let on : Bool := s.tbLive k && (s.tbuf k).active
  (if on then (s.tbPrep k).tbPut k (leBytes 1 0x50 ++ leBytes 6 (s48 s.t64).toNat) else s).modTbuf k
    (fun v => { v with nap := true, napIn := on })

/-- The buffer of a cluster marks nap exit, when it marked the entry, is active, or the trace of a source stopped during the nap. -/
def Blk.traceWake (s : Blk) (k : Nat) : Blk :=
  if !(s.tbuf k).nap then s else
  let was := (s.tbuf k).napIn
  let s := s.modTbuf k (fun v => { v with nap := false, napIn := false })
  if !was ∧ !(s.tbuf k).active ∧ (List.range 8).all (fun i => (s.tsrc k i).gate.isNone) then s else
  let s := (s.tbPut k (leBytes 1 0x58 ++ leBytes 6 (s48 s.t64).toNat)).tbAlign k
  (List.range 8).foldl (fun s i =>
    match (s.tsrc k i).gate with
    | some r => (s.tbSend k i (leBytes 1 (0x60 + i) ++ leBytes 1 r)).modTsrc k i (fun t => { t with gate := none })
    | none => s) s

/-! ### Writes of core trace -/

/-- CTR_CTRL (Table 4-14): EN written 1 restarts at offset 0 and clears FULL; absent sources read zero. -/
def Blk.wrCtrCtrl (s : Blk) (b : Nat) (v : Word) : Blk :=
  let mask := ((s.tbSources b).map (fun i => 2 ^ (8 + i))).sum
  let new := (v &&& 0xF0000000#32) ||| (v &&& w32 mask)
  let s := (List.range 8).foldl (fun s i => if bit new 31 ∧ bit new (8 + i) then s else s.tbGate b i 4) s
  let s := s.setReg (.ctr (.CTR_CTRL b)) new
  if !bit v 31 then s.modTbuf b (fun t => { t with active := false }) else
  let s := s.setTbuf b { TraceBuf.fresh with
    active := !bit v 28, bytes := (s.tbuf b).bytes, nap := (s.tbuf b).nap, napIn := (s.tbuf b).napIn, ovf := (s.tbuf b).ovf }
  if bit v 28 then s else s.tbAlign b

/-! ### Debug authorisations (R434) -/

/-- The grants in force end. -/
def Blk.grantsEnd (s : Blk) : Blk :=
  if s.trace.grants = 0 then s else
  (s.modTrace (fun m => { m with grants := 0 })).emit 5 0x0502 s.trace.serial.toNat 0

/-- Bytes `i` to `i + n − 1` of the mailbox. -/
def Blk.authBytes (s : Blk) (i n : Nat) : List Byte :=
  ((List.range 48).flatMap (fun w => leBytes 4 (s.reg (.ctr (.CTR_AUTH_MBOX w))).toNat)).drop i |>.take n

/-- CTR_AUTH_GO (R139, R434): the mailbox is taken for verification. -/
def Blk.wrAuthGo (s : Blk) (v : Word) : Blk :=
  if !bit v 0 then s else
  let n := fun i k => leNat (s.authBytes i k)
  let zero := fun i k => decide (n i k = 0)
  let bad := if n 4 32 ≠ s.inst.devId.toNat then 2
    else if n 0 4 ≠ 0x44410001 ∨ n 36 1 = 0 ∨ 8 ≤ n 36 1 ∨ !zero 37 3 ∨ !zero 60 4 then 3 else 0
  let a : AuthCheck := { bad := bad, grants := BitVec.ofNat 3 (n 36 1), serial := w32 (n 40 4),
                         from_ := BitVec.ofNat 64 (n 44 8), until_ := BitVec.ofNat 64 (n 52 8) }
  (s.setReg (.ctr .CTR_AUTH_RESULT) 1).modTrace (fun m => { m with checking := some a })

/-- CTR_AUTH_REVOKE (R139). -/
def Blk.wrAuthRevoke (s : Blk) (v : Word) : Blk := if bit v 0 then s.grantsEnd else s

/-- The reason with which a check ends, 0 for none; `sig` when the signature verifies (R434). -/
def Blk.authReason (s : Blk) (a : AuthCheck) (sig : Bool) : Nat :=
  if !sig then 1
  else if a.bad ≠ 0 then a.bad
  else if s.t64.toNat < a.from_.toNat ∨ a.until_.toNat ≤ s.t64.toNat ∨ a.until_.toNat ≤ a.from_.toNat then 4
  else if s.secLost then 5
  else if !s.boot.lockSeen then 6 else 0

/-! ### Meanings -/

/-- DEBUG_AUTH_RESULT (R434): the signature verifies or not; the other checks follow in their order. -/
def execDebugAuthResult (r : Verdict) : State → Host.Outcome State Fault Refusal := lift fun s =>
  match s.trace.checking with
  | none => s
  | some a =>
    let s := (s.modTrace (fun m => { m with checking := none })).clearBusy .auth
    let why := s.authReason a (decide (r = .ok))
    if why ≠ 0 then s.setReg (.ctr .CTR_AUTH_RESULT) (w32 (2 + why <<< 4)) else
    let s := s.setReg (.ctr .CTR_AUTH_RESULT) 6
    let s := s.setReg2 (.ctr .CTR_AUTH_END_HI) (.ctr .CTR_AUTH_END_LO) a.until_.toNat
    let s := s.modTrace (fun m => { m with grants := a.grants, endT := a.until_, serial := a.serial })
    s.emit 5 0x0502 a.serial.toNat (a.grants.toNat + 8)

/-- DEBUG_GRANT_EXPIRE (R434): T64 has reached NOT_AFTER. -/
def execDebugGrantExpire : State → Host.Outcome State Fault Refusal := lift fun s =>
  if s.trace.endT.toNat ≤ s.t64.toNat then s.grantsEnd else s

end Sys2Proof.Machine
end

