-- ==== Sys2Proof/Machine/Turn.lean ====
section
/-!
DEFINITION. The turn trackers (R67 to R81): markers, boundaries, predictions, angles, triggers, the waits that turns and times
release, and steps of time.
-/

namespace Sys2Proof.Machine

/-! ### Waiting contexts (R164 to R169) -/

/-- A context that has retired an instruction and goes on at `npc`. -/
def Ctx.goOn (x : Ctx) (npc : Nat) : Ctx := { x with pc := npc, retired := x.retired + 1, blocked := .no }

/-- An instruction of a context retires and the context goes on at `npc`; `taken` when that is a taken transfer. -/
def Blk.retire (s : Blk) (k npc : Nat) (taken : Bool) : Blk :=
  match Store.look s.ctxs k with
  | none => s
  | some x =>
    let s := s.traceRetire x x.pc npc taken
    let s := if x.blocked = .no then s else s.count (.dxe (.DXE_CXc_BLK k)) (s.tclk - x.blockAt)
    s.modCtxs (fun m => Store.put m k (x.goOn npc))

/-- What a release of a wait keeps of the context as it was, so that a fault of the same tclk loses the release (R200). -/
def Ctx.released (x : Ctx) (rd now : Nat) : Released :=
  { at_ := now, pc := x.pc, rd := rd, val := x.s rd, poi := x.sp rd, retired := x.retired, blocked := x.blocked, blockAt := x.blockAt }

/-- A context that waits is released: its register receives `v`; a napping cluster asks to wake (R169). -/
def Blk.release (s : Blk) (k rd : Nat) (v : Dword) : Blk :=
  match Store.look s.ctxs k with
  | none => s
  | some x =>
    ((s.modCtxs (fun m => Store.put m k { x.setS rd v false with rel := some (x.released rd s.tclk) })).retire k (x.pc + 4) false).wakeReq x.cluster

/-- The value that a wait on a turn returns: turn, angle, EARLY, LATE. -/
def waitWord (turn : Word) (angle : Nat) (early late : Bool) : Dword :=
  BitVec.ofNat 64 (turn.toNat + angle <<< 32 + (b2n early) <<< 48 + (b2n late) <<< 49)

/-- Whether turn `t` is later than the current turn is not: the current turn has passed it (R164). -/
def turnLater (cur t : Word) : Bool := decide (1 ≤ (cur - t).toNat ∧ (cur - t).toNat < 2 ^ 31)

/-- Whether the contexts of a collection run: it is not restarting and not held (R363, R367). -/
def Blk.collLive (s : Blk) (c : Nat) : Bool := s.collRuns c && !(s.coll c).restarting && !(s.coll c).held

/-- What a WAITA for angle `a` of turn `t` of collection `c` returns now, if it is released (R164). -/
def Blk.waitaNow (s : Blk) (c : Nat) (t : Word) (a : Nat) : Option Dword :=
  let k := s.tracker (s.coll c).trk
  let ang := s.angle (s.coll c).trk
  if !k.running then none
  else if turnLater k.turn t then some (waitWord k.turn ang false true)
  else if k.turn = t ∧ a ≤ ang then some (waitWord k.turn ang false false)
  else none

/-- The boundary that a WAITB waits for has passed: each context on tracker `t` for which `f` gives a value is released with it in the next
tclk (R166). -/
def Blk.passOn (s : Blk) (t : Nat) (f : Ctx → Option (Nat × Dword)) : Blk :=
  s.modCtxs (fun m => m.map (fun p =>
    if s.collLive p.2.coll ∧ (s.coll p.2.coll).trk = t then
      match f p.2 with
      | some (rd, v) => (p.1, { p.2 with blocked := .passed rd v })
      | none => p
    else p))

/-- A tclk after its boundary a WAITB is released (R166). -/
def Blk.passDue (s : Blk) : Blk :=
  s.ctxs.foldl (fun s p => match p.2.blocked with
    | .passed rd v => if s.collLive p.2.coll then s.release p.1 rd v else s
    | _ => s) s

/-- Release each context on tracker `t` for which `f` gives a value. -/
def Blk.releaseOn (s : Blk) (t : Nat) (f : Ctx → Option (Nat × Dword)) : Blk :=
  (s.ctxs.filter (fun p => s.collLive p.2.coll && decide ((s.coll p.2.coll).trk = t))).foldl (fun s p =>
    match f p.2 with
    | some (rd, v) => s.release p.1 rd v
    | none => s) s

/-- Release each WAITA on tracker `t` whose angle has been reached, or whose turn is later (R164, R69). -/
def Blk.waitaAll (s : Blk) (t : Nat) : Blk :=
  s.releaseOn t (fun x => match x.blocked with
    | .waita n a rd => (s.waitaNow x.coll n a).map (fun v => (rd, v))
    | _ => none)

/-! ### Time triggers (R77, R78) -/

/-- One firing of time trigger `n` (R77, R78). After a step, a periodic trigger moves to its first instance later than T64 and
the instances skipped, apart from the one that fired, are added to its miss count (R61). -/
def Blk.ttFire (s : Blk) (n : Nat) (steplate : Bool) : Blk :=
  let c := s.reg (.tim (.TIM_TTn_CTRL n))
  let at_ := Store.get 0 s.time.ttNext n
  let per := if bit c 30 then s.ttPer n else 0
  let s := s.setBits (.tim (.TIM_TTn_STAT n)) (w32 (1 + 2 * b2n steplate))
  let s := if per = 0 then s.setReg (.tim (.TIM_TTn_CTRL n)) (setFld c 31 31 0)
    else
      let m := if steplate then (s.t64.toNat - at_.toNat) / per + 1 else 1
      let s := s.modTime (fun t => { t with ttNext := Store.set 0 t.ttNext n (at_ + BitVec.ofNat 64 (m * per)) })
      if 1 < m then s.count (.tim (.TIM_TTn_MISS n)) (m - 1) else s
  let s := if bit c 27 then
      match s.postTok (if s.conf = .d then fld c 7 0 else fld c 13 0) (Token.mk' 1 (s.trigWords 0 n steplate false 0) 0 false .none) with
      | (true, s) => s
      | (false, s) => s.count (.tim (.TIM_TTn_MISS n)) 1
    else s
  let s := if bit c 28 then s.strobe 0 else s
  let s := if bit c 29 then s.strobe 1 else s
  (s.slotLatch 2 0 n).slotTrace 2 0 n

/-! ### Steps (R61) -/

/-- Add `d` to OFFSET, in tk, and to the marker stamps of trackers in a turn, with the cuts that run from them; after a forward step the time triggers and WAITT
waits whose time has passed act at once, late, those whose time is the new T64 with them, since the rule leaves equality open (DESIGN
CHOICE, log 48); a backward step ends the debug grants (R61, R165, R434). -/
def Blk.timeStep (s : Blk) (d : Int) : Blk :=
  let run := (s.trk.filter (fun p => p.2.running && s.trkEn p.1)).map Prod.fst
  let s := s.loseLock 4
  let s := s.modTime (fun t => { t with
    offset := t.offset + BitVec.ofInt 96 (d * 2 ^ 32), stepSum := t.stepSum + d, stepped := true, stepWait := run,
    steppedAny := run.isEmpty })
  let s := s.modTime (fun t => { t with
    ppsSec := if s.t64.toNat % tkSec = 0 then none else some (s.t64.toNat / tkSec) })
  let dd := BitVec.ofInt 64 d
  let s := s.modTrk (fun m => m.map (fun p => if run.contains p.1 then
    (p.1, { p.2 with mstamp := p.2.mstamp + dd, prevM := p.2.prevM + dd,
                       past := p.2.past.map (fun x => (x.1 + dd, x.2)), step := true }) else p))
  let mine := fun (c : Nat) => run.contains (s.coll c).trk
  let s := s.modRed (fun m => { m with reds := m.reds.map (fun p => if mine (p.1 / 16) then
    (p.1, { p.2 with turns := p.2.turns.map (fun q => (q.1, { q.2 with base := q.2.base.map (fun b => ((b : Int) + d).toNat) })) })
    else p) })
  let s := s.modSk (fun m => { m with late := m.late.map (fun p => if mine (p.1 / 2 ^ 32) then
    (p.1, { p.2 with mx := p.2.mx.map (· + dd) }) else p) })
  let s := (s.emit 1 0x0103 dd.toNat (s.t64.toNat % 2 ^ 48)).bwStepped
  if d ≤ 0 then (if d < 0 then s.grantsEnd else s) else
  let s := ((List.range s.conf.timeTriggers).filter s.ttDue).foldl (fun s n => s.ttFire n true) s
  s.ctxs.foldl (fun s p => match p.2.blocked with
    | .waitt time rd => if s.collLive p.2.coll ∧ time.toNat ≤ s.t64.toNat then s.release p.1 rd 2 else s
    | _ => s) s

/-! ### Angle triggers (R77 to R79) -/

/-- The angle of a trigger slot. -/
def Blk.atAngle (s : Blk) (t n : Nat) : Nat := 16 * fld (s.reg (.trn (.TRN_ATn t n))) 27 16

/-- Whether an armed slot has not yet fired in this turn. -/
def Blk.atArmed (s : Blk) (t n : Nat) : Bool :=
  bit (s.reg (.trn (.TRN_ATn t n))) 31 && !(s.tracker t).fired.contains n

/-- One firing of angle trigger `n` of tracker `t`: its token, strobes and trace buffers; the groups that it latches follow. -/
def Blk.atFire (s : Blk) (t n : Nat) (early : Bool) : Blk :=
  let c := s.reg (.trn (.TRN_ATn t n))
  let k := s.tracker t
  let s := s.setTracker t { k with fired := insNat n k.fired, early := k.early || early }
  let s := if early then s.setBits (.trn (.TRN_EVT t)) 0x10 else s
  let s := s.countFld (.trn (.TRN_ATn_CNT t n)) 15 0 1
  let q := if s.conf = .d then fld c 7 0 else fld c 13 0
  let s := if bit c 28 then
      match s.postTok q (Token.mk' 2 (s.trigWords t n false early k.turn) 0 false .none) with
      | (true, s) => s
      | (false, s) => s.countFld (.trn (.TRN_ATn_CNT t n)) 31 16 1
    else s
  let s := if bit c 29 then s.strobe 0 else s
  let s := if bit c 30 then s.strobe 1 else s
  s.slotTrace 1 t n

/-! ### Buffered writes (R493) -/

/-- Put the staged value of FEA_Tc_RELOAD in force: a 1 reloads the static features (R285). -/
def Blk.applyReload (s : Blk) (c : Nat) (bound : Bool) : Blk :=
  match s.unstage (.fea (.FEA_Tc_RELOAD c)) bound with
  | none => s
  | some (v, s) =>
    let s := s.setReg (.fea (.FEA_Tc_RELOAD c)) v
    if bit v 0 then s.staticReload c else s

/-- Put the staged values of collection `c` in force. -/
def Blk.applyColl (s : Blk) (c : Nat) (bound : Bool) : Blk :=
  ((s.applyReg (.rcp (.RCP_ROUTE c)) bound).applyReg (.rcp (.RCP_LQ c)) bound).applyReload c bound

/-- Put the staged values of a tracker's registers in force. -/
def Blk.applyTrk (s : Blk) (t : Nat) (bound : Bool) : Blk :=
  ((List.range 8).foldl (fun s n => s.applyReg (.trn (.TRN_ATn t n)) bound) s).applyReg (.trn (.TRN_CTRL t)) bound

/-- A write of a buffered register of collection `c`. -/
def Blk.wrCollRwb (s : Blk) (c : Nat) (r : Reg) (v : Word) : Blk :=
  let s := s.stage r v
  if s.collRuns c ∧ (s.tracker (s.coll c).trk).running then s else s.applyColl c false

/-! ### Boundaries (R72, R75) -/

/-- Running collections bound to a tracker (R81). -/
def Blk.boundTo (s : Blk) (t : Nat) : List Nat :=
  (Store.keys s.colls).filter (fun c => s.collRuns c && decide ((s.coll c).trk = t))

/-- The prediction of the next turn (R72). -/
def predNext (p d k : Nat) : Nat :=
  if p = 0 then d else
  let dc : Int := max (p / 4 : Nat) (min d (4 * p) : Nat)
  ((p : Int) + (dc - p) / (2 ^ k : Nat)).toNat % 2 ^ 48

/-- The turn header of turn `n` for collection `c`, with the tracker as it stood in that turn (Table 4-5). SEQ_END before any record of
the stream is 0xFFFFFFFF, the number before its first: R120 names no value there (DESIGN CHOICE, log 51). -/
def Blk.thdr (s : Blk) (c t : Nat) (k : Tracker) (dur : Nat) : Record :=
  let st := s.stream (2 * c)
  let shed := st.turnShed + (s.stream (2 * c + 1)).turnShed
  let flags := 512 * b2n k.overrun + 256 * b2n k.step + 128 * b2n s.time.hold + 64 * b2n k.stall + 32 * b2n k.early +
    16 * b2n k.seqerr + 8 * b2n (decide (shed ≠ 0)) + 4 * b2n st.turnPoi
  mkRec tThdr false (s48 k.mstamp)
    (t <<< 232 + flags <<< 222 + k.turn.toNat <<< 160 + dur <<< 48 + k.pred)
    [k.mstamp.toNat <<< 192 + (st.seq - 1).toNat <<< 160 + (shed % 2 ^ 32) <<< 128]

/-- The marker record of a turn (Table 4-5). -/
def mrkRecord (t src : Nat) (hold step seqerr : Bool) (turn num : Word) (stamp : Dword) (cseq : Word) : Record :=
  mkRec tMrk false (s48 stamp)
    (t <<< 232 + src <<< 230 + (b2n hold) <<< 229 + (b2n step) <<< 228 + (b2n seqerr) <<< 227 + turn.toNat <<< 192 +
      num.toNat <<< 160 + cseq.toNat <<< 64) []

/-- Step 1: the triggers of the turn that have not fired fire early, then the WAITAs for it release early; the counter records of
the latches go behind those of step 2 (R75, R119, R164). -/
def Blk.bound1 (s : Blk) (t : Nat) (stamp : Dword) : List (Owner × Record) × Blk :=
  let k := s.tracker t
  let (rs, s) := ((List.range 8).filter (s.atArmed t)).foldl (fun (a : List (Owner × Record) × Blk) n =>
    let (r, s) := (a.2.atFire t n true).latchAll (a.2.slotGroups 1 t n) none true
    (a.1 ++ r, s)) ([], s)
  (rs, s.releaseOn t (fun x => match x.blocked with
    | .waita n _ rd => if n = k.turn then some (rd, waitWord n (k.angleAt (stamp - 1)) true false) else none
    | _ => none))

/-- Step 4: buffered writes, ensemble swaps, re-keying, firmware activation and the contexts of committed collections, at the
boundary that opens turn `m` (R75, R285, R306, R350, R418, R459). -/
def Blk.bound4 (s : Blk) (t : Nat) (m : Word) : Blk :=
  let cs := s.boundTo t
  let s := s.applyTrk t true
  let s := cs.foldl (fun s c => s.applyColl c true) s
  let s := (s.ownedGroups cs).foldl (fun s g => s.applyGroup g true) s
  let s := (((s.swapModels t m).rekeyBoundary t).fwcBoundary t m).bwBoundary t
  s

/-- What a tracker's new turn opens: reductions and lateness stages (R235, R262), contexts of committed collections (R459). -/
def Blk.openTurn (s : Blk) (t : Nat) : Blk :=
  let k := s.tracker t
  (s.boundTo t).foldl (fun s c =>
    ((s.releaseColl c).redOpen c k.turn (k.mstamp.toNat + k.pred)).lateOpen c k.turn k.mstamp) s

/-- Step 6: triggers at angle 0 fire, then the WAITAs for the turn opened release (R76, R168). -/
def Blk.bound6 (s : Blk) (t : Nat) : Blk :=
  let s := ((List.range 8).filter (fun n => s.atArmed t n && decide (s.atAngle t n = 0))).foldl (fun s n =>
    (s.atFire t n false).slotLatch 1 t n) s
  s.waitaAll t

/-- A marker that closes turn n and opens turn n + 1 (R75). -/
def Blk.boundary (s : Blk) (t src : Nat) (num : Word) (stamp : Dword) (cseq : Word) (seqerr : Bool) : Blk :=
  let (early, s) := s.bound1 t stamp
  let old := s.tracker t
  let cs := s.boundTo t
  let gs := s.ownedGroups cs
  let (rs, s) := s.latchAll gs (some stamp) false
  let s := (s.placeLatches rs).placeLatches early
  let s := (gs.filter (fun g => bit (s.reg (.prb (.PRB_Gg_CTRL g))) 30)).foldl Blk.groupZero s
  let m := old.turn + 1
  let s := s.bound4 t m
  let dur := min (max (stamp - old.mstamp).toInt 0).toNat (2 ^ 47 - 1)
  let s := s.setTracker t { Tracker.idle with
    running := true, turn := m, mstamp := stamp, prevM := old.mstamp,
    past := ((old.mstamp, old.turn) :: old.past).take 8,
    pred := predNext old.pred dur (fld (s.reg (.trn (.TRN_CTRL t))) 30 28 + 1), lastDur := dur, below := old.below,
    hold := s.time.hold, seqerr := seqerr }
  let s := (s.openTurn t).bound6 t
  let s := cs.foldl (fun s c =>
    let h := s.thdr c t old dur
    let s := (s.turnRec c h).histAdd c old.turn 0 ((h.inStream false c).units.flatMap (fun u => (leBytes 32 u.toNat).map (fun b => (b, false))))
    let s := [2 * c, 2 * c + 1].foldl (fun s i => s.modStream i (fun x => { x with turnShed := 0, turnPoi := false })) s
    s.turnRec c (mrkRecord t src s.time.hold old.step seqerr m num stamp cseq)) s
  let s := cs.foldl (fun s c => Blk.ackRun 64 (s.ackBoundary c m) c) s
  let s := s.passOn t (fun x => match x.blocked with
    | .waitb n rd => if n = old.turn ∨ turnLater old.turn n then
        some (rd, waitWord m 0 false (decide (n ≠ old.turn))) else none
    | _ => none)
  s.stepPassed t true

/-- The first marker of an idle tracker opens turn TRN_TURN_BASE; waits left from an earlier enable are decided afresh (R68, R69). -/
def Blk.firstMarker (s : Blk) (t src : Nat) (num : Word) (stamp : Dword) (cseq : Word) (seqerr : Bool) : Blk :=
  let m := s.reg (.trn (.TRN_TURN_BASE t))
  let old := s.tracker t
  let s := s.setTracker t { Tracker.idle with
    running := true, turn := m, mstamp := stamp, prevM := stamp, below := old.below, hold := s.time.hold, seqerr := seqerr, lastDur := old.lastDur,
    pred := s.reg2 (.trn (.TRN_PRED_INIT_HI t)) (.trn (.TRN_PRED_INIT_LO t)) % 2 ^ 48 }
  let s := (s.openTurn t).bound6 t
  let s := (s.boundTo t).foldl (fun s c => s.turnRec c (mrkRecord t src s.time.hold false seqerr m num stamp cseq)) s
  let s := s.releaseOn t (fun x => match x.blocked with
    | .waitb n rd => if turnLater m n then some (rd, waitWord m 0 false true) else none
    | _ => none)
  s.stepPassed t true

/-- A marker for tracker `t` from its selected source, 0 register, 1 probe, 2 from below; a probe marker carries no number
(R67 to R70). -/
def Blk.marker (s : Blk) (t src : Nat) (num : Option Word) (stamp : Dword) (cseq : Word) : Blk :=
  if !s.trkEn t ∨ !s.unitUp t 2 then s else
  let k := s.tracker t
  if k.running ∧ (stamp - k.mstamp).toInt < (fld (s.reg (.trn (.TRN_MIN_GAP t))) 15 0 * tkUs : Nat) then
    (s.count (.trn (.TRN_DUP_CNT t)) 1).setBits (.trn (.TRN_EVT t)) 4
  else
    let want := if k.running then k.turn + 1 else s.reg (.trn (.TRN_TURN_BASE t))
    let num := num.getD want
    let bad := decide (num ≠ want)
    let s := if !bad then s else
      ((s.setBits (.trn (.TRN_EVT t)) 2).count (.trn (.TRN_SEQERR_CNT t)) 1).emitAt 2 t 0x0201
        (want.toNat * 2 ^ 32 + num.toNat) t
    if k.running then s.boundary t src num stamp cseq bad else s.firstMarker t src num stamp cseq bad

/-- SRC of a tracker. -/
def Blk.trkSrc (s : Blk) (t : Nat) : Nat := fld (s.reg (.trn (.TRN_CTRL t))) 1 0

/-- A record from below that carries turn `n`: a marker for each from-below tracker that is idle or took an earlier turn last
(R67). -/
def Blk.fromBelow (s : Blk) (n : Word) : Blk :=
  (List.range s.conf.trackers).foldl (fun s t =>
    if !s.trkEn t ∨ s.trkSrc t ≠ 2 then s else
    let k := s.tracker t
    let is := !k.running || (match k.below with | some l => turnLater n l | none => true)
    if !is then s else (s.setTracker t { k with below := some n }).marker t 2 (some n) s.t64 0) s

/-! ### Writes of the trackers (R67, R69, R86) -/

/-- Clearing EN abandons the turn: no latch, no header, no trigger; buffered writes are applied at once (R69). -/
def Blk.trkDisable (s : Blk) (t : Nat) : Blk :=
  let k := s.tracker t
  let turn := k.turn
  let s := (s.setTracker t { Tracker.idle with lastDur := k.lastDur }).applyTrk t false
  (s.emitAt 2 t 0x0204 t turn.toNat).stepPassed t false

/-- TRN_CTRL (Table 2-6): a reserved SRC leaves SRC as it is and is refused; clearing EN is applied at once, with the fields
written with it. -/
def Blk.wrTrnCtrl (s : Blk) (t : Nat) (v : Word) : Blk :=
  let r : Reg := .trn (.TRN_CTRL t)
  let old := match Store.look s.rwb (r.addr s.conf) with | some (w, _) => w | none => s.reg r
  let src := fld v 1 0
  let ok := decide (src = 0 ∨ (src = 1 ∧ s.conf = .d) ∨ (src = 2 ∧ s.conf = .a64))
  let s := if ok then s else s.refused r v
  let w := setFld (v &&& 0xF1FF0003) 1 0 (if ok then src else fld old 1 0)
  if !bit v 31 then
    let was := s.trkEn t
    let s := (s.dropStaged r).setReg r w
    if was then s.trkDisable t else s
  else if (s.tracker t).running then s.stage r w
  else
    let was := s.trkEn t
    let s := s.setReg r w
    if was then s else s.setTracker t { Tracker.idle with lastDur := (s.tracker t).lastDur }

/-- TRN_ATn: staged while the tracker has a turn. -/
def Blk.wrTrnAt (s : Blk) (t n : Nat) (v : Word) : Blk :=
  let s := s.stage (.trn (.TRN_ATn t n)) v
  if (s.tracker t).running then s else s.applyTrk t false

/-- TRN_MARK: a register-source marker, or counted as ignored (R67). -/
def Blk.wrTrnMark (s : Blk) (t : Nat) (v : Word) : Blk :=
  let s := s.setReg (.trn (.TRN_MARK t)) v
  if !s.trkEn t then s
  else if s.trkSrc t ≠ 0 then s.count (.trn (.TRN_IGN_CNT t)) 1
  else s.marker t 0 (some v) s.t64 0

/-! ### Meanings -/

/-- The due time triggers of the slots `ns`, in ascending order (R79). -/
def Blk.ttRun (s : Blk) (ns : List Nat) : Blk :=
  ns.foldl (fun s n => if s.ttDue n then s.ttFire n false else s) s

/-- TIME_TRIGGER_FIRE (R77): one firing for each instance whose time has come; due slots of a lower number act first (R79). -/
def execTimeTriggerFire (n : Nat) : State → Host.Outcome State Fault Refusal := lift fun s =>
  if n < s.conf.timeTriggers ∧ s.ttDue n then s.ttRun (List.range (n + 1)) else s

/-- Whether the angle has reached that of an armed slot that has not fired in this turn (R77). -/
def Blk.atDue (s : Blk) (t n : Nat) : Bool :=
  s.trkEn t && (s.tracker t).running && s.atArmed t n && decide (s.atAngle t n ≤ s.angle t)

/-- The due angle triggers of the slots `ns`, in ascending tracker and slot number (R79). -/
def Blk.atRun (s : Blk) (ns : List (Nat × Nat)) : Blk :=
  ns.foldl (fun s x => if s.atDue x.1 x.2 then (s.atFire x.1 x.2 false).slotLatch 1 x.1 x.2 else s) s

/-- ANGLE_TRIGGER_FIRE (R77): due time triggers, and due angle triggers of a lower tracker or slot number, act first (R79). -/
def execAngleTriggerFire (t n : Nat) : State → Host.Outcome State Fault Refusal := lift fun s =>
  if n < 8 ∧ s.atDue t n then
    (s.ttRun (List.range s.conf.timeTriggers)).atRun
      ((List.range t).flatMap (fun u => (List.range 8).map (fun m => (u, m))) ++ (List.range (n + 1)).map (fun m => (t, m)))
  else s

/-- TURN_OVERRUN (R73): elapsed time has reached the prediction. -/
def execTurnOverrun (t : Nat) : State → Host.Outcome State Fault Refusal := lift fun s =>
  let k := s.tracker t
  if !k.running ∨ k.pred = 0 ∨ k.overrun ∨ (s.t64 - k.mstamp).toInt < k.pred then s else
  let s := s.setTracker t { k with overrun := true }
  ((s.setBits (.trn (.TRN_EVT t)) 1).count (.trn (.TRN_OVR_CNT t)) 1).emitAt 2 t 0x0203 t k.turn.toNat

/-- TURN_STALL (R71): TRN_STALL has passed with no marker. -/
def execTurnStall (t : Nat) : State → Host.Outcome State Fault Refusal := lift fun s =>
  let k := s.tracker t
  if !k.running ∨ k.stall ∨ (s.t64 - k.mstamp).toInt < (fld (s.reg (.trn (.TRN_STALL t))) 23 0 * 1000 * tkUs : Nat) then s else
  (((s.setTracker t { k with stall := true }).setBits (.trn (.TRN_EVT t)) 8)).emitAt 2 t 0x0202 t k.turn.toNat

/-- PROBE_BEGIN (R92, R95): the BEGIN takes an entry; with MARK it is first a marker (R119) for the probe-source trackers of its channel, and
is counted as ignored at register-source trackers. -/
def execProbeBegin (lane : Nat) (w : BitVec 128) : State → Host.Outcome State Fault Refusal := lift fun s =>
  match s.acceptWord lane w 1 with
  | (false, s) => s
  | (true, s) =>
    let (at_, s) := s.wordStamp w
    let s := if pw w 107 107 = 0 then s else (List.range s.conf.trackers).foldl (fun s t =>
      if !s.trkEn t then s
      else if s.trkSrc t = 0 then s.count (.trn (.TRN_IGN_CNT t)) 1
      else if s.trkSrc t = 1 ∧ fld (s.reg (.trn (.TRN_CTRL t))) 24 16 = pwChan w then s.marker t 1 none at_ (w32 (pw w 31 0))
      else s) s
    s.takeBegin w at_

/-- WAITA_RELEASE (R164): the angle of the awaited turn has reached the angle of a blocked WAITA. -/
def execWaitaRelease (c : Nat) : State → Host.Outcome State Fault Refusal := lift fun s =>
  match Store.look s.ctxs c with
  | none => s
  | some x =>
    match x.blocked with
    | .waita n a rd => if !s.collLive x.coll then s else
      (match s.waitaNow x.coll n a with | some v => s.release c rd v | none => s)
    | _ => s

/-- WAITT_RELEASE (R165): T64 has reached the time of a blocked WAITT. -/
def execWaittRelease (c : Nat) : State → Host.Outcome State Fault Refusal := lift fun s =>
  match Store.look s.ctxs c with
  | none => s
  | some x =>
    match x.blocked with
    | .waitt time rd => if s.collLive x.coll ∧ time.toNat ≤ s.t64.toNat then s.release c rd 0 else s
    | _ => s

end Sys2Proof.Machine
end

