-- ==== Sys2Proof/Machine/Combine.lean ====
section
/-!
DEFINITION. The commands of the wide-sum reducers (R229, R233 to R246): contributions, cuts, halves up the trees, the span
combine, halves down the trees and the delivery of results.
-/

namespace Sys2Proof.Machine

/-! ### REDUCE and FETCH frames -/

/-- Take a frame of type `want` that `p` selects; another is another command's. -/
def Blk.takeIf (s : Blk) (r : RxFrame) (want : Nat) (p : Frame → Bool) : Blk × Option Taken :=
  match parseFrame r with
  | .ok f => if f.ftype = want ∧ !p f then (s, none) else s.takeFrame r want
  | .bad _ _ => s.takeFrame r want

/-- What ends every command of the reducers: what waited for an open turn is taken, and malformed contributions fault their
collections (R228, R229). -/
def Blk.redEnd (s : Blk) : Blk := s.redPump.redFaults

/-- WSR_CTRL (R247): a rise of EN takes the contributions that wait. -/
def Blk.wrWsrCtrl (s : Blk) (v : Word) : Blk := (s.setReg (.wsr .WSR_CTRL) (v &&& 1)).redEnd

/-! ### Up the trees -/

/-- The turns with a base that `p` selects, with their bases, in turn order. -/
def Blk.withBase (s : Blk) (c r : Nat) (p : Word → RTurn → Bool) : List (Word × Nat) :=
  (s.turnsUp c r).filterMap (fun n => match s.rturn c r n with
    | some t => (match t.base with | some b => if p n t then some (n, b) else none | none => none)
    | none => none)

/-- Whether a cut, a T64 value, has passed. -/
def Blk.cutPast (s : Blk) (cut : Int) : Bool := decide (cut ≤ (s.t64.toNat : Int))

/-! ### At the spans -/

/-- The lead's place as this instance sees it (R240). -/
def Blk.leadPlace (s : Blk) (c : Nat) : Option Word := ((s.coll c).sites.find? s.primaryUp).bind s.primaryOf

/-- Sites of a list, ascending. -/
def listSites (l : Nat) : List Nat := (List.range 8).filter (fun i => l / 2 ^ i % 2 = 1)

/-- Request the listed halves that are not held from the lead (R242). A request names half and turn, not the site: the lead answers
with every listed half of that letter in ascending site index (DESIGN CHOICE, log 22). -/
def Blk.askLead (s : Blk) (c r : Nat) (n : Word) (t : RTurn) (l : Nat × Nat) : Blk :=
  match s.leadPlace c with
  | none => s
  | some p =>
    if p = s.place then s else
    let s := s.modTurn c r n (fun t => { t with askedSpan := true, repA := 0, repB := 0 })
    [false, true].foldl (fun s b =>
      let miss := (listSites (if b then l.2 else l.1)).filter (fun i => (Store.look (if b then t.sitesB else t.sitesA) i).isNone)
      if miss.isEmpty then s else
      (s.countFld (.wsr .WSR_LIST_CNT) 31 16 miss.length).sendWords c p 3 ftFetch (fetchHead false 2 r b n) none) s

/-- The lead answers a request with the listed site halves. -/
def Blk.answerSites (s : Blk) (c r : Nat) (n : Word) (b : Bool) (dst : Word) : Blk :=
  match s.reduction c r, s.rturn c r n with
  | some v, some t =>
    (match t.list with
    | none => s
    | some l =>
      (listSites (if b then l.2 else l.1)).foldl (fun s i =>
        match Store.look (if b then t.sitesB else t.sitesA) i with
        | none => s
        | some h =>
          s.sendWords c dst 3 ftFetch (fetchHead true 2 r b n ++ s.packResult c r v n 2 (if b then 2 else 1)
            (if b then none else some h) (if b then some h else none) (s.expOf c 2 v.dies) (0, 0) false) none) s)
  | _, _ => s

/-- A listed site half comes from the lead. -/
def Blk.siteReply (s : Blk) (c : Nat) (x : HalfIn) : Blk :=
  match s.rturn c x.rid x.turn with
  | none => s
  | some t =>
    match t.list with
    | none => s
    | some l =>
      match (listSites (if x.b then l.2 else l.1))[if x.b then t.repB else t.repA]? with
      | none => s
      | some i =>
        let held := if x.b then t.sitesB else t.sitesA
        let m := if (Store.look held i).isSome then held else Store.put held i x.half
        (s.modTurn c x.rid x.turn (fun t =>
          if x.b then { t with sitesB := m, repB := t.repB + 1 } else { t with sitesA := m, repA := t.repA + 1 })).fleetRun c

/-- A list of a turn reaches a primary: the first is relayed and used (R242). -/
def Blk.listIn (s : Blk) (c r : Nat) (n : Word) (l : Nat × Nat) : Blk :=
  match s.reduction c r with
  | none => s
  | some v =>
    let closed := match v.closed with | some k => decide (sdiff n k ≤ 0) | none => false
    if !s.boot.isPrimary ∨ v.scope ≠ 3 ∨ closed = true ∨ sdiff n (s.coll c).start < 0 ∨ (v.turnOr n).list.isSome then s else
    let s := s.modTurn c r n (fun t => { t with list := some l, listAt := s.tclk })
    (s.sendList c r n l).fleetRun c

/-! ### Down the trees -/

/-- The half of a broadcast that is wanting at a tray: false A, true B; none when both or neither are held, or the result is done. -/
def Bcast.wants (x : Bcast) : Option Bool :=
  if x.done then none else
  match x.a, x.b with
  | some _, none => some true
  | none, some _ => some false
  | _, _ => none

/-- A request for a broadcast half reaches a tray: it is sent if it is held, or requested in turn (R245). -/
def Blk.requestIn (s : Blk) (c r level : Nat) (b : Bool) (n : Word) (src : Word) (role : Nat) : Blk :=
  match s.reduction c r, s.rturn c r n with
  | some v, some t =>
    let x := t.bcast level
    match (if b then x.b else x.a) with
    | some h =>
      s.sendWords c src role ftFetch (fetchHead true level r b n ++ s.packResult c r v n level (if b then 2 else 1)
        (if b then none else some h) (if b then some h else none) x.exp
        (if b then (0, x.sitesB) else (x.sitesA, 0)) false) none
    | none =>
      if x.done then s else
      (s.modTurn c r n (fun t => t.setBcast level (if b then { x with reqB := x.reqB ++ [(src, role)] }
        else { x with reqA := x.reqA ++ [(src, role)] }))).bcastAsk c r n level b
  | _, _ => s

/-- Whether a broadcast half may come from `src`: its parent in that tree, or at the crown the primary span instance (R243, R244). -/
def Blk.fromAboveTree (s : Blk) (c : Nat) (x : HalfIn) (src : Word) (role : Nat) : Bool :=
  let ps := s.treeOf c x.turn
  if role = 3 then crownIn ps x.b == some s.place && decide (x.level = 3) else parentIn ps x.b s.place == some src

/-- A whole result reaches a member die from its tray (R244). -/
def Blk.dieResult (s : Blk) (c : Nat) (ws : List PWord) : Blk :=
  let w := fun i => (ws.getD i (0, false)).1
  if fld (w 0) 29 28 ≠ 3 ∨ ws.length ≠ resultLen ws then s
  else s.resultReady c (fld (w 0) 27 24) (resultOf (fld (w 0) 31 30) (w 1) ws)

/-! ### Meanings -/

/-- A REDUCE frame for the reducers of a tray: it waits behind its credits while EN is 0, while an earlier frame of its source waits,
or while its turn cannot be opened (R229, R247). -/
def Blk.reduceIn (s : Blk) (t : Taken) : Blk :=
  let behind := s.red.wait.any (fun e => e.1.src == t.f.src && decide (e.1.coll = t.f.coll))
  let hold := fun (s : Blk) => s.modRed (fun m => { m with wait := m.wait ++ [(t.f, t.fc)] })
  (if behind then hold s else match s.takeReduce t.f t.fc with
    | (true, s) => s
    | (false, s) => hold s).redEnd

/-- CONTRIBUTION_RECEIVE (R229, R230): a REDUCE frame from a die reaches its tray. -/
def execContributionReceive (f : RxFrame) : State → Host.Outcome State Fault Refusal := lift fun s =>
  if s.role ≠ .tray then s else
  match s.takeIf f ftReduce (fun g => decide (g.srole = 1)) with
  | (s', none) =>
    if s'.reg (.boot .BOOT_STALE_CNT) = s.reg (.boot .BOOT_STALE_CNT) then s' else s'.count (.wsr .WSR_STALE_CNT) 1
  | (s, some t) => s.reduceIn t

/-- DIE_CUT (R235 to R237): the turns without a tray result whose die cut has passed. -/
def execDieCut (c r : Nat) : State → Host.Outcome State Fault Refusal := lift fun s =>
  match s.reduction c r with
  | none => s
  | some v =>
    let due := (s.withBase c r (fun _ t => t.tray.isNone)).filter (fun p => s.cutPast (s.cuts c v p.1 p.2).1)
    if due.isEmpty then s else (due.foldl (fun s p => s.tryTray c r p.1 true) s).redEnd

/-- TREE_CUT (R235 to R237): the turns without the half of a tree whose cut for it has passed. -/
def execTreeCut (c r : Nat) (treeB : Bool) : State → Host.Outcome State Fault Refusal := lift fun s =>
  match s.reduction c r with
  | none => s
  | some v =>
    if v.scope = 1 then s else
    let due := (s.withBase c r (fun n t => s.inTree c n && (if treeB then t.halfB else t.halfA).isNone)).filter (fun p =>
      let x := s.cuts c v p.1 p.2
      s.cutPast (if treeB then x.2.2 else x.2.1))
    if due.isEmpty then s else
    (due.foldl (fun s p => (s.tryTray c r p.1 true).tryHalf c r p.1 treeB true) s).redEnd

/-- HALF_PARTIAL_RECEIVE (R233, R236, R237). -/
def execHalfPartialReceive (f : RxFrame) : State → Host.Outcome State Fault Refusal := lift fun s =>
  if s.role ≠ .tray then s else
  match s.takeIf f ftReduce (fun g => decide (g.srole ≠ 1) && decide (s.headLevel g = 0)) with
  | (s, none) => s
  | (s, some t) => s.reduceIn t

/-- SITE_HALF_RECEIVE (R240, R241): from a crown of the own site, where its header is also a marker from below (R67), or from
another site's primary. -/
def execSiteHalfReceive (f : RxFrame) : State → Host.Outcome State Fault Refusal := lift fun s =>
  if s.role ≠ .span then s else
  match s.takeFrame f ftReduce with
  | (s, none) => s
  | (s, some t) =>
    match s.gather t false with
    | (none, s) => s
    | (some ws, s) =>
      match s.readHalf t.f.coll ws with
      | none => (s.malformed t.f.coll).redEnd
      | some x =>
        let c := t.f.coll
        let crown := decide (t.f.srole = 2)
        let ok := if crown then crownIn (s.treeOf c x.turn) x.b == some t.f.src else decide (siteOf t.f.src ≠ siteOf s.place)
        if x.level ≠ 2 ∨ !ok then s else
        let s := if crown then s.fromBelow x.turn else s
        (s.siteHalfIn c x (siteOf t.f.src) crown ws).redEnd

/-- LEAD_WAIT_EXPIRE (R241, R243): WSR_SPAN_WAIT has passed since the lead first held a half of the turn, or it holds them all; and
since it took the role from another. -/
def execLeadWaitExpire (c r : Nat) (turn : Word) : State → Host.Outcome State Fault Refusal := lift fun s =>
  let w := s.us (s.reg (.wsr .WSR_SPAN_WAIT)).toNat
  match s.rturn c r turn with
  | none => s
  | some t =>
    match t.siteAt with
    | none => s
    | some a => if s.leadReady c ∧ (s.passed a w ∨ s.sitesFull c t) then (s.formList c r turn).redEnd else s

/-- LIST_RECEIVE (R241, R242). -/
def execListReceive (f : RxFrame) : State → Host.Outcome State Fault Refusal := lift fun s =>
  match s.takeFrame f ftList with
  | (s, none) => s
  | (s, some t) =>
    let w := wordAt t.f.payload
    let s := s.frameDone t
    if s.role ≠ .span ∨ t.f.payload.length < 16 then s
    else (s.listIn t.f.coll (fld (w 0) 3 0) (w 1) (fld (w 2) 7 0, fld (w 3) 7 0)).redEnd

/-- SPAN_HOLD_EXPIRE (R242): a listed half is still absent WSR_SPAN_HOLD after the list. -/
def execSpanHoldExpire (c r : Nat) (turn : Word) : State → Host.Outcome State Fault Refusal := lift fun s =>
  match s.rturn c r turn with
  | none => s
  | some t =>
    match t.list with
    | none => s
    | some l =>
      if t.handed ∨ t.askedSpan ∨ t.listHeld l ∨ !s.passed t.listAt (s.us (s.reg (.wsr .WSR_SPAN_HOLD)).toNat) then s
      else s.askLead c r turn t l

/-- FETCH_REQUEST (R242, R245). -/
def execFetchRequest (f : RxFrame) : State → Host.Outcome State Fault Refusal := lift fun s =>
  match s.takeSub f ftFetch 1 with
  | (s, none) => s
  | (s, some t) =>
    let w := wordAt t.f.payload 0
    let n := wordAt t.f.payload 1
    let s := s.frameDone t
    let half := fld w 9 8
    if t.f.payload.length < 8 ∨ (half ≠ 1 ∧ half ≠ 2) then s else
    let b := decide (half = 2)
    match s.role with
    | .tray => if fld w 31 30 < 2 then s else s.requestIn t.f.coll (fld w 19 16) (fld w 31 30) b n t.f.src t.f.srole
    | .span => s.answerSites t.f.coll (fld w 19 16) n b t.f.src
    | .die => s

/-- FETCH_REPLY (R242, R245): a half fetched goes on down its tree; each is counted. -/
def execFetchReply (f : RxFrame) : State → Host.Outcome State Fault Refusal := lift fun s =>
  match s.takeIf f ftFetch (fun g =>
      decide (fld (wordAt g.payload 0) 7 0 = 2) || !(s.chain (chainKey g.coll g.src g.srole true)).isEmpty) with
  | (s, none) => s
  | (s, some t) =>
    match s.gather t true with
    | (none, s) => s
    | (some ws, s) =>
      match s.readHalf t.f.coll (ws.drop 2) with
      | none => s
      | some x =>
        match s.role with
        | .tray =>
          let gone := match s.rturn t.f.coll x.rid x.turn with | some k => (k.bcast x.level).done | none => true
          if x.level < 2 ∨ gone = true then s else
          ((s.count (.wsr .WSR_REREACH_CNT) 1).bcastIn t.f.coll x.rid x.turn x.level x.b x.half x.sites x.exp).redEnd
        | .span => (s.siteReply t.f.coll x).redEnd
        | .die => s

/-- BROADCAST_HALF_RECEIVE (R243, R244): at a tray a half from its parent in that tree or from the primary span instance; at a die a
result from its tray. -/
def execBroadcastHalfReceive (f : RxFrame) : State → Host.Outcome State Fault Refusal := lift fun s =>
  if s.role = .span then s else
  match s.takeIf f ftReduce (fun g => decide (s.role = .die) || (decide (g.srole ≠ 1) && decide (s.headLevel g ≠ 0))) with
  | (s, none) => s
  | (s, some t) =>
    match s.gather t false with
    | (none, s) => s
    | (some ws, s) =>
      if s.role = .die then s.dieResult t.f.coll ws else
      match s.readHalf t.f.coll ws with
      | none => s
      | some x =>
        let c := t.f.coll
        let closed := match (s.reduction c x.rid).bind Reduction.closed with | some k => decide (sdiff x.turn k ≤ 0) | none => false
        if x.level < 2 ∨ closed = true ∨ sdiff x.turn (s.coll c).start < 0 ∨ !s.fromAboveTree c x t.f.src t.f.srole then s
        else (s.bcastIn c x.rid x.turn x.level x.b x.half x.sites x.exp).redEnd

/-- A half of level `l` that is held for WSR_BC_WAIT without the other: the other is asked for. -/
def Blk.bcWaitAt (s : Blk) (c r : Nat) (turn : Word) (l : Nat) : Blk :=
  match s.rturn c r turn with
  | none => s
  | some t =>
    match (t.bcast l).wants with
    | some b => if s.passed (t.bcast l).at_ (s.us (s.reg (.wsr .WSR_BC_WAIT)).toNat) then s.bcastAsk c r turn l b else s
    | none => s

/-- A half of level `l` that is held for WSR_BC_HOLD without the other: the result is formed without it. -/
def Blk.bcHoldAt (s : Blk) (c r : Nat) (turn : Word) (l : Nat) : Blk :=
  match s.rturn c r turn with
  | none => s
  | some t =>
    if (t.bcast l).wants.isSome && s.passed (t.bcast l).at_ (s.us (s.reg (.wsr .WSR_BC_HOLD)).toNat) then s.bcastDone c r turn l
    else s

/-- BC_WAIT_EXPIRE (R245), for the site result and the fleet result. -/
def execBcWaitExpire (c r : Nat) (turn : Word) : State → Host.Outcome State Fault Refusal := lift fun s =>
  (s.bcWaitAt c r turn 2).bcWaitAt c r turn 3

/-- BC_HOLD_EXPIRE (R245). -/
def execBcHoldExpire (c r : Nat) (turn : Word) : State → Host.Outcome State Fault Refusal := lift fun s =>
  ((s.bcHoldAt c r turn 2).bcHoldAt c r turn 3).redEnd

/-- RESULT_DELIVER (R246, R264, R267): the next result of the reduction goes to its queue as far as that has room. -/
def execResultDeliver (c r : Nat) : State → Host.Outcome State Fault Refusal := lift fun s =>
  if !s.collRuns c then s else
  match s.deliverResult c r with
  | (none, s) => s
  | (some x, s) => (Blk.ackRun 64 (s.lateResult c r x) c).redEnd

end Sys2Proof.Machine
end

