-- ==== Sys2Proof/Machine/Flush.lean ====
section
/-!
DEFINITION. The end of a flush (R377, R378) and the snapshot network's pin and release (R379, R380).
-/

namespace Sys2Proof.Machine

/-- A held flush starts, unless a power warning's flush has completed (R378). -/
def State.flushHeld (s : State) : State :=
  match s.evr.flush, s.evr.held with
  | none, some h =>
    if s.evr.flushedPw then s else (s.modEvr (fun v => { v with held := none })).flushStart h.cause h.code h.t64
  | _, _ => s

/-- FLUSH_COMPLETE (R377, R378): the header is written last; EVR_FLUSH follows the flush's last record and enters the next flush; a
held flush starts. -/
def execFlushComplete : State → Host.Outcome State Fault Refusal := liftS fun s =>
  match s.evr.flush with
  | none => s
  | some f =>
    let n := s.evr.flushSeq
    let s := s.modBlk (fun b => b.xmWrite (b.flushSlot n) (s.flushHeader f) false)
    let s := s.modEvr (fun v => { v with flush := none, flushSeq := n + 1, flushErr := f.err, flushedPw := v.flushedPw || f.pw })
    let s := s.modBlk (fun b => b.emit 0xE 0x0F01 n (f.cause.toNat + f.code.toNat <<< 16))
    (settle s).flushHeld

/-- TL_SNAP (R379): a rising edge of tl_snap triggers a snapshot while TLSNAP_EN is 1. -/
def execTlSnap : State → Host.Outcome State Fault Refusal := lift fun s =>
  if bit (s.reg (.snp .SNP_CTRL)) 1 then s.snapReq 3 0 else s

/-- A completed pair of SNP_RELEASE unfreezes the set (R380). -/
def State.wrRelease (s : State) (v : Word) : State :=
  if bit v 0 then s.modSnap (fun n => { n with frozen := false }) else s

/-- EVR_FLUSH_NOW and SNP_TRIG (R376, R379). -/
def Blk.wrFlushNow (s : Blk) (v : Word) : Blk := if bit v 0 then s.flushReq 4 0 else s
def Blk.wrSnpTrig (s : Blk) (v : Word) : Blk := if bit v 0 then s.snapReq 1 (s.reg (.snp .SNP_TRIG_ARG)) else s

/-- EVR_INJ_CODE raises an event with the arguments staged and the initiator as source (R371, R383). -/
def Blk.wrInject (s : Blk) (init : Nat) (v : Word) : Blk :=
  let s := s.setReg (.evr .EVR_INJ_CODE) v
  s.emitEv ⟨BitVec.ofNat 16 (fld v 15 0), hostSrc init, BitVec.ofNat 64 (s.pairVal (.evr .EVR_INJ_ARG0_HI) (.evr .EVR_INJ_ARG0_LO)),
    BitVec.ofNat 48 (s.pairVal (.evr .EVR_INJ_ARG1_HI) (.evr .EVR_INJ_ARG1_LO)), false⟩

end Sys2Proof.Machine
end

