-- ==== Sys2Proof/Machine/Ingress.lean ====
section
/-!
DEFINITION. What a tray does with the record frames of its dies (R126, R128, R132, R345, R385), and the turn history (R137).
-/

namespace Sys2Proof.Machine

/-- What a decoded record does at a tray: an MRK is offered to the from-below trackers and to the lateness stage (R67, R262), a DIG
of the global stream goes to the health unit (R385). -/
def Blk.recordIn (s : Blk) (die : Word) (m : Nat) (r : Record) : Blk :=
  let u := r.unit 0
  if r.type = tMrk then
    let n := w32 (uf u 223 192)
    (s.fromBelow n).lateStamp (m / 2) die n r.stamp (decide (uf u 229 229 = 1))
  else if r.type = tDig ∧ m = 128 then
    s.digest die (decide (uf u 219 218 = 1)) (decide (uf u 219 218 = 2)) (uf u 237 229) (uf u 228 220) (w32 (uf u 95 64))
      (w32 (uf u 63 32))
  else s

/-- Take a record frame of a member die: the flight window first, then the records in their order (R126, R132). No record stream
ends at a span: a frame that reaches one gives its units back. -/
def Blk.recordFrame (s : Blk) (f : Frame) (fc : Option Nat) : Blk :=
  if s.role ≠ .tray then s.frameDone ⟨f, fc⟩ else
  let b12 := leAt f.payload 12 1
  let m := if leAt f.payload 13 1 = 1 then 128 else 2 * (b12 % 64) + b12 / 64 % 2
  let die := s.boot.members.contains f.src
  let s := if die then s.fwWrite f m (w32 (leAt f.payload 0 4)) (leAt f.payload 10 2) else s
  let s := s.frameDone ⟨f, fc⟩
  match decodeFrame f with
  | none => s.count (.rcp .RCP_DECERR) 1
  | some (m, seq0, rs) =>
    if !die then s else
    (rs.foldl (fun s r => s.recordIn f.src m r) (s.noteSource f.src m seq0 rs)).redEnd

/-- RCP_CTRL (R128, R130): a rise of EN takes the frames that wait, in order. -/
def Blk.wrRcp (s : Blk) (v : Word) : Blk :=
  let s := s.wrRcpCtrl v
  if !s.rcpEn then s else
  let w := s.rcp.ingress
  w.foldl (fun s e => if s.frameStale e.1 then s.frameDone ⟨e.1, e.2⟩ else s.recordFrame e.1 e.2)
    (s.modRcp (fun r => { r with ingress := [] }))

/-- RCP_LQ (R127): a queue that is not a local queue of the collection is refused. -/
def Blk.wrRcpLq (s : Blk) (c : Nat) (v : Word) : Blk :=
  let q := fld v 7 0
  if s.qEn q ∧ !s.qEgress q ∧ s.qOwner q = c then s.wrCollRwb c (.rcp (.RCP_LQ c)) (w32 q)
  else s.refused (.rcp (.RCP_LQ c)) v

/-! ### Turn history (R137) -/

/-- Parts that the history of a turn of collection `c` consists of. -/
def Blk.histParts (s : Blk) (c : Nat) : List Nat :=
  (if s.role = .tray then [0] else []) ++ (s.redsOf c).flatMap (fun r => match s.reduction c r with
    | some v => (s.histLevels v).map (fun l => 1 + 4 * r + l)
    | none => [])

/-- Drop the oldest turns while the history exceeds its quota. -/
def histTrim (quota : Nat) : List HistTurn → List HistTurn
  | [] => []
  | t :: ts => if quota < ((t :: ts).map (·.bytes)).sum then histTrim quota ts else t :: ts

/-- Keep the stored bytes of turn `n` in the history region, one turn behind another on whole lines; turns that this overwrites, and the
oldest while the collection exceeds its quota, are discarded (R137; DESIGN CHOICE, log 20). -/
def Blk.histPut (s : Blk) (c : Nat) (n : Word) (bs : List (Byte × Bool)) : Blk :=
  let size := 2 ^ 30 * fld (s.reg (.rcp .RCP_HIST_SIZE)) 9 0
  let base := s.reg2 (.rcp .RCP_HIST_BASE_HI) (.rcp .RCP_HIST_BASE_LO)
  let off := if size < s.rcp.histNext + bs.length then 0 else s.rcp.histNext
  let bad := ((List.range bs.length).filter (fun i => (bs.getD i (0, false)).2)).map (fun i => (i, 1))
  let s := s.xmWriteP (base + off) (bs.map Prod.fst) (poiLines (base + off) bad)
  let quota := 2 ^ 20 * (s.reg (.rcp (.RCP_HIST_QUOTA c))).toNat
  s.modRcp (fun r =>
    let kept := r.hist.map (fun p => (p.1, p.2.filter (fun t => decide (t.off + t.bytes ≤ off ∨ off + bs.length ≤ t.off))))
    { r with histNext := off + roundUp bs.length 64,
             hist := Store.set [] (kept.filter (fun p => !p.2.isEmpty)) c
               (histTrim quota (Store.get [] kept c ++ [⟨n, off, bs.length⟩])) })

/-- The next turn of a collection whose history is to be written. -/
def Blk.histTurn (s : Blk) (c : Nat) : Word := match (s.coll c).histTo with | some h => h + 1 | none => (s.coll c).sturn

/-- Whether a job of the history writer for collection `c` waits or runs. -/
def Blk.histBusy (s : Blk) (c : Nat) : Bool :=
  let is := fun (j : Job) => j.hist.isSome && decide (j.coll = c)
  s.ful.queue.any is || s.ful.engines.any (fun p => p.2.job.any is)

/-- The PACK job of the history writer for a turn. -/
def Blk.histJob (s : Blk) (c : Nat) (n : Word) (data : List (Byte × Bool)) : Job :=
  { op := .pack, ctx := 0, coll := c, gen := (s.coll c).gen.toNat, cluster := 0, tag := 0, slot := none, turn := n, ver := 0, pred := 0,
    desc := [], descPoi := [], lanes := [], lanePoi := 0, mask := 0, feats := [], dead := false, at_ := s.tclk, hist := some (n, data) }

/-- Submit the history of the next turn as one PACK job, when every part of it is there and no job of the collection's history is
under way (R137, R329; log 20). -/
def Blk.histSubmit (s : Blk) (c : Nat) : Blk :=
  let n := s.histTurn c
  let pend := Store.get [] s.rcp.histPend c
  let key := fun (p : Nat) => 256 * n.toNat + p
  if s.histBusy c ∨ !(s.histParts c).all (fun p => (Store.look pend (key p)).isSome) ∨ 0 ≤ sdiff n (s.turnOf c) then s else
  let data := (s.histParts c).flatMap (fun p => (Store.look pend (key p)).getD [])
  (s.modRcp (fun r => { r with
    histPend := Store.set [] r.histPend c (pend.filter (fun p => p.1 / 256 ≠ n.toNat)) })).modFul (fun m => { m with
      queue := m.queue ++ [s.histJob c n data] })

/-- The job of the history writer on engine `e` ends: its felt stream stands in the history region, and the turn may be acknowledged
(R137, R329, R330, R362). -/
def Blk.histWrite (s : Blk) (c e : Nat) (gen : Nat) (n : Word) (data : List (Byte × Bool)) : Blk :=
  let d := { (s.histJob c n []).ful with final := true, outLen := 2 ^ 64 }
  let x := packRun d (data.map Prod.fst) 0 0 packHead none (data.findIdx? Prod.snd)
  let s := s.fulCount e 0x3F x data.length
  let s := match x.poiAt with | some k => s.emit 0xB 0x0C02 (0x3F <<< 8) k | none => s
  let s := s.histPut c n x.out
  if !s.collRuns c ∨ (s.coll c).gen.toNat ≠ gen then s else
  Blk.ackRun 64 (s.modColl c (fun v => { v with histTo := some n })) c

/-- FULLER_JOB_DONE (R320 to R329): the job of engine `e` ends, that of a program or of the history writer. -/
def execFullerJobDone (e : Nat) : State → Host.Outcome State Fault Refusal := lift fun s =>
  match (s.fulEngine e).job with
  | some j => (match j.hist with
    | some (n, data) => (s.engineFree e (s.fulEngine e)).histWrite j.coll e j.gen n data
    | none => Blk.jobEnded (s.fulJobEnd e))
  | none => s

/-- RECORD_FRAME_RECEIVE (R128, R132): in tray and span role, while RCP_CTRL.EN is 0 the frame waits in its ingress reservation. -/
def execRecordFrameReceive (f : RxFrame) : State → Host.Outcome State Fault Refusal := lift fun s =>
  match s.takeFrame f ftRecord with
  | (s, none) => s
  | (s, some t) =>
    if s.role = .die then s.frameDone t
    else if !s.rcpEn then s.modRcp (fun r => { r with ingress := r.ingress ++ [(t.f, t.fc)] })
    else s.recordFrame t.f t.fc

/-- HISTORY_WRITE (R137, R329): the history writer submits the next turn of the collection's history to the Fuller queue when its
parts are there; the stream is written when that job ends. -/
def execHistoryWrite (c : Nat) : State → Host.Outcome State Fault Refusal := lift fun s =>
  if s.collRuns c ∧ s.histOn c ∧ s.hasFuller then s.histSubmit c else s

end Sys2Proof.Machine
end

