-- ==== Sys2Proof/Machine/Dexey.lean ====
section
/-!
DEFINITION. The Dexey engines' common part (R148 to R156, R173, R174, R185 to R188): the encoding of every instruction, register
access, the checks at issue, exceptions, and how a context reads and writes memory. An instruction command names a context; it acts
when that context may issue and its next word is that instruction (a word that is none takes its exception under any of them).
-/

namespace Sys2Proof.Machine

/-! ### Fields and encodings (R186 to R191) -/

def fRd (w : Word) : Nat := fld w 25 21
def fRa (w : Word) : Nat := fld w 20 16
def fRb (w : Word) : Nat := fld w 15 11
def fRc (w : Word) : Nat := fld w 10 6
def fPm (w : Word) : Nat := fld w 10 8
def fMaj (w : Word) : Nat := fld w 31 26
/-- FUNC of format A, SUB of formats C and D, 0 of formats B and E. -/
def fSel (w : Word) : Nat :=
  if fMaj w ≤ 7 then fld w 7 0 else if 0x23 ≤ fMaj w ∧ fMaj w ≤ 0x27 then fld w 5 0 else 0
def fImm (w : Word) : Nat := fld w 15 0
/-- IMM with its sign, and OFF with its sign. -/
def fSimm (w : Word) : Int := (BitVec.ofNat 16 (fImm w)).toInt
def fOff (w : Word) : Int := (BitVec.ofNat 21 (fld w 20 0)).toInt

/-- The encoding of an instruction: MAJOR, its FUNC or SUB codes, the bits that must be zero, the register fields of files with
fewer than 32 registers (lowest bit and size), and the unit that it needs (0 tree, 3 Fuller, 4 feature table). -/
structure Enc where
  maj  : Nat
  sels : List Nat
  zero : Word
  regs : List (Nat × Nat)
  unit : Option Nat
  deriving DecidableEq, Repr

def zD : Word := 0x03E00000
def zA : Word := 0x001F0000
def zB : Word := 0x0000F800
def zC : Word := 0x000007C0
def zM : Word := 0x00000700

/-- Register fields: v and lane numbers below 16, p and w numbers below 8. -/
def vD : Nat × Nat := (21, 16)
def vA : Nat × Nat := (16, 16)
def vB : Nat × Nat := (11, 16)
def pD : Nat × Nat := (21, 8)
def pA : Nat × Nat := (16, 8)
def pB : Nat × Nat := (11, 8)
def pC : Nat × Nat := (6, 8)

/-- Type codes of FUNC: T binary32, binary16, bfloat16 (R190), or F32, I32, U32. -/
def ttt (f : Nat) : List Nat := [f, 0x40 + f, 0x80 + f]
def tpk (f : Nat) : List Nat := [0x40 + f, 0x80 + f]

def eScalar (f : Nat) : Enc := ⟨1, [f], zM, [], none⟩
def eVint (f : Nat) : Enc := ⟨2, [f], 0, [vD, vA, vB], none⟩
def eVfl (f : Nat) : Enc := ⟨3, ttt f, 0, [vD, vA, vB], none⟩
def eVcvt (f : Nat) : Enc := ⟨3, [f], zB, [vD, vA], none⟩
def eVwid (f : Nat) : Enc := ⟨3, tpk f, zB, [vD, vA], none⟩
def eVnarr : Enc := ⟨3, tpk 0xC, 0, [vD, vA, vB], none⟩
def eCmp (f : Nat) : Enc := ⟨4, [f], 0, [pD, vA, vB], none⟩
def ePlog (f : Nat) : Enc := ⟨4, [f], zM, [pD, pA, pB], none⟩
def eMovsp : Enc := ⟨4, [0x18], zB ||| zM, [pD], none⟩
def eMovps : Enc := ⟨4, [0x19], zB ||| zM, [pA], none⟩
def eVsplat : Enc := ⟨5, [0], zB, [vD], none⟩
def eVext : Enc := ⟨5, [1], zM, [vA, vB], none⟩
def eVrsum : Enc := ⟨5, [2], zB, [vA], none⟩
def eJr : Enc := ⟨6, [0], zB ||| zM, [], none⟩
def eFeat (f : Nat) : Enc := ⟨7, ttt f, 0, [vD], some 4⟩
def eImm (m : Nat) : Enc := ⟨m, [0], 0, [], none⟩
def eShi (m : Nat) : Enc := ⟨m, [0], 0xFFC0, [], none⟩
def eMovi : Enc := ⟨0xE, [0], zA, [], none⟩
def eLd (m : Nat) : Enc := ⟨m, [0], 0, [], none⟩
def eVmem (m : Nat) : Enc := ⟨m, [0], 0, [vD], none⟩
def eMfs : Enc := ⟨0x20, [0], zA, [], none⟩
def eMts : Enc := ⟨0x21, [0], zD, [], none⟩
def eEvt : Enc := ⟨0x22, [0], 0xC000, [], none⟩
def eRecv : Enc := ⟨0x23, [0], 0, [], none⟩
def eSend : Enc := ⟨0x23, [1], zB, [], none⟩
def eWsaddS : Enc := ⟨0x24, [0, 1, 2], zB ||| zC, [pD], none⟩
def eWsaddV : Enc := ⟨0x24, [4, 5, 6, 7], zB, [pD, vA, pC], none⟩
def eWsmrg : Enc := ⟨0x24, [8], zB ||| zC, [pD, pA], none⟩
def eWsz : Enc := ⟨0x24, [9], zA ||| zB ||| zC, [pD], none⟩
def eWmem (f : Nat) : Enc := ⟨0x24, [f], zB ||| zC, [pD], none⟩
def eWspk : Enc := ⟨0x24, [0xC], zC, [pD], none⟩
def eWsrnd : Enc := ⟨0x24, [0xE], zB, [pA], none⟩
def eWaita : Enc := ⟨0x25, [0], zC, [], none⟩
def eWait1 (f : Nat) : Enc := ⟨0x25, [f], zB ||| zC, [], none⟩
def eStamp : Enc := ⟨0x25, [3], zA ||| zB ||| zC, [], none⟩
def eSkins : Enc := ⟨0x26, [0], 0, [vD, pC], none⟩
def eLaunch (f : Nat) (u : Option Nat) : Enc := ⟨0x26, [f], zD ||| zC, [], u⟩
def eFence : Enc := ⟨0x27, [0], zD ||| zA ||| zB ||| zC, [], none⟩
def eSnap : Enc := ⟨0x27, [1], zD ||| zB ||| zC, [], none⟩
def eBra : Enc := ⟨0x30, [0], zD, [], none⟩
def eBr (m : Nat) : Enc := ⟨m, [0], 0, [], none⟩
def eBp (m : Nat) : Enc := ⟨m, [0], 0, [pD], none⟩

/-- Every instruction that Tables 6-2 to 6-4 have. -/
def allEncs : List Enc :=
  [0, 1, 2, 4, 5, 6, 8, 9, 0xA, 0xC, 0xD].map eScalar ++ [0, 1, 2, 4, 5, 6, 8, 9, 0xA, 0xC, 0xD].map eVint ++
  [0, 1, 2, 3, 4, 5].map eVfl ++ [eVcvt 8, eVcvt 9, eVwid 0xA, eVwid 0xB, eVnarr] ++
  [0, 1, 8, 9, 0xA, 0xB].map eCmp ++ [0x10, 0x11, 0x12].map ePlog ++ [eMovsp, eMovps, eVsplat, eVext, eVrsum, eJr] ++
  [eFeat 0, eFeat 1] ++ [8, 9, 0xA, 0xF].map eImm ++ [0xB, 0xC, 0xD].map eShi ++ [eMovi] ++
  [0x10, 0x11, 0x12, 0x13, 0x14, 0x18, 0x19, 0x1A, 0x1B].map eLd ++ [eVmem 0x15, eVmem 0x1C, eMfs, eMts, eEvt, eRecv, eSend] ++
  [eWsaddS, eWsaddV, eWsmrg, eWsz, eWmem 0xA, eWmem 0xB, eWspk, eWmem 0xD, eWsrnd] ++
  [eWaita, eWait1 1, eWait1 2, eStamp, eSkins, eLaunch 1 none, eLaunch 2 none, eLaunch 3 none, eLaunch 8 (some 0)] ++
  [eLaunch 0x10 (some 3), eLaunch 0x11 (some 3), eFence, eSnap, eBra] ++ [0x31, 0x32, 0x33, 0x34, 0x35].map eBr ++
  [eBp 0x36, eBp 0x37]

def Enc.is (e : Enc) (w : Word) : Bool := decide (fMaj w = e.maj) && e.sels.contains (fSel w)

/-- Whether a word has no entry (R187, 0x1): also a state word above 0x08 and a WSRND mode above 2 (R216, R205). -/
def undefWord (w : Word) : Bool :=
  !(allEncs.any (fun e => e.is w)) || (decide (fMaj w = 0x20 ∨ fMaj w = 0x21) && decide (8 < fImm w)) ||
  (eWsrnd.is w && decide (2 < fRc w))

/-- Whether a unit is present and licensed (R7, R187). -/
def Blk.unitHere (s : Blk) (u : Nat) : Bool :=
  if u = 3 then s.hasFuller
  else s.conf == .a64 && (decide (u ≠ 0) || (match s.lic.force with | some l => l.tree | none => false))

/-- The encoding check after 0x1: the first of subcodes 0x2, 0x5 and 0x3 that a word fails (R187, R188). -/
def Blk.encFault (s : Blk) (e : Enc) (w : Word) : Option Nat :=
  if w &&& e.zero ≠ 0 then some 2
  else if e.regs.any (fun r => decide (r.2 ≤ fld w (r.1 + 4) r.1)) ∨ (eStamp.is w ∧ fRd w = 31) then some 5
  else match e.unit with
    | some u => if s.unitHere u then none else some 3
    | none => none

/-! ### Registers (R154, R155) -/

/-- Lane `i` of vector register `r`. -/
def Ctx.v (x : Ctx) (r i : Nat) : Word := Store.get 0 x.vreg (16 * r + i)
def Ctx.vp (x : Ctx) (r i : Nat) : Bool := x.vpoi.getLsbD (16 * r + i)
/-- Mask register `r`: p0 reads 0xFFFF. -/
def Ctx.p (x : Ctx) (r : Nat) : BitVec 16 := if r = 0 then 0xFFFF else Store.get 0 x.preg r
def Ctx.pp (x : Ctx) (r : Nat) : Bool := r != 0 && x.ppoi.getLsbD r
/-- Wide register `r`. -/
def Ctx.w (x : Ctx) (r : Nat) : W320 := Store.get W320.zero x.wreg r
def Ctx.wp (x : Ctx) (r : Nat) : Bool := x.wpoi.getLsbD r

/-- A bit of a poison map set or cleared. -/
def setPoi {n : Nat} (m : BitVec n) (i : Nat) (b : Bool) : BitVec n :=
  if b then m ||| BitVec.ofNat n (2 ^ i) else m &&& ~~~(BitVec.ofNat n (2 ^ i))

def Ctx.setV (x : Ctx) (r i : Nat) (v : Word) (poi : Bool) : Ctx :=
  { x with vreg := Store.set 0 x.vreg (16 * r + i) v, vpoi := setPoi x.vpoi (16 * r + i) poi }

/-- Write a mask register: writes to p0 are discarded. -/
def Ctx.setP (x : Ctx) (r : Nat) (v : BitVec 16) (poi : Bool) : Ctx :=
  if r = 0 then x else { x with preg := Store.set 0 x.preg r v, ppoi := setPoi x.ppoi r poi }

def Ctx.setW (x : Ctx) (r : Nat) (v : W320) (poi : Bool) : Ctx :=
  { x with wreg := Store.set W320.zero x.wreg r v, wpoi := setPoi x.wpoi r poi }

/-- Lanes that a mask enables. -/
def lanesOf (m : BitVec 16) : List Nat := (List.range 16).filter (fun i => m.getLsbD i)

/-- Write each enabled lane of a vector register from a lane's value and poison. -/
def Ctx.setLanes (x : Ctx) (r : Nat) (m : BitVec 16) (f : Nat → Word × Bool) : Ctx :=
  (lanesOf m).foldl (fun x i => x.setV r i (f i).1 (f i).2) x

/-! ### Issue (R149, R185, R188) -/

/-- The next word of a context: at or beyond IM_LEN it reads 0. -/
def Ctx.word (x : Ctx) : Word := x.im.getD (x.pc / 4) 0

/-- Whether the engine of a context runs, its cluster perhaps napping: the cluster is there, its control core present, the
collection live and its contexts released (R149, R363, R459, Table 14-4). -/
def Blk.engLive (s : Blk) (x : Ctx) : Bool :=
  s.collLive x.coll && (s.coll x.coll).begun && !(s.clu x.cluster).disabled && !s.coreLost (0x40 + x.cluster)

/-- Whether the engine of a context runs and its cluster is awake (R169). -/
def Blk.engUp (s : Blk) (x : Ctx) : Bool := s.engLive x && !(s.clu x.cluster).nap

/-- Whether a context waits for lines of XM. -/
def Blk.reading (s : Blk) (k : Nat) : Bool := s.mem.reqs.any (fun r => r.ctx == some k && !r.write && !r.late)

/-- Whether context `k` may issue. -/
def Blk.mayIssue (s : Blk) (k : Nat) (x : Ctx) : Bool := s.engUp x && x.blocked == .no && !s.reading k

/-- What an instruction does: an exception with code, subcode, address and slot, or a state. -/
inductive DxRes where
  | fault (code sub addr slot : Nat)
  | next (s : Blk)

/-- The effect of an instruction on context `k`, given the context and the word. -/
abbrev Act := Blk → Nat → Ctx → Word → DxRes

/-- Check an instruction and give it its effect. -/
def Blk.dxRun (s : Blk) (k : Nat) (x : Ctx) (w : Word) (e : Enc) (act : Act) : Blk :=
  match s.encFault e w with
  | some sub => s.dxFault k x 3 sub 0 0
  | none =>
    match act s k x w with
    | .fault code sub addr slot => s.dxFault k x code sub addr slot
    | .next s => s

/-- Issue of the instruction with one of the encodings `es` by context `k`. A word without an entry is an exception whichever
instruction the command names; any other word is another command's. -/
def Blk.dxStep (s : Blk) (k : Nat) (es : List Enc) (act : Act) : Blk :=
  match Store.look s.ctxs k with
  | none => s
  | some x =>
    if !s.mayIssue k x then s
    else if undefWord x.word then s.dxFault k x 3 1 (if x.pc / 4 < x.im.length then 0 else x.pc) 0
    else match es.find? (fun e => e.is x.word) with
      | none => s
      | some e => s.dxRun k x x.word e act

/-- The lines of XM read for an instruction are used up. -/
def Ctx.usedUp (x : Ctx) : Ctx := { x with got := [] }

/-- The instruction is complete: its context, as it now is, goes on at `npc`. -/
def Blk.dxJump (s : Blk) (k : Nat) (x : Ctx) (npc : Nat) (taken : Bool) : Blk :=
  (s.modCtxs (fun m => Store.put m k x.usedUp)).retire k npc taken

/-- The instruction is complete and the context goes on at the next word. -/
def Blk.dxDone (s : Blk) (k : Nat) (x : Ctx) : Blk := s.dxJump k x (x.pc + 4) false

/-- A context that blocks at a tclk. -/
def Ctx.block (x : Ctx) (b : Blocked) (at_ : Nat) : Ctx := { x with blocked := b, blockAt := at_, got := [] }

/-- The context blocks. -/
def Blk.dxBlock (s : Blk) (k : Nat) (x : Ctx) (b : Blocked) : Blk :=
  s.modCtxs (fun m => Store.put m k (x.block b s.tclk))

/-! ### Memory of a context (R151 to R155) -/

/-- The memories as context `k` sees them (R153): its own stores and those sent to it performed, and the lines of XM as they were read
for it. -/
def Blk.ownView (s : Blk) (k : Nat) (x : Ctx) : Blk :=
  let s := x.got.foldl (fun (s : Blk) l => s.modMem (fun m => { m with
    xm := Mem.wrN m.xm (64 * l.1) l.2.1, xmPoi := Store.set false m.xmPoi l.1 l.2.2 })) (s.seenBy k)
  x.sbuf.foldl (fun (s : Blk) b => s.spPut b.sp b.addr b.data) s

/-- What a read of memory gives: an exception, a wait for lines of XM, or bytes with their poison. -/
inductive DxMem where
  | fault (sub addr : Nat)
  | wait (s : Blk)
  | ok (bs : List (Byte × Bool))

/-- Read `n` bytes at `a` for context `k` (R152, R188: the range before the right). Lines of XM that are not yet read are
requested. -/
def Blk.dxRead (s : Blk) (k : Nat) (x : Ctx) (a n : Nat) : DxMem :=
  match s.mapAddr k x a n with
  | none => .fault 1 a
  | some (sp, o, r, _) =>
    if !r then .fault 2 a else
    let need := match sp with | .xm => (linesOf o n).filter (fun l => !x.got.any (fun g => g.1 == l)) | _ => []
    if need.isEmpty then .ok (((s.ownView k x).spRead x.coll sp o n).1)
    else if s.xmRoom need.length then .wait (need.foldl (fun (s : Blk) l => s.xmReq k x.coll l false) s)
    else .wait s

/-- Check that context `k` may store `n` bytes at `a`. -/
def Blk.dxWrite (s : Blk) (k : Nat) (x : Ctx) (a n : Nat) : Except Nat (Space × Nat) :=
  match s.mapAddr k x a n with
  | none => .error 1
  | some (sp, o, _, w) => if w then .ok (sp, o) else .error 2

/-- A store enters the context's buffer. -/
def Ctx.store (x : Ctx) (sp : Space) (o : Nat) (bs : List (Byte × Bool)) : Ctx :=
  if bs.isEmpty then x else { x with sbuf := x.sbuf ++ [⟨sp, o, bs⟩] }

/-- Bytes with one poison. -/
def bytesPoi (bs : List Byte) (poi : Bool) : List (Byte × Bool) := bs.map (fun b => (b, poi))

/-- The value of bytes, and whether any is poisoned. -/
def valOf (bs : List (Byte × Bool)) : Nat × Bool := (leNat (bs.map Prod.fst), bs.any Prod.snd)

/-- A misaligned address, or one that a poisoned register gives (R153, R193): POISON before ILLEGAL (R188). -/
def addrFault (poi : Bool) (a align : Nat) : Option DxRes :=
  if poi then some (.fault 1 2 a 0) else if a % align ≠ 0 then some (.fault 3 4 a 0) else none

/-- sa + sext(imm), modulo 2^64. -/
def Ctx.ea (x : Ctx) (w : Word) : Nat := (x.s (fRa w) + BitVec.ofInt 64 (fSimm w)).toNat

end Sys2Proof.Machine
end

