-- ==== Sys2Proof/Machine/Vector.lean ====
section
/-!
DEFINITION. Vector, mask and lane instructions (R190, R194 to R197): integer, binary32 and packed arithmetic, conversions,
compares and lane moves.
-/

namespace Sys2Proof.Machine

/-- T of FUNC: 0 binary32, 1 packed binary16, 2 packed bfloat16. -/
def fTyp (w : Word) : Nat := fld w 7 6

/-- A mask is applied: a poisoned one is consumed (R156, R197). -/
def withMask (r : Nat) (x : Ctx) (f : BitVec 16 → DxRes) : DxRes := if x.pp r then .fault 1 3 0 0 else f (x.p r)

/-- Lane-wise: each enabled lane of vd from the same lanes of va and vb. -/
def actLanes2 (f : Word → Word → Word → Word) : Act := fun s k x w =>
  withMask (fPm w) x fun m => .next (s.dxDone k (x.setLanes (fRd w) m (fun i =>
    (f w (x.v (fRa w) i) (x.v (fRb w) i), x.vp (fRa w) i || x.vp (fRb w) i))))

/-- Lane-wise from va alone. -/
def actLanes1 (f : Word → Word → Word) : Act := fun s k x w =>
  withMask (fPm w) x fun m => .next (s.dxDone k (x.setLanes (fRd w) m (fun i => (f w (x.v (fRa w) i), x.vp (fRa w) i))))

/-- Elements 0 and 1 of a packed lane, and a lane of two elements. -/
def el0 (v : Word) : Nat := fld v 15 0
def el1 (v : Word) : Nat := fld v 31 16
def pack2 (a b : Nat) : Word := w32 (a % 65536 + b <<< 16)

/-- The packed format of a type. -/
def pkFmt (t : Nat) : Fmt := if t = 1 then f16 else bf16

/-- A binary operation in the type of the word: each element by itself (R194, R195). -/
def flop2 (f : Fmt → Nat → Nat → Nat) (w a b : Word) : Word :=
  if fTyp w = 0 then w32 (f f32 a.toNat b.toNat)
  else let p := pkFmt (fTyp w); pack2 (f p (el0 a) (el0 b)) (f p (el1 a) (el1 b))

/-- VFMA: vd + va × vb, rounded once. -/
def fma2 (w d a b : Word) : Word :=
  if fTyp w = 0 then w32 (f32.fma d.toNat a.toNat b.toNat)
  else let p := pkFmt (fTyp w); pack2 (p.fma (el0 d) (el0 a) (el0 b)) (p.fma (el1 d) (el1 a) (el1 b))

def actFma : Act := fun s k x w =>
  withMask (fPm w) x fun m => .next (s.dxDone k (x.setLanes (fRd w) m (fun i =>
    (fma2 w (x.v (fRd w) i) (x.v (fRa w) i) (x.v (fRb w) i),
     x.vp (fRd w) i || x.vp (fRa w) i || x.vp (fRb w) i))))

/-- A compare (R197): bits of disabled lanes are 0. -/
def actCmp (f : Word → Word → Bool) : Act := fun s k x w =>
  withMask (fPm w) x fun m =>
    let on := lanesOf m
    let v := (on.filter (fun i => f (x.v (fRa w) i) (x.v (fRb w) i))).foldl (fun (v : BitVec 16) i => v ||| BitVec.ofNat 16 (2 ^ i)) 0
    .next (s.dxDone k (x.setP (fRd w) v (on.any (fun i => x.vp (fRa w) i || x.vp (fRb w) i))))

/-- A bitwise operation on masks. -/
def actMask (f : BitVec 16 → BitVec 16 → BitVec 16) : Act := fun s k x w =>
  .next (s.dxDone k (x.setP (fRd w) (f (x.p (fRa w)) (x.p (fRb w))) (x.pp (fRa w) || x.pp (fRb w))))

def actMovsp : Act := fun s k x w =>
  .next (s.dxDone k (x.setP (fRd w) ((x.s (fRa w)).setWidth 16) (x.sp (fRa w))))
def actMovps : Act := fun s k x w =>
  .next (s.dxDone k (x.setS (fRd w) ((x.p (fRa w)).setWidth 64) (x.pp (fRa w))))

def actVsplat : Act := fun s k x w =>
  withMask (fPm w) x fun m => .next (s.dxDone k (x.setLanes (fRd w) m (fun _ => ((x.s (fRa w)).setWidth 32, x.sp (fRa w)))))
def actVext : Act := fun s k x w =>
  .next (s.dxDone k (x.setS (fRd w) ((x.v (fRa w) (fRb w)).setWidth 64) (x.vp (fRa w) (fRb w))))

/-- VRSUM: an operation across lanes (R155, R190). -/
def actVrsum : Act := fun s k x w =>
  withMask (fPm w) x fun m =>
    let on := lanesOf m
    .next (s.dxDone k (x.setS (fRd w) (BitVec.ofInt 64 ((on.map (fun i => (x.v (fRa w) i).toInt)).sum))
      (on.any (x.vp (fRa w)))))

/-- The binary32 value of a lane. -/
def lane32 (v : Word) : FVal := f32.val v.toNat

/-! ### Meanings -/

/-- VADD, VSUB, VMUL, VAND, VOR, VXOR (R190). -/
def execVadd (c : Nat) : State → Host.Outcome State Fault Refusal := lift fun s => s.dxStep c [eVint 0] (actLanes2 (fun _ a b => a + b))
def execVsub (c : Nat) : State → Host.Outcome State Fault Refusal := lift fun s => s.dxStep c [eVint 1] (actLanes2 (fun _ a b => a - b))
def execVmul (c : Nat) : State → Host.Outcome State Fault Refusal := lift fun s => s.dxStep c [eVint 2] (actLanes2 (fun _ a b => a * b))
def execVand (c : Nat) : State → Host.Outcome State Fault Refusal := lift fun s => s.dxStep c [eVint 4] (actLanes2 (fun _ a b => a &&& b))
def execVor (c : Nat) : State → Host.Outcome State Fault Refusal := lift fun s => s.dxStep c [eVint 5] (actLanes2 (fun _ a b => a ||| b))
def execVxor (c : Nat) : State → Host.Outcome State Fault Refusal := lift fun s => s.dxStep c [eVint 6] (actLanes2 (fun _ a b => a ^^^ b))
/-- VSLL, VSRL, VSRA: shifted by bits [4:0] of the same lane of vb. -/
def execVsll (c : Nat) : State → Host.Outcome State Fault Refusal :=
  lift fun s => s.dxStep c [eVint 8] (actLanes2 (fun _ a b => a <<< (b.toNat % 32)))
def execVsrl (c : Nat) : State → Host.Outcome State Fault Refusal :=
  lift fun s => s.dxStep c [eVint 9] (actLanes2 (fun _ a b => a >>> (b.toNat % 32)))
def execVsra (c : Nat) : State → Host.Outcome State Fault Refusal :=
  lift fun s => s.dxStep c [eVint 0xA] (actLanes2 (fun _ a b => a.sshiftRight (b.toNat % 32)))
/-- VMIN, VMAX: signed. -/
def execVmin (c : Nat) : State → Host.Outcome State Fault Refusal :=
  lift fun s => s.dxStep c [eVint 0xC] (actLanes2 (fun _ a b => if a.toInt ≤ b.toInt then a else b))
def execVmax (c : Nat) : State → Host.Outcome State Fault Refusal :=
  lift fun s => s.dxStep c [eVint 0xD] (actLanes2 (fun _ a b => if b.toInt ≤ a.toInt then a else b))

/-- VFADD, VFSUB, VFMUL, VFMA, VFMIN, VFMAX (R194, R195). -/
def execVfadd (c : Nat) : State → Host.Outcome State Fault Refusal := lift fun s => s.dxStep c [eVfl 0] (actLanes2 (flop2 Fmt.add))
def execVfsub (c : Nat) : State → Host.Outcome State Fault Refusal := lift fun s => s.dxStep c [eVfl 1] (actLanes2 (flop2 Fmt.sub))
def execVfmul (c : Nat) : State → Host.Outcome State Fault Refusal := lift fun s => s.dxStep c [eVfl 2] (actLanes2 (flop2 Fmt.mul))
def execVfma (c : Nat) : State → Host.Outcome State Fault Refusal := lift fun s => s.dxStep c [eVfl 3] actFma
def execVfmin (c : Nat) : State → Host.Outcome State Fault Refusal :=
  lift fun s => s.dxStep c [eVfl 4] (actLanes2 (flop2 (fun f => f.minmax false)))
def execVfmax (c : Nat) : State → Host.Outcome State Fault Refusal :=
  lift fun s => s.dxStep c [eVfl 5] (actLanes2 (flop2 (fun f => f.minmax true)))

/-- VCVTIF, VCVTFI, VWIDL, VWIDH, VNARR (R196). -/
def execVcvtif (c : Nat) : State → Host.Outcome State Fault Refusal :=
  lift fun s => s.dxStep c [eVcvt 8] (actLanes1 (fun _ a => w32 (cvtIF a)))
def execVcvtfi (c : Nat) : State → Host.Outcome State Fault Refusal :=
  lift fun s => s.dxStep c [eVcvt 9] (actLanes1 (fun _ a => cvtFI a.toNat))
def execVwidl (c : Nat) : State → Host.Outcome State Fault Refusal :=
  lift fun s => s.dxStep c [eVwid 0xA] (actLanes1 (fun w a => w32 ((pkFmt (fTyp w)).widen (el0 a))))
def execVwidh (c : Nat) : State → Host.Outcome State Fault Refusal :=
  lift fun s => s.dxStep c [eVwid 0xB] (actLanes1 (fun w a => w32 ((pkFmt (fTyp w)).widen (el1 a))))
def execVnarr (c : Nat) : State → Host.Outcome State Fault Refusal :=
  lift fun s => s.dxStep c [eVnarr] (actLanes2 (fun w a b =>
    pack2 ((pkFmt (fTyp w)).narrow a.toNat) ((pkFmt (fTyp w)).narrow b.toNat)))

/-- VCMPEQ, VCMPLT, VFCMPEQ, VFCMPLT, VFCMPLE, VFCMPUN (R197). -/
def execVcmpeq (c : Nat) : State → Host.Outcome State Fault Refusal := lift fun s => s.dxStep c [eCmp 0] (actCmp (fun a b => a == b))
def execVcmplt (c : Nat) : State → Host.Outcome State Fault Refusal :=
  lift fun s => s.dxStep c [eCmp 1] (actCmp (fun a b => decide (a.toInt < b.toInt)))
def execVfcmpeq (c : Nat) : State → Host.Outcome State Fault Refusal :=
  lift fun s => s.dxStep c [eCmp 8] (actCmp (fun a b => (lane32 a).feq (lane32 b)))
def execVfcmplt (c : Nat) : State → Host.Outcome State Fault Refusal :=
  lift fun s => s.dxStep c [eCmp 9] (actCmp (fun a b => (lane32 a).lt (lane32 b)))
def execVfcmple (c : Nat) : State → Host.Outcome State Fault Refusal :=
  lift fun s => s.dxStep c [eCmp 0xA] (actCmp (fun a b => (lane32 a).lt (lane32 b) || (lane32 a).feq (lane32 b)))
def execVfcmpun (c : Nat) : State → Host.Outcome State Fault Refusal :=
  lift fun s => s.dxStep c [eCmp 0xB] (actCmp (fun a b => (lane32 a).isNan || (lane32 b).isNan))

/-- PAND, POR, PXOR, MOVSP, MOVPS (R190). -/
def execPand (c : Nat) : State → Host.Outcome State Fault Refusal := lift fun s => s.dxStep c [ePlog 0x10] (actMask (· &&& ·))
def execPor (c : Nat) : State → Host.Outcome State Fault Refusal := lift fun s => s.dxStep c [ePlog 0x11] (actMask (· ||| ·))
def execPxor (c : Nat) : State → Host.Outcome State Fault Refusal := lift fun s => s.dxStep c [ePlog 0x12] (actMask (· ^^^ ·))
def execMovsp (c : Nat) : State → Host.Outcome State Fault Refusal := lift fun s => s.dxStep c [eMovsp] actMovsp
def execMovps (c : Nat) : State → Host.Outcome State Fault Refusal := lift fun s => s.dxStep c [eMovps] actMovps

/-- VSPLAT, VEXT, VRSUM (R190). -/
def execVsplat (c : Nat) : State → Host.Outcome State Fault Refusal := lift fun s => s.dxStep c [eVsplat] actVsplat
def execVext (c : Nat) : State → Host.Outcome State Fault Refusal := lift fun s => s.dxStep c [eVext] actVext
def execVrsum (c : Nat) : State → Host.Outcome State Fault Refusal := lift fun s => s.dxStep c [eVrsum] actVrsum

end Sys2Proof.Machine
end

