-- ==== Sys2Proof/Machine/Wide.lean ====
section
/-!
DEFINITION. Loads and stores (R153, R192, R193), the wide sums (R202 to R205) and the feature table (R211, R212).
-/

namespace Sys2Proof.Machine

/-- The sizes of the scalar loads and stores by MAJOR. -/
def ldSize (m : Nat) : Nat :=
  if m = 0x10 ∨ m = 0x18 then 1 else if m = 0x11 ∨ m = 0x19 then 2 else if m = 0x14 ∨ m = 0x1B then 8 else 4

/-- A scalar load: `f` makes the 64-bit value of the number read. -/
def actLoad (f : Nat → Dword) : Act := fun s k x w =>
  let n := ldSize (fMaj w)
  let a := x.ea w
  match addrFault (x.sp (fRa w)) a n with
  | some f => f
  | none =>
    match s.dxRead k x a n with
    | .fault sub a => .fault 2 sub a 0
    | .wait s => .next s
    | .ok bs => .next ((s.traceAccess x false n a (valOf bs).1).dxDone k (x.setS (fRd w) (f (valOf bs).1) (valOf bs).2))

/-- A scalar store: the low bytes of sd. -/
def actStore : Act := fun s k x w =>
  let n := ldSize (fMaj w)
  let a := x.ea w
  match addrFault (x.sp (fRa w)) a n with
  | some f => f
  | none =>
    match s.dxWrite k x a n with
    | .error sub => .fault 2 sub a 0
    | .ok (sp, o) =>
      let v := (x.s (fRd w)).toNat
      .next ((s.traceAccess x true n a (v % 2 ^ (8 * n))).dxDone k (x.store sp o (bytesPoi (leBytes n v) (x.sp (fRd w)))))

/-- The words of a read, with their poison. -/
def lanesIn (bs : List (Byte × Bool)) (i : Nat) : Word × Bool := (wordsOf bs).getD i (0, false)

/-- VLD and VST: every lane, whatever the masks hold (R193). -/
def actVld : Act := fun s k x w =>
  let a := x.ea w
  match addrFault (x.sp (fRa w)) a 4 with
  | some f => f
  | none =>
    match s.dxRead k x a 64 with
    | .fault sub a => .fault 2 sub a 0
    | .wait s => .next s
    | .ok bs => .next ((s.traceAccess x false 64 a (valOf bs).1).dxDone k (x.setLanes (fRd w) 0xFFFF (lanesIn bs)))

def actVst : Act := fun s k x w =>
  let a := x.ea w
  match addrFault (x.sp (fRa w)) a 4 with
  | some f => f
  | none =>
    match s.dxWrite k x a 64 with
    | .error sub => .fault 2 sub a 0
    | .ok (sp, o) =>
      let bs := bytesOf ((List.range 16).map (fun i => (x.v (fRd w) i, x.vp (fRd w) i)))
      .next ((s.traceAccess x true 64 a (valOf bs).1).dxDone k (x.store sp o bs))

/-! ### Wide sums (R202 to R205) -/

/-- The W320 values that WSADD takes in, with the poison of each (Table 6-5). -/
def wsSource (x : Ctx) (w : Word) (m : BitVec 16) : List (W320 × Bool) :=
  let a := x.s (fRa w)
  let lane := fun i => x.v (fRa w) i
  let vec := fun (f : Word → List W320) => (lanesOf m).flatMap (fun i => (f (lane i)).map (fun v => (v, x.vp (fRa w) i)))
  match fSel w with
  | 0 => [(W320.ofInt a.toInt, x.sp (fRa w))]
  | 1 => [(W320.ofInt a.toNat, x.sp (fRa w))]
  | 2 => [(W320.ofVal (f32.val (a.toNat % 2 ^ 32)), x.sp (fRa w))]
  | 4 => vec (fun v => [W320.ofVal (lane32 v)])
  | 5 => vec (fun v => [W320.ofVal (f16.val (el0 v)), W320.ofVal (f16.val (el1 v))])
  | 6 => vec (fun v => [W320.ofVal (bf16.val (el0 v)), W320.ofVal (bf16.val (el1 v))])
  | _ => vec (fun v => [W320.ofInt v.toInt])

/-- WSADD (R202): the vector forms apply mask rc. -/
def actWsadd : Act := fun s k x w =>
  withMask (if fSel w < 4 then 0 else fRc w) x fun m =>
    let vs := wsSource x w m
    .next (s.dxDone k (x.setW (fRd w) (vs.foldl (fun t v => t.add v.1) (x.w (fRd w))) (x.wp (fRd w) || vs.any Prod.snd)))

/-- WSMRG, WSZ (R203). -/
def actWsmrg : Act := fun s k x w =>
  .next (s.dxDone k (x.setW (fRd w) ((x.w (fRd w)).add (x.w (fRa w))) (x.wp (fRd w) || x.wp (fRa w))))
def actWsz : Act := fun s k x w => .next (s.dxDone k (x.setW (fRd w) W320.zero false))

/-- WSLD, WSST: the 48-byte image (R203). -/
def actWsld : Act := fun s k x w =>
  let a := (x.s (fRa w)).toNat
  match addrFault (x.sp (fRa w)) a 8 with
  | some f => f
  | none =>
    match s.dxRead k x a 48 with
    | .fault sub a => .fault 2 sub a 0
    | .wait s => .next s
    | .ok bs => .next ((s.traceAccess x false 48 a (valOf bs).1).dxDone k
        (x.setW (fRd w) (W320.ofImage (bs.map Prod.fst)) (valOf bs).2))

def actWsst : Act := fun s k x w =>
  let a := (x.s (fRa w)).toNat
  match addrFault (x.sp (fRa w)) a 8 with
  | some f => f
  | none =>
    match s.dxWrite k x a 48 with
    | .error sub => .fault 2 sub a 0
    | .ok (sp, o) =>
      let bs := (x.w (fRd w)).image
      .next ((s.traceAccess x true 48 a (leNat bs)).dxDone k (x.store sp o (bytesPoi bs (x.wp (fRd w)))))

/-- WSPK, WSUPK: the sparse-limb form; the range is 44 bytes whatever the number of words (R204). -/
def actWspk : Act := fun s k x w =>
  let a := (x.s (fRa w)).toNat
  match addrFault (x.sp (fRa w)) a 4 with
  | some f => f
  | none =>
    match s.dxWrite k x a 44 with
    | .error sub => .fault 2 sub a 0
    | .ok (sp, o) =>
      let ws := (x.w (fRd w)).pack
      let bs := wordsBytes ws
      let poi := x.wp (fRd w)
      .next ((s.traceAccess x true bs.length a (leNat bs)).dxDone k
        ((x.store sp o (bytesPoi bs poi)).setS (fRb w) (BitVec.ofNat 64 ws.length) poi))

def actWsupk : Act := fun s k x w =>
  let a := (x.s (fRa w)).toNat
  match addrFault (x.sp (fRa w)) a 4 with
  | some f => f
  | none =>
    match s.dxRead k x a 44 with
    | .fault sub a => .fault 2 sub a 0
    | .wait s => .next s
    | .ok bs =>
      let ws := wordsOf bs
      let n := formLen (lanesIn bs 0).1
      .next ((s.traceAccess x false 44 a (valOf bs).1).dxDone k
        (x.setW (fRd w) (W320.unpack (lanesIn bs 0).1 ((ws.drop 1).map Prod.fst)) ((ws.take n).any Prod.snd)))

/-- WSRND (R205). -/
def actWsrnd : Act := fun s k x w =>
  let v := x.w (fRa w)
  let r : Dword := match fRc w with
    | 0 => BitVec.ofNat 64 (v.toFmt f32)
    | 1 => BitVec.ofNat 64 (v.toFmt f64)
    | _ => v.toI64
  .next (s.dxDone k (x.setS (fRd w) r (x.wp (fRa w))))

/-! ### Feature table (R211, R212) -/

/-- FLD and FST address a row by sa[47:0] and features from sb[7:0] on; a poisoned sa or sb comes before a poisoned mask
(Table 6-7). -/
def withRow (x : Ctx) (w : Word) (f : Nat → Nat → BitVec 16 → DxRes) : DxRes :=
  if x.sp (fRa w) || x.sp (fRb w) then .fault 1 2 (x.s (fRa w)).toNat 0
  else withMask (fPm w) x fun m => f ((x.s (fRa w)).toNat % 2 ^ 48) ((x.s (fRb w)).toNat % 256) m

/-- FLD sees the stores of its own context. -/
def actFld : Act := fun s k x w =>
  withRow x w fun e b m =>
    let ixs := (lanesOf m).map (fun i => b + i)
    let vs := (s.fldFeat x.coll e (fTyp w) ixs x.feats).1
    let s := (s.fldFeat x.coll e (fTyp w) ixs x.feats).2
    let at_ := fun i => match ((lanesOf m).zip vs).find? (fun p => p.1 = i) with | some p => p.2 | none => (0, false)
    .next (s.dxDone k (x.setLanes (fRd w) m at_))

def actFst : Act := fun s k x w =>
  withRow x w fun e b m =>
    let (ws, s) := s.fstWrites x.coll e (fTyp w) ((lanesOf m).map (fun i => (b + i, x.v (fRd w) i, x.vp (fRd w) i)))
    .next (s.dxDone k { x with fbuf := x.fbuf ++ ws.map (fun v => (v.1, v.2.1, v.2.2, s.tclk)) })

/-! ### Meanings -/

/-- LBU, LHU, LWU, LW, LD (Table 6-6). -/
def execLbu (c : Nat) : State → Host.Outcome State Fault Refusal := lift fun s => s.dxStep c [eLd 0x10] (actLoad (BitVec.ofNat 64))
def execLhu (c : Nat) : State → Host.Outcome State Fault Refusal := lift fun s => s.dxStep c [eLd 0x11] (actLoad (BitVec.ofNat 64))
def execLw (c : Nat) : State → Host.Outcome State Fault Refusal :=
  lift fun s => s.dxStep c [eLd 0x12] (actLoad (fun n => (BitVec.ofNat 32 n).signExtend 64))
def execLwu (c : Nat) : State → Host.Outcome State Fault Refusal := lift fun s => s.dxStep c [eLd 0x13] (actLoad (BitVec.ofNat 64))
def execLd (c : Nat) : State → Host.Outcome State Fault Refusal := lift fun s => s.dxStep c [eLd 0x14] (actLoad (BitVec.ofNat 64))
def execVld (c : Nat) : State → Host.Outcome State Fault Refusal := lift fun s => s.dxStep c [eVmem 0x15] actVld
/-- SB, SH, SW, SD, VST. -/
def execSb (c : Nat) : State → Host.Outcome State Fault Refusal := lift fun s => s.dxStep c [eLd 0x18] actStore
def execSh (c : Nat) : State → Host.Outcome State Fault Refusal := lift fun s => s.dxStep c [eLd 0x19] actStore
def execSw (c : Nat) : State → Host.Outcome State Fault Refusal := lift fun s => s.dxStep c [eLd 0x1A] actStore
def execSd (c : Nat) : State → Host.Outcome State Fault Refusal := lift fun s => s.dxStep c [eLd 0x1B] actStore
def execVst (c : Nat) : State → Host.Outcome State Fault Refusal := lift fun s => s.dxStep c [eVmem 0x1C] actVst

/-- WSADD, WSMRG, WSZ, WSLD, WSST, WSPK, WSUPK, WSRND (R202 to R205). -/
def execWsadd (c : Nat) : State → Host.Outcome State Fault Refusal := lift fun s => s.dxStep c [eWsaddS, eWsaddV] actWsadd
def execWsmrg (c : Nat) : State → Host.Outcome State Fault Refusal := lift fun s => s.dxStep c [eWsmrg] actWsmrg
def execWsz (c : Nat) : State → Host.Outcome State Fault Refusal := lift fun s => s.dxStep c [eWsz] actWsz
def execWsld (c : Nat) : State → Host.Outcome State Fault Refusal := lift fun s => s.dxStep c [eWmem 0xA] actWsld
def execWsst (c : Nat) : State → Host.Outcome State Fault Refusal := lift fun s => s.dxStep c [eWmem 0xB] actWsst
def execWspk (c : Nat) : State → Host.Outcome State Fault Refusal := lift fun s => s.dxStep c [eWspk] actWspk
def execWsupk (c : Nat) : State → Host.Outcome State Fault Refusal := lift fun s => s.dxStep c [eWmem 0xD] actWsupk
def execWsrnd (c : Nat) : State → Host.Outcome State Fault Refusal := lift fun s => s.dxStep c [eWsrnd] actWsrnd

/-- FLD, FST (R211). -/
def execFld (c : Nat) : State → Host.Outcome State Fault Refusal := lift fun s => s.dxStep c [eFeat 0] actFld
def execFst (c : Nat) : State → Host.Outcome State Fault Refusal := lift fun s => s.dxStep c [eFeat 1] actFst

end Sys2Proof.Machine
end

