-- ==== Sys2Proof/Machine/Stream.lean ====
section
/-!
DEFINITION. Streams (R157 to R162, R198, R199), waits and time (R164 to R167, R200, R201), EVT, SNAP and FENCE (R213 to R215), and
what releases a context blocked in one of them.
-/

namespace Sys2Proof.Machine

/-! ### RECV (R160, R198) -/

/-- The words of a token with their poison from PCH. -/
def Token.poiWords (t : Token) : List (Word × Bool) :=
  (List.range t.words.length).map (fun i => (t.words.getD i 0, t.poiChunk (i / 8)))

/-- The taker of a token sees the stores that its SEND has made visible to it (R153). -/
def Blk.tokSeen (s : Blk) (k : Nat) (t : Token) : Blk :=
  match t.via with
  | none => s
  | some (i, n) => s.seeStores k i n

/-- The token at the head of queue `q` is taken by the RECV at a context's pc; none when the queue is empty. -/
def Blk.recvGo (s : Blk) (k : Nat) (x : Ctx) (w : Word) (q : Nat) : Option DxRes :=
  match (s.q q).toks with
  | [] => none
  | t :: _ =>
    let a := (x.s (fRa w)).toNat
    let n := 4 * t.words.length
    if 0 < n ∧ x.dsLen < a + n then some (.fault 2 8 a (fRc w)) else
    match s.takeTok q with
    | none => none
    | some (t, s) =>
      let s := s.tokSeen k t
      let x := match Store.look s.ctxs k with | some y => { x with credits := y.credits } | none => x
      let x := (x.store (.ds k) a (bytesOf t.poiWords)).setS (fRd w) (BitVec.ofNat 64 t.header) false
      let s := s.dxDone k x
      some (.next (match t.ack with | some a => s.ackTaken x.coll a | none => s))

/-- A RECV whose deadline has passed takes no token: its header has KIND 0x00 and LEN 0. -/
def Blk.recvNone (s : Blk) (k : Nat) (x : Ctx) (w : Word) : Blk := s.dxDone k (x.setS (fRd w) 0 false)

/-- The deadline of a RECV; none for the value 0 (DEDUCED, log 25). -/
def recvLimit (x : Ctx) (w : Word) : Option Dword := if x.s (fRb w) = 0 then none else some (x.s (fRb w))

/-- The queue that a blocked RECV waits on. -/
def Ctx.recvQueue (x : Ctx) : Option Nat :=
  match x.blocked with
  | .recv i _ => (Store.look x.slots i).map Slot.q
  | _ => none

/-- Whether another context is blocked in a RECV on queue `q` that reached it before context `k`, which reached it in tclk `at_`: in an
earlier tclk, or with a lower number in the same (R162, R198). -/
def Blk.recvBefore (s : Blk) (k at_ q : Nat) : Bool :=
  s.ctxs.any (fun p => decide (p.1 ≠ k ∧ (p.2.blockAt < at_ ∨ (p.2.blockAt = at_ ∧ p.1 < k))) && s.engLive p.2 &&
    p.2.recvQueue == some q)

/-- RECV at issue: a token goes to it unless another RECV reached the queue before (R162). -/
def actRecv : Act := fun s k x w =>
  let a := (x.s (fRa w)).toNat
  if x.sp (fRa w) then .fault 1 7 a 0
  else if x.sp (fRb w) then .fault 1 5 0 0
  else if a % 4 ≠ 0 then .fault 3 4 a 0
  else match Store.look x.slots (fRc w) with
    | none => .fault 2 4 0 (fRc w)
    | some sl =>
      if sl.out then .fault 2 4 0 (fRc w) else
      match (if s.recvBefore k s.tclk sl.q then none else s.recvGo k x w sl.q) with
      | some r => r
      | none =>
        match recvLimit x w with
        | some d => .next (if d.toNat ≤ s.t64.toNat then s.recvNone k x w else s.dxBlock k x (.recv (fRc w) (some d)))
        | none => .next (s.dxBlock k x (.recv (fRc w) none))

/-- What a blocked context's instruction does on its release: an exception stops the collection; otherwise a napping cluster asks
to wake (R169). -/
def Blk.dxResume (s : Blk) (k : Nat) (x : Ctx) : DxRes → Blk
  | .fault code sub addr slot => s.dxFault k x code sub addr slot
  | .next s' => s'.wakeReq x.cluster

/-- RECV_TAKE (R160, R198). -/
def execRecvTake (c : Nat) : State → Host.Outcome State Fault Refusal := lift fun s =>
  match Store.look s.ctxs c with
  | none => s
  | some x =>
    match x.recvQueue with
    | none => s
    | some q =>
      if !s.engLive x ∨ s.recvBefore c x.blockAt q then s else
      match s.recvGo c x x.word q with
      | none => s
      | some r => s.dxResume c x r

/-- RECV_DEADLINE (R160, R198): a token present in that tclk is taken. -/
def execRecvDeadline (c : Nat) : State → Host.Outcome State Fault Refusal := lift fun s =>
  match Store.look s.ctxs c with
  | none => s
  | some x =>
    match x.blocked, x.recvQueue with
    | .recv _ (some d), some q =>
      if !s.engLive x ∨ s.t64.toNat < d.toNat then s else
      match (if s.recvBefore c x.blockAt q then none else s.recvGo c x x.word q) with
      | some r => s.dxResume c x r
      | none => s.dxResume c x (.next (s.recvNone c x x.word))
    | _, _ => s

/-! ### SEND (R161, R199) -/

def Ctx.credit (x : Ctx) (i : Nat) : Nat := Store.get 0 x.credits i
def Ctx.takeCredit (x : Ctx) (i : Nat) : Ctx := { x with credits := Store.set 0 x.credits i (x.credit i - 1) }

/-- Whether slot `i` of a context, bound to queue `q`, holds a credit that its queue honours for a token of up to 5 units, the
longest (R333, R348), and the context's stores find tags on the XM port. -/
def Blk.slotReady (s : Blk) (x : Ctx) (i q : Nat) : Bool :=
  decide (0 < x.credit i) && !s.spillStop q 5 && s.unitUp 0 0xC && s.xmRoom x.xmLines.length

/-- KIND, LEN and CONT of a SEND's header register. -/
def hKind (h : Dword) : Nat := h.toNat >>> 56 % 256
def hLen (h : Dword) : Nat := h.toNat >>> 49 % 128
def hCont (h : Dword) : Bool := h.getLsbD 40

/-- The token of the SEND at a context's pc: payload and PCH from the DS slice as the context sees it. -/
def Blk.sendTok (s : Blk) (k : Nat) (x : Ctx) (w : Word) : Token :=
  let h := x.s (fRd w)
  let ws := wordsOf (((s.ownView k x).spRead x.coll (.ds k) (x.s (fRa w)).toNat (4 * hLen h)).1)
  let pch := (List.range 8).foldl (fun (m : BitVec 8) i =>
    if ((ws.drop (8 * i)).take 8).any Prod.snd then m ||| BitVec.ofNat 8 (2 ^ i) else m) 0
  Token.mk' (hKind h) (ws.map Prod.fst) pch (hCont h) (.slot k (fRc w))

/-- The token is enqueued: the credit is taken, the context's stores go out with it, and the reducers take what reaches their queue
(R153, R161, R170). -/
def Blk.sendGo (s : Blk) (k : Nat) (x : Ctx) (w : Word) (q : Nat) : Blk :=
  let t := s.sendTok k x w
  let s := s.dxDone k (x.takeCredit (fRc w))
  let s := s.drainStores k
  (s.enqTok q { t with via := some (k, s.mem.sends) }).redEnd

/-- SEND at issue. -/
def actSend : Act := fun s k x w =>
  let h := x.s (fRd w)
  let a := (x.s (fRa w)).toNat
  if x.sp (fRd w) then .fault 1 7 0 0
  else if x.sp (fRa w) then .fault 1 2 a 0
  else if a % 4 ≠ 0 then .fault 3 4 a 0
  else if 0 < hLen h ∧ x.dsLen < a + 4 * hLen h then .fault 2 1 a 0
  else match Store.look x.slots (fRc w) with
    | none => .fault 2 4 0 (fRc w)
    | some sl =>
      if !sl.out then .fault 2 4 0 (fRc w)
      else if hKind h < 0x10 ∨ 0x7F < hKind h ∨ 64 < hLen h then .fault 2 5 0 (fRc w)
      else if s.slotReady x (fRc w) sl.q then .next (s.sendGo k x w sl.q)
      else .next (s.dxBlock k x (.send (fRc w) s.tclk))

/-- SEND_ENQUEUE (R161). -/
def execSendEnqueue (c : Nat) : State → Host.Outcome State Fault Refusal := lift fun s =>
  match Store.look s.ctxs c with
  | none => s
  | some x =>
    match x.blocked with
    | .send i _ =>
      match Store.look x.slots i with
      | none => s
      | some sl => if s.engUp x ∧ s.slotReady x i sl.q then s.sendGo c x x.word sl.q else s
    | _ => s

/-! ### Waits and time (R164 to R167, R200, R201) -/

/-- The tracker of a context's collection. -/
def Blk.trkOf (s : Blk) (x : Ctx) : Nat := (s.coll x.coll).trk

def actWaita : Act := fun s k x w =>
  if x.sp (fRa w) || x.sp (fRb w) then .fault 1 5 0 0 else
  let t := (x.s (fRa w)).setWidth 32
  let a := (x.s (fRb w)).toNat % 65536
  match s.waitaNow x.coll t a with
  | some v => .next (s.dxDone k (x.setS (fRd w) v false))
  | none => .next (s.dxBlock k x (.waita t a (fRd w)))

def actWaitt : Act := fun s k x w =>
  if x.sp (fRa w) then .fault 1 5 0 0 else
  let t := x.s (fRa w)
  if t.toNat ≤ s.t64.toNat then .next (s.dxDone k (x.setS (fRd w) (if t = s.t64 then 0 else 1) false))
  else .next (s.dxBlock k x (.waitt t (fRd w)))

def actWaitb : Act := fun s k x w =>
  if x.sp (fRa w) then .fault 1 5 0 0 else
  let t := (x.s (fRa w)).setWidth 32
  let tr := s.tracker (s.trkOf x)
  if tr.running ∧ turnLater tr.turn t then .next (s.dxDone k (x.setS (fRd w) (waitWord tr.turn 0 false true) false))
  else .next (s.dxBlock k x (.waitb t (fRd w)))

/-- STAMP: T64, then turn and angle, which read zero while the tracker is idle. -/
def actStamp : Act := fun s k x w =>
  let tr := s.tracker (s.trkOf x)
  let ta : Dword := if tr.running then BitVec.ofNat 64 (tr.turn.toNat <<< 16 + s.angle (s.trkOf x)) else 0
  .next (s.dxDone k ((x.setS (fRd w) s.t64 false).setS (fRd w + 1) ta false))

/-! ### Events, snapshot, fence (R213 to R215) -/

/-- EVT: code 0x8000 + imm, arguments sd and sa, the source word of Table 12-7. -/
def actEvt : Act := fun s k x w =>
  let src := w32 (1 <<< 30 + (x.coll % 64) <<< 24 + (k % 1024) <<< 14 + x.pc / 4 % 8192)
  let e : Ev := ⟨BitVec.ofNat 16 (0x8000 + fImm w % 0x4000), src, x.s (fRd w), (x.s (fRa w)).setWidth 48,
    x.sp (fRd w) || x.sp (fRa w)⟩
  .next ((s.emitEv e).dxDone k x)

/-- SNAP: the collection needs the snapshot right. -/
def actSnap : Act := fun s k x w =>
  if !(s.coll x.coll).snap then .fault 2 2 0 0
  else .next ((s.snapReq 4 ((x.s (fRa w)).setWidth 32)).dxDone k x)

/-- Whether writes of a context are outstanding on the XM port. -/
def Blk.writing (s : Blk) (k : Nat) : Bool := s.mem.reqs.any (fun r => r.ctx == some k && r.write && !r.late)

/-- FENCE: it waits where the context's stores find no tags. -/
def actFence : Act := fun s k x _ =>
  if !s.xmRoom x.xmLines.length then .next (s.dxBlock k x .fence) else
  let s := s.drainAll k
  match Store.look s.ctxs k with
  | none => .next s
  | some x => .next (if s.writing k then s.dxBlock k x .fence else s.dxDone k x)

/-- FENCE_DONE (R153, R215). -/
def execFenceDone (c : Nat) : State → Host.Outcome State Fault Refusal := lift fun s =>
  match Store.look s.ctxs c with
  | none => s
  | some x =>
    if x.blocked ≠ .fence ∨ !s.engUp x ∨ !s.xmRoom x.xmLines.length then s else
    let s := s.drainAll c
    match Store.look s.ctxs c with
    | none => s
    | some x => if s.writing c then s else s.dxDone c x

/-! ### Meanings -/

/-- RECV, SEND (R198, R199). -/
def execRecv (c : Nat) : State → Host.Outcome State Fault Refusal := lift fun s => s.dxStep c [eRecv] actRecv
def execSend (c : Nat) : State → Host.Outcome State Fault Refusal := lift fun s => s.dxStep c [eSend] actSend
/-- WAITA, WAITT, WAITB, STAMP (R200, R201). -/
def execWaita (c : Nat) : State → Host.Outcome State Fault Refusal := lift fun s => s.dxStep c [eWaita] actWaita
def execWaitt (c : Nat) : State → Host.Outcome State Fault Refusal := lift fun s => s.dxStep c [eWait1 1] actWaitt
def execWaitb (c : Nat) : State → Host.Outcome State Fault Refusal := lift fun s => s.dxStep c [eWait1 2] actWaitb
def execStamp (c : Nat) : State → Host.Outcome State Fault Refusal := lift fun s => s.dxStep c [eStamp] actStamp
/-- EVT, SNAP, FENCE (R213 to R215). -/
def execEvt (c : Nat) : State → Host.Outcome State Fault Refusal := lift fun s => s.dxStep c [eEvt] actEvt
def execSnap (c : Nat) : State → Host.Outcome State Fault Refusal := lift fun s => s.dxStep c [eSnap] actSnap
def execFence (c : Nat) : State → Host.Outcome State Fault Refusal := lift fun s => s.dxStep c [eFence] actFence

end Sys2Proof.Machine
end

