-- ==== Sys2Proof/Machine/Launch.lean ====
section
/-!
DEFINITION. Unit launches (R171, R172, R206 to R210) and credit timeouts (R175).
-/

namespace Sys2Proof.Machine

/-! ### Launch credits (R171, R207) -/

/-- Launch credits in use of a unit, and one more taken. -/
def Ctx.used (x : Ctx) (unit : Nat) : Nat := if unit = 1 then x.usedTree else if unit = 2 then x.usedSketch else x.usedFuller
def Ctx.takeUnit (x : Ctx) (unit : Nat) : Ctx :=
  if unit = 1 then { x with usedTree := x.usedTree + 1 }
  else if unit = 2 then { x with usedSketch := x.usedSketch + 1 } else { x with usedFuller := x.usedFuller + 1 }

/-- Whether the unit of a job takes launches: while EN of its control register is 0, or the unit waits for its reset, launches
wait behind their credits; Fuller jobs wait in their queue (R360, Tables 8-8, 9-9, 10-6). -/
def Blk.unitTakes (s : Blk) (unit cluster : Nat) : Bool :=
  if unit = 1 then bit (s.reg (.tre .TRE_CTRL)) 0 && s.unitUp cluster 9
  else if unit = 2 then bit (s.reg (.sku .SKU_CTRL)) 0 && s.unitUp cluster 8
  else s.unitUp 0 0xB

/-- Whether a launch obtains its credits now. -/
def Blk.launchReady (s : Blk) (x : Ctx) (j : Job) : Bool :=
  s.unitTakes j.op.unit x.cluster && decide (x.used j.op.unit < 4) &&
  match j.slot with
  | none => s.xmRoom x.xmLines.length
  | some i => match Store.look x.slots i with | some sl => s.slotReady x i sl.q | none => false

/-- A job enters its unit's queue; of those that reach the Fuller queue in one tclk, the lower contexts stand first (R329). -/
def Blk.pushJob (s : Blk) (j : Job) : Blk :=
  let j := { j with at_ := s.tclk }
  if j.op.unit = 1 then s.modTre (fun m => { m with jobs := Store.put m.jobs j.cluster (Store.get [] m.jobs j.cluster ++ [j]) })
  else if j.op.unit = 2 then s.modSk (fun m => { m with jobs := Store.put m.jobs j.cluster (Store.get [] m.jobs j.cluster ++ [j]) })
  else s.modFul (fun m => { m with queue := (let old := m.queue.takeWhile (fun k => !(decide (k.at_ = j.at_ ∧ j.ctx < k.ctx) && k.hist.isNone))
      old ++ j :: m.queue.drop old.length) })

/-- The launch takes both credits in one tclk, the context's stores become visible to the unit, and the job is the unit's (R153). -/
def Blk.launchGo (s : Blk) (k : Nat) (x : Ctx) (j : Job) : Blk :=
  let x := x.takeUnit j.op.unit
  let x := match j.slot with | some i => x.takeCredit i | none => x
  let s := (s.dxDone k x).drainStores k
  (s.seeStores j.observer k s.mem.sends).pushJob j

/-! ### Launches at issue (R206, R208, R209) -/

/-- Descriptor words that are carried as data: SKINS bytes 8 to 15, TSCORE bytes 12 to 15 (R258, R297). -/
def dataWord (op : JobOp) (i : Nat) : Bool :=
  match op with
  | .skins => decide (i = 2 ∨ i = 3)
  | .tscore => decide (i = 3)
  | _ => false

/-- The job of a launch, with its descriptor as copied at issue. -/
def Blk.jobOf (s : Blk) (op : JobOp) (k : Nat) (x : Ctx) (w : Word) (d : List (Word × Bool)) (m : BitVec 16) : Job :=
  let c := x.s (fRb w)
  let t := s.tracker (s.trkOf x)
  let ens := (d.getD 0 (0, false)).1.toNat % 65536
  { op := op, ctx := k, coll := x.coll, gen := (s.coll x.coll).gen.toNat, cluster := x.cluster, tag := c.setWidth 16,
    slot := (if c.getLsbD 21 then none else some (c.toNat >>> 16 % 32)), turn := t.turn,
    ver := (if op = .tscore then (Store.get EnsSlot.empty s.tre.slots ens).ver else 0), pred := t.pred,
    desc := d.map Prod.fst, descPoi := d.map Prod.snd, lanes := (List.range 16).map (x.v (fRd w)),
    lanePoi := (List.range 16).foldl (fun (p : BitVec 16) i => if x.vp (fRd w) i then p ||| BitVec.ofNat 16 (2 ^ i) else p) 0,
    mask := m, feats := (if op = .tscore then x.feats else []), dead := false, at_ := 0, hist := none }

/-- A launch: mask, address and control word (POISON 0x3, 0x2, 0x6), alignment, the descriptor's range and right, its control
fields, the completion slot; then it obtains its credits or blocks (R188, R206, R207). -/
def actLaunch (op : JobOp) : Act := fun s k x w =>
  withMask (if op = .skins then fRc w else 0) x fun m =>
    let a := (x.s (fRa w)).toNat
    if x.sp (fRa w) then .fault 1 2 a 0
    else if x.sp (fRb w) then .fault 1 6 0 0
    else if a % 8 ≠ 0 then .fault 3 4 a 0
    else match s.dxRead k x a 32 with
      | .fault sub a => .fault 2 sub a 0
      | .wait s => .next s
      | .ok bs =>
        let d := wordsOf bs
        let j := s.jobOf op k x w d m
        if (List.range 8).any (fun i => !dataWord op i && (d.getD i (0, false)).2) then .fault 1 6 a 0 else
        let bad : Option Nat := match j.slot with
          | none => none
          | some i => match Store.look x.slots i with | some sl => if sl.out then none else some i | none => some i
        match bad with
        | some i => .fault 2 4 0 i
        | none => .next (if s.launchReady x j then s.launchGo k x j else s.dxBlock k x (.launch j s.tclk))

/-- LAUNCH_CREDIT (R207): a blocked launch obtains its credits. -/
def execLaunchCredit (c : Nat) : State → Host.Outcome State Fault Refusal := lift fun s =>
  match Store.look s.ctxs c with
  | none => s
  | some x =>
    match x.blocked with
    | .launch j _ => if s.engUp x ∧ s.launchReady x j then s.launchGo c x j else s
    | _ => s

/-! ### Credit timeouts (R175) -/

/-- A context in its handler at `h`, the pc and the cause saved (R174, R175). -/
def Ctx.handle (x : Ctx) (h : Nat) (cause : Word) : Ctx :=
  { x with blocked := .no, inHandler := true, epc := x.pc, ecause := cause, pc := h }

/-- A SEND or launch is abandoned: a handler takes the timeout, or the collection faults. -/
def Blk.creditOver (s : Blk) (k : Nat) (x : Ctx) (sub slot : Nat) : Blk :=
  match x.handler with
  | some h =>
    if x.inHandler then s.dxFault k x 4 sub 0 slot else
    let cause := w32 (4 <<< 28 + sub <<< 24 + slot)
    let s := s.blkCount k x
    let s := s.modCtxs (fun m => Store.put m k (x.handle h cause))
    (s.traceExc x h).emitAt 6 (k / perEngineOf s.conf) 0x0601 (k % 1024 + x.coll <<< 16) cause.toNat
  | none => s.dxFault k x 4 sub 0 slot

/-- CREDIT_TIMEOUT (R175, R199, R207): the timeout of a slot or of the launch has passed; a credit of that tclk wins. -/
def execCreditTimeout (c : Nat) : State → Host.Outcome State Fault Refusal := lift fun s =>
  match Store.look s.ctxs c with
  | none => s
  | some x =>
    if !s.engUp x then s else
    match x.blocked with
    | .send i since =>
      match Store.look x.slots i with
      | none => s
      | some sl => if sl.tmo ≠ 0 ∧ s.passed since (s.us sl.tmo) ∧ !s.slotReady x i sl.q then s.creditOver c x 1 i else s
    | .launch j since =>
      if x.ltmo ≠ 0 ∧ s.passed since (s.us x.ltmo) ∧ !s.launchReady x j then s.creditOver c x 2 (j.slot.getD 0) else s
    | _ => s

/-! ### Meanings -/

/-- SKINS, SKMRG, SKQ, TOPK (R208). -/
def execSkins (c : Nat) : State → Host.Outcome State Fault Refusal := lift fun s => s.dxStep c [eSkins] (actLaunch .skins)
def execSkmrg (c : Nat) : State → Host.Outcome State Fault Refusal := lift fun s => s.dxStep c [eLaunch 1 none] (actLaunch .skmrg)
def execSkq (c : Nat) : State → Host.Outcome State Fault Refusal := lift fun s => s.dxStep c [eLaunch 2 none] (actLaunch .skq)
def execTopk (c : Nat) : State → Host.Outcome State Fault Refusal := lift fun s => s.dxStep c [eLaunch 3 none] (actLaunch .topk)
/-- TSCORE (R209). -/
def execTscore (c : Nat) : State → Host.Outcome State Fault Refusal := lift fun s => s.dxStep c [eLaunch 8 (some 0)] (actLaunch .tscore)
/-- PACK, UNPACK (R210). -/
def execPack (c : Nat) : State → Host.Outcome State Fault Refusal := lift fun s => s.dxStep c [eLaunch 0x10 (some 3)] (actLaunch .pack)
def execUnpack (c : Nat) : State → Host.Outcome State Fault Refusal := lift fun s => s.dxStep c [eLaunch 0x11 (some 3)] (actLaunch .unpack)

end Sys2Proof.Machine
end

