-- ==== Sys2Proof/Machine/Nap.lean ====
section
/-!
DEFINITION. Naps and the wake arbiter (R169, R427), and the return of a firmware core after its crash (R429, R430, Table 14-4).
-/

namespace Sys2Proof.Machine

/-! ### Nap (R169, R427) -/

/-- Whether a context lets its cluster nap: it is blocked in a wait or in a RECV on an empty queue for the idle time; a context that
its collection has not yet released counts as blocked (DEDUCED, log 24). -/
def Blk.ctxIdle (s : Blk) (x : Ctx) (idle : Nat) : Bool :=
  let still := s.passed x.blockAt idle && !(s.coll x.coll).restarting
  match x.blocked with
  | .waita .. => still
  | .waitt .. => still
  | .waitb .. => still
  | .passed .. => still
  | .recv _ _ => still && (match x.recvQueue with | some q => (s.q q).toks.isEmpty | none => false)
  | .no => still && !(s.coll x.coll).begun && decide ((s.coll x.coll).st = .running ∨ (s.coll x.coll).st = .starting)
  | _ => false

/-- Whether a cluster has no job in its units. -/
def Blk.noJobs (s : Blk) (k : Nat) : Bool :=
  (Store.get [] s.sk.jobs k).isEmpty && (Store.get [] s.tre.jobs k).isEmpty && (Store.get [] s.tre.alarms k).isEmpty

/-- Whether the power core may nap cluster `k` (R169, R427). -/
def Blk.mayNap (s : Blk) (k : Nat) : Bool :=
  let idle := s.us (fld (s.reg (.pwr .PWR_NAP_IDLE)) 15 0)
  decide (k < s.logical) && !s.pwr.pcLost && bit (s.reg (.pwr .PWR_CTRL)) 1 && !(s.clu k).nap && !(s.clu k).disabled &&
    s.noJobs k && s.passed (s.clu k).idleAt idle && s.ctxs.all (fun p => p.2.cluster != k || s.ctxIdle p.2 idle)

/-- NAP_ENTRY (R144, R169, R427). -/
def execNapEntry (k : Nat) : State → Host.Outcome State Fault Refusal := lift fun s =>
  if !s.mayNap k then s else
  let s := (s.traceNap k).count (.pwr (.PWR_CLk_NAPS k)) 1
  s.setClu k { s.clu k with nap := true, waking := false }

/-- Grants in the half-open window (t − WIN, t] (R427). -/
def Blk.grantsNow (s : Blk) : List Nat :=
  s.pwr.grants.filter (fun t => !s.passed t (s.us (fld (s.reg (.pwr .PWR_WAKE)) 15 0)))

/-- WAKE_GRANT (R144, R427): the oldest request is granted when fewer than N grants lie in the window; a cluster that is clamped
wakes at OPP 0, where its clamp holds it (R425). -/
def execWakeGrant : State → Host.Outcome State Fault Refusal := lift fun s =>
  match s.pwr.wakeQ with
  | [] => s
  | q :: rest =>
    let gs := s.grantsNow
    if fld (s.reg (.pwr .PWR_WAKE)) 23 16 ≤ gs.length then s else
    let k := q % 64
    let s := s.modPwr (fun m => { m with wakeQ := rest, grants := gs ++ [s.tclk] })
    let s := (s.setClu k { s.clu k with nap := false, waking := false, idleAt := s.tclk }).count (.pwr .PWR_WAKE_CNT) 1
    s.traceWake k

/-! ### A core is back (R429, Table 14-4) -/

/-- A control core is back: its deadlines end, held faults are taken in order, and faulted collections restart (R363, R430). -/
def Blk.ccBack (s : Blk) (x : Nat) : Blk :=
  let held := (s.fcore x).held
  let s := s.setCore x { s.fcore x with held := [], deadline := [] }
  let s := held.foldl (fun s h => s.faultColl h.1 h.2.1 h.2.2) s
  (Store.keys s.colls).foldl (fun s c =>
    if (s.coll c).restarting ∧ !(s.coll c).held ∧ !s.collCoreLost c then s.restart c else s) s

/-- The scheduler core is back: held teardowns are carried out in order of request. -/
def Blk.schedBack (s : Blk) : Blk :=
  let held := s.fwc.heldTd
  let s := s.modFwc (fun m => { m with heldTd := [] })
  held.foldl (fun s h =>
    if (s.coll h.1).st = .running then
      s.tdIn h.1 (if h.2 = 0 then none else some (w32 h.2, h.2 / 2 ^ 32))
    else s) s

/-- The security core is back: a deferred re-key takes place at once. -/
def Blk.secBack (s : Blk) : Blk :=
  match s.fwc.deferRekey with
  | some c => (s.modFwc (fun m => { m with deferRekey := none })).rekey c
  | none => s

/-- CORE_RESTART_DONE (R429, R430, Table 14-4). -/
def execCoreRestartDone (x : Nat) : State → Host.Outcome State Fault Refusal := lift fun s =>
  if (s.fcore x).st ≠ .restart then s else
  let s := s.setCore x { s.fcore x with st := .run }
  let s :=
    if x = 0 then s.secBack
    else if x = 1 then s.modPwr (fun m => { m with pcLost := false })
    else if x = 2 then s.schedBack
    else s.ccBack x
  s.updCheck

end Sys2Proof.Machine
end

