-- ==== Sys2Proof/Machine/Scrub.lean ====
section
/-!
DEFINITION. Codewords of the block's SRAM (R355, R356, R359, R360): what a scrubber's read corrects, marks or reports, and the reset
of a unit. The numbering of the words of each unit is the block's own (DESIGN CHOICE, log 23).
-/

namespace Sys2Proof.Machine

/-! ### Where a word lies (log 23) -/

/-- First byte address of the region of a unit code, and its extent (Table 17-1). -/
def unitRegion (u : Nat) : Nat × Nat :=
  match u with
  | 0x15 => (0x10000, 0x10000) | 1 => (0x20000, 0x10000) | 2 => (0x30000, 0x10000) | 3 => (0x40000, 0x10000)
  | 4 => (0x50000, 0x10000) | 6 => (0x60000, 0x10000) | 8 => (0x70000, 0x10000) | 7 => (0x80000, 0x20000)
  | 9 => (0xA0000, 0x10000) | 0xA => (0xB0000, 0x10000) | 0xB => (0xC0000, 0x10000) | 0xD => (0xD0000, 0x10000)
  | 0x10 => (0xE0000, 0x10000) | 0x11 => (0xF0000, 0x10000) | 0x12 => (0x100000, 0x10000) | 0x13 => (0x110000, 0x10000)
  | 0x14 => (0x120000, 0x10000) | 0xF => (0x140000, 0x40000) | 0xE => (0x200000, 0x10000) | 5 => (0x240000, 0x10000)
  | 0xC => (0x260000, 0xA0000) | _ => (0, 0)

/-- Contexts of one cluster. -/
def Blk.ctxPerClu (s : Blk) : Nat := s.conf.contexts / s.conf.clusters

/-- The feature word that word number `w` of the pool holds: collection, row, feature (R283). -/
def Blk.featWord (s : Blk) (w : Nat) : Option (Nat × Nat × Nat) :=
  (s.tre.tables.findSome? (fun p =>
    let pos := p.2.held.foldl (fun (a : Nat × Option Nat) h =>
      (a.1 + h.2, if h.1 ≤ 4 * w ∧ 4 * w < h.1 + h.2 then some (a.1 + 4 * w - h.1) else a.2)) (0, none)
    match pos.2 with
    | some o => if p.2.nfeat = 0 then none else some (p.1, o / p.2.stride, o % p.2.stride / 4)
    | none => none))

/-- Where word `n` of a row of items of these sizes lies: the item's index and the word's place in it. -/
def wordIn : List Nat → Nat → Option (Nat × Nat)
  | [], _ => none
  | k :: ks, n => if n < k then some (0, n) else (wordIn ks (n - k)).map (fun p => (p.1 + 1, p.2))

/-- Mark word `o` of a frame's payload: its 64-byte chunk. -/
def Frame.markWord (f : Frame) (o : Nat) : Frame := { f with poim := f.poim ||| BitVec.ofNat 64 (2 ^ (o / 16)) }

/-- Mark word `o` of a token's payload: its chunk of 8 words. -/
def Token.markWord (t : Token) (o : Nat) : Token := { t with pch := t.pch ||| BitVec.ofNat 8 (2 ^ (o / 8)) }

/-- Mark payload word `n` of what queue `q` holds in the queue store, its entries from the head on (R355, R358). -/
def Blk.markQueue (s : Blk) (q n : Nat) : Blk :=
  let v := s.q q
  let tok := fun (t : Token) => if t.spilled.isSome then 0 else t.words.length
  let frm := fun (f : Frame) => if f.spilled.isSome then 0 else roundUp f.payload.length 4 / 4
  match wordIn (v.toks.map tok ++ v.frames.map frm ++ v.openToks.map tok) n with
  | none => s
  | some (i, o) =>
    let j := v.toks.length
    let k := j + v.frames.length
    s.modQ q (fun v => { v with
      toks := if i < j then v.toks.modify i (fun t => t.markWord o) else v.toks,
      frames := if j ≤ i then v.frames.modify (i - j) (fun f => f.markWord o) else v.frames,
      openToks := if k ≤ i then v.openToks.modify (i - k) (fun t => t.markWord o) else v.openToks })

/-- Mark word `n` of what waits in the record output buffer (R355, R358): a record bound for a local queue is poisoned whole. -/
def Blk.markOut (s : Blk) (n : Nat) : Blk :=
  match wordIn (s.rcp.out.map (fun o => roundUp o.size 4 / 4)) n with
  | none => s
  | some (i, o) => s.modRcp (fun r => { r with out := r.out.modify i (fun x => match x with
      | .frame m cls poim p => .frame m cls (poim ||| BitVec.ofNat 64 (2 ^ (o / 16))) p
      | .loc c q r => .loc c q r.poisoned) })

/-- Mark the record that word `n` of the sample buffer lies in: a buffered sample is poisoned whole (R103, R355). -/
def Blk.markSample (s : Blk) (n : Nat) : Blk :=
  s.modPrb (fun p => { p with smpBuf := p.smpBuf.modify (n / 24) (fun x => (x.1, x.2.poisoned)) })

/-- Byte address of the register, or of the word of the event ring or a trace buffer, that word `w` of a unit is (log 23). -/
def Blk.wordAddr (s : Blk) (u inst w : Nat) : Option Nat :=
  let reg := fun (n : Nat) => let a := (unitRegion u).1 + 4 * n
    if 4 * n < (unitRegion u).2 ∧ (Reg.at s.conf a).isSome then some a else none
  match u with
  | 5 => if w < 2 ^ 16 then (if 4 * w < s.tbSize then some (0x340000 + 0x10000 * inst + 4 * w) else none) else reg (w - 2 ^ 16)
  | 6 => reg (w - 2 ^ 26)
  | 0xC => reg (w - 2 ^ 17)
  | 0xE => if w < 2 ^ 16 then some (0x300000 + 4 * w) else reg (w - 2 ^ 16)
  | _ => reg w

/-- Mark a word poisoned (R355). -/
def Blk.markWord (s : Blk) (u inst w : Nat) : Blk :=
  if u = 6 ∧ w < 2 ^ 26 then
    if w < 2 ^ 24 then
      let j := w / 2 ^ 18
      if s.ctxPerClu ≤ j then s else
      s.modMem (fun m => { m with dsPoi := Store.set false m.dsPoi (2 ^ 18 * (inst * s.ctxPerClu + j) + w % 2 ^ 18) true })
    else if w < 2 ^ 25 then
      if csmBytes s.conf ≤ 4 * (w - 2 ^ 24) then s else
      s.modMem (fun m => { m with csmPoi := Store.set false m.csmPoi (2 ^ 22 * inst + (w - 2 ^ 24)) true })
    else
      let j := (w - 2 ^ 25) / 2 ^ 13
      let k := inst * s.ctxPerClu + j
      if s.ctxPerClu ≤ j then s else
      match Store.look s.ctxs k with
      | some x => if w % 2 ^ 13 < x.im.length then
          s.modCtxs (fun m => Store.put m k { x with imPoi := Store.set false x.imPoi (w % 2 ^ 13) true }) else s
      | none => s
  else if u = 3 ∧ 2 ^ 17 ≤ w then s.markSample (w - 2 ^ 17)
  else if u = 4 ∧ 2 ^ 17 ≤ w then s.markOut (w - 2 ^ 17)
  else if u = 0xC ∧ 2 ^ 18 ≤ w then s.markQueue ((w - 2 ^ 18) / 2 ^ 17) ((w - 2 ^ 18) % 2 ^ 17)
  else if u = 9 ∧ 2 ^ 27 ≤ w then
    let n := w / 2 ^ 19 % 256
    let ver := w / 2 ^ 27 - 1
    match Store.look s.tre.slots n with
    | none => s
    | some v =>
      let cs := (s.coll (s.slotOwner n)).clusters
      let mark := fun (e : Ens) =>
        let base := if e.shard then (cs.idxOf? inst).getD 0 * e.nper * treeSize e.depth / 4 else 0
        { e with treePoi := Store.set false e.treePoi (2 ^ 26 * inst + base + w % 2 ^ 19) true }
      s.modTre (fun m => { m with slots := Store.put m.slots n (
        if ver = 0 then { v with active := v.active.map mark }
        else if ver = 1 then { v with staged := v.staged.map mark }
        else { v with old := v.old.mapIdx (fun i p => if i + 2 = ver then (p.1, mark p.2) else p) }) })
  else if u = 0xA ∧ 2 ^ 14 ≤ w then
    match s.featWord (w - 2 ^ 14) with
    | some (c, r, f) =>
      (match s.ftable c with
        | some t => if r < t.dir.length ∧ f < t.nfeat then s.setFtable c { t with poi := Store.set false t.poi (256 * r + f) true } else s
        | none => s)
    | none => s.modMem (fun m => { m with poolPoi := Store.set false m.poolPoi (w - 2 ^ 14) true })
  else
    match s.wordAddr u inst w with
    | some a => s.modRegPoi (fun m => Store.set false m a true)
    | none => s

/-! ### Structures without a mark (R360) -/

/-- Who uses a structure that carries no poison mark: the collections, and whether it is the block's. None for a word that can be
marked. A queue is the block's by its OWNER, the stores of the probe array when a group is global; a structure without an OWNER is the
block's while no collection uses it (DESIGN CHOICE, log 23). -/
def Blk.stateUsers (s : Blk) (u inst w : Nat) : Option (List Nat × Bool) :=
  let live := (Store.keys s.colls).filter s.collRuns
  let l : Option (List Nat) := match u with
    | 2 => if w < 2 ^ 14 then none else some (live.filter (fun c => (s.coll c).trk = inst))
    | 3 => if 2 ^ 14 ≤ w ∧ w < 2 ^ 17 then some (live.filter (fun c => (List.range 64).any (fun g => s.gOwner g = c))) else none
    | 7 => if w < 2 ^ 15 then none else some (live.filter (fun c => !(s.redsOf c).isEmpty))
    | 8 => if w < 2 ^ 14 then none else some (live.filter (fun c => (Store.get [] s.sk.jobs inst).any (fun j => j.coll = c) ||
        s.sk.late.any (fun p => p.1 / 2 ^ 32 = c)))
    | 0xC =>
      if w < 2 ^ 16 then some (live.filter (fun c => s.qEn w && decide (s.qOwner w = c)))
      else if 2 ^ 17 ≤ w then none
      else some (live.filter (fun c => match Store.look s.qsc.flows (w - 2 ^ 16) with
        | some f => f.colls.contains c | none => false))
    | _ => none
  l.map (fun l => (l,
    if u = 0xC then
      (if w < 2 ^ 16 then s.qEn w && decide (s.qOwner w = 0xFF)
       else (match Store.look s.qsc.flows (w - 2 ^ 16) with | some f => f.own | none => false))
    else l.isEmpty || (decide (u = 3) && (List.range 64).any (fun g => s.gOwner g = 0xFF))))

/-- An uncorrectable error in a structure without a mark (R360, R361, R376). -/
def Blk.ueState (s : Blk) (u inst : Nat) (cs : List Nat) (own : Bool) : Blk :=
  let s := ((s.emit 0xD 0x0E0A u inst).setBits (.err .ERR_STAT) 1).flushReq 1 0x0E0A
  let key := (if u = 2 ∨ u = 8 then inst else 0) <<< 16 + u
  let s := if own ∧ !s.stopped.contains key then { s with stopped := s.stopped ++ [key] } else s
  cs.foldl (fun s c => s.faultColl c (w32 (4 <<< 20)) 0) s

/-! ### Scrubbing (R355, R356) -/

/-- Argument 1 of ERR_CE and ERR_UE, and the source register (Tables 12-9, 12-10). -/
def eccArg (u inst syn : Nat) : Nat := u % 65536 + (inst % 256) <<< 16 + (syn % 128) <<< 24
def eccSrc (u inst syn : Nat) : Word := w32 ((u % 65536) <<< 16 + (inst % 256) <<< 8 + syn % 128)

/-- Scrub period in s: 0 is taken as 1. -/
def Blk.scrubPer (s : Blk) : Nat := s.sec (max 1 (s.reg (.err .ERR_SCRUB_PER)).toNat)

/-- A corrected word. -/
def Blk.corrected1 (s : Blk) (u inst w syn : Nat) : Blk :=
  let s := (s.count (.err .ERR_CE_CNT) 1).setReg (.err .ERR_CE_SRC) (eccSrc u inst syn)
  let s := (s.setReg (.err .ERR_CE_ADDR) (w32 w)).emit 0xD 0x0E01 w (eccArg u inst syn)
  let s := if u = 9 then s.countFld (.tre .TRE_ECC_CNT) 15 0 1 else s
  let k := (2 ^ 8 * u + inst % 256) * 2 ^ 32 + w
  let (n, up) := Store.get (0, false) s.ceHot k
  let hot := !up && decide (fld (s.reg (.err .ERR_CE_HOT_THR)) 15 0 ≤ n + 1)
  let s := { s with ceHot := Store.set (0, false) s.ceHot k (n + 1, up || hot) }
  if hot then s.emit 0xD 0x0E03 w (eccArg u inst syn) else s

/-- An uncorrectable word: it is marked, or its structure is lost. -/
def Blk.uncorrected (s : Blk) (u inst w syn : Nat) : Blk :=
  let s := (s.count (.err .ERR_UE_CNT) 1).setReg (.err .ERR_UE_SRC) (eccSrc u inst syn)
  let s := (s.setReg (.err .ERR_UE_ADDR) (w32 w)).emit 0xD 0x0E02 w (eccArg u inst syn)
  let s := if u = 9 then s.countFld (.tre .TRE_ECC_CNT) 31 16 1 else s
  match s.stateUsers u inst w with
  | some (cs, own) => s.ueState u inst cs own
  | none => s.markWord u inst w

/-- SCRUB_READ (R355, R356, R360): a word of a unit's SRAM is read and its codeword checked, by the scrubber, or, while ERR_CTRL.SCRUB_EN
is 0, by an access that reads the word (DESIGN CHOICE, log 23). -/
def execScrubRead (u inst addr : Nat) (o : EccOutcome) : State → Host.Outcome State Fault Refusal := lift fun s =>
  let s := if s.passed s.scrubAt s.scrubPer then { s with ceHot := [], scrubAt := s.tclk } else s
  match o with
  | .clean => s
  | .corrected syn => s.corrected1 u inst addr syn
  | .uncorrectable syn => s.uncorrected u inst addr syn

/-! ### The reset of a unit (R360) -/

/-- Whether the register at `a` belongs to instance `inst` of a unit. Of a unit with several instances, one instance's reset touches the
registers of that instance alone, not the counts that all share (DESIGN CHOICE, log 23). -/
def instReg (conf : Conf) (u inst a : Nat) (r : Reg) : Bool :=
  let base := (unitRegion u).1
  decide (base ≤ a ∧ a < base + (unitRegion u).2) && (match u with
    | 2 | 5 => decide (base + 0x1000 + 0x100 * inst ≤ a ∧ a < base + 0x1000 + 0x100 * (inst + 1))
    | 6 => (match conf, r with
      | .d, _ => true
      | _, .dxe (.DXE_CXc_STAT c) | _, .dxe (.DXE_CXc_PC c) | _, .dxe (.DXE_CXc_CAUSE c) | _, .dxe (.DXE_CXc_EADDR c)
      | _, .dxe (.DXE_CXc_RET_HI c) | _, .dxe (.DXE_CXc_RET_LO c) | _, .dxe (.DXE_CXc_BLK c) => decide (c / perEngineOf conf = inst)
      | _, _ => false)
    | 8 => decide (conf = .d)
    | 9 => false
    | 0xB => (match r with
      | .ful (.FUL_Ee_STAT e) | .ful (.FUL_Ee_JOBS e) | .ful (.FUL_Ee_LERR e) | .ful (.FUL_Ee_LBIT_HI e) | .ful (.FUL_Ee_LBIT_LO e)
      | .ful (.FUL_Ee_BUSYT e) => decide (e = inst)
      | _ => false)
    | _ => true)

/-- Registers that record the state of a unit return to their reset values: its RO, RC and W1C registers (R360). -/
def Blk.resetRegs (s : Blk) (u inst : Nat) : Blk :=
  let goes := fun (a : Nat) => match Reg.at s.conf a with
    | some r => instReg s.conf u inst a r && (match (r.info s.conf).acc with | .ro => true | .rc => true | .w1c => true | _ => false)
    | none => false
  (s.modRegs (fun m => m.filter (fun p => !goes p.1))).modRegPoi (fun m => m.filter (fun p => !goes p.1))

/-- The state of a unit returns to its reset values; queues keep their assignment, and the random salt stands (log 23). -/
def Blk.resetUnit (s : Blk) (u inst : Nat) : Blk :=
  match u with
  | 1 => { s with time := .reset }
  | 2 => s.setTracker inst .idle
  | 3 => s.modPrb (fun p => { ProbeState.reset with pins := p.pins })
  | 4 => { s with rcp := .reset }
  | 5 => s.setTbuf inst .fresh
  | 6 => s.modCtxs (fun m => m.filter (fun p => !(decide (4 * p.2.cluster + p.2.engine = inst))))
  | 7 => { s with red := .reset }
  | 8 => s.modSk (fun m => { jobs := Store.del m.jobs inst, late := [] })
  | 9 => s.modTre (fun m => { m with
      jobs := Store.del m.jobs inst, scored := Store.del m.scored inst, alarms := Store.del m.alarms inst })
  | 0xA => s.modTre (fun m => { m with tables := [] })
  | 0xB => s.modFul (fun m => { m with engines := Store.del m.engines inst })
  | 0xC => s.modQsc (fun m => { QscState.reset with
      queues := m.queues.foldl (fun q p => Store.set Queue.fresh q p.1 { Queue.fresh with
        cap := p.2.cap, peer := p.2.peer, peerRole := p.2.peerRole, dq := p.2.dq }) [],
      salt := m.salt, rekeyAt := m.rekeyAt })
  | 0xD => { s with ceHot := [], scrubAt := s.tclk }
  | 0x10 => { s with hlt := .reset }
  | 0x11 => { s with fwc := { FwcState.reset with svnMin := s.fwc.svnMin } }
  | 0x12 => s.modPwr (fun p => { PwrState.reset with warnLow := p.warnLow, supply := p.supply })
  | 0x13 => { s with lic := { LicState.reset with stored := s.lic.stored } }
  | 0x14 => { s with boot := .reset }
  | 0x15 => s.modCp (fun c => { c with first := [], viols := 0 })
  | _ => s

/-- A completed pair of ERR_UNIT_RESET (R360): the unit takes work again. -/
def State.wrUnitReset (s : State) (v : Word) : State :=
  let u := fld v 15 0
  let i := fld v 23 16
  let s := s.modBlk (fun b =>
    let b := ((b.setReg (.err .ERR_UNIT_RESET) v).resetUnit u i).resetRegs u i
    { b with stopped := b.stopped.filter (fun k => k ≠ i <<< 16 + u) })
  if u = 0xE then s.modEvr (fun _ => .reset)
  else if u = 0xF then s.modSnap (fun _ => .reset)
  else s

end Sys2Proof.Machine
end

