-- ==== Sys2Proof/Machine/Read.lean ====
section
/-!
DEFINITION. What registers read (R491 to R494): which registers serve an instance, and the value of those that show the state of
their unit. Every other register reads its stored value.
-/

namespace Sys2Proof.Machine

/-! ### Which registers serve the instance (R7, R85, R145, R204, R279, R331, R411, R491) -/

/-- Whether a register exists in this configuration, role and licence; one that does not reads zero and ignores writes (R491). -/
def Blk.serves (s : Blk) : Reg → Bool
  | .prb _ => s.conf == .d
  | .tre _ => s.conf == .a64
  | .fea _ => s.conf == .a64
  | .ful _ => s.hasFuller
  | .tim (.TIM_PC_IN p) => s.stampPort p
  | .tim (.TIM_PC_EG p) => s.stampPort p
  | .rcp r => match r with
    | .RCP_ROUTE _ | .RCP_LQ _ | .RCP_HT_BASE_HI | .RCP_HT_BASE_LO | .RCP_HT_SIZE | .RCP_HT_MASK | .RCP_HT_WPTR
    | .RCP_HT_LAPS | .RCP_HT_DROP | .RCP_BL_BASE_HI | .RCP_BL_BASE_LO | .RCP_BL_SIZE | .RCP_BL_RSV | .RCP_BL_USED
    | .RCP_SHED_REC | .RCP_SHED_OTH => s.role == .die
    | .RCP_FW_BASE_HI | .RCP_FW_BASE_LO | .RCP_FW_SIZE | .RCP_FW_SPAN | .RCP_FW_OLDEST_HI | .RCP_FW_OLDEST_LO
    | .RCP_FW_NEXT_HI | .RCP_FW_NEXT_LO | .RCP_FW_FRZ_START_HI | .RCP_FW_FRZ_START_LO | .RCP_FW_FRZ_END_HI
    | .RCP_FW_FRZ_END_LO | .RCP_FW_ALM_T64_HI | .RCP_FW_ALM_T64_LO | .RCP_FW_FREEZE | .RCP_FW_RELEASE | .RCP_FW_ALMS
    | .RCP_FW_MISSED | .RCP_FW_SKIP | .RCP_FW_FRZ_EN_LO | .RCP_FW_FRZ_EN_HI => s.role == .tray
    | .RCP_HIST_BASE_HI | .RCP_HIST_BASE_LO | .RCP_HIST_SIZE | .RCP_HIST_QUOTA _ | .RCP_HIST_TURNS _ => s.role != .die
    | _ => true
  | .sku r => match r with
    | .SKU_LT_CTRL _ | .SKU_LT_TURN _ | .SKU_LT_MED_HI _ | .SKU_LT_MED_LO _ | .SKU_LT_COUNT _ | .SKU_LT_IQR _
    | .SKU_LT_OFS_HI _ | .SKU_LT_OFS_LO _ | .SKU_LT_CENS_CNT _ | .SKU_LT_STRAG_CNT _ => s.role == .tray
    | _ => true
  | .wsr r => match r with
    | .WSR_STAT | .WSR_SPAN_WAIT | .WSR_SPAN_HOLD | .WSR_BC_WAIT | .WSR_BC_HOLD | .WSR_REREACH_CNT | .WSR_LIST_CNT
    | .WSR_RD_DEPTH _ _ | .WSR_RD_PAR_A _ _ | .WSR_RD_PAR_B _ _ | .WSR_RD_CUT_HI _ _ | .WSR_RD_CUT_LO _ _ => s.role != .die
    | _ => true
  | .hlt r => match r with
    | .HLT_STRESS | .HLT_PAT_BASE_HI | .HLT_PAT_BASE_LO | .HLT_PAT_SIZE | .HLT_TEMP_MAP_LO _ | .HLT_TEMP_MAP_HI _
    | .HLT_ETYPE _ => s.role == .die
    | .HLT_GRD_ID | .HLT_GRD_CHUNKS | .HLT_GRD_EPOCH | .HLT_GRD_CEPOCH | .HLT_GRD_PAR_BASE_HI | .HLT_GRD_PAR_BASE_LO
    | .HLT_GRD_REBUILD | .HLT_GRD_RB_STAT | .HLT_GRD_RB_OUT_HI | .HLT_GRD_RB_OUT_LO | .HLT_GRD_MEM _ | .HLT_GRD_SRC_HI _
    | .HLT_GRD_SRC_LO _ | .HLT_GRD_SRC_LEN _ => s.role == .tray
    | _ => true
  | .pwr .PWR_CLAMP_SEL_LO => s.conf == .d
  | .pwr .PWR_CLAMP_SEL_HI => s.conf == .d
  | .boot (.BOOT_SITE_SPAN _) => s.role == .span
  | _ => true

/-- Whether a domain of posted writes is busy (R495, Table 17-3). -/
def Blk.domBusy (s : Blk) : Domain → Bool
  | .auth => s.trace.checking.isSome
  | .model n => (s.slot n).loading
  | .update => decide (s.fwc.upd = 1)
  | d => s.cp.busy.contains d

/-- Whether a buffered write of a register waits (R494). -/
def Blk.pend (s : Blk) (r : Reg) : Bool := (Store.look s.rwb (r.addr s.conf)).isSome

/-! ### Units -/

/-- Bits of flags, the first at bit 0. -/
def flagBits : List Bool → Nat
  | [] => 0
  | b :: t => b2n b + 2 * flagBits t

/-- Time unit (Tables 2-2, 2-3). -/
def Blk.liveTim (s : Blk) : TimReg → Option Word
  | .TIM_STAT => some (w32 (flagBits [s.timCtl 0, s.time.lock, s.time.hold, s.time.trefLost, s.time.bigofs, s.time.stepped,
      s.domBusy .time]))
  | .TIM_FRC_HI => some (hiOf s.time.frc.toNat)
  | .TIM_FRC_LO => some (loOf s.time.frc.toNat)
  | .TIM_T64_HI => some (hiOf s.t64.toNat)
  | .TIM_T64_LO => some (loOf s.t64.toNat)
  | .TIM_OFFSET_HI => some (w32 (s.time.offset.toNat >>> 64))
  | .TIM_OFFSET_LO => some (w32 (s.time.offset.toNat >>> 32))
  | .TIM_OFFSET_FRAC => some (w32 s.time.offset.toNat)
  | .TIM_RATE_HI => some (hiOf s.time.rate.toNat)
  | .TIM_RATE_LO => some (loOf s.time.rate.toNat)
  | .TIM_SERVO_Y => some (BitVec.ofInt 32 s.time.servoY)
  | .TIM_SERVO_I => some (BitVec.ofInt 32 s.time.servoI)
  | .TIM_HOLD_AGE => some (w32 (if s.time.hold then s.holdAge else 0))
  | .TIM_TSF_STAT => some (w32 (s.time.fifo.length + s.time.tsfDrop <<< 16 + s.time.tsfBad <<< 24))
  | .TIM_TSF_W0 => some (match s.time.fifo with | t :: _ => w32 (t.tag.toNat <<< 16 + (b2n t.egr) <<< 6 + t.port) | [] => 0)
  | .TIM_TSF_W1 => some (match s.time.fifo with | t :: _ => loOf t.t64.toNat | [] => 0)
  | .TIM_TSF_W2 => some (match s.time.fifo with | t :: _ => hiOf t.t64.toNat | [] => 0)
  | .TIM_LEAP_CTRL => some (s.reg (.tim .TIM_LEAP_CTRL) ||| w32 ((b2n s.time.leapDone) <<< 8 + (b2n s.time.leapErr) <<< 9))
  | _ => none

/-- Turn trackers (Table 2-5). -/
def Blk.liveTrn (s : Blk) : TrnReg → Option Word
  | .TRN_COUNT => some (w32 s.conf.trackers)
  | .TRN_STAT t =>
    let k := s.tracker t
    some (w32 (flagBits [s.trkEn t && !k.running, k.overrun, k.stall, k.hold] + (b2n (s.pend (.trn (.TRN_CTRL t)))) <<< 8 +
      (b2n ((List.range 8).any (fun n => s.pend (.trn (.TRN_ATn t n))))) <<< 9))
  | .TRN_TURN t => some (if (s.tracker t).running then (s.tracker t).turn else 0)
  | .TRN_ANGLE t => some (w32 (s.angle t))
  | .TRN_MSTAMP_HI t => some (hiOf (s.tracker t).mstamp.toNat)
  | .TRN_MSTAMP_LO t => some (loOf (s.tracker t).mstamp.toNat)
  | .TRN_PRED_HI t => some (hiOf (s.tracker t).pred)
  | .TRN_PRED_LO t => some (loOf (s.tracker t).pred)
  | .TRN_LASTDUR_HI t => some (hiOf (s.tracker t).lastDur)
  | .TRN_LASTDUR_LO t => some (loOf (s.tracker t).lastDur)
  | _ => none

/-- Probe array (Table 3-6): the high words of live counters read the counter (R97). -/
def Blk.livePrb (s : Blk) : PrbReg → Option Word
  | .PRB_CFG => some (w32 (s.inst.analogs <<< 24 + s.inst.lanes <<< 16 + s.inst.channels))
  | .PRB_STAT => some (w32 (flagBits [s.prb.rdyLow, decide (4096 ≤ s.prb.smpBuf.length), s.domBusy .sensor] +
      s.prb.pairs.length <<< 16))
  | .PRB_Gg_STAT g => some (w32 (flagBits ((List.range 8).map (fun k => s.pend (.prb (.PRB_Gg_SELc g k))) ++
      [s.pend (.prb (.PRB_Gg_LATCH g))])))
  | .PRB_Gg_FIX_HI g => some (hiOf (s.counter g 8))
  | .PRB_Gg_FIX_LO g => some (loOf (s.counter g 8))
  | .PRB_Gg_CNTc_HI g k => some (hiOf (s.counter g k))
  | .PRB_Gg_CNTc_LO g k => some (loOf (s.counter g k))
  | .PRB_SMP_STAT => some (w32 s.prb.smpBuf.length)
  | .PRB_DIG_STAT => some (w32 s.prb.digests.length)
  | _ => none

/-- FW_SHORT (R133): a tray whose window spans less than 8 s. -/
def Blk.fwShort (s : Blk) : Bool :=
  s.role == .tray && decide (fld (s.reg (.rcp .RCP_FW_SIZE)) 9 0 ≠ 0 ∧ s.fwSpan < 8000)

/-- Record path (Table 4-12). -/
def Blk.liveRcp (s : Blk) : RcpReg → Option Word
  | .RCP_CFG => some (w32 (roleCode s.role))
  | .RCP_STAT => some (w32 (flagBits [s.rcp.shed, s.rcp.htFull, s.rcp.fwClosing, s.rcp.fwFrozen, s.fwShort,
      s.rcp.fwFrzShort]))
  | .RCP_BL_USED => some (w32 (s.blUsed / 1024))
  | .RCP_FW_SPAN => some (w32 s.fwSpan)
  | .RCP_FW_OLDEST_HI => some (hiOf (match s.rcp.fwEnts with | e :: _ => e.off | [] => s.rcp.fwNext))
  | .RCP_FW_OLDEST_LO => some (loOf (match s.rcp.fwEnts with | e :: _ => e.off | [] => s.rcp.fwNext))
  | .RCP_FW_NEXT_HI => some (hiOf s.rcp.fwNext)
  | .RCP_FW_NEXT_LO => some (loOf s.rcp.fwNext)
  | .RCP_HIST_TURNS c => some (w32 (Store.get [] s.rcp.hist c).length)
  | _ => none

/-- Core trace (Table 4-13). -/
def Blk.liveCtr (s : Blk) : CtrReg → Option Word
  | .CTR_CFG => some (w32 s.conf.traceBufs)
  | .CTR_AUTH_GRANT => some (w32 s.trace.grants.toNat)
  | .CTR_STAT b =>
    let v := s.tbuf b
    some (w32 (flagBits [v.active, v.full, v.nap] +
      flagBits ((List.range 8).map (fun i => (s.tsrc b i).excl || s.coreExcl b i)) <<< 8))
  | .CTR_OVF_CNT b => some (w32 (s.tbuf b).ovf)
  | .CTR_WPTR b => some (w32 (s.tbuf b).wptr)
  | .CTR_LAPS b => some (w32 (s.tbuf b).laps)
  | _ => none

/-- STATE and SLOT of a context (Table 5-13). -/
def Blocked.code : Blocked → Nat × Nat
  | .no => (1, 0)
  | .recv i _ => (2, i)
  | .send i _ => (3, i)
  | .waita .. => (4, 0)
  | .waitt .. => (4, 0)
  | .waitb .. => (4, 0)
  | .passed .. => (4, 0)
  | .launch .. => (5, 0)
  | .fence => (6, 0)
  | .faulted => (7, 0)

/-- tclk for which a context has been blocked since its last count. -/
def Blk.blkNow (s : Blk) (x : Ctx) : Nat := match x.blocked with | .no => 0 | .faulted => 0 | _ => s.tclk - x.blockAt

/-- Dexey engines (Tables 5-12, 5-13). -/
def Blk.liveDxe (s : Blk) : DxeReg → Option Word
  | .DXE_CFG => some (match s.conf with | .d => w32 (1 <<< 16 + 16) | .a64 => w32 (256 <<< 16 + 4))
  | .DXE_CTX_USED => some (w32 s.ctxs.length)
  | .DXE_CXc_STAT c => some (match Store.look s.ctxs c with
    | none => 0
    | some x => w32 (1 <<< 31 + x.blocked.code.1 <<< 28 + x.coll <<< 22 + (b2n x.inHandler) <<< 21 +
        x.blocked.code.2 <<< 16 + x.inst % 65536))
  | .DXE_CXc_PC c => some (match Store.look s.ctxs c with | none => 0 | some x => w32 x.pc)
  | .DXE_CXc_RET_HI c => some (match Store.look s.ctxs c with | none => 0 | some x => hiOf x.retired)
  | .DXE_CXc_RET_LO c => some (match Store.look s.ctxs c with | none => 0 | some x => loOf x.retired)
  | .DXE_CXc_BLK c => some (match Store.look s.ctxs c with
    | none => s.reg (.dxe (.DXE_CXc_BLK c))
    | some x => satAdd (s.reg (.dxe (.DXE_CXc_BLK c))) (s.blkNow x))
  | _ => none

/-- Bytes 0 to 3 of a lateness block (Table 8-5). -/
def LateCfg.head (g : LateCfg) : Nat :=
  128 + g.mode <<< 5 + g.rref + g.rlp <<< 8 + g.rln <<< 16 + g.rofs <<< 24

/-- Sketch units (Table 8-8). -/
def Blk.liveSku (s : Blk) : SkuReg → Option Word
  | .SKU_CFG => some (match s.conf with | .d => 1 | .a64 => w32 (64 + 256))
  | .SKU_LT_CTRL c => some (match (s.coll c).late with | some g => if s.collRuns c then w32 g.head else 0 | none => 0)
  | _ => none

/-- The oldest open turn of a reduction at this node. -/
def Blk.oldestTurn (s : Blk) (c r : Nat) (v : Reduction) : Option (Word × RTurn) :=
  ((s.turnsUp c r).filterMap (fun n => (Store.look v.turns n.toNat).map (fun t => (n, t)))).find? (fun p =>
    if s.role = .span then !p.2.handed else !s.turnDone c v p.1 p.2)

/-- The next cut of the oldest open turn (R235): 0 while there is none. -/
def Blk.nextCut (s : Blk) (c r : Nat) (v : Reduction) : Nat :=
  match s.oldestTurn c r v with
  | some (n, t) =>
    (match t.base with
      | some b =>
        let (d, a, e) := s.cuts c v n b
        let later := [d, a, e].filter (fun x => decide ((s.t64.toNat : Int) < x))
        (match later with
          | x :: l => (l.foldl min x).toNat
          | [] => 0)
      | none => 0)
  | none => 0

/-- The registers of one reduction (R247, Table 7-5). -/
def Blk.liveRed (s : Blk) (c r : Nat) (f : Reduction → Nat) : Option Word :=
  some (match s.reduction c r with | some v => if s.collRuns c then w32 (f v) else 0 | none => 0)

/-- Parent of this tray in a tree as a register: all ones at the crown. -/
def Blk.parWord (s : Blk) (c : Nat) (b : Bool) : Nat :=
  let ps := s.treeOf c (s.turnOf c)
  if s.role ≠ .tray ∨ !ps.contains s.place then 0
  else match parentIn ps b s.place with | some p => p.toNat | none => 0xFFFFFFFF

/-- Wide-sum reducers (Table 7-5). -/
def Blk.liveWsr (s : Blk) : WsrReg → Option Word
  | .WSR_CFG => some (w32 (b2n (s.conf == .a64) + 4 <<< 8 + 16 <<< 16))
  | .WSR_STAT => some (w32 (flagBits [!s.red.leadOf.isEmpty, s.red.reds.any (fun p => p.2.turns.any (fun t =>
      match t.2.list with | some l => !t.2.listHeld l | none => false))]))
  | .WSR_RD_CTRL c r => s.liveRed c r (fun v => r + (b2n v.dies) <<< 5 + v.scope <<< 6 + v.nel <<< 8 + v.split <<< 16)
  | .WSR_RD_DLINE c r => s.liveRed c r (·.dline)
  | .WSR_RD_HOP c r => s.liveRed c r (·.hop)
  | .WSR_RD_EXP c r => s.liveRed c r (·.exp)
  | .WSR_RD_DEPTH c r => s.liveRed c r (fun v =>
      if s.role ≠ .tray ∨ v.scope = 1 then 0 else
      let ps := s.treeOf c (s.turnOf c)
      depthIn ps false s.place <<< 8 + depthIn ps true s.place)
  | .WSR_RD_PAR_A c r => s.liveRed c r (fun v => if v.scope = 1 then 0 else s.parWord c false)
  | .WSR_RD_PAR_B c r => s.liveRed c r (fun v => if v.scope = 1 then 0 else s.parWord c true)
  | .WSR_RD_OPEN c r => s.liveRed c r (fun v => match s.oldestTurn c r v with | some p => p.1.toNat | none => 0)
  | .WSR_RD_LAST c r => s.liveRed c r (·.lastTurn.toNat)
  | .WSR_RD_CUT_HI c r => s.liveRed c r (fun v => s.nextCut c r v / 2 ^ 32)
  | .WSR_RD_CUT_LO c r => s.liveRed c r (fun v => s.nextCut c r v)
  | .WSR_RD_PRES_A c r => s.liveRed c r (·.lastA)
  | .WSR_RD_PRES_B c r => s.liveRed c r (·.lastB)
  | .WSR_RD_MISS c r => s.liveRed c r (fun v => min v.lastMiss 65535 + (b2n v.lastTrunc) <<< 16)
  | _ => none

/-- Whether the licence in force has tree units. -/
def Blk.hasTrees (s : Blk) : Bool := s.conf == .a64 && (match s.lic.force with | some l => l.tree | none => false)

/-- Tree units (Tables 9-9, 9-11). -/
def Blk.liveTre (s : Blk) : TreReg → Option Word
  | .TRE_CFG => some (w32 ((if s.hasTrees then 64 else 0) + 16 <<< 8 + 2048 <<< 16))
  | .TRE_PAIRS_HI => some (hiOf s.tre.pairs)
  | .TRE_PAIRS_LO => some (loOf s.tre.pairs)
  | .TRE_FREE_MIN => some (w32 s.treeFreeMin)
  | .TRE_En_STAT n =>
    let v := s.slot n
    some (w32 (flagBits [v.loading, v.ready, v.active.isSome, v.missed] + (v.lstat % 16) <<< 4))
  | .TRE_En_VER n => some (s.slot n).ver
  | .TRE_En_ID n => some (match (s.slot n).active with | some e => e.modelId | none => 0)
  | .TRE_En_SID n => some (match (s.slot n).stagedNow with | some e => e.modelId | none => 0)
  | .TRE_En_SHAPE n => some (match (s.slot n).active with
    | some e => w32 ((e.ntrees - 1) <<< 16 + e.depth <<< 8 + e.scale.toNat)
    | none => 0)
  | _ => none

/-- A register of a collection's feature table: zero while it holds none (R311). -/
def Blk.liveTab (s : Blk) (c : Nat) (f : FTable → Nat) : Option Word :=
  some (match s.ftable c with | some t => w32 (f t) | none => 0)

/-- Feature table (Table 9-12). -/
def Blk.liveFea (s : Blk) : FeaReg → Option Word
  | .FEA_CFG => some (w32 (65536 + (b2n s.hasTrees) <<< 31))
  | .FEA_USED => some (w32 ((s.tre.tables.map (fun p => (p.2.held.map Prod.snd).sum)).sum / 1024))
  | .FEA_Tc_NENT c => s.liveTab c (·.dir.length)
  | .FEA_Tc_NFEAT c => s.liveTab c (fun t => t.nstat <<< 16 + t.nfeat)
  | .FEA_Tc_NPOOL c => s.liveTab c (·.npool)
  | .FEA_Tc_STAT c => s.liveTab c (fun t => b2n t.reload.isSome + (b2n (s.pend (.fea (.FEA_Tc_RELOAD c)))) <<< 1 +
      (b2n (decide (t.npool < t.dir.length))) <<< 2)
  | .FEA_Tc_RELOAD c => if (s.ftable c).isNone then some 0 else none
  | .FEA_Tc_MISS c => if (s.ftable c).isNone then some 0 else none
  | .FEA_Tc_TMIS c => if (s.ftable c).isNone then some 0 else none
  | .FEA_Tc_FSTRO c => if (s.ftable c).isNone then some 0 else none
  | .FEA_Tc_STMISS c => if (s.ftable c).isNone then some 0 else none
  | .FEA_Tc_SPILLRD c => if (s.ftable c).isNone then some 0 else none
  | .FEA_Tc_POI c => if (s.ftable c).isNone then some 0 else none
  | _ => none

/-- Fuller engines (Table 10-6). -/
def Blk.liveFul (s : Blk) : FulReg → Option Word
  | .FUL_CFG => some (w32 (8 + 1024 <<< 16))
  | .FUL_STAT => some (w32 (flagBits ((List.range 8).map (fun e => (s.fulEngine e).job.isSome)) +
      (min s.ful.queue.length 65535) <<< 16))
  | .FUL_IN_HI => some (hiOf s.ful.inB)
  | .FUL_IN_LO => some (loOf s.ful.inB)
  | .FUL_OUT_HI => some (hiOf s.ful.outB)
  | .FUL_OUT_LO => some (loOf s.ful.outB)
  | .FUL_Ee_STAT e => some (match (s.fulEngine e).job with
    | none => 0
    | some j => w32 (1 <<< 31 + (b2n j.ful.pack) <<< 30 + (b2n j.ful.defl) <<< 29 + (if j.hist.isSome then 0x3F else j.coll) <<< 16 + j.ctx % 1024))
  | .FUL_Ee_BUSYT e =>
    let v := s.fulEngine e
    some (satAdd (s.reg (.ful (.FUL_Ee_BUSYT e))) (if v.job.isSome then s.tclk - v.since else 0))
  | _ => none

/-- The flow context that QSC_FC_SEL selects. -/
def Blk.selFlow (s : Blk) : Option Flow := Store.look s.qsc.flows (s.reg (.qsc .QSC_FC_SEL)).toNat

/-- Queue scheduler (Table 11-3). -/
def Blk.liveQsc (s : Blk) : QscReg → Option Word
  | .QSC_CFG => some (match s.conf with
    | .d => w32 (256 + 10 <<< 16 + 4 <<< 24) | .a64 => w32 (16384 + 16 <<< 16 + 8 <<< 24))
  | .QSC_STAT => some (w32 (flagBits [s.spillFull, s.qsc.skew]))
  | .QSC_SPILL_USED => some (w32 (s.spillUsed / 2 ^ 20))
  | .QSC_SPILL_BYTES_HI => some (hiOf s.qsc.spillBytes)
  | .QSC_SPILL_BYTES_LO => some (loOf s.qsc.spillBytes)
  | .QSC_FC_STAT => some (match s.selFlow with
    | some x => w32 (1 <<< 31 + (b2n x.recv) <<< 30 + x.cls <<< 27 + x.peerRole <<< 25 + x.port <<< 24) | none => 0)
  | .QSC_FC_PEER => some (match s.selFlow with | some x => x.peer | none => 0)
  | .QSC_FC_SENT => some (match s.selFlow with | some x => x.sent | none => 0)
  | .QSC_FC_LIMIT => some (match s.selFlow with | some x => if x.recv then x.advLimit else x.limit | none => 0)
  | .QSC_Qq_DEPTH q => some (w32 (min (if s.qCls q ≤ 2 then (s.q q).depthNow else (s.q q).depth) (2 ^ 24 - 1)))
  | .QSC_Qq_DELAY q => some (w32 (if s.qCls q ≤ 2 then 0 else min (s.q q).delay 0xFFFFFFFF))
  | .QSC_Qq_HWM q => some (w32 (min ((s.q q).hwmDepth / 16) 65535 + (min ((s.q q).hwmDelay / 1000) 65535) <<< 16))
  | _ => none

/-- Error unit (Table 12-10). -/
def Blk.liveErr (s : Blk) : ErrReg → Option Word
  | .ERR_Cc_STAT c =>
    let v := s.coll c
    let st := if v.st ≠ .running then 0 else if v.held then 3 else if v.restarting then 2 else 1
    some (w32 (st <<< 29 + min (s.rstsNow c).length 255))
  | _ => none

/-- Health unit (Table 13-7). -/
def Blk.liveHlt (s : Blk) : HltReg → Option Word
  | .HLT_STAT => some (w32 (flagBits [s.hlt.fencedSelf, s.hlt.grdInvalid, s.hlt.grdLost, s.hlt.m0Down, s.hlt.m1Down, s.hlt.wlFull,
      s.hlt.manual.isSome || s.hlt.tests.any (fun p => p.2.v || p.2.f), s.domBusy .flash]))
  | .HLT_RSEQ => some s.hlt.rseq
  | .HLT_WL_COUNT => some (w32 s.hlt.watch.length)
  | .HLT_GRD_CEPOCH => some s.hlt.cepoch
  | _ => none

/-- STATE of a firmware core (Table 14-7). -/
def CoreSt.code : CoreSt → Nat
  | .off => 0 | .boot => 1 | .run => 2 | .restart => 3 | .handover => 4 | .held => 5

/-- Firmware complex (Table 14-7). -/
def Blk.liveFwc (s : Blk) : FwcReg → Option Word
  | .FWC_CFG => some (w32 s.conf.clusters)
  | .FWC_STAT => some (w32 (flagBits [s.fwc.vref, s.fwc.armed.isSome, s.fwc.cores.any (fun p => p.2.st == .handover)]))
  | .FWC_SVN_MIN => some s.fwc.svnMin
  | .FWC_UPD_STAT => some (w32 (s.fwc.upd + s.fwc.updCore <<< 8))
  | .FWC_COREx_STAT x =>
    let v := s.fcore x
    some (w32 (v.st.code + (b2n v.onPrev) <<< 3 + (min (s.crashesIn x) 255) <<< 8))
  | .FWC_COREx_IMG x => some (s.fcore x).img
  | _ => none

/-- Power unit (Table 14-8). -/
def Blk.livePwr (s : Blk) : PwrReg → Option Word
  | .PWR_STAT => some (w32 (flagBits [s.pwr.emerg, s.clamped, s.pwr.pcLost]))
  | .PWR_WAKE_Q => some (w32 s.pwr.wakeQ.length)
  | .PWR_CLk_STAT k =>
    let c := s.clu k
    some (w32 (c.opp + flagBits [c.nap, c.clampAt.isSome, c.disabled] <<< 3 + c.chosen <<< 8))
  | .PWR_CLk_TEMP k => some (w32 (s.clu k).temp.toNat)
  | _ => none

/-- LIC_STAT (Table 14-10): D reads VALID with role die (R432). -/
def Blk.licStat (s : Blk) : Nat :=
  match s.conf with
  | .d => 1 + roleCode .die <<< 2
  | .a64 =>
    b2n s.lic.newer <<< 1 + (b2n s.lic.degraded) <<< 10 + (match s.lic.force with
      | none => 0
      | some l => 1 + roleCode l.role <<< 2 + flagBits [l.tree, l.ful, l.lh] <<< 4 +
          (if l.clus = 64 then 2 else if l.clus = 32 then 1 else 0) <<< 8)

/-- Licence unit (Table 14-10). -/
def Blk.liveLic (s : Blk) : LicReg → Option Word
  | .LIC_STAT => some (w32 s.licStat)
  | .LIC_SERIAL => some (match s.lic.force with | some l => l.serial | none => 0)
  | .LIC_LOGICAL => some (match s.conf with | .d => w32 (1 + 1 <<< 8) | .a64 => w32 (s.lic.logical + s.lic.good <<< 8))
  | .LIC_DEVID i => some (w32 (s.inst.devId.toNat >>> (32 * i)))
  | .LIC_PHYS i => some (w32 (if i < s.lic.logical then s.physOf i else 0))
  | _ => none

/-- Bring-up unit (Table 15-7). -/
def Blk.liveBoot (s : Blk) : BootReg → Option Word
  | .BOOT_STAT => some (w32 (s.boot.stage + s.boot.result <<< 4 +
      flagBits [s.boot.ready, s.boot.waitGo, s.boot.rerunRef] <<< 8))
  | .BOOT_PART => some (s.reg (.boot .BOOT_PART) ||| w32 (roleCode s.role <<< 16))
  | .BOOT_TRAIN =>
    let full := fun (p : Nat → Bool) => s.boot.trains.any (fun t => p t.1 && t.2.done && t.2.full)
    some (w32 (flagBits [full (· < 4), full (· == 4), full (· == 5)] + (b2n s.boot.recWritten) <<< 8))
  | .BOOT_PRIMARY => match s.role, s.boot.primary with
    | .span, some p => some p.1
    | _, _ => none
  | .BOOT_Cc_STAT c =>
    let v := s.coll c
    let st := match v.st with | .idle => 0 | .starting => 1 | .running => 2 | .tearing => 3
    let g := if v.st = .idle then fld (s.reg (.boot (.BOOT_Cc_LASTGEN c))) 15 0 else v.gen.toNat
    some (w32 (st <<< 29 + g))
  | _ => none

/-- Control port interface (Table 17-6); CPI_PEND is the reader's own and is read in Machine/Port.lean. -/
def Blk.liveCpi (s : Blk) : CpiReg → Option Word
  | .CPI_CFG => some (w32 ((match s.conf with | .d => 4 | .a64 => 64 + 256) + roleCode s.role <<< 16 + 0xF <<< 20))
  | .CPI_PROD => some (w32 (0x544C <<< 16 + (match s.conf with | .d => 1 | .a64 => 2)))
  | _ => none

/-- The value that a register of the units shows, where it shows state. -/
def Blk.live (s : Blk) : Reg → Option Word
  | .cpi r => s.liveCpi r
  | .tim r => s.liveTim r
  | .trn r => s.liveTrn r
  | .prb r => s.livePrb r
  | .rcp r => s.liveRcp r
  | .dxe r => s.liveDxe r
  | .sku r => s.liveSku r
  | .wsr r => s.liveWsr r
  | .tre r => s.liveTre r
  | .fea r => s.liveFea r
  | .ful r => s.liveFul r
  | .err r => s.liveErr r
  | .hlt r => s.liveHlt r
  | .fwc r => s.liveFwc r
  | .pwr r => s.livePwr r
  | .lic r => s.liveLic r
  | .boot r => s.liveBoot r
  | .snp _ => none
  | .evr _ => none
  | .ctr r => s.liveCtr r
  | .qsc r => s.liveQsc r

/-- What a register of the units reads: its state, the value staged of a buffered write (R493), or its stored value. -/
def Blk.readReg (s : Blk) (r : Reg) : Word :=
  match s.live r with
  | some v => v
  | none => match Store.look s.rwb (r.addr s.conf) with
    | some (v, _) => v
    | none => s.reg r

/-! ### Recorder and snapshots (Tables 12-11, 12-12) -/

/-- Event recorder. -/
def State.liveEvr (s : State) : EvrReg → Option Word
  | .EVR_CFG => some (w32 (s.blk.conf.codeSlots + 256 <<< 16))
  | .EVR_STAT => some (w32 (flagBits [s.evr.flush.isSome, s.evr.flushedPw, s.evr.flushErr]))
  | .EVR_WPTR => some (w32 (s.evr.wcount % 8192))
  | .EVR_LAPS => some (w32 (s.evr.wcount / 8192))
  | .EVR_WCOUNT => some (w32 s.evr.wcount)
  | .EVR_SUPP_TOT => some s.evr.suppTot
  | .EVR_FLUSH_SEQ => some (w32 s.evr.flushSeq)
  | .EVR_SLi_SUPP i => some (w32 (min (Store.get Bucket.full s.evr.buckets i).pend 0xFFFFFF))
  | _ => none

/-- Snapshot network. -/
def State.liveSnp (s : State) : SnpReg → Option Word
  | .SNP_STAT => some (w32 (if s.snap.frozen then 1 + (match s.snap.set with | some l => l.src | none => 0) <<< 4 else 0))
  | .SNP_T64_HI => some (match s.snap.set with | some l => hiOf l.t64.toNat | none => 0)
  | .SNP_T64_LO => some (match s.snap.set with | some l => loOf l.t64.toNat | none => 0)
  | .SNP_ARG => some (match s.snap.set with | some l => l.arg | none => 0)
  | .SNP_IGN => some (w32 (min s.snap.ign 0xFFFFFFFF))
  | .SNP_CNT => some (w32 s.snap.cnt)
  | .SNP_TRKt_TURN t => some (match s.snap.set with
    | some l => if (l.blk.tracker t).running then (l.blk.tracker t).turn else 0 | none => 0)
  | .SNP_TRKt_ANGLE t => some (match s.snap.set with
    | some l => w32 (l.blk.angle t + (b2n (l.blk.trkEn t && !(l.blk.tracker t).running)) <<< 16) | none => 0)
  | .SNP_SKEW u => some (match s.snap.set with | some l => w32 (Store.get 0 l.skew u) | none => 0)
  | _ => none

/-- What any register reads, CPI_PEND apart. -/
def State.readReg (s : State) (r : Reg) : Word :=
  match r with
  | .evr e => (match s.liveEvr e with | some v => v | none => s.blk.reg r)
  | .snp e => (match s.liveSnp e with | some v => v | none => s.blk.reg r)
  | _ => s.blk.readReg r

/-- The latched set as a state, whose registers the snapshot copies show; the network's own copy shows the set just latched (DESIGN
CHOICE, log 44). -/
def Latched.asState (l : Latched) : State :=
  { pending := [], blk := l.blk, evr := l.evr, snap := { set := some l, frozen := true, ign := l.ign, cnt := l.cnt } }

end Sys2Proof.Machine
end

