-- ==== Sys2Proof/Machine/Port.lean ====
section
/-!
DEFINITION. The control port (R370, R466, R467, R489 to R509): how an access is checked, answered and logged, what a write does
by the register's access code, guarded pairs, the bit-alias window and the read-only windows.
-/

namespace Sys2Proof

/-- The level of an access: 0b00 is taken as L3 (R466). -/
def Access.level (a : Access) : Nat := if a.lvl % 4 = 0 then 3 else a.lvl % 4

/-- The initiator's number. -/
def Access.ini (a : Access) : Nat := a.init % 16

/-- Whether the initiator writes with every permission of the operator. -/
def Access.op (a : Access) : Bool := decide (a.level ≤ 1)

end Sys2Proof

namespace Sys2Proof.Machine

/-! ### Privilege (R504 to R506) -/

/-- Tenant of an initiator at L2 (R505). -/
def Blk.tenant (s : Blk) (a : Access) : Nat := fld (s.reg (.cpi (.CPI_INIT_TEN a.ini))) 7 0

/-- Whether a tenant owns a collection: 0xFF and 0xFE are no tenant's (R505). -/
def Blk.ownsColl (s : Blk) (ten c : Nat) : Bool :=
  let o := fld (s.reg (.cpi (.CPI_Cc_OWNER c))) 7 0
  decide (c < s.conf.colls ∧ o = ten ∧ o < 0xFE)

/-- Collections bound to a tracker (R81): from their start until their teardown. -/
def Blk.boundColls (s : Blk) (t : Nat) : List Nat :=
  (Store.keys s.colls).filter (fun c => decide ((s.coll c).trk = t) &&
    s.collRuns c)

/-- Whether a tenant owns something (R81, R505). -/
def Blk.owns (s : Blk) (ten : Nat) : Own → Bool
  | .coll c => s.ownsColl ten c
  | .tracker t => !(s.boundColls t).isEmpty && (s.boundColls t).all (s.ownsColl ten)
  | .group g => s.ownsColl ten (s.gOwner g)
  | .sampler => s.ownsColl ten (fld (s.reg (.prb .PRB_SMP_CTRL)) 15 8)
  | .slot n => s.ownsColl ten (fld (s.reg (.tre (.TRE_En_CTRL n))) 7 0)
  | .buf b => s.ownsColl ten (fld (s.reg (.ctr (.CTR_OWN b))) 7 0)
  | .queue q => s.ownsColl ten (s.qOwner q)
  | .ctx c => match Store.look s.ctxs c with | some x => s.ownsColl ten x.coll | none => false

/-- Whether an access holds a required level (R504). -/
def Blk.permits (s : Blk) (a : Access) : Perm → Bool
  | .upTo n => decide (a.level ≤ n)
  | .owner o => a.op || (decide (a.level = 2) && s.owns (s.tenant a) o)
  | .init i => a.op || decide (a.ini = i)

/-- BOOT_Cc_CA_ registers are written at L2 by the tenant that prepares the allocation (R463): while the collection has an L2
owner, by that tenant alone (DESIGN CHOICE, log 45). -/
def Blk.permitsCa (s : Blk) (a : Access) (c : Nat) : Bool :=
  let o := fld (s.reg (.cpi (.CPI_Cc_OWNER c))) 7 0
  a.op || (decide (a.level = 2) && (decide (o = 0xFE) || s.ownsColl (s.tenant a) c))

/-- Whether an access may read or write a register. -/
def Blk.allows (s : Blk) (a : Access) (we : Bool) (r : Reg) : Bool :=
  if !we then s.permits a (r.info s.conf).rd else
  match r with
  | .boot (.BOOT_Cc_CA_BASE_HI c) => s.permitsCa a c
  | .boot (.BOOT_Cc_CA_BASE_LO c) => s.permitsCa a c
  | .boot (.BOOT_Cc_CA_SIZE c) => s.permitsCa a c
  | .boot (.BOOT_Cc_CA_GEN c) => s.permitsCa a c
  | _ => s.permits a (r.info s.conf).wr

/-! ### What lies at an address (R489 to R491) -/

/-- What an access reaches: a register, a word of a read-only window, or nothing. -/
inductive Target where
  | reg (r : Reg) | win (p : Perm) (w : Word) | none
  deriving DecidableEq, Repr

/-- The windows that lie outside the registers: the event ring (R374), the trace buffers' data (R144, R146), and the snapshot
copies of the RO and RC registers at offsets below 0x1000 of each unit (R379). -/
def State.windowAt (s : State) (a : Nat) : Target :=
  if 0x300000 ≤ a ∧ a < 0x340000 then
    .win (.upTo 1) (w32 ((Store.get 0 s.evr.ring ((a - 0x300000) / 32)).toNat >>> (8 * (a % 32))))
  else if 0x340000 ≤ a ∧ (a - 0x340000) / 0x10000 < s.blk.conf.traceBufs then
    let b := (a - 0x340000) / 0x10000
    let o := (a - 0x340000) % 0x10000
    if o < s.blk.tbSize then
      .win (.owner (.buf b)) (if (s.blk.tbuf b).nap then 0 else w32 (leNat (Mem.rdN (s.blk.tbuf b).bytes o 4)))
    else .none
  else if 0x150000 ≤ a ∧ a < 0x170000 then
    let o := (a - 0x150000) % 0x1000
    match (unitRegion ((a - 0x150000) / 0x1000)).1 with
    | 0 => .none
    | base => match Reg.at s.blk.conf (base + o) with
      | none => .none
      | some r => match (r.info s.blk.conf).acc with
        | .ro | .rc => .win (r.info s.blk.conf).rd (match s.snap.set with
            | some l => if l.blk.serves r then l.asState.readReg r else 0
            | none => 0)
        | _ => .none
  else .none

/-- What lies at a byte address of the window. -/
def State.target (s : State) (a : Nat) : Target :=
  match Reg.at s.blk.conf a with
  | some r => if s.blk.serves r then .reg r else .none
  | none => s.windowAt a

/-- The guarded register whose complement address this is (R501, R502). -/
def State.guardedAt (s : State) (a : Nat) : Option Reg :=
  if a < 0x800 then none else
  match s.target (a - 0x800) with
  | .reg r => if (r.info s.blk.conf).acc = .wg then some r else none
  | _ => none

/-! ### Refusals by value (R17, R370, R432, R509) -/

/-- A direct write that receives NAK_ADDR for its value: a place address with bits [31:28] set, a host event code below 0xC000,
LIC_INSTALL in D. -/
def Blk.badValue (s : Blk) (r : Reg) (v : Word) : Bool :=
  match r with
  | .boot .BOOT_PLACE => !placeOk false v
  | .boot .BOOT_PARENT => !placeOk true v
  | .boot (.BOOT_SITE_SPAN _) => !placeOk true v
  | .hlt (.HLT_GRD_MEM _) => !placeOk false v
  | .evr .EVR_INJ_CODE => decide (fld v 15 0 < 0xC000)
  | .lic .LIC_INSTALL => s.conf == .d
  | _ => false

/-- Whether a write of QSC_Qq_CFG by host software changes something that is not its own to change (R354). -/
def Blk.qCfgBad (s : Blk) (q : Nat) (v : Word) : Bool :=
  let old := s.qCfg q
  let d := (v &&& 0xFFFF3FFF) ^^^ old
  decide (d ≠ 0) && (decide (d ≠ 0x20000000) || !s.qEn q || decide (s.qCls q ≤ 2))

/-- Whether a value is one that the register's chapter refuses, leaving it or a field of it unchanged (R509). -/
def Blk.refusesVal (s : Blk) (a : Access) (r : Reg) (v : Word) : Bool :=
  match r with
  | .cpi (.CPI_BA_BASE _) => decide ((v &&& 0x3FFF800).toNat < 0x10000)
  | .trn (.TRN_CTRL _) => !(decide (fld v 1 0 = 0 ∨ (fld v 1 0 = 1 ∧ s.conf = .d) ∨ (fld v 1 0 = 2 ∧ s.conf = .a64)))
  | .prb (.PRB_Gg_CTRL g) =>
    let o := fld v 15 8
    !(decide (o = s.gOwner g) || (a.op && decide (o < 16 ∨ o = 0xFE ∨ o = 0xFF)))
  | .prb .PRB_SMP_CTRL =>
    let o := fld v 15 8
    !(decide (o = fld (s.reg (.prb .PRB_SMP_CTRL)) 15 8) || (a.op && decide (o < 16 ∨ o = 0xFE)))
  | .rcp (.RCP_LQ c) =>
    let q := fld v 7 0
    !(s.qEn q && !s.qEgress q && decide (s.qOwner q = c))
  | .tre (.TRE_En_CTRL _) => !(decide (fld v 7 0 < 64 ∨ fld v 7 0 = 0xFE))
  | .fea .FEA_AREA => !s.tre.tables.isEmpty || decide (96 < fld v 6 0)
  | .ful .FUL_CTRL => decide (8 < fld v 11 8)
  | .qsc .QSC_QSTORE => s.conf == .a64 && !s.qList.isEmpty
  | .qsc (.QSC_Qq_CFG q) => s.qCfgBad q v
  | .boot .BOOT_TD => !(s.tdGo v a.level (s.tenant a)).1
  | _ => false

/-! ### What a write does (R492, R493, R495, R498) -/

/-- A write to a register of the bring-up unit or of the control port interface. -/
def Blk.writeBoot (s : Blk) (a : Access) (r : BootReg) (v m : Word) : Blk :=
  match r with
  | .BOOT_GO => s.wrBootGo v
  | .BOOT_CS_GO => if bit v 0 then s.csGo a.level (s.tenant a) else s
  | .BOOT_TD =>
    let (ok, t) := s.tdGo v a.level (s.tenant a)
    if ok then t.setReg (.boot .BOOT_TD) m else s.refused (.boot .BOOT_TD) v
  | _ => s.setReg (.boot r) m

/-- Control port interface: a change of an initiator's tenant releases a first write that it holds (R506). -/
def Blk.writeCpi (s : Blk) (r : CpiReg) (v m : Word) : Blk :=
  match r with
  | .CPI_BA_BASE _ => if m.toNat < 0x10000 then s.refused (.cpi r) v else s.setReg (.cpi r) m
  | .CPI_INIT_TEN i =>
    let s := if s.reg (.cpi r) = m then s else { s with cp := { s.cp with first := Store.del s.cp.first i } }
    s.setReg (.cpi r) m
  | _ => s.setReg (.cpi r) m

/-- Time unit: every posted register sets the BUSY of the time domain (R495). -/
def Blk.writeTim (s : Blk) (r : TimReg) (v m : Word) : Blk :=
  match r with
  | .TIM_CTRL => (s.wrTimCtrl v).setBusy .time
  | .TIM_RATE_NOM_HI => (s.wrRateNom true v).setBusy .time
  | .TIM_RATE_NOM_LO => (s.wrRateNom false v).setBusy .time
  | .TIM_SERVO_OFS_LO => (s.wrServoOfs v).setBusy .time
  | .TIM_LEAP_AT_LO => (s.wrLeapAt v).setBusy .time
  | .TIM_LEAP_CTRL => (s.wrLeapKind v).setBusy .time
  | .TIM_EPOCH_TAI_LO => (s.wrEpoch v).setBusy .time
  | .TIM_TTn_TIME_LO n => (s.wrTtTime n v).setBusy .time
  | .TIM_TSF_POP => s.wrTsfPop v
  | _ =>
    let s := s.setReg (.tim r) m
    if ((Reg.tim r).info s.conf).acc = .rwp then s.setBusy .time else s

/-- Turn trackers. -/
def Blk.writeTrn (s : Blk) (r : TrnReg) (v m : Word) : Blk :=
  match r with
  | .TRN_CTRL t => s.wrTrnCtrl t v
  | .TRN_MARK t => s.wrTrnMark t v
  | .TRN_ATn t n => s.wrTrnAt t n m
  | _ => s.setReg (.trn r) m

/-- Probe array. -/
def Blk.writePrb (s : Blk) (a : Access) (r : PrbReg) (v m : Word) : Blk :=
  match r with
  | .PRB_CTRL => s.wrPrbCtrl v
  | .PRB_CH_EN i => s.wrChEn i v
  | .PRB_Gg_CTRL g => s.wrGroupCtrl g a.op v
  | .PRB_Gg_LATCH g => s.wrGroupRwb r g m
  | .PRB_Gg_SELc g _ => s.wrGroupRwb r g m
  | .PRB_Gg_FIX_LO g => (s.setReg (.prb r) m).wrCounter g 8 v
  | .PRB_Gg_CNTc_LO g k => (s.setReg (.prb r) m).wrCounter g k v
  | .PRB_SMP_CTRL => s.wrSmpCtrl a.op v
  | .PRB_BW_WIN => s.wrBwWin v
  | _ =>
    let s := s.setReg (.prb r) m
    if ((Reg.prb r).info s.conf).acc = .rwp then s.setBusy .sensor else s

/-- Record path. -/
def Blk.writeRcp (s : Blk) (r : RcpReg) (v m : Word) : Blk :=
  match r with
  | .RCP_CTRL => s.wrRcp v
  | .RCP_ROUTE c => s.wrCollRwb c (.rcp r) m
  | .RCP_LQ c => s.wrRcpLq c v
  | .RCP_FW_FREEZE => s.wrFwFreeze v
  | .RCP_FW_RELEASE => s.wrFwRelease v
  | _ => s.setReg (.rcp r) m

/-- Health unit; the flash registers are posted (R411). -/
def Blk.writeHlt (s : Blk) (r : HltReg) (m : Word) : Blk :=
  match r with
  | .HLT_CTRL => s.wrGuard r m
  | .HLT_WL_ADD_LO => s.wrWatchAdd m
  | .HLT_RETIRE_LO => s.wrRetire m
  | .HLT_CE_ENT_LO => s.setLow (.hlt .HLT_CE_ENT_HI) (.hlt .HLT_CE_ENT_LO) m
  | .HLT_CE_REPORT => s.wrCeReport m
  | .HLT_GRD_REBUILD => s.wrRebuild m
  | .HLT_ETYPE c => s.wrEtype c m
  | .HLT_GRD_ID | .HLT_GRD_CHUNKS | .HLT_GRD_PAR_BASE_HI | .HLT_GRD_PAR_BASE_LO | .HLT_GRD_MEM _ | .HLT_GRD_SRC_HI _
  | .HLT_GRD_SRC_LO _ | .HLT_GRD_SRC_LEN _ => s.wrGuard r m
  | _ =>
    let s := s.setReg (.hlt r) m
    if ((Reg.hlt r).info s.conf).acc = .rwp then s.setBusy .flash else s

/-- Feature tables and tree units. -/
def Blk.writeTre (s : Blk) (r : TreReg) (v m : Word) : Blk :=
  match r with
  | .TRE_En_CTRL n => s.wrTreCtrl n v
  | .TRE_En_LOAD n => s.wrTreLoad n v
  | .TRE_En_BLOCK n => s.wrTreBlock n v
  | _ => s.setReg (.tre r) m

def Blk.writeFea (s : Blk) (r : FeaReg) (v m : Word) : Blk :=
  match r with
  | .FEA_AREA => if s.tre.tables.isEmpty && decide (fld m 6 0 ≤ 96) then s.setReg (.fea r) m else s.refused (.fea r) v
  | .FEA_Tc_RELOAD c => if (s.ftable c).isNone then s else s.wrCollRwb c (.fea r) m
  | _ => s.setReg (.fea r) m

/-- Queue scheduler (R354). -/
def Blk.writeQsc (s : Blk) (r : QscReg) (v m : Word) : Blk :=
  match r with
  | .QSC_QSTORE => if s.conf = .d then s else if s.qList.isEmpty then s.setReg (.qsc r) m else s.refused (.qsc r) v
  | .QSC_REKEY_NOW => s.wrRekeyNow v
  | .QSC_Qq_CFG q => if s.qCfgBad q v then s.refused (.qsc r) v else s.setReg (.qsc r) m
  | _ => s.setReg (.qsc r) m

/-- The rest of the units. -/
def Blk.writeRest (s : Blk) (a : Access) (r : Reg) (v m : Word) : Blk :=
  match r with
  | .wsr .WSR_CTRL => s.wrWsrCtrl v
  | .sku .SKU_LINK_ENT_LO => s.setLow (.sku .SKU_LINK_ENT_HI) r m
  | .sku .SKU_LINK_REPORT => s.wrLinkReport v
  | .ful .FUL_CTRL => if 8 < fld v 11 8 then s.refused r v else s.setReg r m
  | .fwc .FWC_HOST_VER => s.wrHostVer m
  | .fwc .FWC_UPD_GO => s.wrUpdGo v
  | .fwc .FWC_UPD_ARM => s.wrUpdArm m
  | .pwr (.PWR_CLk_CAP k) => s.wrClCap k m
  | .ctr .CTR_AUTH_GO => s.wrAuthGo v
  | .ctr .CTR_AUTH_REVOKE => s.wrAuthRevoke v
  | .ctr (.CTR_CTRL b) => s.wrCtrCtrl b v
  | .snp .SNP_TRIG => s.wrSnpTrig v
  | .evr .EVR_FLUSH_NOW => s.wrFlushNow v
  | .evr .EVR_INJ_ARG0_LO => s.setLow (.evr .EVR_INJ_ARG0_HI) r m
  | .evr .EVR_INJ_ARG1_LO => s.setLow (.evr .EVR_INJ_ARG1_HI) r m
  | .evr .EVR_INJ_CODE => s.wrInject a.ini m
  | _ => s.setReg r m

/-- An accepted write of value `v` to a register that is RW, RWB or RWP; `m` is `v` in the writable bits. -/
def Blk.writeUnit (s : Blk) (a : Access) (r : Reg) (v m : Word) : Blk :=
  match r with
  | .cpi r => s.writeCpi r v m
  | .tim r => s.writeTim r v m
  | .trn r => s.writeTrn r v m
  | .prb r => s.writePrb a r v m
  | .rcp r => s.writeRcp r v m
  | .tre r => s.writeTre r v m
  | .fea r => s.writeFea r v m
  | .hlt r => s.writeHlt r m
  | .boot r => s.writeBoot a r v m
  | .qsc r => s.writeQsc r v m
  | _ => s.writeRest a r v m

/-- A write to a code slot: enabling a slot fills its bucket, and so does a change of RATE or BURST (R373, Table 12-11). -/
def State.writeSlot (s : State) (i : Nat) (r : Reg) (m : Word) : State :=
  let old := s.blk.reg r
  let fill := match r with
    | .evr (.EVR_SLi_CODE _) => !bit old 31 && bit m 31
    | _ => decide (old ≠ m)
  let s := s.modBlk (fun b => b.setReg r m)
  let fresh := fun (b : Bucket) => ({ used := 0, last := s.blk.t64.toNat, pend := b.pend } : Bucket)
  if fill then s.modEvr (fun e => { e with
    buckets := Store.set Bucket.full e.buckets i (fresh (Store.get Bucket.full e.buckets i)) })
  else s

/-- An accepted write by the register's access code (Table 17-2); guarded registers take theirs in `guardApply`. -/
def State.writeReg (s : State) (a : Access) (r : Reg) (v : Word) : State :=
  let m := v &&& (r.info s.blk.conf).mask
  match (r.info s.blk.conf).acc with
  | .ro | .rc | .wg => s
  | .w1c => s.modBlk (fun b => b.setReg r (b.reg r &&& ~~~m))
  | _ => match r with
    | .evr (.EVR_SLi_CODE i) => s.writeSlot i r m
    | .evr (.EVR_SLi_RATE i) => s.writeSlot i r m
    | _ => s.modBlk (fun b => b.writeUnit a r v m)

/-- A completed guarded pair puts its value in force (R501, R502). -/
def State.guardApply (s : State) (r : Reg) (v : Word) : State :=
  let m := v &&& (r.info s.blk.conf).mask
  match r with
  | .tim .TIM_STEP_LO => s.modBlk (fun b => (b.setReg r m).timeStep
      (BitVec.ofNat 64 (hiLo (b.reg (.tim .TIM_STEP_HI)) m)).toInt)
  | .err .ERR_UNIT_RESET => s.wrUnitReset m
  | .hlt .HLT_STRESS => s.modBlk (fun b => b.wrStress m)
  | .hlt .HLT_FENCE => s.modBlk (fun b => b.wrFence m)
  | .pwr .PWR_CL_DISABLE => s.modBlk (fun b => b.wrClDisable m)
  | .lic .LIC_INSTALL => s.modBlk (fun b => b.wrLicInstall m)
  | .boot .BOOT_RERUN => s.modBlk (fun b => b.wrRerun m)
  | .snp .SNP_RELEASE => (s.modBlk (fun b => b.setReg r m)).wrRelease m
  | _ => s

/-- The domain of a posted register (Table 17-3). -/
def Reg.domain : Reg → Option Domain
  | .tim _ => some .time
  | .prb _ => some .sensor
  | .hlt _ => some .flash
  | .ctr _ => some .auth
  | .tre (.TRE_En_LOAD n) => some (.model n)
  | .fwc _ => some .update
  | _ => none

/-- Whether a write to a register finds its domain busy (R495). -/
def Blk.busyFor (s : Blk) (r : Reg) : Bool :=
  (r.info s.conf).acc == .rwp && (match r.domain with | some d => s.domBusy d | none => false)

/-! ### Answers (R370, R508) -/

/-- Codes of the responses on tl_cp_resp (Table 16-3). -/
def Resp.code : Resp → Nat
  | .ack => 0 | .nakPriv => 1 | .nakAddr => 2 | .nakGuard => 3 | .nakBusy => 4

/-- Answer an access. -/
def State.answer (s : State) (r : Resp) (data : Word) (poi : Bool) : State :=
  s.modBlk (fun b => { b with cp := { b.cp with resp := some r, rdata := data, rpoi := poi } })

/-- Answer an access with a NAK: it is logged and raised, and has no effect. -/
def State.nak (s : State) (a : Access) (addr : Nat) (we alias_ : Bool) (r : Resp) : State :=
  (s.modBlk (fun b =>
    let n := b.cp.viols + 1
    let info := (n % 256) <<< 24 + (b2n alias_) <<< 11 + (b2n we) <<< 10 + (a.lvl % 4) <<< 8 + r.code <<< 4 + a.ini
    let b := { b with cp := { b.cp with viols := n } }
    let b := (b.setReg (.cpi .CPI_VIOL_ADDR) (w32 (addr % 2 ^ 26))).setReg (.cpi .CPI_VIOL_INFO) (w32 info)
    (b.count (.cpi .CPI_VIOL_CNT) 1).emit 0xD 0x0E09 (addr % 2 ^ 26) (r.code + a.ini <<< 8))).answer r 0 false

/-- The first write that the initiator holds (R501). -/
def State.held (s : State) (a : Access) : Option FirstWrite := Store.look s.blk.cp.first a.ini

/-- Discard it. -/
def State.unhold (s : State) (a : Access) : State :=
  s.modBlk (fun b => { b with cp := { b.cp with first := Store.del b.cp.first a.ini } })

/-- A write accepted on a word clears its poison (R355, R467). -/
def State.clearWord (s : State) (addr : Nat) : State := s.modBlk (fun b => b.clearPoi addr 4)

/-- What CPI_PEND reads for an initiator (R494, Table 17-6). -/
def Blk.pendWord (s : Blk) (a : Access) : Word :=
  match Reg.at s.conf (s.reg (.cpi (.CPI_PEND_SEL a.ini))).toNat with
  | none => 0
  | some r => if s.serves r && s.allows a false r then w32 (b2n (s.pend r) + 2 * b2n ((r.info s.conf).acc == .rwb)) else 0

/-- The value that an access reads of a register. -/
def State.valueFor (s : State) (a : Access) (r : Reg) : Word :=
  match r with
  | .cpi .CPI_PEND => s.blk.pendWord a
  | _ => s.readReg r

/-- Clear an RC register that has been read (R496). -/
def State.readClear (s : State) (r : Reg) : State :=
  match r with
  | .tim .TIM_TSF_STAT => s.modBlk (fun b => b.modTime (fun t => { t with tsfDrop := 0, tsfBad := 0 }))
  | .dxe (.DXE_CXc_BLK c) => s.modBlk (fun b =>
      let b := b.setReg r 0
      match Store.look b.ctxs c with
      | some x => b.modCtxs (fun m => Store.put m c { x with blockAt := b.tclk })
      | none => b)
  | .ful (.FUL_Ee_BUSYT e) => s.modBlk (fun b =>
      (b.setReg r 0).modFul (fun f => { f with engines := match Store.look f.engines e with
        | some v => Store.put f.engines e { v with since := b.tclk } | none => f.engines }))
  | .qsc (.QSC_Qq_HWM q) => s.modBlk (fun b => b.modQ q (fun v => { v with hwmDepth := 0, hwmDelay := 0 }))
  | .ctr (.CTR_OVF_CNT i) => s.modBlk (fun b => (b.setReg r 0).modTbuf i (fun v => { v with ovf := 0 }))
  | .evr .EVR_SUPP_TOT => s.modEvr (fun e => { e with suppTot := 0 })
  | .snp .SNP_IGN => s.modSnap (fun n => { n with ign := 0 })
  | _ => s.modBlk (fun b => b.setReg r 0)

/-! ### Accesses -/

/-- Whether an address is refused as such (R489, Table 12-6). -/
def State.badAddr (s : State) (addr : Nat) : Bool := decide (s.blk.conf.window ≤ addr ∨ addr % 4 ≠ 0)

/-- Whether the initiator may make the access to what lies at an address; unused words admit every access (R491, R504). -/
def State.admits (s : State) (a : Access) (we : Bool) : Target → Bool
  | .reg r => s.blk.allows a we r
  | .win p _ => s.blk.permits a p
  | .none => true

/-- The target word of an alias address, and the bit (R499). -/
def State.aliasOf (s : State) (a : Access) (addr : Nat) : Nat × Nat :=
  let n := addr / 4
  ((s.blk.reg (.cpi (.CPI_BA_BASE a.ini))).toNat + 4 * (n / 32), n % 32)

/-- A write in the bit-alias window (R499, R500). -/
def State.aliasWrite (s : State) (a : Access) (addr : Nat) (v : Word) : State :=
  let (w, n) := s.aliasOf a addr
  let held := (s.held a).isSome
  let s := s.unhold a
  let t := s.target w
  if !s.admits a true t then s.nak a addr true true .nakPriv
  else if held then s.nak a addr true true .nakGuard
  else match t with
  | .reg r =>
    let one : Word := BitVec.ofNat 32 (2 ^ n)
    match (r.info s.blk.conf).acc with
    | .wg => s.nak a addr true true .nakGuard
    | .ro | .rc => s.answer .ack 0 false
    | .w1c => (if bit v 0 then s else s.writeReg a r one).answer .ack 0 false
    | _ =>
      if s.blk.busyFor r then s.nak a addr true true .nakBusy else
      let old := s.valueFor a r
      let new := if bit v 0 then old ||| one else old &&& ~~~one
      if s.blk.badValue r new || s.blk.refusesVal a r new then (s.modBlk (fun b => b.refused r new)).answer .ack 0 false
      else (s.writeReg a r new).answer .ack 0 false
  | _ => s.answer .ack 0 false

/-- A control-port write (R370, R492, R501, R503). -/
def State.cpWrite (s : State) (a : Access) (addr : Nat) (v : Word) : State :=
  if s.badAddr addr then (s.unhold a).nak a addr true false .nakAddr
  else if addr < 0x10000 then s.aliasWrite a addr v
  else
    let t := s.target addr
    let bad : Bool := match t with | .reg r => s.blk.badValue r v | _ => false
    match s.held a with
    | some h =>
      let s := s.unhold a
      if addr = h.addr + 0x800 then
        match Reg.at s.blk.conf h.addr with
        | some r =>
          if !s.blk.allows a true r then s.nak a addr true false .nakPriv
          else if v ≠ ~~~h.value then s.nak a addr true false .nakGuard
          else ((s.guardApply r h.value).clearWord h.addr).answer .ack 0 false
        | none => s.answer .ack 0 false
      else if bad then s.nak a addr true false .nakAddr
      else if !s.admits a true t then s.nak a addr true false .nakPriv
      else s.nak a addr true false .nakGuard
    | none =>
      if bad then s.nak a addr true false .nakAddr
      else if !s.admits a true t then s.nak a addr true false .nakPriv
      else match t with
      | .reg r =>
        if (r.info s.blk.conf).acc = .wg then
          (s.modBlk (fun b => { b with cp := { b.cp with first := Store.put b.cp.first a.ini ⟨addr, v⟩ } })).answer .ack 0 false
        else if s.blk.busyFor r then s.nak a addr true false .nakBusy
        else ((s.writeReg a r v).clearWord addr).answer .ack 0 false
      | .win .. => s.answer .ack 0 false
      | .none =>
        if (s.guardedAt addr).isSome then s.nak a addr true false .nakGuard else s.answer .ack 0 false

/-- Give the word read; a poisoned word is recorded (R359). -/
def State.give (s : State) (addr word : Nat) (v : Word) : State :=
  if Store.get false s.blk.regPoi word then
    (s.modBlk (fun b => (b.setReg (.err .ERR_CPI_POI_ADDR) (w32 addr)).setBits (.err .ERR_STAT) 2)).answer .ack v true
  else s.answer .ack v false

/-- The register that a direct read reaches is cleared where it is RC (R492). -/
def State.clearRead (s : State) : Target → State
  | .reg r => match (r.info s.blk.conf).acc with | .rc => (s.readClear r).clearWord (r.addr s.blk.conf) | _ => s
  | _ => s

/-- A control-port read (R359, R370, R492, R496, R499). -/
def State.cpRead (s : State) (a : Access) (addr : Nat) : State :=
  if s.badAddr addr then (s.unhold a).nak a addr false false .nakAddr else
  let al := decide (addr < 0x10000)
  let (w, n) := if al then s.aliasOf a addr else (addr, 0)
  let held := (s.held a).isSome
  let s := s.unhold a
  let t := s.target w
  if !s.admits a false t then s.nak a addr false al .nakPriv
  else if held then s.nak a addr false al .nakGuard
  else
    let v : Word := match t with | .reg r => s.valueFor a r | .win _ x => x | .none => 0
    let v := if al then w32 (b2n (bit v n)) else v
    (if al then s else s.clearRead t).give addr w v

/-- A write to the register of a command's row; an index past the registers of its kind names none. -/
def State.cpReg (s : State) (a : Access) (r : Reg) (v : Word) : State :=
  let addr := r.addr s.blk.conf
  match Reg.at s.blk.conf addr with
  | some x => if x = r then s.cpWrite a addr v else s
  | none => s.cpWrite a addr v

/-- The second write of the guarded pair of a command's row, which completes the value `v` (R501). -/
def State.cpPair (s : State) (a : Access) (r : Reg) (v : Word) : State :=
  s.cpWrite a (r.addr s.blk.conf + 0x800) (~~~v)

end Sys2Proof.Machine
end

