-- ==== Sys2Proof/Machine/Cp.lean ====
section
/-!
DEFINITION. The commands that are accesses of the control port: each names the register of its row, and the access is checked and
takes effect as every access does (Machine/Port.lean). `a` is the initiator and its level.
-/

namespace Sys2Proof.Machine

/-- BOOT_GO (R443): a write of BOOT_GO. -/
def execBootGo (a : Access) (v : Word) : State → Host.Outcome State Fault Refusal :=
  liftS fun s => s.cpReg a (.boot .BOOT_GO) v

/-- VERSION_CHECK (R414): a write of FWC_HOST_VER. -/
def execVersionCheck (a : Access) (v : Word) : State → Host.Outcome State Fault Refusal :=
  liftS fun s => s.cpReg a (.fwc .FWC_HOST_VER) v

/-- BOOT_RERUN (R450): the second write of the pair that gives BOOT_RERUN the value `v`. -/
def execBootRerun (a : Access) (v : Word) : State → Host.Outcome State Fault Refusal :=
  liftS fun s => s.cpPair a (.boot .BOOT_RERUN) v

/-- REGISTER_WRITE (R370, R492): a control-port write to an address. -/
def execRegisterWrite (a : Access) (addr : Nat) (v : Word) : State → Host.Outcome State Fault Refusal :=
  liftS fun s => s.cpWrite a addr v

/-- READ_CLEAR (R496): a control-port read of an RC register. -/
def execReadClear (a : Access) (addr : Nat) : State → Host.Outcome State Fault Refusal :=
  liftS fun s => s.cpRead a addr

/-- BIT_ALIAS_WRITE (R499, R500): a write in the bit-alias window. -/
def execBitAliasWrite (a : Access) (addr : Nat) (v : Word) : State → Host.Outcome State Fault Refusal :=
  liftS fun s => s.cpWrite a addr v

/-- SERVO_OFFSET_POST (R57): a write of TIM_SERVO_OFS_LO. -/
def execServoOffsetPost (a : Access) (v : Word) : State → Host.Outcome State Fault Refusal :=
  liftS fun s => s.cpReg a (.tim .TIM_SERVO_OFS_LO) v

/-- RATE_NOM_WRITE (R57): a write of TIM_RATE_NOM_HI or TIM_RATE_NOM_LO. -/
def execRateNomWrite (a : Access) (hi : Bool) (v : Word) : State → Host.Outcome State Fault Refusal :=
  liftS fun s => s.cpReg a (.tim (if hi then .TIM_RATE_NOM_HI else .TIM_RATE_NOM_LO)) v

/-- HOLD_ENTER (R62): a write of TIM_CTRL. -/
def execHoldEnter (a : Access) (v : Word) : State → Host.Outcome State Fault Refusal :=
  liftS fun s => s.cpReg a (.tim .TIM_CTRL) v

/-- TIME_STEP (R61): the second write of the pair that gives TIM_STEP_LO the value `v`. -/
def execTimeStep (a : Access) (v : Word) : State → Host.Outcome State Fault Refusal :=
  liftS fun s => s.cpPair a (.tim .TIM_STEP_LO) v

/-- LEAP_AT_WRITE (R50): a write of TIM_LEAP_AT_LO. -/
def execLeapAtWrite (a : Access) (v : Word) : State → Host.Outcome State Fault Refusal :=
  liftS fun s => s.cpReg a (.tim .TIM_LEAP_AT_LO) v

/-- LEAP_KIND_WRITE (R50): a write of TIM_LEAP_CTRL. -/
def execLeapKindWrite (a : Access) (v : Word) : State → Host.Outcome State Fault Refusal :=
  liftS fun s => s.cpReg a (.tim .TIM_LEAP_CTRL) v

/-- STAMP_FIFO_POP (R53): a write of TIM_TSF_POP. -/
def execStampFifoPop (a : Access) (v : Word) : State → Host.Outcome State Fault Refusal :=
  liftS fun s => s.cpReg a (.tim .TIM_TSF_POP) v

/-- TRIGGER_ARM (R77): a write of TIM_TTn_TIME_LO. -/
def execTriggerArm (a : Access) (n : Nat) (v : Word) : State → Host.Outcome State Fault Refusal :=
  liftS fun s => s.cpReg a (.tim (.TIM_TTn_TIME_LO n)) v

/-- TRN_MARK (R67): a write of TRN_MARK. -/
def execTrnMark (a : Access) (t : Nat) (v : Word) : State → Host.Outcome State Fault Refusal :=
  liftS fun s => s.cpReg a (.trn (.TRN_MARK t)) v

/-- TRACKER_ENABLE (R68): a write of TRN_CTRL. -/
def execTrackerEnable (a : Access) (t : Nat) (v : Word) : State → Host.Outcome State Fault Refusal :=
  liftS fun s => s.cpReg a (.trn (.TRN_CTRL t)) v

/-- TRACKER_DISABLE (R69): a write of TRN_CTRL. -/
def execTrackerDisable (a : Access) (t : Nat) (v : Word) : State → Host.Outcome State Fault Refusal :=
  liftS fun s => s.cpReg a (.trn (.TRN_CTRL t)) v

/-- COUNTER_WRITE (R97): a write of PRB_Gg_CNTc_LO, or with `k` = 8 of PRB_Gg_FIX_LO. -/
def execCounterWrite (a : Access) (g k : Nat) (v : Word) : State → Host.Outcome State Fault Refusal :=
  liftS fun s => s.cpReg a (.prb (if k = 8 then .PRB_Gg_FIX_LO g else .PRB_Gg_CNTc_LO g k)) v

/-- GROUP_CLEAR (R98): a write of PRB_Gg_CTRL. -/
def execGroupClear (a : Access) (g : Nat) (v : Word) : State → Host.Outcome State Fault Refusal :=
  liftS fun s => s.cpReg a (.prb (.PRB_Gg_CTRL g)) v

/-- PROBE_ENABLE (R111): a write of PRB_CTRL. -/
def execProbeEnable (a : Access) (v : Word) : State → Host.Outcome State Fault Refusal :=
  liftS fun s => s.cpReg a (.prb .PRB_CTRL) v

/-- PROBE_DISABLE (R92): a write of PRB_CTRL. -/
def execProbeDisable (a : Access) (v : Word) : State → Host.Outcome State Fault Refusal :=
  liftS fun s => s.cpReg a (.prb .PRB_CTRL) v

/-- CHANNEL_DISABLE (R92): a write of PRB_CH_EN. -/
def execChannelDisable (a : Access) (i : Nat) (v : Word) : State → Host.Outcome State Fault Refusal :=
  liftS fun s => s.cpReg a (.prb (.PRB_CH_EN i)) v

/-- DIGEST_STORE_CLEAR (R109): a write of PRB_CTRL. -/
def execDigestStoreClear (a : Access) (v : Word) : State → Host.Outcome State Fault Refusal :=
  liftS fun s => s.cpReg a (.prb .PRB_CTRL) v

/-- SAMPLER_ENABLE (R102): a write of PRB_SMP_CTRL. -/
def execSamplerEnable (a : Access) (v : Word) : State → Host.Outcome State Fault Refusal :=
  liftS fun s => s.cpReg a (.prb .PRB_SMP_CTRL) v

/-- RECORD_PATH_ENABLE (R128): a write of RCP_CTRL. -/
def execRecordPathEnable (a : Access) (v : Word) : State → Host.Outcome State Fault Refusal :=
  liftS fun s => s.cpReg a (.rcp .RCP_CTRL) v

/-- HT_ENABLE (R130): a write of RCP_CTRL. -/
def execHtEnable (a : Access) (v : Word) : State → Host.Outcome State Fault Refusal :=
  liftS fun s => s.cpReg a (.rcp .RCP_CTRL) v

/-- LOCAL_QUEUE_WRITE (R127): a write of RCP_LQ. -/
def execLocalQueueWrite (a : Access) (c : Nat) (v : Word) : State → Host.Outcome State Fault Refusal :=
  liftS fun s => s.cpReg a (.rcp (.RCP_LQ c)) v

/-- FW_FREEZE (R134): a write of RCP_FW_FREEZE. -/
def execFwFreeze (a : Access) (v : Word) : State → Host.Outcome State Fault Refusal :=
  liftS fun s => s.cpReg a (.rcp .RCP_FW_FREEZE) v

/-- FW_RELEASE (R135): a write of RCP_FW_RELEASE. -/
def execFwRelease (a : Access) (v : Word) : State → Host.Outcome State Fault Refusal :=
  liftS fun s => s.cpReg a (.rcp .RCP_FW_RELEASE) v

/-- TRACE_ENABLE (R146): a write of CTR_CTRL. -/
def execTraceEnable (a : Access) (b : Nat) (v : Word) : State → Host.Outcome State Fault Refusal :=
  liftS fun s => s.cpReg a (.ctr (.CTR_CTRL b)) v

/-- DEBUG_AUTH_GO (R139): a write of CTR_AUTH_GO. -/
def execDebugAuthGo (a : Access) (v : Word) : State → Host.Outcome State Fault Refusal :=
  liftS fun s => s.cpReg a (.ctr .CTR_AUTH_GO) v

/-- DEBUG_GRANT_REVOKE (R434): a write of CTR_AUTH_REVOKE. -/
def execDebugGrantRevoke (a : Access) (v : Word) : State → Host.Outcome State Fault Refusal :=
  liftS fun s => s.cpReg a (.ctr .CTR_AUTH_REVOKE) v

/-- LINK_REPORT (R277): a write of SKU_LINK_REPORT. -/
def execLinkReport (a : Access) (v : Word) : State → Host.Outcome State Fault Refusal :=
  liftS fun s => s.cpReg a (.sku .SKU_LINK_REPORT) v

/-- MODEL_LOAD (R305): a write of TRE_En_LOAD. -/
def execModelLoad (a : Access) (n : Nat) (v : Word) : State → Host.Outcome State Fault Refusal :=
  liftS fun s => s.cpReg a (.tre (.TRE_En_LOAD n)) v

/-- REKEY_NOW (R350): a write of QSC_REKEY_NOW. -/
def execRekeyNow (a : Access) (v : Word) : State → Host.Outcome State Fault Refusal :=
  liftS fun s => s.cpReg a (.qsc .QSC_REKEY_NOW) v

/-- UNIT_RESET (R360): the second write of the pair that gives ERR_UNIT_RESET the value `v`. -/
def execUnitReset (a : Access) (v : Word) : State → Host.Outcome State Fault Refusal :=
  liftS fun s => s.cpPair a (.err .ERR_UNIT_RESET) v

/-- EVENT_INJECT (R372): a write of EVR_INJ_CODE. -/
def execEventInject (a : Access) (v : Word) : State → Host.Outcome State Fault Refusal :=
  liftS fun s => s.cpReg a (.evr .EVR_INJ_CODE) v

/-- FLUSH_NOW (R376): a write of EVR_FLUSH_NOW. -/
def execFlushNow (a : Access) (v : Word) : State → Host.Outcome State Fault Refusal :=
  liftS fun s => s.cpReg a (.evr .EVR_FLUSH_NOW) v

/-- SNAPSHOT_TRIGGER (R379): a write of SNP_TRIG. -/
def execSnapshotTrigger (a : Access) (v : Word) : State → Host.Outcome State Fault Refusal :=
  liftS fun s => s.cpReg a (.snp .SNP_TRIG) v

/-- SNAPSHOT_RELEASE (R380): the second write of the pair that gives SNP_RELEASE the value `v`. -/
def execSnapshotRelease (a : Access) (v : Word) : State → Host.Outcome State Fault Refusal :=
  liftS fun s => s.cpPair a (.snp .SNP_RELEASE) v

/-- MANUAL_STRESS (R392): the second write of the pair that gives HLT_STRESS the value `v`. -/
def execManualStress (a : Access) (v : Word) : State → Host.Outcome State Fault Refusal :=
  liftS fun s => s.cpPair a (.hlt .HLT_STRESS) v

/-- WATCH_ADD (R393): a write of HLT_WL_ADD_LO. -/
def execWatchAdd (a : Access) (v : Word) : State → Host.Outcome State Fault Refusal :=
  liftS fun s => s.cpReg a (.hlt .HLT_WL_ADD_LO) v

/-- CE_REPORT (R396): a write of HLT_CE_REPORT. -/
def execCeReport (a : Access) (v : Word) : State → Host.Outcome State Fault Refusal :=
  liftS fun s => s.cpReg a (.hlt .HLT_CE_REPORT) v

/-- RETIRE_CONFIRM (R398): a write of HLT_RETIRE_LO. -/
def execRetireConfirm (a : Access) (v : Word) : State → Host.Outcome State Fault Refusal :=
  liftS fun s => s.cpReg a (.hlt .HLT_RETIRE_LO) v

/-- GUARD_REBUILD (R402): a write of HLT_GRD_REBUILD. -/
def execGuardRebuild (a : Access) (v : Word) : State → Host.Outcome State Fault Refusal :=
  liftS fun s => s.cpReg a (.hlt .HLT_GRD_REBUILD) v

/-- HOST_FENCE (R409): the second write of the pair that gives HLT_FENCE the value `v` with OP 1. -/
def execHostFence (a : Access) (v : Word) : State → Host.Outcome State Fault Refusal :=
  liftS fun s => s.cpPair a (.hlt .HLT_FENCE) (v ||| 0x80000000#32)

/-- HOST_LIFT (R409): the second write of the pair that gives HLT_FENCE the value `v` with OP 0. -/
def execHostLift (a : Access) (v : Word) : State → Host.Outcome State Fault Refusal :=
  liftS fun s => s.cpPair a (.hlt .HLT_FENCE) (v &&& 0x7FFFFFFF#32)

/-- UPDATE_GO (R417): a write of FWC_UPD_GO. -/
def execUpdateGo (a : Access) (v : Word) : State → Host.Outcome State Fault Refusal :=
  liftS fun s => s.cpReg a (.fwc .FWC_UPD_GO) v

/-- CLUSTER_DISABLE (R428): the second write of the pair that gives PWR_CL_DISABLE the value `v`. -/
def execClusterDisable (a : Access) (v : Word) : State → Host.Outcome State Fault Refusal :=
  liftS fun s => s.cpPair a (.pwr .PWR_CL_DISABLE) v

/-- LICENCE_INSTALL (R433): the second write of the pair that gives LIC_INSTALL the value `v`. -/
def execLicenceInstall (a : Access) (v : Word) : State → Host.Outcome State Fault Refusal :=
  liftS fun s => s.cpPair a (.lic .LIC_INSTALL) v

/-- COLLECTION_START_REQUEST (R453): a write of BOOT_CS_GO. -/
def execCollectionStartRequest (a : Access) (v : Word) : State → Host.Outcome State Fault Refusal :=
  liftS fun s => s.cpReg a (.boot .BOOT_CS_GO) v

/-- TEARDOWN_REQUEST (R460): a write of BOOT_TD. -/
def execTeardownRequest (a : Access) (v : Word) : State → Host.Outcome State Fault Refusal :=
  liftS fun s => s.cpReg a (.boot .BOOT_TD) v

/-- REGISTER_READ (R359, R370): a control-port read. -/
def execRegisterRead (a : Access) (addr : Nat) : State → Host.Outcome State Fault Refusal :=
  liftS fun s => s.cpRead a addr

/-- POSTED_WRITE_APPLY (R64, R495): the posted write of a domain has been applied. The other domains end with their checks and
loads. -/
def execPostedWriteApply (d : Domain) : State → Host.Outcome State Fault Refusal := lift fun s => s.clearBusy d

end Sys2Proof.Machine
end

