-- ==== Sys2Proof/Machine/Scalar.lean ====
section
/-!
DEFINITION. Scalar, immediate, branch and jump instructions (R190, R192, R193), and the state words (R216).
-/

namespace Sys2Proof.Machine

/-- sd = f(sa, sb). -/
def actScalar (f : Dword → Dword → Dword) : Act := fun s k x w =>
  .next (s.dxDone k (x.setS (fRd w) (f (x.s (fRa w)) (x.s (fRb w))) (x.sp (fRa w) || x.sp (fRb w))))

/-- sd = f(sa, imm). -/
def actImm (f : Dword → Nat → Dword) : Act := fun s k x w =>
  .next (s.dxDone k (x.setS (fRd w) (f (x.s (fRa w)) (fImm w)) (x.sp (fRa w))))

/-- The sign extension of a 16-bit immediate. -/
def sext16 (i : Nat) : Dword := (BitVec.ofNat 16 i).signExtend 64

/-- Target of a branch: pc + 4 × sext(OFF), modulo 2^64 (R192). -/
def Ctx.target (x : Ctx) (w : Word) : Nat := (BitVec.ofNat 64 x.pc + BitVec.ofInt 64 (4 * fOff w)).toNat

/-- A branch on a condition of a register that may be poisoned (R193). -/
def actBranch (cond : Ctx → Nat → Bool) (poi : Ctx → Nat → Bool) : Act := fun s k x w =>
  let r := fRd w
  if poi x r then .fault 1 1 0 0
  else if cond x r then .next (s.dxJump k x (x.target w) true) else .next (s.dxDone k x)

/-- JR (R192, R193). -/
def actJr : Act := fun s k x w =>
  let t := (x.s (fRa w)).toNat
  match addrFault (x.sp (fRa w)) t 4 with
  | some f => f
  | none => .next (s.dxJump k (x.setS (fRd w) (BitVec.ofNat 64 (x.pc + 4)) false) t true)

/-- BRA and JAL. -/
def actBra : Act := fun s k x w => .next (s.dxJump k x (x.target w) true)
def actJal : Act := fun s k x w =>
  .next (s.dxJump k (x.setS (fRd w) (BitVec.ofNat 64 (x.pc + 4)) false) (x.target w) true)

/-- State word `i` of context `k` (Table 5-11). -/
def Blk.stateWord (s : Blk) (k : Nat) (x : Ctx) (i : Nat) : Dword :=
  let v := s.coll x.coll
  BitVec.ofNat 64 (match i with
    | 0 => v.gen.toNat <<< 16 + x.coll
    | 1 => (x.insts % 65536) <<< 16 + x.inst % 65536
    | 2 => x.cluster <<< 16 + x.engine <<< 8 + k % perEngineOf s.conf
    | 3 => s.place.toNat
    | 4 => v.trk
    | 5 => (b2n x.restart) <<< 32 + x.start.toNat
    | 6 => x.epc
    | 7 => x.ecause.toNat
    | _ => b2n x.inHandler)

/-- MFS (R216). -/
def actMfs : Act := fun s k x w => .next (s.dxDone k (x.setS (fRd w) (s.stateWord k x (fImm w)) false))

/-- MTS (R216, Table 5-11): only HSTAT may be written, and only to 0. -/
def actMts : Act := fun s k x w =>
  if fImm w ≠ 8 ∨ (x.s (fRa w)).getLsbD 0 then .fault 2 7 0 0
  else .next (s.dxDone k { x with inHandler := false })

/-! ### Meanings -/

/-- ADD, SUB, MUL (R190, R192). -/
def execAdd (c : Nat) : State → Host.Outcome State Fault Refusal := lift fun s => s.dxStep c [eScalar 0] (actScalar (· + ·))
def execSub (c : Nat) : State → Host.Outcome State Fault Refusal := lift fun s => s.dxStep c [eScalar 1] (actScalar (· - ·))
def execMul (c : Nat) : State → Host.Outcome State Fault Refusal := lift fun s => s.dxStep c [eScalar 2] (actScalar (· * ·))
/-- AND, OR, XOR. -/
def execAnd (c : Nat) : State → Host.Outcome State Fault Refusal := lift fun s => s.dxStep c [eScalar 4] (actScalar (· &&& ·))
def execOr (c : Nat) : State → Host.Outcome State Fault Refusal := lift fun s => s.dxStep c [eScalar 5] (actScalar (· ||| ·))
def execXor (c : Nat) : State → Host.Outcome State Fault Refusal := lift fun s => s.dxStep c [eScalar 6] (actScalar (· ^^^ ·))
/-- SLL, SRL, SRA: sa shifted by sb[5:0]. -/
def execSll (c : Nat) : State → Host.Outcome State Fault Refusal :=
  lift fun s => s.dxStep c [eScalar 8] (actScalar (fun a b => a <<< (b.toNat % 64)))
def execSrl (c : Nat) : State → Host.Outcome State Fault Refusal :=
  lift fun s => s.dxStep c [eScalar 9] (actScalar (fun a b => a >>> (b.toNat % 64)))
def execSra (c : Nat) : State → Host.Outcome State Fault Refusal :=
  lift fun s => s.dxStep c [eScalar 0xA] (actScalar (fun a b => a.sshiftRight (b.toNat % 64)))
/-- SLT, SLTU. -/
def execSlt (c : Nat) : State → Host.Outcome State Fault Refusal :=
  lift fun s => s.dxStep c [eScalar 0xC] (actScalar (fun a b => if a.toInt < b.toInt then 1 else 0))
def execSltu (c : Nat) : State → Host.Outcome State Fault Refusal :=
  lift fun s => s.dxStep c [eScalar 0xD] (actScalar (fun a b => if a.toNat < b.toNat then 1 else 0))

/-- ADDI, ANDI, ORI (Table 6-6). -/
def execAddi (c : Nat) : State → Host.Outcome State Fault Refusal :=
  lift fun s => s.dxStep c [eImm 8] (actImm (fun a i => a + sext16 i))
def execAndi (c : Nat) : State → Host.Outcome State Fault Refusal :=
  lift fun s => s.dxStep c [eImm 9] (actImm (fun a i => a &&& BitVec.ofNat 64 i))
def execOri (c : Nat) : State → Host.Outcome State Fault Refusal :=
  lift fun s => s.dxStep c [eImm 0xA] (actImm (fun a i => a ||| BitVec.ofNat 64 i))
/-- SLLI, SRLI, SRAI: sa shifted by imm[5:0]. -/
def execSlli (c : Nat) : State → Host.Outcome State Fault Refusal :=
  lift fun s => s.dxStep c [eShi 0xB] (actImm (fun a i => a <<< (i % 64)))
def execSrli (c : Nat) : State → Host.Outcome State Fault Refusal :=
  lift fun s => s.dxStep c [eShi 0xC] (actImm (fun a i => a >>> (i % 64)))
def execSrai (c : Nat) : State → Host.Outcome State Fault Refusal :=
  lift fun s => s.dxStep c [eShi 0xD] (actImm (fun a i => a.sshiftRight (i % 64)))
/-- MOVI, SHORI. -/
def execMovi (c : Nat) : State → Host.Outcome State Fault Refusal :=
  lift fun s => s.dxStep c [eMovi] (actImm (fun _ i => sext16 i))
def execShori (c : Nat) : State → Host.Outcome State Fault Refusal :=
  lift fun s => s.dxStep c [eImm 0xF] (actImm (fun a i => a <<< 16 ||| BitVec.ofNat 64 i))

/-- BRA, JAL, JR (R192). -/
def execBra (c : Nat) : State → Host.Outcome State Fault Refusal := lift fun s => s.dxStep c [eBra] actBra
def execJal (c : Nat) : State → Host.Outcome State Fault Refusal := lift fun s => s.dxStep c [eBr 0x31] actJal
def execJr (c : Nat) : State → Host.Outcome State Fault Refusal := lift fun s => s.dxStep c [eJr] actJr
/-- BEQZ, BNEZ, BLTZ, BGEZ: the signed value of sa. -/
def execBeqz (c : Nat) : State → Host.Outcome State Fault Refusal :=
  lift fun s => s.dxStep c [eBr 0x32] (actBranch (fun x r => x.s r == 0) Ctx.sp)
def execBnez (c : Nat) : State → Host.Outcome State Fault Refusal :=
  lift fun s => s.dxStep c [eBr 0x33] (actBranch (fun x r => x.s r != 0) Ctx.sp)
def execBltz (c : Nat) : State → Host.Outcome State Fault Refusal :=
  lift fun s => s.dxStep c [eBr 0x34] (actBranch (fun x r => decide ((x.s r).toInt < 0)) Ctx.sp)
def execBgez (c : Nat) : State → Host.Outcome State Fault Refusal :=
  lift fun s => s.dxStep c [eBr 0x35] (actBranch (fun x r => decide (0 ≤ (x.s r).toInt)) Ctx.sp)
/-- BPANY, BPALL: any bit, or all 16 bits, of pa. -/
def execBpany (c : Nat) : State → Host.Outcome State Fault Refusal :=
  lift fun s => s.dxStep c [eBp 0x36] (actBranch (fun x r => x.p r != 0) Ctx.pp)
def execBpall (c : Nat) : State → Host.Outcome State Fault Refusal :=
  lift fun s => s.dxStep c [eBp 0x37] (actBranch (fun x r => x.p r == 0xFFFF) Ctx.pp)

/-- MFS, MTS (R216). -/
def execMfs (c : Nat) : State → Host.Outcome State Fault Refusal := lift fun s => s.dxStep c [eMfs] actMfs
def execMts (c : Nat) : State → Host.Outcome State Fault Refusal := lift fun s => s.dxStep c [eMts] actMts

end Sys2Proof.Machine
end

