-- ==== Sys2Proof/Machine/Xm.lean ====
section
/-!
DEFINITION. Responses of the XM port (R478, R479): what a read line does for the context that waits for it, and completed writes.
-/

namespace Sys2Proof.Machine

/-- The instructions that read memory, and what they do. -/
def readActs : List (Enc × Act) :=
  [(eLd 0x10, actLoad (BitVec.ofNat 64)), (eLd 0x11, actLoad (BitVec.ofNat 64)),
   (eLd 0x12, actLoad (fun n => (BitVec.ofNat 32 n).signExtend 64)), (eLd 0x13, actLoad (BitVec.ofNat 64)),
   (eLd 0x14, actLoad (BitVec.ofNat 64)), (eVmem 0x15, actVld), (eWmem 0xA, actWsld), (eWmem 0xD, actWsupk),
   (eSkins, actLaunch .skins), (eLaunch 1 none, actLaunch .skmrg), (eLaunch 2 none, actLaunch .skq),
   (eLaunch 3 none, actLaunch .topk), (eLaunch 8 (some 0), actLaunch .tscore), (eLaunch 0x10 (some 3), actLaunch .pack),
   (eLaunch 0x11 (some 3), actLaunch .unpack)]

/-- The instruction of context `k` that has waited for lines of XM goes on once all have been read. -/
def Blk.dxFinish (s : Blk) (k : Nat) : Blk :=
  match Store.look s.ctxs k with
  | none => s
  | some x =>
    if !s.mayIssue k x then s else
    match readActs.find? (fun p => p.1.is x.word) with
    | none => s
    | some p => s.dxRun k x x.word p.1 p.2

/-- Channel of a line (R477). -/
def Blk.xmChan (s : Blk) (line : Nat) : Nat := match s.conf with | .d => 0 | .a64 => line % 4

/-- A read is answered, well or with an error: a poisoned line is counted and reported (R357), and the context that waits for it
takes it. Without data from the host the line's bits are free. -/
def Blk.xmAnswer (s : Blk) (r : XmReq) (poi fail : Bool) : Blk :=
  let (bs, s) := if fail then (let (f, s) := s.draw; (leBytes 64 f, s)) else (r.data, s)
  let bad := r.poi || poi || fail
  let s := if bad then (s.count (.err .ERR_XM_POI_IN) 1).emit 0xD 0x0E04 (64 * r.line) r.coll else s
  match r.ctx with
  | none => s
  | some k =>
    let s := s.modCtxs (fun m => match Store.look m k with
      | some x => Store.put m k { x with got := x.got ++ [(r.line, bs, bad)] }
      | none => m)
    if s.reading k then s else s.dxFinish k

/-- The outstanding request with a tag, and the state without it. -/
def Blk.xmTake (s : Blk) (tag : Nat) (write : Bool) : Option XmReq × Blk :=
  match s.mem.reqs.find? (fun r => r.tag == tag && r.write == write) with
  | none => (none, s)
  | some r => (some r, s.modMem (fun m => { m with reqs := m.reqs.filter (fun r => r.tag != tag) }))

/-- PORT_XM_ERR (Table 16-13). -/
def Blk.xmErr (s : Blk) (r : XmReq) (err : Bool) : Blk :=
  if err then s.emitAt 0xD (s.xmChan r.line) 0x1503 (64 * r.line) (s.xmChan r.line + 8 * b2n r.write) else s

/-- XM_READ_RESPONSE (R478, R479): a late answer only frees its tag. -/
def execXmReadResponse (tag : Nat) (poi err : Bool) : State → Host.Outcome State Fault Refusal := lift fun s =>
  match s.xmTake tag false with
  | (none, s) => s
  | (some r, s) => if r.late then s else (s.xmErr r err).xmAnswer r poi err

/-- A write of the XM port completes for the units: a late answer only frees its tag. -/
def Blk.xmWritten (s : Blk) (tag : Nat) (err : Bool) : Blk :=
  match s.xmTake tag true with
  | (none, s) => s
  | (some r, s) => if r.late then s else s.xmErr r err

/-- XM_WRITE_COMPLETE (R378, R478, R479): a write answered with an error counts as performed; an error while a flush runs sets
FLUSH_ERR. -/
def execXmWriteComplete (tag : Nat) (err : Bool) : State → Host.Outcome State Fault Refusal := liftS fun s =>
  let s := s.modBlk (fun b => b.xmWritten tag err)
  if err && s.evr.flush.isSome then
    s.modEvr (fun v => { v with flushErr := true, flush := v.flush.map (fun f => { f with err := true }) })
  else s

/-- XM_REQUEST_TIMEOUT (R479): 1 ms without an answer; the tag stays in use. -/
def execXmRequestTimeout (tag : Nat) : State → Host.Outcome State Fault Refusal := lift fun s =>
  match s.mem.reqs.find? (fun r => r.tag == tag) with
  | none => s
  | some r =>
    if r.late ∨ !s.passed r.at_ (s.ms 1) then s else
    let s := s.modMem (fun m => { m with reqs := m.reqs.map (fun r => if r.tag == tag then { r with late := true } else r) })
    let s := s.emitAt 0xD (s.xmChan r.line) 0x1504 (64 * r.line) (s.xmChan r.line + 16 * tag)
    if r.write then s else s.xmAnswer r false true

end Sys2Proof.Machine
end

