-- ==== Sys2Proof/Machine/Dispatch.lean ====
section
/-!
DEFINITION. The dispatch of a command to its meaning: one arm per constructor of `Instr`, each one direct call.
-/

namespace Sys2Proof.Machine

/-- The effect of a command on the state (everything but the queue of waiting commands). -/
def exec (i : Instr) (s : State) : Host.Outcome State Fault Refusal :=
  match i with
  | .resetAssert => Sys2Proof.Machine.execResetAssert s
  | .resetRelease => Sys2Proof.Machine.execResetRelease s
  | .stageAdvance => Sys2Proof.Machine.execStageAdvance s
  | .coreReportTimeout x => Sys2Proof.Machine.execCoreReportTimeout x s
  | .bootGo a v => Sys2Proof.Machine.execBootGo a v s
  | .versionCheck a v => Sys2Proof.Machine.execVersionCheck a v s
  | .trainingDone k cfg => Sys2Proof.Machine.execTrainingDone k cfg s
  | .trainingFail k => Sys2Proof.Machine.execTrainingFail k s
  | .trainingTimeout k => Sys2Proof.Machine.execTrainingTimeout k s
  | .bootRerun a v => Sys2Proof.Machine.execBootRerun a v s
  | .attachRequest f => Sys2Proof.Machine.execAttachRequest f s
  | .attachReply f => Sys2Proof.Machine.execAttachReply f s
  | .attachRetry => Sys2Proof.Machine.execAttachRetry s
  | .peerTable f => Sys2Proof.Machine.execPeerTable f s
  | .peerTableAck f => Sys2Proof.Machine.execPeerTableAck f s
  | .peerTableRepeat => Sys2Proof.Machine.execPeerTableRepeat s
  | .spanWaitExpire => Sys2Proof.Machine.execSpanWaitExpire s
  | .primaryFrame f => Sys2Proof.Machine.execPrimaryFrame f s
  | .primaryRepeat => Sys2Proof.Machine.execPrimaryRepeat s
  | .registerWrite a addr v => Sys2Proof.Machine.execRegisterWrite a addr v s
  | .readClear a addr => Sys2Proof.Machine.execReadClear a addr s
  | .bitAliasWrite a addr v => Sys2Proof.Machine.execBitAliasWrite a addr v s
  | .postedWriteApply d => Sys2Proof.Machine.execPostedWriteApply d s
  | .trefLost => Sys2Proof.Machine.execTrefLost s
  | .trefReturn => Sys2Proof.Machine.execTrefReturn s
  | .servoOffsetPost a v => Sys2Proof.Machine.execServoOffsetPost a v s
  | .rateNomWrite a hi v => Sys2Proof.Machine.execRateNomWrite a hi v s
  | .holdEnter a v => Sys2Proof.Machine.execHoldEnter a v s
  | .holdTimeout => Sys2Proof.Machine.execHoldTimeout s
  | .timeStep a v => Sys2Proof.Machine.execTimeStep a v s
  | .leapAtWrite a v => Sys2Proof.Machine.execLeapAtWrite a v s
  | .leapKindWrite a v => Sys2Proof.Machine.execLeapKindWrite a v s
  | .leapInstant => Sys2Proof.Machine.execLeapInstant s
  | .ppsOutStart => Sys2Proof.Machine.execPpsOutStart s
  | .ppsOutEnd => Sys2Proof.Machine.execPpsOutEnd s
  | .ppsIn => Sys2Proof.Machine.execPpsIn s
  | .stampCapture port egr fine tag => Sys2Proof.Machine.execStampCapture port egr fine tag s
  | .stampFifoPop a v => Sys2Proof.Machine.execStampFifoPop a v s
  | .triggerArm a n v => Sys2Proof.Machine.execTriggerArm a n v s
  | .timeTriggerFire n => Sys2Proof.Machine.execTimeTriggerFire n s
  | .strobeEnd n => Sys2Proof.Machine.execStrobeEnd n s
  | .trnMark a t v => Sys2Proof.Machine.execTrnMark a t v s
  | .turnOverrun t => Sys2Proof.Machine.execTurnOverrun t s
  | .turnStall t => Sys2Proof.Machine.execTurnStall t s
  | .trackerEnable a t v => Sys2Proof.Machine.execTrackerEnable a t v s
  | .trackerDisable a t v => Sys2Proof.Machine.execTrackerDisable a t v s
  | .angleTriggerFire t n => Sys2Proof.Machine.execAngleTriggerFire t n s
  | .probeBegin lane w => Sys2Proof.Machine.execProbeBegin lane w s
  | .probeEnd lane w => Sys2Proof.Machine.execProbeEnd lane w s
  | .probeLoss lane w => Sys2Proof.Machine.execProbeLoss lane w s
  | .probeBytes lane w => Sys2Proof.Machine.execProbeBytes lane w s
  | .counterWrap g k n => Sys2Proof.Machine.execCounterWrap g k n s
  | .counterWrite a g k v => Sys2Proof.Machine.execCounterWrite a g k v s
  | .groupClear a g v => Sys2Proof.Machine.execGroupClear a g v s
  | .probeEnable a v => Sys2Proof.Machine.execProbeEnable a v s
  | .probeDisable a v => Sys2Proof.Machine.execProbeDisable a v s
  | .channelDisable a n v => Sys2Proof.Machine.execChannelDisable a n v s
  | .digestStoreClear a v => Sys2Proof.Machine.execDigestStoreClear a v s
  | .samplerEnable a v => Sys2Proof.Machine.execSamplerEnable a v s
  | .sampleDrain => Sys2Proof.Machine.execSampleDrain s
  | .bwWindowClose => Sys2Proof.Machine.execBwWindowClose s
  | .sensorSample ts vs => Sys2Proof.Machine.execSensorSample ts vs s
  | .analogUpdate n v => Sys2Proof.Machine.execAnalogUpdate n v s
  | .frameFlushTimeout m => Sys2Proof.Machine.execFrameFlushTimeout m s
  | .recordFrameSend => Sys2Proof.Machine.execRecordFrameSend s
  | .recordPathEnable a v => Sys2Proof.Machine.execRecordPathEnable a v s
  | .htEnable a v => Sys2Proof.Machine.execHtEnable a v s
  | .localQueueWrite a c v => Sys2Proof.Machine.execLocalQueueWrite a c v s
  | .recordFrameReceive f => Sys2Proof.Machine.execRecordFrameReceive f s
  | .fwFreeze a v => Sys2Proof.Machine.execFwFreeze a v s
  | .fwFreezeEnd => Sys2Proof.Machine.execFwFreezeEnd s
  | .fwRelease a v => Sys2Proof.Machine.execFwRelease a v s
  | .historyWrite c => Sys2Proof.Machine.execHistoryWrite c s
  | .traceEnable a b v => Sys2Proof.Machine.execTraceEnable a b v s
  | .debugAuthGo a v => Sys2Proof.Machine.execDebugAuthGo a v s
  | .debugAuthResult r => Sys2Proof.Machine.execDebugAuthResult r s
  | .debugGrantExpire => Sys2Proof.Machine.execDebugGrantExpire s
  | .debugGrantRevoke a v => Sys2Proof.Machine.execDebugGrantRevoke a v s
  | .add c => Sys2Proof.Machine.execAdd c s
  | .sub c => Sys2Proof.Machine.execSub c s
  | .mul c => Sys2Proof.Machine.execMul c s
  | .and c => Sys2Proof.Machine.execAnd c s
  | .or c => Sys2Proof.Machine.execOr c s
  | .xor c => Sys2Proof.Machine.execXor c s
  | .sll c => Sys2Proof.Machine.execSll c s
  | .srl c => Sys2Proof.Machine.execSrl c s
  | .sra c => Sys2Proof.Machine.execSra c s
  | .slt c => Sys2Proof.Machine.execSlt c s
  | .sltu c => Sys2Proof.Machine.execSltu c s
  | .vadd c => Sys2Proof.Machine.execVadd c s
  | .vsub c => Sys2Proof.Machine.execVsub c s
  | .vmul c => Sys2Proof.Machine.execVmul c s
  | .vand c => Sys2Proof.Machine.execVand c s
  | .vor c => Sys2Proof.Machine.execVor c s
  | .vxor c => Sys2Proof.Machine.execVxor c s
  | .vsll c => Sys2Proof.Machine.execVsll c s
  | .vsrl c => Sys2Proof.Machine.execVsrl c s
  | .vsra c => Sys2Proof.Machine.execVsra c s
  | .vmin c => Sys2Proof.Machine.execVmin c s
  | .vmax c => Sys2Proof.Machine.execVmax c s
  | .vfadd c => Sys2Proof.Machine.execVfadd c s
  | .vfsub c => Sys2Proof.Machine.execVfsub c s
  | .vfmul c => Sys2Proof.Machine.execVfmul c s
  | .vfma c => Sys2Proof.Machine.execVfma c s
  | .vfmin c => Sys2Proof.Machine.execVfmin c s
  | .vfmax c => Sys2Proof.Machine.execVfmax c s
  | .vcvtif c => Sys2Proof.Machine.execVcvtif c s
  | .vcvtfi c => Sys2Proof.Machine.execVcvtfi c s
  | .vwidl c => Sys2Proof.Machine.execVwidl c s
  | .vwidh c => Sys2Proof.Machine.execVwidh c s
  | .vnarr c => Sys2Proof.Machine.execVnarr c s
  | .vcmpeq c => Sys2Proof.Machine.execVcmpeq c s
  | .vcmplt c => Sys2Proof.Machine.execVcmplt c s
  | .vfcmpeq c => Sys2Proof.Machine.execVfcmpeq c s
  | .vfcmplt c => Sys2Proof.Machine.execVfcmplt c s
  | .vfcmple c => Sys2Proof.Machine.execVfcmple c s
  | .vfcmpun c => Sys2Proof.Machine.execVfcmpun c s
  | .pand c => Sys2Proof.Machine.execPand c s
  | .por c => Sys2Proof.Machine.execPor c s
  | .pxor c => Sys2Proof.Machine.execPxor c s
  | .movsp c => Sys2Proof.Machine.execMovsp c s
  | .movps c => Sys2Proof.Machine.execMovps c s
  | .vsplat c => Sys2Proof.Machine.execVsplat c s
  | .vext c => Sys2Proof.Machine.execVext c s
  | .vrsum c => Sys2Proof.Machine.execVrsum c s
  | .jr c => Sys2Proof.Machine.execJr c s
  | .fld c => Sys2Proof.Machine.execFld c s
  | .fst c => Sys2Proof.Machine.execFst c s
  | .addi c => Sys2Proof.Machine.execAddi c s
  | .andi c => Sys2Proof.Machine.execAndi c s
  | .ori c => Sys2Proof.Machine.execOri c s
  | .slli c => Sys2Proof.Machine.execSlli c s
  | .srli c => Sys2Proof.Machine.execSrli c s
  | .srai c => Sys2Proof.Machine.execSrai c s
  | .movi c => Sys2Proof.Machine.execMovi c s
  | .shori c => Sys2Proof.Machine.execShori c s
  | .lbu c => Sys2Proof.Machine.execLbu c s
  | .lhu c => Sys2Proof.Machine.execLhu c s
  | .lw c => Sys2Proof.Machine.execLw c s
  | .lwu c => Sys2Proof.Machine.execLwu c s
  | .ld c => Sys2Proof.Machine.execLd c s
  | .vld c => Sys2Proof.Machine.execVld c s
  | .sb c => Sys2Proof.Machine.execSb c s
  | .sh c => Sys2Proof.Machine.execSh c s
  | .sw c => Sys2Proof.Machine.execSw c s
  | .sd c => Sys2Proof.Machine.execSd c s
  | .vst c => Sys2Proof.Machine.execVst c s
  | .mfs c => Sys2Proof.Machine.execMfs c s
  | .mts c => Sys2Proof.Machine.execMts c s
  | .evt c => Sys2Proof.Machine.execEvt c s
  | .recv c => Sys2Proof.Machine.execRecv c s
  | .send c => Sys2Proof.Machine.execSend c s
  | .wsadd c => Sys2Proof.Machine.execWsadd c s
  | .wsmrg c => Sys2Proof.Machine.execWsmrg c s
  | .wsz c => Sys2Proof.Machine.execWsz c s
  | .wsld c => Sys2Proof.Machine.execWsld c s
  | .wsst c => Sys2Proof.Machine.execWsst c s
  | .wspk c => Sys2Proof.Machine.execWspk c s
  | .wsupk c => Sys2Proof.Machine.execWsupk c s
  | .wsrnd c => Sys2Proof.Machine.execWsrnd c s
  | .waita c => Sys2Proof.Machine.execWaita c s
  | .waitt c => Sys2Proof.Machine.execWaitt c s
  | .waitb c => Sys2Proof.Machine.execWaitb c s
  | .stamp c => Sys2Proof.Machine.execStamp c s
  | .skins c => Sys2Proof.Machine.execSkins c s
  | .skmrg c => Sys2Proof.Machine.execSkmrg c s
  | .skq c => Sys2Proof.Machine.execSkq c s
  | .topk c => Sys2Proof.Machine.execTopk c s
  | .tscore c => Sys2Proof.Machine.execTscore c s
  | .pack c => Sys2Proof.Machine.execPack c s
  | .unpack c => Sys2Proof.Machine.execUnpack c s
  | .fence c => Sys2Proof.Machine.execFence c s
  | .snap c => Sys2Proof.Machine.execSnap c s
  | .bra c => Sys2Proof.Machine.execBra c s
  | .jal c => Sys2Proof.Machine.execJal c s
  | .beqz c => Sys2Proof.Machine.execBeqz c s
  | .bnez c => Sys2Proof.Machine.execBnez c s
  | .bltz c => Sys2Proof.Machine.execBltz c s
  | .bgez c => Sys2Proof.Machine.execBgez c s
  | .bpany c => Sys2Proof.Machine.execBpany c s
  | .bpall c => Sys2Proof.Machine.execBpall c s
  | .recvTake c => Sys2Proof.Machine.execRecvTake c s
  | .recvDeadline c => Sys2Proof.Machine.execRecvDeadline c s
  | .sendEnqueue c => Sys2Proof.Machine.execSendEnqueue c s
  | .launchCredit c => Sys2Proof.Machine.execLaunchCredit c s
  | .fenceDone c => Sys2Proof.Machine.execFenceDone c s
  | .creditTimeout c => Sys2Proof.Machine.execCreditTimeout c s
  | .waitaRelease c => Sys2Proof.Machine.execWaitaRelease c s
  | .waittRelease c => Sys2Proof.Machine.execWaittRelease c s
  | .contributionReceive f => Sys2Proof.Machine.execContributionReceive f s
  | .dieCut c r => Sys2Proof.Machine.execDieCut c r s
  | .treeCut c r treeB => Sys2Proof.Machine.execTreeCut c r treeB s
  | .halfPartialReceive f => Sys2Proof.Machine.execHalfPartialReceive f s
  | .siteHalfReceive f => Sys2Proof.Machine.execSiteHalfReceive f s
  | .leadWaitExpire c r turn => Sys2Proof.Machine.execLeadWaitExpire c r turn s
  | .listReceive f => Sys2Proof.Machine.execListReceive f s
  | .spanHoldExpire c r turn => Sys2Proof.Machine.execSpanHoldExpire c r turn s
  | .fetchRequest f => Sys2Proof.Machine.execFetchRequest f s
  | .fetchReply f => Sys2Proof.Machine.execFetchReply f s
  | .broadcastHalfReceive f => Sys2Proof.Machine.execBroadcastHalfReceive f s
  | .bcWaitExpire c r turn => Sys2Proof.Machine.execBcWaitExpire c r turn s
  | .bcHoldExpire c r turn => Sys2Proof.Machine.execBcHoldExpire c r turn s
  | .resultDeliver c r => Sys2Proof.Machine.execResultDeliver c r s
  | .latenessCut c => Sys2Proof.Machine.execLatenessCut c s
  | .sketchJobDone k => Sys2Proof.Machine.execSketchJobDone k s
  | .linkReport a v => Sys2Proof.Machine.execLinkReport a v s
  | .tscoreJobDone k => Sys2Proof.Machine.execTscoreJobDone k s
  | .alarmEnqueue n => Sys2Proof.Machine.execAlarmEnqueue n s
  | .modelLoad a n v => Sys2Proof.Machine.execModelLoad a n v s
  | .modelLoadDone n => Sys2Proof.Machine.execModelLoadDone n s
  | .fullerJobStart => Sys2Proof.Machine.execFullerJobStart s
  | .fullerJobDone e => Sys2Proof.Machine.execFullerJobDone e s
  | .tokenFrameClose q => Sys2Proof.Machine.execTokenFrameClose q s
  | .schedulerPick p => Sys2Proof.Machine.execSchedulerPick p s
  | .shaperSlot => Sys2Proof.Machine.execShaperSlot s
  | .queueSample q => Sys2Proof.Machine.execQueueSample q s
  | .creditAdvertise n => Sys2Proof.Machine.execCreditAdvertise n s
  | .creditReceive f => Sys2Proof.Machine.execCreditReceive f s
  | .tokenFrameReceive f => Sys2Proof.Machine.execTokenFrameReceive f s
  | .timeFrameReceive f => Sys2Proof.Machine.execTimeFrameReceive f s
  | .rekeyMaxt => Sys2Proof.Machine.execRekeyMaxt s
  | .rekeyNow a v => Sys2Proof.Machine.execRekeyNow a v s
  | .skewWindowEnd => Sys2Proof.Machine.execSkewWindowEnd s
  | .scrubRead u inst addr o => Sys2Proof.Machine.execScrubRead u inst addr o s
  | .unitReset a v => Sys2Proof.Machine.execUnitReset a v s
  | .xmReadResponse tag poi err => Sys2Proof.Machine.execXmReadResponse tag poi err s
  | .xmWriteComplete tag err => Sys2Proof.Machine.execXmWriteComplete tag err s
  | .xmRequestTimeout tag => Sys2Proof.Machine.execXmRequestTimeout tag s
  | .eventInject a v => Sys2Proof.Machine.execEventInject a v s
  | .flushNow a v => Sys2Proof.Machine.execFlushNow a v s
  | .flushComplete => Sys2Proof.Machine.execFlushComplete s
  | .powerWarning => Sys2Proof.Machine.execPowerWarning s
  | .snapshotTrigger a v => Sys2Proof.Machine.execSnapshotTrigger a v s
  | .tlSnap => Sys2Proof.Machine.execTlSnap s
  | .snapshotRelease a v => Sys2Proof.Machine.execSnapshotRelease a v s
  | .testDue place chan => Sys2Proof.Machine.execTestDue place chan s
  | .testPlace chan => Sys2Proof.Machine.execTestPlace chan s
  | .hotWaitExpire chan => Sys2Proof.Machine.execHotWaitExpire chan s
  | .testGrant k => Sys2Proof.Machine.execTestGrant k s
  | .testDone k sig => Sys2Proof.Machine.execTestDone k sig s
  | .testAbort k => Sys2Proof.Machine.execTestAbort k s
  | .grantTimeout k => Sys2Proof.Machine.execGrantTimeout k s
  | .runTimeout k => Sys2Proof.Machine.execRunTimeout k s
  | .manualStress a v => Sys2Proof.Machine.execManualStress a v s
  | .patternSetReceive f => Sys2Proof.Machine.execPatternSetReceive f s
  | .engineTypesReceive f => Sys2Proof.Machine.execEngineTypesReceive f s
  | .watchAdd a v => Sys2Proof.Machine.execWatchAdd a v s
  | .cleanDay => Sys2Proof.Machine.execCleanDay s
  | .ceReport a v => Sys2Proof.Machine.execCeReport a v s
  | .ceDayEnd => Sys2Proof.Machine.execCeDayEnd s
  | .historyRecordReceive f => Sys2Proof.Machine.execHistoryRecordReceive f s
  | .retireConfirm a v => Sys2Proof.Machine.execRetireConfirm a v s
  | .guardEpochEnd => Sys2Proof.Machine.execGuardEpochEnd s
  | .guardDeltaReceive f => Sys2Proof.Machine.execGuardDeltaReceive f s
  | .guardAckReceive f => Sys2Proof.Machine.execGuardAckReceive f s
  | .guardCommitReceive f => Sys2Proof.Machine.execGuardCommitReceive f s
  | .guardRebuild a v => Sys2Proof.Machine.execGuardRebuild a v s
  | .rebuildDone => Sys2Proof.Machine.execRebuildDone s
  | .heartbeatSend => Sys2Proof.Machine.execHeartbeatSend s
  | .heartbeatReceive n f => Sys2Proof.Machine.execHeartbeatReceive n f s
  | .peerSilent place => Sys2Proof.Machine.execPeerSilent place s
  | .fenceNoticeReceive n f => Sys2Proof.Machine.execFenceNoticeReceive n f s
  | .fenceFrameReceive f => Sys2Proof.Machine.execFenceFrameReceive f s
  | .hostFence a v => Sys2Proof.Machine.execHostFence a v s
  | .hostLift a v => Sys2Proof.Machine.execHostLift a v s
  | .updateGo a v => Sys2Proof.Machine.execUpdateGo a v s
  | .updateStaged r => Sys2Proof.Machine.execUpdateStaged r s
  | .svnRaise => Sys2Proof.Machine.execSvnRaise s
  | .powerTick ts => Sys2Proof.Machine.execPowerTick ts s
  | .clampSample ts => Sys2Proof.Machine.execClampSample ts s
  | .clampHoldEnd k => Sys2Proof.Machine.execClampHoldEnd k s
  | .emergCalm => Sys2Proof.Machine.execEmergCalm s
  | .supplyFault => Sys2Proof.Machine.execSupplyFault s
  | .vreqAck => Sys2Proof.Machine.execVreqAck s
  | .vreqTimeout => Sys2Proof.Machine.execVreqTimeout s
  | .napEntry k => Sys2Proof.Machine.execNapEntry k s
  | .wakeGrant => Sys2Proof.Machine.execWakeGrant s
  | .clusterDisable a v => Sys2Proof.Machine.execClusterDisable a v s
  | .coreWatchdog x => Sys2Proof.Machine.execCoreWatchdog x s
  | .coreCrash x cause => Sys2Proof.Machine.execCoreCrash x cause s
  | .coreRestartDone x => Sys2Proof.Machine.execCoreRestartDone x s
  | .componentFault x comp => Sys2Proof.Machine.execComponentFault x comp s
  | .ccDeadline k => Sys2Proof.Machine.execCcDeadline k s
  | .licenceInstall a v => Sys2Proof.Machine.execLicenceInstall a v s
  | .licenceResult r => Sys2Proof.Machine.execLicenceResult r s
  | .collectionStartRequest a v => Sys2Proof.Machine.execCollectionStartRequest a v s
  | .collctlStart f => Sys2Proof.Machine.execCollctlStart f s
  | .collctlAck f => Sys2Proof.Machine.execCollctlAck f s
  | .collctlWait f => Sys2Proof.Machine.execCollctlWait f s
  | .startWaitRepeat c => Sys2Proof.Machine.execStartWaitRepeat c s
  | .rereachTimeout c child => Sys2Proof.Machine.execRereachTimeout c child s
  | .collctlRereach f => Sys2Proof.Machine.execCollctlRereach f s
  | .startTimeout c => Sys2Proof.Machine.execStartTimeout c s
  | .collctlCommit f => Sys2Proof.Machine.execCollctlCommit f s
  | .collctlAbort f => Sys2Proof.Machine.execCollctlAbort f s
  | .outcomeTimeout c => Sys2Proof.Machine.execOutcomeTimeout c s
  | .collctlOutcome f => Sys2Proof.Machine.execCollctlOutcome f s
  | .collctlEffective f => Sys2Proof.Machine.execCollctlEffective f s
  | .teardownRequest a v => Sys2Proof.Machine.execTeardownRequest a v s
  | .collctlTeardown f => Sys2Proof.Machine.execCollctlTeardown f s
  | .collctlTdDone f => Sys2Proof.Machine.execCollctlTdDone f s
  | .teardownForceClose c => Sys2Proof.Machine.execTeardownForceClose c s
  | .registerRead a addr => Sys2Proof.Machine.execRegisterRead a addr s
  | .tlPwrWarnNHigh => Sys2Proof.Machine.execTlPwrWarnNHigh s
  | .tlMnUpChange n up => Sys2Proof.Machine.execTlMnUpChange n up s
  | .handoverComplete x => Sys2Proof.Machine.execHandoverComplete x s
  | .memberDetach place => Sys2Proof.Machine.execMemberDetach place s
  | .spanPeerSilent place => Sys2Proof.Machine.execSpanPeerSilent place s
  | .testResultReceive f => Sys2Proof.Machine.execTestResultReceive f s

end Sys2Proof.Machine
end

