-- ==== Sys2Proof/Machine/Tick.lean ====
section
/-!
DEFINITION. One tclk that passes while no command waits: the table of commands has no row for it, and it is what `step` does on an
empty queue (DESIGN CHOICE, log 4). The queues that became eligible in the tclk that ends join their active lists, the tclk count
and the free-running counter advance, the probe array counts, a reload of static features writes
its next row, paused tree units are counted, and teardowns look for their end. Every other event in time is a command of its own, sent when it is due.
-/

namespace Sys2Proof.Machine

/-- One tclk of the free-running counter at the nominal ratio of tref (R43, R46): one count in D, five counts per eight tclk in
A64, spread evenly. -/
def TimeState.count (t : TimeState) (c : Conf) : TimeState :=
  match c with
  | .d => { t with frc := t.frc + 1 }
  | .a64 => { t with frc := t.frc + BitVec.ofNat 64 ((t.frcFrac + 5) / 8), frcFrac := (t.frcFrac + 5) % 8 }

/-- One tclk of the units. -/
def Blk.tick (s : Blk) : Blk :=
  let s := s.refreshAll
  let s := { s with tclk := s.tclk + 1, time := s.time.count s.conf }
  s.passDue.probeTick.reloadTick.alarmPause.tdPollAll

/-- One tclk of the instance; in reset only time passes. -/
def State.tick (s : State) : State :=
  if s.blk.inReset then s.modBlk (fun b => { b with tclk := b.tclk + 1 })
  else settle { s with blk := s.blk.tick }

end Sys2Proof.Machine
end

