-- ==== Sys2Proof/Safety.lean ====
section
/-!
DEFINITION. The words that statements about the machine are made of: a command that is answered by a next state, a context that
issues an instruction, an access that the control port accepts, and what a good state is.
-/

namespace Sys2Proof.Machine

/-- Command `i` on `s` is answered by a next state of which `P` holds. -/
def Gives (i : Instr) (s : State) (P : State → Prop) : Prop := ∃ t, exec i s = .next t ∧ P t

/-- Out of reset, command `i` on `s` leaves the units as `b`, and what that has raised is acted on. -/
def Becomes (i : Instr) (s : State) (b : Blk) : Prop := exec i s = .next (settle { s with blk := b })

/-- The instance takes frame `f` of type `ty`: then the units are `b` and the frame is `tk` (R338, R345). -/
def Hears (s : State) (f : RxFrame) (ty : Nat) (b : Blk) (tk : Taken) : Prop :=
  s.blk.inReset = false ∧ s.blk.takeFrame f ty = (b, some tk)

/-- The same for a frame whose payload says what it is. -/
def HearsSub (s : State) (f : RxFrame) (ty sub : Nat) (b : Blk) (tk : Taken) : Prop :=
  s.blk.inReset = false ∧ s.blk.takeSub f ty sub = (b, some tk)

/-- The same for a frame that `p` selects. -/
def HearsIf (s : State) (f : RxFrame) (ty : Nat) (p : Frame → Bool) (b : Blk) (tk : Taken) : Prop :=
  s.blk.inReset = false ∧ s.blk.takeIf f ty p = (b, some tk)

/-- The present stage of bring-up, `n`, has made the report of a result, a code and a detail (R441, R442). -/
def Reported (b : Blk) (n result code : Nat) (detail : Word) : Prop :=
  b.reg (.boot .BOOT_REPORT) = reportWord n result code ∧ b.reg (.boot .BOOT_DETAIL) = detail

/-! ### The Dexey engines -/

/-- Context `k` of the instance is `x`, may issue, and its next word is `w`, an instruction of encoding `e` that passes the checks at
issue (R149, R185 to R188). -/
def Issues (s : State) (k : Nat) (x : Ctx) (w : Word) (e : Enc) : Prop :=
  s.blk.inReset = false ∧ Store.look s.blk.ctxs k = some x ∧ s.blk.mayIssue k x = true ∧ x.word = w ∧
    undefWord w = false ∧ e.is w = true ∧ s.blk.encFault e w = none

/-- From `s` to `t` nothing of the units has changed but contexts, core trace, memories and the recorder's marks. -/
def SameUnits (s t : Blk) : Prop :=
  t = { s with ctxs := t.ctxs, trace := t.trace, regPoi := t.regPoi, raised := t.raised, draws := t.draws, mem := t.mem }

/-- From `s` to `t` context `k` has retired one instruction, which leaves it as `y`, and goes on at `npc`; every other context, every
unit and every memory but XM is as before. Where the trace buffer of the engine has neither EN nor a comparator set, nothing else of the whole machine has
changed, but what the recorder makes of anything raised before. -/
def Retired (s t : State) (k : Nat) (y : Ctx) (npc : Nat) : Prop :=
  t.pending = s.pending ∧ t.blk.ctxs = Store.put s.blk.ctxs k (y.usedUp.goOn npc) ∧
  SameUnits s.blk t.blk ∧ t.blk.mem = { s.blk.mem with xm := t.blk.mem.xm, xmPoi := t.blk.mem.xmPoi } ∧
  (s.blk.tbOff (s.blk.tbOf y).1 = true →
    t = settle (s.modBlk (fun b => b.modCtxs (fun m => Store.put m k (y.usedUp.goOn npc)))))

/-- The event of an EVT (R213, Table 12-7): code 0x8000 + imm, collection, context and pc as source, sd and the low 48 bits of sa. -/
def evtEvent (k : Nat) (x : Ctx) (w : Word) : Ev :=
  { code := BitVec.ofNat 16 (0x8000 + fImm w % 0x4000),
    src := w32 (1 <<< 30 + (x.coll % 64) <<< 24 + (k % 1024) <<< 14 + x.pc / 4 % 8192),
    arg0 := x.s (fRd w), arg1 := (x.s (fRa w)).setWidth 48, poi := x.sp (fRd w) || x.sp (fRa w) }

/-- The scalar instructions of three registers: command, FUNC and result (Table 6-2, R190, R192). -/
def scalarForms : List ((Nat → Instr) × Nat × (Dword → Dword → Dword)) :=
  [(.add, 0, fun a b => a + b), (.sub, 1, fun a b => a - b), (.mul, 2, fun a b => a * b), (.and, 4, fun a b => a &&& b),
   (.or, 5, fun a b => a ||| b), (.xor, 6, fun a b => a ^^^ b), (.sll, 8, fun a b => a <<< (b.toNat % 64)),
   (.srl, 9, fun a b => a >>> (b.toNat % 64)), (.sra, 0xA, fun a b => a.sshiftRight (b.toNat % 64)),
   (.slt, 0xC, fun a b => if a.toInt < b.toInt then 1 else 0), (.sltu, 0xD, fun a b => if a.toNat < b.toNat then 1 else 0)]

/-- The instructions with a 16-bit immediate: command, encoding and result (Table 6-6). -/
def immForms : List ((Nat → Instr) × Enc × (Dword → BitVec 16 → Dword)) :=
  [(.addi, eImm 8, fun a i => a + i.signExtend 64), (.andi, eImm 9, fun a i => a &&& i.setWidth 64),
   (.ori, eImm 0xA, fun a i => a ||| i.setWidth 64), (.slli, eShi 0xB, fun a i => a <<< (i.toNat % 64)),
   (.srli, eShi 0xC, fun a i => a >>> (i.toNat % 64)), (.srai, eShi 0xD, fun a i => a.sshiftRight (i.toNat % 64)),
   (.movi, eMovi, fun _ i => i.signExtend 64), (.shori, eImm 0xF, fun a i => (a <<< 16) ||| i.setWidth 64)]

/-- The integer vector instructions: command, FUNC and the result of a lane (R190, R194). -/
def vintForms : List ((Nat → Instr) × Nat × (Word → Word → Word)) :=
  [(.vadd, 0, fun a b => a + b), (.vsub, 1, fun a b => a - b), (.vmul, 2, fun a b => a * b), (.vand, 4, fun a b => a &&& b),
   (.vor, 5, fun a b => a ||| b), (.vxor, 6, fun a b => a ^^^ b), (.vsll, 8, fun a b => a <<< (b.toNat % 32)),
   (.vsrl, 9, fun a b => a >>> (b.toNat % 32)), (.vsra, 0xA, fun a b => a.sshiftRight (b.toNat % 32)),
   (.vmin, 0xC, fun a b => if a.toInt ≤ b.toInt then a else b), (.vmax, 0xD, fun a b => if b.toInt ≤ a.toInt then a else b)]

/-- The floating-point vector instructions of two sources: command, FUNC and the rounding operation of one element. -/
def vflForms : List ((Nat → Instr) × Nat × (Fmt → Nat → Nat → Nat)) :=
  [(.vfadd, 0, Fmt.add), (.vfsub, 1, Fmt.sub), (.vfmul, 2, Fmt.mul), (.vfmin, 4, fun f => f.minmax false),
   (.vfmax, 5, fun f => f.minmax true)]

/-- The conversions of one source: command, encoding and the result of a lane in the type of the word (R196). -/
def cvtForms : List ((Nat → Instr) × Enc × (Word → Word → Word)) :=
  [(.vcvtif, eVcvt 8, fun _ a => w32 (cvtIF a)), (.vcvtfi, eVcvt 9, fun _ a => cvtFI a.toNat),
   (.vwidl, eVwid 0xA, fun w a => w32 ((pkFmt (fTyp w)).widen (el0 a))),
   (.vwidh, eVwid 0xB, fun w a => w32 ((pkFmt (fTyp w)).widen (el1 a)))]

/-- The compares: command, FUNC and the relation (R197). -/
def cmpForms : List ((Nat → Instr) × Nat × (Word → Word → Bool)) :=
  [(.vcmpeq, 0, fun a b => a == b), (.vcmplt, 1, fun a b => decide (a.toInt < b.toInt)),
   (.vfcmpeq, 8, fun a b => (lane32 a).feq (lane32 b)), (.vfcmplt, 9, fun a b => (lane32 a).lt (lane32 b)),
   (.vfcmple, 0xA, fun a b => (lane32 a).lt (lane32 b) || (lane32 a).feq (lane32 b)),
   (.vfcmpun, 0xB, fun a b => (lane32 a).isNan || (lane32 b).isNan)]

/-- The mask operations: command, FUNC and result. -/
def maskForms : List ((Nat → Instr) × Nat × (BitVec 16 → BitVec 16 → BitVec 16)) :=
  [(.pand, 0x10, fun a b => a &&& b), (.por, 0x11, fun a b => a ||| b), (.pxor, 0x12, fun a b => a ^^^ b)]

/-- The branches: command, encoding, condition and poison of the register in bits [25:21] (R192, R193). -/
def branchForms : List ((Nat → Instr) × Enc × (Ctx → Nat → Bool) × (Ctx → Nat → Bool)) :=
  [(.beqz, eBr 0x32, fun x r => x.s r == 0, Ctx.sp), (.bnez, eBr 0x33, fun x r => x.s r != 0, Ctx.sp),
   (.bltz, eBr 0x34, fun x r => (x.s r).msb, Ctx.sp), (.bgez, eBr 0x35, fun x r => !(x.s r).msb, Ctx.sp),
   (.bpany, eBp 0x36, fun x r => x.p r != 0, Ctx.pp), (.bpall, eBp 0x37, fun x r => x.p r == 0xFFFF, Ctx.pp)]

/-- The scalar loads: command, MAJOR, bytes and the value of the number read (Table 6-6). -/
def loadForms : List ((Nat → Instr) × Nat × Nat × (Nat → Dword)) :=
  [(.lbu, 0x10, 1, BitVec.ofNat 64), (.lhu, 0x11, 2, BitVec.ofNat 64),
   (.lw, 0x12, 4, fun n => (BitVec.ofNat 32 n).signExtend 64), (.lwu, 0x13, 4, BitVec.ofNat 64), (.ld, 0x14, 8, BitVec.ofNat 64)]

/-- The scalar stores: command, MAJOR and bytes. -/
def storeForms : List ((Nat → Instr) × Nat × Nat) := [(.sb, 0x18, 1), (.sh, 0x19, 2), (.sw, 0x1A, 4), (.sd, 0x1B, 8)]

/-- The launches: command, encoding and operation (R206, R208 to R210). -/
def launchForms : List ((Nat → Instr) × Enc × JobOp) :=
  [(.skins, eSkins, .skins), (.skmrg, eLaunch 1 none, .skmrg), (.skq, eLaunch 2 none, .skq), (.topk, eLaunch 3 none, .topk),
   (.tscore, eLaunch 8 (some 0), .tscore), (.pack, eLaunch 0x10 (some 3), .pack), (.unpack, eLaunch 0x11 (some 3), .unpack)]

/-! ### Frames -/

/-- The commands that take every frame of a type: command and FTYPE (R472). -/
def WholeFrame (row : (RxFrame → Instr) × Nat) : Prop :=
  row ∈ [(.tokenFrameReceive, ftToken), (.recordFrameReceive, ftRecord), (.timeFrameReceive, ftTime), (.listReceive, ftList),
   (.fenceFrameReceive, ftFence)]

/-- The commands that take the frames of a type with one SUB: command, FTYPE and SUB (Tables 16-7, 16-8). -/
def SubFrame (row : (RxFrame → Instr) × Nat × Nat) : Prop :=
  row ∈ [(.attachRequest, ftAttach, 1), (.attachReply, ftAttach, 2), (.peerTable, ftPeer, 1), (.peerTableAck, ftPeer, 2),
   (.primaryFrame, ftPeer, 3), (.collctlStart, ftCollctl, 1), (.collctlAck, ftCollctl, 2), (.collctlWait, ftCollctl, 3),
   (.collctlCommit, ftCollctl, 4), (.collctlAbort, ftCollctl, 5), (.collctlTeardown, ftCollctl, 6), (.collctlTdDone, ftCollctl, 7),
   (.collctlRereach, ftCollctl, 8), (.collctlOutcome, ftCollctl, 9), (.collctlEffective, ftCollctl, 0xA), (.fetchRequest, ftFetch, 1),
   (.testResultReceive, ftHealth, 1), (.historyRecordReceive, ftHealth, 1), (.guardDeltaReceive, ftHealth, 2),
   (.guardAckReceive, ftHealth, 3), (.guardCommitReceive, ftHealth, 4), (.patternSetReceive, ftHealth, 5),
   (.engineTypesReceive, ftHealth, 6)]

/-! ### The control port -/

/-- Register `r` lies at its address inside the window, and the instance has it (R489 to R491). -/
def Lies (s : State) (r : Reg) : Prop :=
  Reg.at s.blk.conf (r.addr s.blk.conf) = some r ∧ s.blk.serves r = true ∧ 0x10000 ≤ r.addr s.blk.conf ∧
    s.badAddr (r.addr s.blk.conf) = false

/-- A direct write of `v` to `r` is accepted: the initiator holds no first write, the value and the level are right, the register is
not guarded and its domain is not busy (R370, R495, R501, R504). -/
def Accepts (s : State) (a : Access) (r : Reg) (v : Word) : Prop :=
  s.blk.inReset = false ∧ Lies s r ∧ s.held a = none ∧ s.blk.badValue r v = false ∧ s.blk.allows a true r = true ∧
    (r.info s.blk.conf).acc ≠ .wg ∧ s.blk.busyFor r = false

/-- The initiator holds the first write of a pair to the guarded register `r` with value `v`, and its level is still right. -/
def Pairs (s : State) (a : Access) (r : Reg) (v : Word) : Prop :=
  s.blk.inReset = false ∧ Lies s r ∧ s.badAddr (r.addr s.blk.conf + 0x800) = false ∧
    s.held a = some ⟨r.addr s.blk.conf, v⟩ ∧ s.blk.allows a true r = true

/-- The state after an access to `r` has left `t` and is acknowledged: the word's poison is gone (R355). -/
def Acked (t : State) (a : Nat) : State := settle ((t.clearWord a).answer .ack 0 false)

/-- The commands that are a direct write of one register, and the register. -/
def PortRow (c : Access → Word → Instr) (r : Reg) : Prop := ∃ n k : Nat, k < 8 ∧ (c, r) ∈
  [(.bootGo, .boot .BOOT_GO), (.versionCheck, .fwc .FWC_HOST_VER), (.servoOffsetPost, .tim .TIM_SERVO_OFS_LO),
   (fun a => .rateNomWrite a true, .tim .TIM_RATE_NOM_HI), (fun a => .rateNomWrite a false, .tim .TIM_RATE_NOM_LO),
   (.holdEnter, .tim .TIM_CTRL), (.leapAtWrite, .tim .TIM_LEAP_AT_LO), (.leapKindWrite, .tim .TIM_LEAP_CTRL),
   (.stampFifoPop, .tim .TIM_TSF_POP), (fun a => .triggerArm a n, .tim (.TIM_TTn_TIME_LO n)),
   (fun a => .trnMark a n, .trn (.TRN_MARK n)), (fun a => .trackerEnable a n, .trn (.TRN_CTRL n)),
   (fun a => .trackerDisable a n, .trn (.TRN_CTRL n)), (fun a => .counterWrite a n k, .prb (.PRB_Gg_CNTc_LO n k)),
   (fun a => .counterWrite a n 8, .prb (.PRB_Gg_FIX_LO n)), (fun a => .groupClear a n, .prb (.PRB_Gg_CTRL n)),
   (.probeEnable, .prb .PRB_CTRL), (.probeDisable, .prb .PRB_CTRL), (fun a => .channelDisable a n, .prb (.PRB_CH_EN n)),
   (.digestStoreClear, .prb .PRB_CTRL), (.samplerEnable, .prb .PRB_SMP_CTRL), (.recordPathEnable, .rcp .RCP_CTRL),
   (.htEnable, .rcp .RCP_CTRL), (fun a => .localQueueWrite a n, .rcp (.RCP_LQ n)), (.fwFreeze, .rcp .RCP_FW_FREEZE),
   (.fwRelease, .rcp .RCP_FW_RELEASE), (fun a => .traceEnable a n, .ctr (.CTR_CTRL n)), (.debugAuthGo, .ctr .CTR_AUTH_GO),
   (.debugGrantRevoke, .ctr .CTR_AUTH_REVOKE), (.linkReport, .sku .SKU_LINK_REPORT),
   (fun a => .modelLoad a n, .tre (.TRE_En_LOAD n)), (.rekeyNow, .qsc .QSC_REKEY_NOW), (.eventInject, .evr .EVR_INJ_CODE),
   (.flushNow, .evr .EVR_FLUSH_NOW), (.snapshotTrigger, .snp .SNP_TRIG), (.watchAdd, .hlt .HLT_WL_ADD_LO),
   (.ceReport, .hlt .HLT_CE_REPORT), (.retireConfirm, .hlt .HLT_RETIRE_LO), (.guardRebuild, .hlt .HLT_GRD_REBUILD),
   (.updateGo, .fwc .FWC_UPD_GO), (.collectionStartRequest, .boot .BOOT_CS_GO), (.teardownRequest, .boot .BOOT_TD)]

/-- The commands that complete a guarded pair, the register, and the value of the pair. -/
def PairRow (c : Access → Word → Instr) (r : Reg) (f : Word → Word) : Prop := (c, r, f) ∈
  [(.bootRerun, .boot .BOOT_RERUN, fun v => v), (.timeStep, .tim .TIM_STEP_LO, fun v => v),
   (.unitReset, .err .ERR_UNIT_RESET, fun v => v), (.snapshotRelease, .snp .SNP_RELEASE, fun v => v),
   (.manualStress, .hlt .HLT_STRESS, fun v => v), (.hostFence, .hlt .HLT_FENCE, fun v => v ||| 0x80000000#32),
   (.hostLift, .hlt .HLT_FENCE, fun v => v &&& 0x7FFFFFFF#32), (.clusterDisable, .pwr .PWR_CL_DISABLE, fun v => v),
   (.licenceInstall, .lic .LIC_INSTALL, fun v => v)]

/-! ### What a good state is -/

/-- The event recorder is well formed (R373 to R378): the ring holds exactly the records of the last 8,192 counts that have been
written, in canonical form; a running flush covers records that have been written, and at most the ring. -/
def EvrState.good (v : EvrState) : Prop :=
  Store.sorted v.ring = true ∧ (∀ k, (Store.look v.ring k).isSome = decide (k < 8192 ∧ k < v.wcount)) ∧
  Store.wf Bucket.full v.buckets = true ∧
  (∀ f, v.flush = some f → f.first ≤ f.next ∧ f.next ≤ v.wcount ∧ f.next ≤ f.first + 8192)

/-- The invariant of the machine's recorder and snapshot network: nothing raised is left over, the recorder is well formed, a frozen
snapshot exists, and a latched set is that of a well-formed recorder and is no younger than the count of sets (R374, R377, R380). -/
def RecorderInv (s : State) : Prop :=
  s.blk.raised = [] ∧ s.evr.good ∧ (s.snap.frozen = true → s.snap.set.isSome = true) ∧
  (∀ l, s.snap.set = some l → l.evr.good ∧ l.blk.raised = [] ∧ l.cnt ≤ s.snap.cnt)

end Sys2Proof.Machine
end

