-- ==== Sys2Proof/Certificates/Slice0/Obligations.lean ====
section
/-!
DEFINITION. The statements for the provers, from the numbered rules of the spec.
-/

open Sys2Proof Sys2Proof.Machine

/-! ### The Dexey engines -/

/-- ADD, SUB, MUL, AND, OR, XOR, SLL, SRL, SRA, SLT, SLTU (R190, R192, R154, R155): sd receives the result and the poison of
either source; the context goes on at the next word; nothing else of the context or the machine changes but core trace. -/
def Obligations.ScalarInstructions : Prop :=
  ∀ row ∈ scalarForms, ∀ (s : State) (k : Nat) (x : Ctx) (w : Word), Issues s k x w (eScalar row.2.1) →
    Gives (row.1 k) s (fun t => Retired s t k
      (x.setS (fRd w) (row.2.2 (x.s (fRa w)) (x.s (fRb w))) (x.sp (fRa w) || x.sp (fRb w))) (x.pc + 4))

/-- ADDI, ANDI, ORI, SLLI, SRLI, SRAI, MOVI, SHORI (Table 6-6). -/
def Obligations.ImmediateInstructions : Prop :=
  ∀ row ∈ immForms, ∀ (s : State) (k : Nat) (x : Ctx) (w : Word), Issues s k x w row.2.1 →
    Gives (row.1 k) s (fun t => Retired s t k
      (x.setS (fRd w) (row.2.2 (x.s (fRa w)) (w.setWidth 16)) (x.sp (fRa w))) (x.pc + 4))

/-- The integer vector instructions (R190, R194): each lane that the mask enables receives the result of that lane of the sources and
their poison, and the other lanes keep theirs; a poisoned mask takes the exception POISON 0x3. -/
def Obligations.VectorIntegerInstructions : Prop :=
  ∀ row ∈ vintForms, ∀ (s : State) (k : Nat) (x : Ctx) (w : Word), Issues s k x w (eVint row.2.1) →
    (x.pp (fPm w) = false → Gives (row.1 k) s (fun t => Retired s t k
      (x.setLanes (fRd w) (x.p (fPm w)) (fun i => (row.2.2 (x.v (fRa w) i) (x.v (fRb w) i), x.vp (fRa w) i || x.vp (fRb w) i)))
      (x.pc + 4))) ∧
    (x.pp (fPm w) = true → exec (row.1 k) s = .next (settle { s with blk := s.blk.dxFault k x 1 3 0 0 }))

/-- VFADD, VFSUB, VFMUL, VFMIN, VFMAX, VFMA, VNARR and the conversions of one source (R194 to R196): T 0 is one binary32 element a
lane, T 1 and 2 are two binary16 or bfloat16 elements; VFMA rounds vd + va × vb once. -/
def Obligations.VectorFloatInstructions : Prop :=
  (∀ row ∈ vflForms, ∀ (s : State) (k : Nat) (x : Ctx) (w : Word), Issues s k x w (eVfl row.2.1) → x.pp (fPm w) = false →
    Gives (row.1 k) s (fun t => Retired s t k (x.setLanes (fRd w) (x.p (fPm w)) (fun i =>
      (if fTyp w = 0 then w32 (row.2.2 f32 (x.v (fRa w) i).toNat (x.v (fRb w) i).toNat)
        else pack2 (row.2.2 (pkFmt (fTyp w)) (el0 (x.v (fRa w) i)) (el0 (x.v (fRb w) i)))
          (row.2.2 (pkFmt (fTyp w)) (el1 (x.v (fRa w) i)) (el1 (x.v (fRb w) i))),
       x.vp (fRa w) i || x.vp (fRb w) i))) (x.pc + 4))) ∧
  (∀ (s : State) (k : Nat) (x : Ctx) (w : Word), Issues s k x w (eVfl 3) → x.pp (fPm w) = false →
    Gives (.vfma k) s (fun t => Retired s t k (x.setLanes (fRd w) (x.p (fPm w)) (fun i =>
      (if fTyp w = 0 then w32 (f32.fma (x.v (fRd w) i).toNat (x.v (fRa w) i).toNat (x.v (fRb w) i).toNat)
        else pack2 ((pkFmt (fTyp w)).fma (el0 (x.v (fRd w) i)) (el0 (x.v (fRa w) i)) (el0 (x.v (fRb w) i)))
          ((pkFmt (fTyp w)).fma (el1 (x.v (fRd w) i)) (el1 (x.v (fRa w) i)) (el1 (x.v (fRb w) i))),
       x.vp (fRd w) i || x.vp (fRa w) i || x.vp (fRb w) i))) (x.pc + 4))) ∧
  (∀ (s : State) (k : Nat) (x : Ctx) (w : Word), Issues s k x w eVnarr → x.pp (fPm w) = false →
    Gives (.vnarr k) s (fun t => Retired s t k (x.setLanes (fRd w) (x.p (fPm w)) (fun i =>
      (pack2 ((pkFmt (fTyp w)).narrow (x.v (fRa w) i).toNat) ((pkFmt (fTyp w)).narrow (x.v (fRb w) i).toNat),
       x.vp (fRa w) i || x.vp (fRb w) i))) (x.pc + 4))) ∧
  (∀ row ∈ cvtForms, ∀ (s : State) (k : Nat) (x : Ctx) (w : Word), Issues s k x w row.2.1 → x.pp (fPm w) = false →
    Gives (row.1 k) s (fun t => Retired s t k (x.setLanes (fRd w) (x.p (fPm w)) (fun i =>
      (row.2.2 w (x.v (fRa w) i), x.vp (fRa w) i))) (x.pc + 4)))

/-- The compares (R197): bit i of pd is the relation between lanes i where the mask enables lane i, else 0; its poison is that of any
lane compared. The mask operations, MOVSP, MOVPS, VSPLAT, VEXT, VRSUM (R190). -/
def Obligations.MaskAndLaneInstructions : Prop :=
  (∀ row ∈ cmpForms, ∀ (s : State) (k : Nat) (x : Ctx) (w : Word), Issues s k x w (eCmp row.2.1) → x.pp (fPm w) = false →
    ∃ v : BitVec 16, (∀ i, i < 16 → v.getLsbD i = ((x.p (fPm w)).getLsbD i && row.2.2 (x.v (fRa w) i) (x.v (fRb w) i))) ∧
      Gives (row.1 k) s (fun t => Retired s t k
        (x.setP (fRd w) v ((lanesOf (x.p (fPm w))).any (fun i => x.vp (fRa w) i || x.vp (fRb w) i))) (x.pc + 4))) ∧
  (∀ row ∈ maskForms, ∀ (s : State) (k : Nat) (x : Ctx) (w : Word), Issues s k x w (ePlog row.2.1) →
    Gives (row.1 k) s (fun t => Retired s t k
      (x.setP (fRd w) (row.2.2 (x.p (fRa w)) (x.p (fRb w))) (x.pp (fRa w) || x.pp (fRb w))) (x.pc + 4))) ∧
  (∀ (s : State) (k : Nat) (x : Ctx) (w : Word), Issues s k x w eMovsp →
    Gives (.movsp k) s (fun t => Retired s t k (x.setP (fRd w) ((x.s (fRa w)).setWidth 16) (x.sp (fRa w))) (x.pc + 4))) ∧
  (∀ (s : State) (k : Nat) (x : Ctx) (w : Word), Issues s k x w eMovps →
    Gives (.movps k) s (fun t => Retired s t k (x.setS (fRd w) ((x.p (fRa w)).setWidth 64) (x.pp (fRa w))) (x.pc + 4))) ∧
  (∀ (s : State) (k : Nat) (x : Ctx) (w : Word), Issues s k x w eVsplat → x.pp (fPm w) = false →
    Gives (.vsplat k) s (fun t => Retired s t k
      (x.setLanes (fRd w) (x.p (fPm w)) (fun _ => ((x.s (fRa w)).setWidth 32, x.sp (fRa w)))) (x.pc + 4))) ∧
  (∀ (s : State) (k : Nat) (x : Ctx) (w : Word), Issues s k x w eVext →
    Gives (.vext k) s (fun t => Retired s t k
      (x.setS (fRd w) ((x.v (fRa w) (fRb w)).setWidth 64) (x.vp (fRa w) (fRb w))) (x.pc + 4))) ∧
  (∀ (s : State) (k : Nat) (x : Ctx) (w : Word), Issues s k x w eVrsum → x.pp (fPm w) = false →
    Gives (.vrsum k) s (fun t => Retired s t k
      (x.setS (fRd w) (BitVec.ofInt 64 (((lanesOf (x.p (fPm w))).map (fun i => (x.v (fRa w) i).toInt)).sum))
        ((lanesOf (x.p (fPm w))).any (x.vp (fRa w)))) (x.pc + 4)))

/-- BRA, JAL, JR and the branches (R192, R193): the target is the pc plus four times OFF, or sa for JR, which faults where sa is
poisoned or no multiple of 4; JAL and JR leave the pc plus 4 in sd; a branch on a poisoned register faults. -/
def Obligations.TransferInstructions : Prop :=
  (∀ (s : State) (k : Nat) (x : Ctx) (w : Word), Issues s k x w eBra →
    Gives (.bra k) s (fun t => Retired s t k x (x.target w))) ∧
  (∀ (s : State) (k : Nat) (x : Ctx) (w : Word), Issues s k x w (eBr 0x31) →
    Gives (.jal k) s (fun t => Retired s t k (x.setS (fRd w) (BitVec.ofNat 64 (x.pc + 4)) false) (x.target w))) ∧
  (∀ (s : State) (k : Nat) (x : Ctx) (w : Word), Issues s k x w eJr →
    (x.sp (fRa w) = false → (x.s (fRa w)).toNat % 4 = 0 → Gives (.jr k) s (fun t => Retired s t k
      (x.setS (fRd w) (BitVec.ofNat 64 (x.pc + 4)) false) (x.s (fRa w)).toNat)) ∧
    (x.sp (fRa w) = false → (x.s (fRa w)).toNat % 4 ≠ 0 →
      exec (.jr k) s = .next (settle { s with blk := s.blk.dxFault k x 3 4 (x.s (fRa w)).toNat 0 })) ∧
    (x.sp (fRa w) = true →
      exec (.jr k) s = .next (settle { s with blk := s.blk.dxFault k x 1 2 (x.s (fRa w)).toNat 0 }))) ∧
  (∀ row ∈ branchForms, ∀ (s : State) (k : Nat) (x : Ctx) (w : Word), Issues s k x w row.2.1 →
    (row.2.2.2 x (fRd w) = false → Gives (row.1 k) s (fun t => Retired s t k x
      (if row.2.2.1 x (fRd w) then x.target w else x.pc + 4))) ∧
    (row.2.2.2 x (fRd w) = true → exec (row.1 k) s = .next (settle { s with blk := s.blk.dxFault k x 1 1 0 0 })))

/-- LBU, LHU, LW, LWU, LD and VLD (R152, R192, R193, Table 6-6): an unpoisoned aligned address that the context may read gives the
bytes there, lowest first, with their poison; a misaligned address faults with ILLEGAL 0x4, a poisoned one with POISON 0x2, and one
that the context may not read with ACCESS. -/
def Obligations.LoadInstructions : Prop :=
  (∀ row ∈ loadForms, ∀ (s : State) (k : Nat) (x : Ctx) (w : Word), Issues s k x w (eLd row.2.1) →
    (∀ bs, x.sp (fRa w) = false → x.ea w % row.2.2.1 = 0 → s.blk.dxRead k x (x.ea w) row.2.2.1 = .ok bs →
      Gives (row.1 k) s (fun t => Retired s t k
        (x.setS (fRd w) (row.2.2.2 (leNat (bs.map Prod.fst))) (bs.any Prod.snd)) (x.pc + 4))) ∧
    (∀ sub a, x.sp (fRa w) = false → x.ea w % row.2.2.1 = 0 → s.blk.dxRead k x (x.ea w) row.2.2.1 = .fault sub a →
      exec (row.1 k) s = .next (settle { s with blk := s.blk.dxFault k x 2 sub a 0 })) ∧
    (x.sp (fRa w) = false → x.ea w % row.2.2.1 ≠ 0 →
      exec (row.1 k) s = .next (settle { s with blk := s.blk.dxFault k x 3 4 (x.ea w) 0 })) ∧
    (x.sp (fRa w) = true → exec (row.1 k) s = .next (settle { s with blk := s.blk.dxFault k x 1 2 (x.ea w) 0 }))) ∧
  (∀ (s : State) (k : Nat) (x : Ctx) (w : Word) (bs : List (Byte × Bool)), Issues s k x w (eVmem 0x15) → x.sp (fRa w) = false →
    x.ea w % 4 = 0 → s.blk.dxRead k x (x.ea w) 64 = .ok bs →
    Gives (.vld k) s (fun t => Retired s t k (x.setLanes (fRd w) 0xFFFF (fun i => (wordsOf bs).getD i (0, false))) (x.pc + 4)))

/-- SB, SH, SW, SD and VST (R153, R192, R193): the low bytes of sd, or the 16 lanes, enter the context's store buffer at the address
that sa and the immediate give, with their poison; every memory is as before until the stores become visible. -/
def Obligations.StoreInstructions : Prop :=
  (∀ row ∈ storeForms, ∀ (s : State) (k : Nat) (x : Ctx) (w : Word), Issues s k x w (eLd row.2.1) →
    (∀ sp o, x.sp (fRa w) = false → x.ea w % row.2.2 = 0 → s.blk.dxWrite k x (x.ea w) row.2.2 = .ok (sp, o) →
      Gives (row.1 k) s (fun t => Retired s t k
        { x with sbuf := x.sbuf ++ [⟨sp, o, bytesPoi (leBytes row.2.2 (x.s (fRd w)).toNat) (x.sp (fRd w))⟩] } (x.pc + 4))) ∧
    (∀ sub, x.sp (fRa w) = false → x.ea w % row.2.2 = 0 → s.blk.dxWrite k x (x.ea w) row.2.2 = .error sub →
      exec (row.1 k) s = .next (settle { s with blk := s.blk.dxFault k x 2 sub (x.ea w) 0 })) ∧
    (x.sp (fRa w) = false → x.ea w % row.2.2 ≠ 0 →
      exec (row.1 k) s = .next (settle { s with blk := s.blk.dxFault k x 3 4 (x.ea w) 0 })) ∧
    (x.sp (fRa w) = true → exec (row.1 k) s = .next (settle { s with blk := s.blk.dxFault k x 1 2 (x.ea w) 0 }))) ∧
  (∀ (s : State) (k : Nat) (x : Ctx) (w : Word) (sp : Space) (o : Nat), Issues s k x w (eVmem 0x1C) → x.sp (fRa w) = false →
    x.ea w % 4 = 0 → s.blk.dxWrite k x (x.ea w) 64 = .ok (sp, o) →
    Gives (.vst k) s (fun t => Retired s t k (x.store sp o
      (bytesOf ((List.range 16).map (fun i => (x.v (fRd w) i, x.vp (fRd w) i))))) (x.pc + 4)))

/-- WSADD, WSMRG, WSZ, WSRND, WSLD, WSST, WSPK and WSUPK (R202 to R205): exact sums of 320 bits; the vector forms of WSADD apply mask rc;
images of 48 bytes, sparse forms of up to 44 bytes. -/
def Obligations.WideSumInstructions : Prop :=
  (∀ (s : State) (k : Nat) (x : Ctx) (w : Word), Issues s k x w eWsaddS ∨ Issues s k x w eWsaddV →
    x.pp (if fSel w < 4 then 0 else fRc w) = false →
    Gives (.wsadd k) s (fun t => Retired s t k
      (x.setW (fRd w) ((wsSource x w (x.p (if fSel w < 4 then 0 else fRc w))).foldl (fun a v => a.add v.1) (x.w (fRd w)))
        (x.wp (fRd w) || (wsSource x w (x.p (if fSel w < 4 then 0 else fRc w))).any Prod.snd)) (x.pc + 4))) ∧
  (∀ (s : State) (k : Nat) (x : Ctx) (w : Word), Issues s k x w eWsmrg →
    Gives (.wsmrg k) s (fun t => Retired s t k
      (x.setW (fRd w) ((x.w (fRd w)).add (x.w (fRa w))) (x.wp (fRd w) || x.wp (fRa w))) (x.pc + 4))) ∧
  (∀ (s : State) (k : Nat) (x : Ctx) (w : Word), Issues s k x w eWsz →
    Gives (.wsz k) s (fun t => Retired s t k (x.setW (fRd w) W320.zero false) (x.pc + 4))) ∧
  (∀ (s : State) (k : Nat) (x : Ctx) (w : Word), Issues s k x w eWsrnd →
    Gives (.wsrnd k) s (fun t => Retired s t k (x.setS (fRd w)
      (if fRc w = 0 then BitVec.ofNat 64 ((x.w (fRa w)).toFmt f32)
       else if fRc w = 1 then BitVec.ofNat 64 ((x.w (fRa w)).toFmt f64) else (x.w (fRa w)).toI64) (x.wp (fRa w))) (x.pc + 4))) ∧
  (∀ (s : State) (k : Nat) (x : Ctx) (w : Word) (bs : List (Byte × Bool)), Issues s k x w (eWmem 0xA) → x.sp (fRa w) = false →
    (x.s (fRa w)).toNat % 8 = 0 → s.blk.dxRead k x (x.s (fRa w)).toNat 48 = .ok bs →
    Gives (.wsld k) s (fun t => Retired s t k
      (x.setW (fRd w) (W320.ofImage (bs.map Prod.fst)) (bs.any Prod.snd)) (x.pc + 4))) ∧
  (∀ (s : State) (k : Nat) (x : Ctx) (w : Word) (sp : Space) (o : Nat), Issues s k x w (eWmem 0xB) → x.sp (fRa w) = false →
    (x.s (fRa w)).toNat % 8 = 0 → s.blk.dxWrite k x (x.s (fRa w)).toNat 48 = .ok (sp, o) →
    Gives (.wsst k) s (fun t => Retired s t k
      (x.store sp o (bytesPoi (x.w (fRd w)).image (x.wp (fRd w)))) (x.pc + 4))) ∧
  (∀ (s : State) (k : Nat) (x : Ctx) (w : Word) (sp : Space) (o : Nat), Issues s k x w eWspk → x.sp (fRa w) = false →
    (x.s (fRa w)).toNat % 4 = 0 → s.blk.dxWrite k x (x.s (fRa w)).toNat 44 = .ok (sp, o) →
    Gives (.wspk k) s (fun t => Retired s t k
      ((x.store sp o (bytesPoi (wordsBytes (x.w (fRd w)).pack) (x.wp (fRd w)))).setS (fRb w)
        (BitVec.ofNat 64 (x.w (fRd w)).pack.length) (x.wp (fRd w))) (x.pc + 4))) ∧
  (∀ (s : State) (k : Nat) (x : Ctx) (w : Word) (bs : List (Byte × Bool)), Issues s k x w (eWmem 0xD) → x.sp (fRa w) = false →
    (x.s (fRa w)).toNat % 4 = 0 → s.blk.dxRead k x (x.s (fRa w)).toNat 44 = .ok bs →
    Gives (.wsupk k) s (fun t => Retired s t k
      (x.setW (fRd w) (W320.unpack (lanesIn bs 0).1 (((wordsOf bs).drop 1).map Prod.fst))
        (((wordsOf bs).take (formLen (lanesIn bs 0).1)).any Prod.snd)) (x.pc + 4)))

/-- FLD and FST (R211, R212): features sb to sb + 15 of the row of sa[47:0] in the enabled lanes; a load sees the stores of its own
context, and a store enters the context's buffer. A poisoned address faults before a poisoned mask. -/
def Obligations.FeatureInstructions : Prop :=
  (∀ (s : State) (k : Nat) (x : Ctx) (w : Word), Issues s k x w (eFeat 0) →
    x.sp (fRa w) = false → x.sp (fRb w) = false → x.pp (fPm w) = false →
    Gives (.fld k) s (fun t =>
      Retired { s with blk := (s.blk.fldFeat x.coll ((x.s (fRa w)).toNat % 2 ^ 48) (fTyp w)
          ((lanesOf (x.p (fPm w))).map (fun i => (x.s (fRb w)).toNat % 256 + i)) x.feats).2 } t k
        (x.setLanes (fRd w) (x.p (fPm w)) (fun i =>
          match ((lanesOf (x.p (fPm w))).zip (s.blk.fldFeat x.coll ((x.s (fRa w)).toNat % 2 ^ 48) (fTyp w)
            ((lanesOf (x.p (fPm w))).map (fun i => (x.s (fRb w)).toNat % 256 + i)) x.feats).1).find? (fun p => p.1 = i) with
          | some p => p.2
          | none => (0, false))) (x.pc + 4))) ∧
  (∀ (s : State) (k : Nat) (x : Ctx) (w : Word) (ws : List (Nat × Word × Bool)) (b : Blk), Issues s k x w (eFeat 1) →
    x.sp (fRa w) = false → x.sp (fRb w) = false → x.pp (fPm w) = false →
    s.blk.fstWrites x.coll ((x.s (fRa w)).toNat % 2 ^ 48) (fTyp w) ((lanesOf (x.p (fPm w))).map (fun i =>
      ((x.s (fRb w)).toNat % 256 + i, x.v (fRd w) i, x.vp (fRd w) i))) = (ws, b) →
    Gives (.fst k) s (fun t => Retired { s with blk := b } t k
      { x with fbuf := x.fbuf ++ ws.map (fun v => (v.1, v.2.1, v.2.2, s.blk.tclk)) } (x.pc + 4))) ∧
  (∀ (s : State) (k : Nat) (x : Ctx) (w : Word), (Issues s k x w (eFeat 0) → (x.sp (fRa w) = true ∨ x.sp (fRb w) = true) →
      exec (.fld k) s = .next (settle { s with blk := s.blk.dxFault k x 1 2 (x.s (fRa w)).toNat 0 })) ∧
    (Issues s k x w (eFeat 1) → (x.sp (fRa w) = true ∨ x.sp (fRb w) = true) →
      exec (.fst k) s = .next (settle { s with blk := s.blk.dxFault k x 1 2 (x.s (fRa w)).toNat 0 })))

/-- MFS, MTS, STAMP, EVT and SNAP (R201, R213, R214, R216): a state word is read; only HSTAT may be written, and only to 0; STAMP gives
T64 and then turn and angle; EVT raises its event, SNAP a snapshot trigger, which needs the snapshot right. -/
def Obligations.StateAndEventInstructions : Prop :=
  (∀ (s : State) (k : Nat) (x : Ctx) (w : Word), Issues s k x w eMfs →
    Gives (.mfs k) s (fun t => Retired s t k (x.setS (fRd w) (s.blk.stateWord k x (fImm w)) false) (x.pc + 4))) ∧
  (∀ (s : State) (k : Nat) (x : Ctx) (w : Word), Issues s k x w eMts →
    (fImm w = 8 → (x.s (fRa w)).getLsbD 0 = false →
      Gives (.mts k) s (fun t => Retired s t k { x with inHandler := false } (x.pc + 4))) ∧
    (fImm w ≠ 8 ∨ (x.s (fRa w)).getLsbD 0 = true →
      exec (.mts k) s = .next (settle { s with blk := s.blk.dxFault k x 2 7 0 0 }))) ∧
  (∀ (s : State) (k : Nat) (x : Ctx) (w : Word), Issues s k x w eStamp →
    Gives (.stamp k) s (fun t => Retired s t k
      ((x.setS (fRd w) s.blk.t64 false).setS (fRd w + 1)
        (if (s.blk.tracker (s.blk.trkOf x)).running then
          BitVec.ofNat 64 ((s.blk.tracker (s.blk.trkOf x)).turn.toNat <<< 16 + s.blk.angle (s.blk.trkOf x)) else 0) false)
      (x.pc + 4))) ∧
  (∀ (s : State) (k : Nat) (x : Ctx) (w : Word), Issues s k x w eEvt →
    Gives (.evt k) s (fun t => Retired { s with blk := s.blk.emitEv (evtEvent k x w) } t k x (x.pc + 4))) ∧
  (∀ (s : State) (k : Nat) (x : Ctx) (w : Word), Issues s k x w eSnap →
    ((s.blk.coll x.coll).snap = true →
      Gives (.snap k) s (fun t => Retired { s with blk := s.blk.snapReq 4 ((x.s (fRa w)).setWidth 32) } t k x (x.pc + 4))) ∧
    ((s.blk.coll x.coll).snap = false → exec (.snap k) s = .next (settle { s with blk := s.blk.dxFault k x 2 2 0 0 })))

/-- WAITA, WAITT and WAITB (R164 to R167, R200): each returns at once where its condition holds, else its context blocks; a poisoned
operand faults. WAITA_RELEASE and WAITT_RELEASE release a blocked context with its result. -/
def Obligations.WaitInstructions : Prop :=
  (∀ (s : State) (k : Nat) (x : Ctx) (w : Word), Issues s k x w eWaita → x.sp (fRa w) = false → x.sp (fRb w) = false →
    (∀ v, s.blk.waitaNow x.coll ((x.s (fRa w)).setWidth 32) ((x.s (fRb w)).toNat % 65536) = some v →
      Gives (.waita k) s (fun t => Retired s t k (x.setS (fRd w) v false) (x.pc + 4))) ∧
    (s.blk.waitaNow x.coll ((x.s (fRa w)).setWidth 32) ((x.s (fRb w)).toNat % 65536) = none →
      Gives (.waita k) s (fun t => Store.look t.blk.ctxs k = some (x.block (.waita ((x.s (fRa w)).setWidth 32) ((x.s (fRb w)).toNat % 65536) (fRd w)) s.blk.tclk)))) ∧
  (∀ (s : State) (k : Nat) (x : Ctx) (w : Word), Issues s k x w (eWait1 1) → x.sp (fRa w) = false →
    ((x.s (fRa w)).toNat ≤ s.blk.t64.toNat → Gives (.waitt k) s (fun t =>
      Retired s t k (x.setS (fRd w) (if x.s (fRa w) = s.blk.t64 then 0 else 1) false) (x.pc + 4))) ∧
    (s.blk.t64.toNat < (x.s (fRa w)).toNat → Gives (.waitt k) s (fun t => Store.look t.blk.ctxs k =
      some (x.block (.waitt (x.s (fRa w)) (fRd w)) s.blk.tclk)))) ∧
  (∀ (s : State) (k : Nat) (x : Ctx) (w : Word), Issues s k x w (eWait1 2) → x.sp (fRa w) = false →
    ((s.blk.tracker (s.blk.trkOf x)).running = true →
      turnLater (s.blk.tracker (s.blk.trkOf x)).turn ((x.s (fRa w)).setWidth 32) = true → Gives (.waitb k) s (fun t =>
      Retired s t k (x.setS (fRd w) (waitWord (s.blk.tracker (s.blk.trkOf x)).turn 0 false true) false) (x.pc + 4))) ∧
    (¬ ((s.blk.tracker (s.blk.trkOf x)).running = true ∧
        turnLater (s.blk.tracker (s.blk.trkOf x)).turn ((x.s (fRa w)).setWidth 32) = true) →
      Gives (.waitb k) s (fun t => Store.look t.blk.ctxs k =
        some (x.block (.waitb ((x.s (fRa w)).setWidth 32) (fRd w)) s.blk.tclk)))) ∧
  (∀ (s : State) (k : Nat) (x : Ctx) (n : Word) (a rd : Nat) (v : Dword), s.blk.inReset = false →
    Store.look s.blk.ctxs k = some x → x.blocked = .waita n a rd → s.blk.collLive x.coll = true → s.blk.waitaNow x.coll n a = some v →
    Gives (.waitaRelease k) s (fun t => Store.look t.blk.ctxs k = some ({ x.setS rd v false with rel := some (x.released rd s.blk.tclk) }.goOn (x.pc + 4)))) ∧
  (∀ (s : State) (k : Nat) (x : Ctx) (at_ : Dword) (rd : Nat), s.blk.inReset = false →
    Store.look s.blk.ctxs k = some x → x.blocked = .waitt at_ rd → s.blk.collLive x.coll = true → at_.toNat ≤ s.blk.t64.toNat →
    Gives (.waittRelease k) s (fun t => Store.look t.blk.ctxs k = some ({ x.setS rd 0 false with rel := some (x.released rd s.blk.tclk) }.goOn (x.pc + 4))))

/-- RECV, RECV_TAKE, RECV_DEADLINE, SEND and SEND_ENQUEUE (R160, R161, R198, R199): RECV takes the token at the head of its slot's
queue that no RECV has reached before it, or its context blocks, or, its deadline having passed, it returns an empty header; a SEND with a credit enqueues its token, and
one without blocks until it has one. -/
def Obligations.StreamInstructions : Prop :=
  (∀ (s : State) (k : Nat) (x : Ctx) (w : Word) (sl : Slot), Issues s k x w eRecv → x.sp (fRa w) = false → x.sp (fRb w) = false →
    (x.s (fRa w)).toNat % 4 = 0 → Store.look x.slots (fRc w) = some sl → sl.out = false →
    (∀ b, s.blk.recvBefore k s.blk.tclk sl.q = false → s.blk.recvGo k x w sl.q = some (.next b) →
      exec (.recv k) s = .next (settle { s with blk := b })) ∧
    ((s.blk.recvBefore k s.blk.tclk sl.q = true ∨ s.blk.recvGo k x w sl.q = none) → x.s (fRb w) = 0 → Gives (.recv k) s (fun t => Store.look t.blk.ctxs k =
      some (x.block (.recv (fRc w) none) s.blk.tclk))) ∧
    ((s.blk.recvBefore k s.blk.tclk sl.q = true ∨ s.blk.recvGo k x w sl.q = none) → x.s (fRb w) ≠ 0 → s.blk.t64.toNat < (x.s (fRb w)).toNat →
      Gives (.recv k) s (fun t => Store.look t.blk.ctxs k =
        some (x.block (.recv (fRc w) (some (x.s (fRb w)))) s.blk.tclk))) ∧
    ((s.blk.recvBefore k s.blk.tclk sl.q = true ∨ s.blk.recvGo k x w sl.q = none) → x.s (fRb w) ≠ 0 → (x.s (fRb w)).toNat ≤ s.blk.t64.toNat →
      Gives (.recv k) s (fun t => Retired s t k (x.setS (fRd w) 0 false) (x.pc + 4)))) ∧
  (∀ (s : State) (k q : Nat) (x : Ctx) (b : Blk), s.blk.inReset = false → Store.look s.blk.ctxs k = some x →
    x.recvQueue = some q → s.blk.engLive x = true → s.blk.recvBefore k x.blockAt q = false → s.blk.recvGo k x x.word q = some (.next b) →
    exec (.recvTake k) s = .next (settle { s with blk := b.wakeReq x.cluster })) ∧
  (∀ (s : State) (k i q : Nat) (d : Dword) (x : Ctx), s.blk.inReset = false → Store.look s.blk.ctxs k = some x →
    x.blocked = .recv i (some d) → x.recvQueue = some q → s.blk.engLive x = true → d.toNat ≤ s.blk.t64.toNat →
    (s.blk.recvBefore k x.blockAt q = true ∨ s.blk.recvGo k x x.word q = none) →
    Gives (.recvDeadline k) s (fun t => Store.look t.blk.ctxs k = some ((x.setS (fRd x.word) 0 false).usedUp.goOn (x.pc + 4)))) ∧
  (∀ (s : State) (k : Nat) (x : Ctx) (w : Word) (sl : Slot), Issues s k x w eSend → x.sp (fRd w) = false → x.sp (fRa w) = false →
    (x.s (fRa w)).toNat % 4 = 0 → (hLen (x.s (fRd w)) = 0 ∨ (x.s (fRa w)).toNat + 4 * hLen (x.s (fRd w)) ≤ x.dsLen) →
    Store.look x.slots (fRc w) = some sl → sl.out = true → 0x10 ≤ hKind (x.s (fRd w)) → hKind (x.s (fRd w)) ≤ 0x7F →
    hLen (x.s (fRd w)) ≤ 64 →
    (s.blk.slotReady x (fRc w) sl.q = true → exec (.send k) s = .next (settle { s with blk := s.blk.sendGo k x w sl.q })) ∧
    (s.blk.slotReady x (fRc w) sl.q = false → Gives (.send k) s (fun t => Store.look t.blk.ctxs k =
      some (x.block (.send (fRc w) s.blk.tclk) s.blk.tclk)))) ∧
  (∀ (s : State) (k i since : Nat) (x : Ctx) (sl : Slot), s.blk.inReset = false → Store.look s.blk.ctxs k = some x →
    x.blocked = .send i since → Store.look x.slots i = some sl → s.blk.engUp x = true → s.blk.slotReady x i sl.q = true →
    exec (.sendEnqueue k) s = .next (settle { s with blk := s.blk.sendGo k x x.word sl.q }))

/-- The launches SKINS, SKMRG, SKQ, TOPK, TSCORE, PACK and UNPACK, and LAUNCH_CREDIT (R171, R172, R206 to R210): with mask, address and
control word unpoisoned, an aligned descriptor that can be read with no poisoned control word, and a completion slot that is an output
slot or none, the job enters its unit's queue once both credits are there; until then its context blocks. -/
def Obligations.LaunchInstructions : Prop :=
  (∀ row ∈ launchForms, ∀ (s : State) (k : Nat) (x : Ctx) (w : Word) (bs : List (Byte × Bool)) (j : Job), Issues s k x w row.2.1 →
    x.pp (if row.2.2 = .skins then fRc w else 0) = false → x.sp (fRa w) = false → x.sp (fRb w) = false →
    (x.s (fRa w)).toNat % 8 = 0 → s.blk.dxRead k x (x.s (fRa w)).toNat 32 = .ok bs →
    j = s.blk.jobOf row.2.2 k x w (wordsOf bs) (x.p (if row.2.2 = .skins then fRc w else 0)) →
    (List.range 8).any (fun i => !dataWord row.2.2 i && ((wordsOf bs).getD i (0, false)).2) = false →
    (∀ i, j.slot = some i → ∃ sl, Store.look x.slots i = some sl ∧ sl.out = true) →
    (s.blk.launchReady x j = true → exec (row.1 k) s = .next (settle { s with blk := s.blk.launchGo k x j })) ∧
    (s.blk.launchReady x j = false → Gives (row.1 k) s (fun t => Store.look t.blk.ctxs k =
      some (x.block (.launch j s.blk.tclk) s.blk.tclk)))) ∧
  (∀ (s : State) (k since : Nat) (x : Ctx) (j : Job), s.blk.inReset = false → Store.look s.blk.ctxs k = some x →
    x.blocked = .launch j since → s.blk.engUp x = true → s.blk.launchReady x j = true →
    exec (.launchCredit k) s = .next (settle { s with blk := s.blk.launchGo k x j }))

/-- FENCE, FENCE_DONE and CREDIT_TIMEOUT (R153, R175, R215): what a SEND or a launch sends out changes nothing that another observer sees
of the memories until that observer takes it; taking it changes nothing that a third one sees. A fence makes every store of the
context visible to all and goes on once none of its writes is outstanding; a SEND or launch whose timeout has passed is abandoned for
the handler of its context, which starts with the pc and the cause saved. -/
def Obligations.FenceAndTimeoutInstructions : Prop :=
  (∀ (s : Blk) (k o : Nat), o ≠ k → ((s.drainStores k).seenBy o).mem.pool = (s.seenBy o).mem.pool ∧
    ((s.drainStores k).seenBy o).mem.csm = (s.seenBy o).mem.csm ∧ ((s.drainStores k).seenBy o).mem.xm = (s.seenBy o).mem.xm) ∧
  (∀ (s : Blk) (o k n : Nat), (∀ e ∈ s.mem.seen, e.ctx = k → e.n < n →
      ∃ f ∈ (s.seeStores o k n).mem.seen, o ∈ f.seen ∧ f = { e with seen := f.seen }) ∧
    (∀ p, p ≠ o → ((s.seeStores o k n).seenBy p).mem = { (s.seenBy p).mem with seen := (s.seeStores o k n).mem.seen })) ∧
  (∀ (s : Blk) (k : Nat) (x : Ctx), Store.look s.ctxs k = some x → ∀ e ∈ (s.drainAll k).mem.seen, e.ctx ≠ k) ∧
  (∀ (s : State) (k : Nat) (x y : Ctx) (w : Word), Issues s k x w eFence → s.blk.xmRoom x.xmLines.length = true →
    Store.look (s.blk.drainAll k).ctxs k = some y →
    ((s.blk.drainAll k).writing k = false → y.blocked = .no → Gives (.fence k) s (fun t =>
      Retired { s with blk := s.blk.drainAll k } t k y (y.pc + 4))) ∧
    ((s.blk.drainAll k).writing k = true → Gives (.fence k) s (fun t => Store.look t.blk.ctxs k =
      some (y.block (.fence) (s.blk.drainAll k).tclk)))) ∧
  (∀ (s : State) (k : Nat) (x y : Ctx), s.blk.inReset = false → Store.look s.blk.ctxs k = some x → x.blocked = .fence →
    s.blk.engUp x = true → s.blk.xmRoom x.xmLines.length = true → Store.look (s.blk.drainAll k).ctxs k = some y →
    (s.blk.drainAll k).writing k = false → Gives (.fenceDone k) s (fun t => Store.look t.blk.ctxs k =
      some (y.usedUp.goOn (y.pc + 4)))) ∧
  (∀ (s : State) (k i since h : Nat) (x : Ctx) (sl : Slot), s.blk.inReset = false → Store.look s.blk.ctxs k = some x →
    x.blocked = .send i since → s.blk.engUp x = true → Store.look x.slots i = some sl → sl.tmo ≠ 0 →
    s.blk.passed since (s.blk.us sl.tmo) = true → s.blk.slotReady x i sl.q = false → x.handler = some h → x.inHandler = false →
    Gives (.creditTimeout k) s (fun t => Store.look t.blk.ctxs k = some (x.handle h (w32 (4 <<< 28 + 1 <<< 24 + i)))))

/-- An instruction command whose context's next word has no entry in the tables raises ILLEGAL 0x1; one whose word fails the encoding
check raises ILLEGAL with the subcode of the first check it fails: reserved bits 0x2, register numbers 0x5, units absent 0x3
(R187, R188). -/
def Obligations.IllegalInstructions : Prop :=
  (∀ row ∈ scalarForms, ∀ (s : State) (k : Nat) (x : Ctx), s.blk.inReset = false → Store.look s.blk.ctxs k = some x →
    s.blk.mayIssue k x = true → undefWord x.word = true →
    exec (row.1 k) s = .next (settle { s with
      blk := s.blk.dxFault k x 3 1 (if x.pc / 4 < x.im.length then 0 else x.pc) 0 })) ∧
  (∀ row ∈ launchForms, ∀ (s : State) (k : Nat) (x : Ctx) (sub : Nat), s.blk.inReset = false → Store.look s.blk.ctxs k = some x →
    s.blk.mayIssue k x = true → undefWord x.word = false → row.2.1.is x.word = true → s.blk.encFault row.2.1 x.word = some sub →
    exec (row.1 k) s = .next (settle { s with blk := s.blk.dxFault k x 3 sub 0 0 })) ∧
  (∀ (s : Blk) (e : Enc) (w : Word), (w &&& e.zero ≠ 0 → s.encFault e w = some 2) ∧
    (w &&& e.zero = 0 → (∃ r ∈ e.regs, r.2 ≤ fld w (r.1 + 4) r.1) → s.encFault e w = some 5) ∧
    (∀ u, w &&& e.zero = 0 → (∀ r ∈ e.regs, fld w (r.1 + 4) r.1 < r.2) → ¬ (eStamp.is w = true ∧ fRd w = 31) → e.unit = some u →
      s.unitHere u = false → s.encFault e w = some 3))

/-- The register files (R154, R155): a register written reads back the value and the poison written; s0 reads zero and p0 reads all
ones whatever is written; every other register is as before. -/
def Obligations.RegisterFiles : Prop :=
  (∀ (x : Ctx) (r q : Nat) (v : Dword) (p : Bool), r < 32 → q < 32 →
    (x.setS r v p).s q = (if q = r ∧ r ≠ 0 then v else x.s q) ∧ (x.setS r v p).sp q = (if q = r ∧ r ≠ 0 then p else x.sp q) ∧
    (x.setS r v p).s 0 = 0 ∧ (x.setS r v p).sp 0 = false) ∧
  (∀ (x : Ctx) (r q : Nat) (v : BitVec 16) (p : Bool), r < 8 → q < 8 →
    (x.setP r v p).p q = (if q = r ∧ r ≠ 0 then v else x.p q) ∧ (x.setP r v p).pp q = (if q = r ∧ r ≠ 0 then p else x.pp q) ∧
    (x.setP r v p).p 0 = 0xFFFF ∧ (x.setP r v p).pp 0 = false) ∧
  (∀ (x : Ctx) (r i q j : Nat) (v : Word) (p : Bool), r < 16 → q < 16 → i < 16 → j < 16 →
    (x.setV r i v p).v q j = (if q = r ∧ j = i then v else x.v q j) ∧
    (x.setV r i v p).vp q j = (if q = r ∧ j = i then p else x.vp q j)) ∧
  (∀ (x : Ctx) (r q : Nat) (v : W320) (p : Bool), r < 8 → q < 8 →
    (x.setW r v p).w q = (if q = r then v else x.w q) ∧ (x.setW r v p).wp q = (if q = r then p else x.wp q)) ∧
  (∀ (x : Ctx) (r q j : Nat) (m : BitVec 16) (f : Nat → Word × Bool), r < 16 → q < 16 → j < 16 →
    (x.setLanes r m f).v q j = (if q = r ∧ m.getLsbD j = true then (f j).1 else x.v q j) ∧
    (x.setLanes r m f).vp q j = (if q = r ∧ m.getLsbD j = true then (f j).2 else x.vp q j))

/-! ### Time, trackers, probes -/

/-- Loss and return of tref, holdover, the leap instant (R46, R50, R57, R62): in holdover y is the integral term; the return of tref
leaves holdover as it is; at the leap instant TAI − UTC goes up or down by one, once. -/
def Obligations.TimebaseEvents : Prop :=
  (∀ s : State, s.blk.inReset = false → s.blk.time.trefLost = false → Gives .trefLost s (fun t =>
    t.blk.time.trefLost = true ∧ t.blk.time.hold = true ∧
    (s.blk.time.hold = false → t.blk.time.servoY = s.blk.time.servoI ∧ t.blk.time.lock = false ∧ t.blk.time.within = 0))) ∧
  (∀ s : State, s.blk.inReset = false → s.blk.time.trefLost = true → Gives .trefReturn s (fun t =>
    t.blk.time = { s.blk.time with trefLost := false, frcFrac := 0 })) ∧
  (∀ s : State, s.blk.inReset = false → s.blk.timCtl 0 = true → s.blk.time.hold = false →
    s.blk.passed s.blk.time.measAt (s.blk.ms (s.blk.reg (.tim .TIM_HOLD_TMO)).toNat) = true → Gives .holdTimeout s (fun t =>
    t.blk.time.hold = true ∧ t.blk.time.servoY = s.blk.time.servoI ∧ t.blk.time.lock = false)) ∧
  (∀ s : State, s.blk.inReset = false → s.blk.time.leapDone = false → s.blk.time.leapErr = false →
    s.blk.time.leapAt.toNat ≤ s.blk.t64.toNat →
    (fld (s.blk.reg (.tim .TIM_LEAP_CTRL)) 1 0 = 1 → Gives .leapInstant s (fun t => t.blk.time.leapDone = true ∧
      t.blk.reg (.tim .TIM_TAI_OFFSET) = s.blk.reg (.tim .TIM_TAI_OFFSET) + 1)) ∧
    (fld (s.blk.reg (.tim .TIM_LEAP_CTRL)) 1 0 = 2 → Gives .leapInstant s (fun t => t.blk.time.leapDone = true ∧
      t.blk.reg (.tim .TIM_TAI_OFFSET) = s.blk.reg (.tim .TIM_TAI_OFFSET) - 1)))

/-- PPS, stamps and strobes (R51 to R53, R56, R80): a pulse begins once for each whole second and lasts its width; an edge of tl_pps_in
500 ms after the last is stamped as port 62; a stamp enters the FIFO while that has room, and is counted while it has none or its port
does not exist; a strobe ends at its time. -/
def Obligations.PulsesAndStamps : Prop :=
  (∀ s : State, s.blk.inReset = false → s.blk.timCtl 2 = true → s.blk.time.ppsSec ≠ some (s.blk.t64.toNat / tkSec) →
    (s.blk.secondNow = true → fld (s.blk.reg (.tim .TIM_PPS_W)) 19 0 ≠ 0 → Gives .ppsOutStart s (fun t =>
      t.blk.time.ppsSec = some (s.blk.t64.toNat / tkSec) ∧
      t.blk.time.ppsFall = some (s.blk.tclk + s.blk.us (fld (s.blk.reg (.tim .TIM_PPS_W)) 19 0)))) ∧
    (s.blk.secondNow = false → exec .ppsOutStart s = .next (settle s))) ∧
  (∀ (s : State) (a : Nat), s.blk.inReset = false → s.blk.time.ppsFall = some a → a ≤ s.blk.tclk →
    Gives .ppsOutEnd s (fun t => t.blk.time = { s.blk.time with ppsFall := none })) ∧
  (∀ s : State, s.blk.inReset = false → (∀ a, s.blk.time.ppsInAt = some a → s.blk.passed a (s.blk.ms 500) = true) →
    s.blk.time.fifo.length < s.blk.stampMax → Gives .ppsIn s (fun t => t.blk.time.ppsInAt = some s.blk.tclk ∧
      t.blk.time.fifo = s.blk.time.fifo ++ [⟨62, false, 0, s.blk.corrected 62 false 0⟩])) ∧
  (∀ (s : State) (p fine : Nat) (egr : Bool) (tag : BitVec 16), s.blk.inReset = false →
    (s.blk.stampPort p = true → s.blk.time.fifo.length < s.blk.stampMax → Gives (.stampCapture p egr fine tag) s (fun t =>
      t.blk.time = { s.blk.time with fifo := s.blk.time.fifo ++ [⟨p, egr, tag, s.blk.corrected p egr (fine % 16)⟩] })) ∧
    (s.blk.stampPort p = true → s.blk.stampMax ≤ s.blk.time.fifo.length → Gives (.stampCapture p egr fine tag) s (fun t =>
      t.blk.time.fifo = s.blk.time.fifo ∧ t.blk.time.tsfDrop = min (s.blk.time.tsfDrop + 1) 255)) ∧
    (s.blk.stampPort p = false → Gives (.stampCapture p egr fine tag) s (fun t =>
      t.blk.time = { s.blk.time with tsfBad := min (s.blk.time.tsfBad + 1) 255 }))) ∧
  (∀ (s : State) (a : Nat), s.blk.inReset = false → a ≤ s.blk.tclk →
    (s.blk.time.strobe0 = some a → Gives (.strobeEnd 0) s (fun t => t.blk.time = { s.blk.time with strobe0 := none })) ∧
    (s.blk.time.strobe1 = some a → Gives (.strobeEnd 1) s (fun t => t.blk.time = { s.blk.time with strobe1 := none }))) ∧
  (∀ (s : State) (f : RxFrame) (b : Blk) (tk : Taken), s.blk.inReset = false → s.blk.takeFrame f ftTime = (b, some tk) →
    exec (.timeFrameReceive f) s = .next (settle { s with
      blk := (b.frameDone tk).stampIn (60 + f.pair) false 0 (BitVec.ofNat 16 (leAt tk.f.payload 0 2)) }))

/-- Overrun, stall and triggers (R71, R73, R77, R79): each is noted once a turn, with its event; a trigger fires only where it is due,
after the due triggers that the order of one tclk puts before it: time triggers before angle triggers, lower trackers and slots first. -/
def Obligations.TrackerEvents : Prop :=
  (∀ (s : State) (n : Nat), s.blk.inReset = false → (s.blk.tracker n).running = true → (s.blk.tracker n).pred ≠ 0 →
    (s.blk.tracker n).overrun = false → (s.blk.tracker n).pred ≤ (s.blk.t64 - (s.blk.tracker n).mstamp).toInt →
    Gives (.turnOverrun n) s (fun t => t.blk.tracker n = { s.blk.tracker n with overrun := true } ∧
      bit (t.blk.reg (.trn (.TRN_EVT n))) 0 = true ∧
      t.blk.reg (.trn (.TRN_OVR_CNT n)) = satAdd (s.blk.reg (.trn (.TRN_OVR_CNT n))) 1)) ∧
  (∀ (s : State) (n : Nat), s.blk.inReset = false → (s.blk.tracker n).running = true → (s.blk.tracker n).stall = false →
    (fld (s.blk.reg (.trn (.TRN_STALL n))) 23 0 * 1000 * tkUs : Nat) ≤ (s.blk.t64 - (s.blk.tracker n).mstamp).toInt →
    Gives (.turnStall n) s (fun t => t.blk.tracker n = { s.blk.tracker n with stall := true } ∧
      bit (t.blk.reg (.trn (.TRN_EVT n))) 3 = true)) ∧
  (∀ (s : State) (n : Nat), s.blk.inReset = false → n < s.blk.conf.timeTriggers → s.blk.ttDue n = true →
    Becomes (.timeTriggerFire n) s (s.blk.ttRun (List.range (n + 1))) ∧
    ((∀ m, m < n → s.blk.ttDue m = false) → s.blk.ttRun (List.range (n + 1)) = s.blk.ttFire n false)) ∧
  (∀ (s : State) (k n : Nat), s.blk.inReset = false → n < 8 → s.blk.trkEn k = true → (s.blk.tracker k).running = true →
    s.blk.atArmed k n = true → s.blk.atAngle k n ≤ s.blk.angle k →
    Becomes (.angleTriggerFire k n) s ((s.blk.ttRun (List.range s.blk.conf.timeTriggers)).atRun
      ((List.range k).flatMap (fun u => (List.range 8).map (fun m => (u, m))) ++ (List.range (n + 1)).map (fun m => (k, m)))) ∧
    ((∀ m, m < s.blk.conf.timeTriggers → s.blk.ttDue m = false) → (∀ u m, m < 8 → u < k ∨ (u = k ∧ m < n) → s.blk.atDue u m = false) →
      Becomes (.angleTriggerFire k n) s ((s.blk.atFire k n false).slotLatch 1 k n))) ∧
  (∀ (s : State) (k n : Nat), s.blk.inReset = false →
    (s.blk.ttDue n = false ∨ s.blk.conf.timeTriggers ≤ n → exec (.timeTriggerFire n) s = .next (settle s)) ∧
    (s.blk.atDue k n = false ∨ 8 ≤ n → exec (.angleTriggerFire k n) s = .next (settle s)))

/-! ### Bring-up and attachment -/

/-- RESET_ASSERT and RESET_RELEASE (R3, R465, R487): while tl_rst_n is low every output has its reset value, nothing is requested and no
register access is in progress; its release leaves every register, table, queue and collection as after reset, and only the memories
and the host chip's contents stay. -/
def Obligations.ResetLines : Prop :=
  (∀ s : State, ∃ t, exec .resetAssert s = .next t ∧ t.pending = s.pending ∧ t.evr = s.evr ∧ t.snap = s.snap ∧
    t.blk.inReset = true ∧ t.blk.boot.ready = false ∧ t.blk.boot.trains = [] ∧ t.blk.port.ppReady = false ∧
    t.blk.time.strobe0 = none ∧ t.blk.time.strobe1 = none ∧ t.blk.time.ppsFall = none ∧
    t.blk.pwr.vreqs = [] ∧ t.blk.mem.reqs = [] ∧ t.blk.cp = .reset ∧ t.blk.regs = s.blk.regs ∧ t.blk.mem.xm = s.blk.mem.xm) ∧
  (∀ s : State, s.blk.inReset = true → ∃ t, exec .resetRelease s = .next t ∧ t.pending = s.pending ∧ t.evr = .reset ∧
    t.snap = .reset ∧ t.blk.inReset = false ∧ t.blk.boot = .reset ∧ t.blk.ctxs = [] ∧ t.blk.colls = [] ∧ t.blk.qsc = .reset ∧
    t.blk.time = .reset ∧ t.blk.prb = .reset ∧ t.blk.cp = .reset ∧ (∀ r : Reg, t.blk.reg r = (r.info s.blk.conf).rst) ∧
    t.blk.mem.xm = s.blk.mem.xm ∧ t.blk.mem.flash = s.blk.mem.flash ∧ t.blk.inst = s.blk.inst ∧ t.blk.lic.stored = s.blk.lic.stored) ∧
  (∀ s : State, s.blk.inReset = false → exec .resetRelease s = .next s)

/-- The stages (R441 to R446, R449): each passes when its condition holds, and reports; S0 passes with the state of tref, S4 waits for
the epoch and passes with the lock of the servo, S8 lets tl_ready rise. A report FAIL stops bring-up. -/
def Obligations.BringUpStages : Prop :=
  (∀ s : State, s.blk.inReset = false → s.blk.boot.stage = 0 → s.blk.boot.result = 0 → s.blk.time.trefLost = false →
    Gives .stageAdvance s (fun t => t.blk.boot.stage = 1 ∧ Reported t.blk 0 1 (if s.blk.inst.trefSeen then 0 else 1) 0 ∧
      t.blk.time.trefLost = !s.blk.inst.trefSeen)) ∧
  (∀ s : State, s.blk.inReset = false → s.blk.boot.stage = 4 → s.blk.boot.result = 0 →
    (s.blk.boot.epochSeen = false → Gives .stageAdvance s (fun t => t.blk.boot.stage = 4 ∧ Reported t.blk 4 3 0x403 0)) ∧
    (s.blk.boot.epochSeen = true → s.blk.defers = false → s.blk.time.lock = true →
      Gives .stageAdvance s (fun t => t.blk.boot.stage = 5 ∧ Reported t.blk 4 1 0x400 0)) ∧
    (s.blk.boot.epochSeen = true → s.blk.defers = true →
      Gives .stageAdvance s (fun t => t.blk.boot.stage = 5 ∧ Reported t.blk 4 4 0x402 0)) ∧
    (s.blk.boot.epochSeen = true → s.blk.defers = false → s.blk.time.lock = false →
      Gives .stageAdvance s (fun t => t.blk.boot.stage = 4 ∧ Reported t.blk 4 3 0x401 (w32 (min s.blk.time.lastE 0xFFFFFFFF))))) ∧
  (∀ s : State, s.blk.inReset = false → s.blk.boot.stage = 8 → s.blk.boot.result = 0 → s.blk.role ≠ .span →
    Gives .stageAdvance s (fun t => t.blk.boot.ready = true ∧ Reported t.blk 8 1 0x800 0)) ∧
  (∀ s : State, s.blk.inReset = false → s.blk.boot.result = 2 → exec .stageAdvance s = .next (settle s)) ∧
  (∀ (s : State) (x : Nat), s.blk.inReset = false → s.blk.boot.stage = 2 → s.blk.boot.result ≠ 2 → (s.blk.fcore x).st = .boot →
    s.blk.passed s.blk.boot.stageAt (s.blk.ms 100) = true →
    Gives (.coreReportTimeout x) s (fun t => t.blk.boot.result = 2 ∧ Reported t.blk 2 2 0x203 (w32 x)))

/-- TRAINING_DONE, TRAINING_FAIL and TRAINING_TIMEOUT (R445, R480): the port's settings are kept and the next port is trained; a fast
start that fails, or is not answered in 5 ms, is made again as full training, and a full training that fails, or is not answered in
250 ms, fails S5 with the port in the detail. -/
def Obligations.Training : Prop :=
  (∀ (s : State) (k j : Nat) (cfg : BitVec 256), s.blk.inReset = false → s.blk.boot.stage = 5 → s.blk.stageOver = false →
    (s.blk.train k).req = true → j ∈ s.blk.trainPorts → j ≠ k → (s.blk.train j).done = false →
    Gives (.trainingDone k cfg) s (fun t => t.blk.boot.stage = 5 ∧ (t.blk.train k).done = true ∧ (t.blk.train k).req = false ∧
      Store.look t.blk.port.cfgo k = some cfg ∧
      ∃ i ∈ s.blk.trainPorts, t.blk.train i = ⟨true, !s.blk.inst.fastOk.contains i, false, s.blk.tclk⟩)) ∧
  (∀ (s : State) (k : Nat), s.blk.inReset = false → s.blk.boot.stage = 5 → s.blk.stageOver = false → (s.blk.train k).req = true →
    ((s.blk.train k).full = false → Gives (.trainingFail k) s (fun t =>
      t.blk.train k = { s.blk.train k with full := true, at_ := s.blk.tclk })) ∧
    ((s.blk.train k).full = true → k < 4 → Gives (.trainingFail k) s (fun t =>
      t.blk.boot.result = 2 ∧ Reported t.blk 5 2 0x502 (w32 k) ∧ (t.blk.train k).req = false)) ∧
    ((s.blk.train k).full = true → 4 ≤ k → Gives (.trainingFail k) s (fun t =>
      t.blk.boot.result = 2 ∧ Reported t.blk 5 2 0x503 (w32 (k - 4)) ∧ (t.blk.train k).req = false)) ∧
    (s.blk.passed (s.blk.train k).at_ (s.blk.ms (if (s.blk.train k).full then 250 else 5)) = true →
      exec (.trainingTimeout k) s = exec (.trainingFail k) s) ∧
    (s.blk.passed (s.blk.train k).at_ (s.blk.ms (if (s.blk.train k).full then 250 else 5)) = false →
      exec (.trainingTimeout k) s = .next (settle s)))

/-- ATTACH_REQUEST, ATTACH_REPLY, ATTACH_RETRY (R19, R447): a parent that has passed S8 answers with what it finds of the place, the
count and the partition; an acceptance attaches and S7 passes; DUPLICATE and LIMIT leave S7 waiting, and PLACE fails it; without an
acceptance the request goes again every 100 ms. -/
def Obligations.Attachment : Prop :=
  (∀ (s : State) (f : RxFrame) (b : Blk) (tk : Taken), HearsSub s f ftAttach 1 b tk →
    ((b.frameDone tk).boot.ready = true → Becomes (.attachRequest f) s ((b.frameDone tk).attachAnswer tk.f)) ∧
    ((b.frameDone tk).boot.ready = false → Becomes (.attachRequest f) s (b.frameDone tk))) ∧
  (∀ (b : Blk) (f : Frame), b.role = .tray → ((f.srole ≠ 1 ∨ trayOf f.src ≠ b.place) → b.attachCode f = 4) ∧
    (f.srole = 1 → trayOf f.src = b.place →
      (f.src ∈ b.boot.members → b.attachCode f = 2) ∧
      (f.src ∉ b.boot.members → 32 ≤ b.boot.members.length → b.attachCode f = 3) ∧
      (f.src ∉ b.boot.members → b.boot.members.length < 32 → fld (wordAt f.payload 1) 11 0 ≠ b.part → b.attachCode f = 4) ∧
      (f.src ∉ b.boot.members → b.boot.members.length < 32 → fld (wordAt f.payload 1) 11 0 = b.part → b.attachCode f = 0))) ∧
  (∀ (s : State) (f : RxFrame) (b : Blk) (tk : Taken), HearsSub s f ftAttach 2 b tk → (b.frameDone tk).boot.stage = 7 →
    (b.frameDone tk).boot.result ≠ 2 → (b.frameDone tk).boot.attached = false → (b.frameDone tk).parentPlace = some tk.f.src →
    (∀ c, (b.frameDone tk |>.modBoot (fun m => { m with attAns := true })).attachFlows tk.f.src tk.f.srole = some c →
      fld (wordAt tk.f.payload 1) 7 0 = 0 → Gives (.attachReply f) s (fun t => t.blk.boot.attached = true ∧ t.blk.boot.stage = 8)) ∧
    (fld (wordAt tk.f.payload 1) 7 0 = 2 → Gives (.attachReply f) s (fun t => t.blk.boot.stage = 7 ∧ t.blk.boot.result = 3 ∧
      t.blk.boot.code = 0x702)) ∧
    (3 < fld (wordAt tk.f.payload 1) 7 0 → Gives (.attachReply f) s (fun t => t.blk.boot.result = 2 ∧
      Reported t.blk 7 2 0x704 0))) ∧
  (∀ s : State, s.blk.inReset = false → s.blk.boot.stage = 7 → s.blk.role ≠ .span → s.blk.parentPlace ≠ none →
    s.blk.boot.attached = false → s.blk.placeValid = true → s.blk.passed s.blk.boot.attAt (s.blk.ms 100) = true →
    (s.blk.boot.attAns = true → Becomes .attachRetry s s.blk.attachSend) ∧
    (s.blk.boot.attAns = false → s.blk.boot.result ≠ 2 → Becomes .attachRetry s (s.blk.report 3 0x701 0).attachSend))

/-- PEER_TABLE, PEER_TABLE_ACK, PEER_TABLE_REPEAT, SPAN_WAIT_EXPIRE, SPAN_PEER_SILENT (R24, R29, R448): an acknowledgement that takes an entry
marks its sender as answered, and a refusal does not; S7 of a span instance passes only once BOOT_SPAN_WAIT has passed and nobody is left unanswered; an instance that is
silent on both networks for 10 ms leaves the table. -/
def Obligations.SpanTables : Prop :=
  (∀ (s : State) (f : RxFrame) (b : Blk) (tk : Taken) (i : Nat) (r : Bool × Blk), HearsSub s f ftPeer 1 b tk → b.role = .span →
    7 ≤ b.boot.stage → fld (wordAt tk.f.payload 1) 2 0 = siteOf b.place →
    (List.range (min (wordAt tk.f.payload 2).toNat (tk.f.payload.length / 8))).find?
      (fun i => wordAt tk.f.payload (3 + 2 * i) == tk.f.src) = some i →
    b.spanEnter tk.f.src (fun o => { o with
      ready := bit (wordAt tk.f.payload (4 + 2 * i)) 0, primary := bit (wordAt tk.f.payload (4 + 2 * i)) 1 }) = r →
    Becomes (.peerTable f) s
      (let c := (if r.1 then r.2 else r.2.stageEv (refusalWord 3) tk.f.src).sendMsg 2 tk.f.src 3 ftPeer none
         (leBytes 4 2 ++ leBytes 4 (b2n r.1)) 0 none
       if b.boot.spans.length < c.boot.spans.length then c.tableOut else c)) ∧
  (∀ (s : State) (f : RxFrame) (b : Blk) (tk : Taken) (o : SpanPeer), HearsSub s f ftPeer 2 b tk → b.role = .span →
    Store.look b.boot.spans tk.f.src.toNat = some o → b.boot.stage ≠ 7 →
    Gives (.peerTableAck f) s (fun t => Store.look t.blk.boot.spans tk.f.src.toNat =
      some { o with acked := o.acked || decide (wordAt tk.f.payload 1 ≠ 0) })) ∧
  (∀ s : State, s.blk.inReset = false → s.blk.role = .span → 7 ≤ s.blk.boot.stage →
    Becomes .peerTableRepeat s (s.blk.tableTo (fun o => !o.acked && s.blk.passed o.sentAt (s.blk.ms 100)))) ∧
  (∀ s : State, s.blk.inReset = false → s.blk.role = .span → s.blk.boot.stage = 7 →
    (s.blk.passed s.blk.boot.stageAt (s.blk.ms (fld (s.blk.reg (.boot .BOOT_SPAN_WAIT)) 15 0)) = true →
      (s.blk.unanswered = 0 → s.blk.boot.result = 0 → Gives .spanWaitExpire s (fun t => t.blk.boot.stage = 8 ∧
        Reported t.blk 7 1 0x700 0)) ∧
      (s.blk.unanswered ≠ 0 → s.blk.boot.result = 0 → Gives .spanWaitExpire s (fun t => t.blk.boot.stage = 7 ∧
        Reported t.blk 7 3 0x705 (w32 s.blk.unanswered)))) ∧
    (s.blk.passed s.blk.boot.stageAt (s.blk.ms (fld (s.blk.reg (.boot .BOOT_SPAN_WAIT)) 15 0)) = false →
      exec .spanWaitExpire s = .next (settle s))) ∧
  (∀ (s : State) (p : Word) (v : Peer), s.blk.inReset = false → s.blk.role = .span → siteOf p = siteOf s.blk.place →
    (Store.look s.blk.boot.spans p.toNat).isSome = true → Store.look s.blk.hlt.peers p.toNat = some v →
    s.blk.quiet v.m0 (s.blk.ms 10) = true → s.blk.quiet v.m1 (s.blk.ms 10) = true → s.blk.boot.stage ≠ 7 →
    Becomes (.spanPeerSilent p) s
      (s.blk.modBoot (fun b => { b with spans := Store.del b.spans p.toNat })).rankCheck.tableOut)

/-- PRIMARY_FRAME and PRIMARY_REPEAT (R32): the sender of a PRIMARY frame of the own site is taken as primary where its epoch is greater
than that in force, or equal with a lower place; the primary repeats its frame every 100 ms. -/
def Obligations.PrimaryFrames : Prop :=
  (∀ (s : State) (f : RxFrame) (b : Blk) (tk : Taken), HearsSub s f ftPeer 3 b tk → (b.frameDone tk).role ≠ .die → tk.f.srole = 3 →
    siteOf tk.f.src = siteOf (b.frameDone tk).place → tk.f.src ≠ (b.frameDone tk).place →
    Becomes (.primaryFrame f) s ((b.frameDone tk).adopt tk.f.src (wordAt tk.f.payload 2))) ∧
  (∀ (b : Blk) (p e : Word), b.role = .span → (∀ q g, b.boot.primary = some (q, g) → g.toNat < e.toNat ∨ g = e ∧ p.toNat < q.toNat) →
    (b.adopt p e).boot.primary = some (p, e) ∧ (b.adopt p e).boot.isPrimary = false) ∧
  (∀ (b : Blk) (p e q g : Word), b.boot.primary = some (q, g) → ¬ (g.toNat < e.toNat ∨ g = e ∧ p.toNat < q.toNat) →
    (b.adopt p e).boot.primary = b.boot.primary ∧ (b.adopt p e).boot.isPrimary = b.boot.isPrimary) ∧
  (∀ s : State, s.blk.inReset = false → s.blk.boot.isPrimary = true → s.blk.passed s.blk.boot.primAt (s.blk.ms 100) = true →
    Becomes .primaryRepeat s s.blk.sendPrimary)

/-! ### The probe array -/

/-- PROBE_BEGIN, PROBE_END, PROBE_LOSS, PROBE_BYTES (R89 to R95, R104): a word that is not accepted has no effect but its count, of
discarded words while EN is 0, before tl_ready rises, or when its channel is disabled, of bad words for a channel that does not exist; an accepted BEGIN without MARK
takes an entry of the pairing store with the counters of its group, or closes the pending entry of its channel and tag first; an accepted
END, LOSS or BYTES is acted on with its stamp. -/
def Obligations.ProbeWords : Prop :=
  (∀ (s : State) (n : Nat) (w : BitVec 128) (b : Blk), s.blk.inReset = false →
    (s.blk.acceptWord n w 1 = (false, b) → Becomes (.probeBegin n w) s b) ∧
    (s.blk.acceptWord n w 2 = (false, b) → Becomes (.probeEnd n w) s b) ∧
    (s.blk.acceptWord n w 3 = (false, b) → Becomes (.probeLoss n w) s b) ∧
    (s.blk.acceptWord n w 4 = (false, b) → Becomes (.probeBytes n w) s b)) ∧
  (∀ (s : State) (n : Nat) (w : BitVec 128) (b c : Blk) (at_ : Dword), s.blk.inReset = false →
    (s.blk.acceptWord n w 1 = (true, b) → b.wordStamp w = (at_, c) → pw w 107 107 = 0 →
      Becomes (.probeBegin n w) s (c.takeBegin w at_)) ∧
    (s.blk.acceptWord n w 2 = (true, b) → b.wordStamp w = (at_, c) → Becomes (.probeEnd n w) s (c.takeEnd w at_)) ∧
    (s.blk.acceptWord n w 3 = (true, b) → b.wordStamp w = (at_, c) → Becomes (.probeLoss n w) s (c.takeLoss w at_)) ∧
    (s.blk.acceptWord n w 4 = (true, b) → Becomes (.probeBytes n w) s (b.takeBytes w))) ∧
  (∀ (b : Blk) (n want : Nat) (w : BitVec 128), b.conf = .d → n < b.inst.lanes → b.prb.rdyLow = false → b.unitUp 0 3 = true →
    1 ≤ want → want < 5 → pwKind w = want →
    ((b.prbCtl 0 = false ∨ b.boot.ready = false) → b.acceptWord n w want = (false, b.count (.prb .PRB_DISC_CNT) 1)) ∧
    (b.prbCtl 0 = true → b.boot.ready = true → (b.acceptWord n w want).1 = (want == 4 || decide (pwChan w < b.inst.channels) &&
      bit (b.reg (.prb (.PRB_CH_EN (pwChan w / 32)))) (pwChan w % 32)))) ∧
  (∀ (b : Blk) (w : BitVec 128) (at_ : Dword), Store.look b.prb.pairs (pairKey (pwChan w) (pwTag w)) = none →
    b.prb.pairs.length < 4096 →
    ∃ p : Pair, p.stamp = at_ ∧ p.group = b.chGroup (pwChan w) ∧ p.vals = b.counters (b.chGroup (pwChan w)) ∧
      p.poi = b.countersPoi (b.chGroup (pwChan w)) ∧
      p.opc = BitVec.ofNat 16 (pw w 47 32) ∧ p.cseq = w32 (pw w 31 0) ∧
      b.takeBegin w at_ = b.modPrb (fun m => { m with pairs := Store.put m.pairs (pairKey (pwChan w) (pwTag w)) p }))

/-- COUNTER_WRAP and SAMPLE_DRAIN (R96, R103): while a group that is assigned counts, each of its nine counters goes up by what its
selection counts in the tclk and has not counted in it already, modulo 2^48; while it does not, they keep their values; the oldest sample leaves the buffer. -/
def Obligations.EventCounters : Prop :=
  (∀ (s : State) (g k n : Nat), s.blk.inReset = false → s.blk.conf = .d → g < 64 → k < 33 →
    (bit (s.blk.reg (.prb (.PRB_Gg_CTRL g))) 31 = true → s.blk.ownerOf (s.blk.gOwner g) ≠ .none →
      ∃ b, b = s.blk.modPrb (fun m => { m with
          pins := Store.set 0 m.pins (if k = 32 then 2048 + g else 32 * g + k) (if k = 32 then n % 4 else n % 16) }) ∧
        Gives (.counterWrap g k n) s (fun t =>
          (∀ j, j < 8 → t.blk.counter g j = if b.addition g j ≤ Store.get 0 (b.group g).added j then b.counter g j
            else (b.counter g j + (b.addition g j - Store.get 0 (b.group g).added j)) % 2 ^ 48) ∧
          t.blk.counter g 8 = if Store.get 0 b.prb.pins (2048 + g) ≤ Store.get 0 (b.group g).added 8 then b.counter g 8
            else (b.counter g 8 + (Store.get 0 b.prb.pins (2048 + g) - Store.get 0 (b.group g).added 8)) % 2 ^ 48)) ∧
    (bit (s.blk.reg (.prb (.PRB_Gg_CTRL g))) 31 = false →
      Gives (.counterWrap g k n) s (fun t => ∀ j, j < 9 → t.blk.counter g j = s.blk.counter g j))) ∧
  (∀ (s : State) (c : Nat) (r : Record) (l : List (Nat × Record)), s.blk.inReset = false → s.blk.prb.smpBuf = (c, r) :: l →
    (s.blk.collRuns c = false → Becomes .sampleDrain s (s.blk.modPrb (fun m => { m with smpBuf := l }))) ∧
    (s.blk.collRuns c = true → Becomes .sampleDrain s ((s.blk.modPrb (fun m => { m with smpBuf := l })).collRec c r)))

/-- BW_WINDOW_CLOSE, SENSOR_SAMPLE and ANALOG_UPDATE (R104 to R108): a window closes at its end and not before; the inputs are sampled
once for each multiple of 10 µs of T64; an analog value is held in its register and recorded where its input is enabled. -/
def Obligations.WindowsAndSensors : Prop :=
  (∀ s : State, s.blk.inReset = false → s.blk.conf = .d → s.blk.prbCtl 1 = true → s.blk.bwLen ≠ 0 →
    ((s.blk.prb.bwWin + 1) * s.blk.bwLen * tkUs ≤ s.blk.t64.toNat → Becomes .bwWindowClose s s.blk.bwClose) ∧
    (s.blk.t64.toNat < (s.blk.prb.bwWin + 1) * s.blk.bwLen * tkUs → exec .bwWindowClose s = .next (settle s))) ∧
  (∀ (s : State) (ts vs : List (Nat × BitVec 16)), s.blk.inReset = false → s.blk.conf = .d → s.blk.prbCtl 2 = true →
    (s.blk.prb.snsAt = some (s.blk.t64.toNat / 160000) → exec (.sensorSample ts vs) s = .next (settle s)) ∧
    (s.blk.prb.snsAt ≠ some (s.blk.t64.toNat / 160000) → Becomes (.sensorSample ts vs) s
      ((List.range 32).foldl (fun b i => b.snsSample 1 i (pinOf vs i) (BitVec.ofNat 64 (160000 * (s.blk.t64.toNat / 160000))))
        ((List.range 64).foldl (fun b i => b.snsSample 0 i (pinOf ts i) (BitVec.ofNat 64 (160000 * (s.blk.t64.toNat / 160000))))
          (s.blk.modPrb (fun m => { m with snsAt := some (s.blk.t64.toNat / 160000) })))))) ∧
  (∀ (s : State) (i : Nat) (v : Word), s.blk.inReset = false → s.blk.conf = .d → i < 16 → i < s.blk.inst.analogs →
    ((bit (s.blk.reg (.prb (.PRB_AN_CFG i))) 31 = false ∨ s.blk.prbCtl 2 = false) →
      Gives (.analogUpdate i v) s (fun t => t.blk.reg (.prb (.PRB_AN_VAL i)) = v ∧
        (∀ r : Reg, r.addr .d ≠ (Reg.prb (.PRB_AN_VAL i)).addr .d → t.blk.reg r = s.blk.reg r))) ∧
    (bit (s.blk.reg (.prb (.PRB_AN_CFG i))) 31 = true → s.blk.prbCtl 2 = true → Becomes (.analogUpdate i v) s
      (let b := s.blk.setReg (.prb (.PRB_AN_VAL i)) v
       b.globRec (b.analogRec i v) true)))

/-! ### Records, debug -/

/-- FRAME_FLUSH_TIMEOUT, RECORD_FRAME_SEND, RECORD_FRAME_RECEIVE, FW_FREEZE_END and HISTORY_WRITE (R122, R128, R132, R134, R137): the
open frame of a stream closes once RCP_FLUSH has passed; a frame that arrives while RCP_CTRL.EN is 0 keeps its reservation; the flight
window freezes once arrival has reached a + 4 s, and not before; the next turn of the history is submitted as a
job once its parts are there and no job of the collection's history is under way. -/
def Obligations.RecordPath : Prop :=
  (∀ (s : State) (m : Nat), s.blk.inReset = false → (s.blk.stream m).nrec ≠ 0 →
    (s.blk.passed (s.blk.stream m).openAt (s.blk.ns (fld (s.blk.reg (.rcp .RCP_FLUSH)) 15 0)) = true →
      Becomes (.frameFlushTimeout m) s (s.blk.closeRec m)) ∧
    (s.blk.passed (s.blk.stream m).openAt (s.blk.ns (fld (s.blk.reg (.rcp .RCP_FLUSH)) 15 0)) = false →
      exec (.frameFlushTimeout m) s = .next (settle s))) ∧
  (∀ s : State, s.blk.inReset = false → Becomes .recordFrameSend s s.blk.drainRec) ∧
  (∀ b : Blk, b.rcpEn = false → b.drainRec = b.gapsOut) ∧
  (∀ (s : State) (f : RxFrame) (b : Blk) (tk : Taken), Hears s f ftRecord b tk →
    (b.role = .die → Becomes (.recordFrameReceive f) s (b.frameDone tk)) ∧
    (b.role = .span → b.rcpEn = true → Becomes (.recordFrameReceive f) s (b.frameDone tk)) ∧
    (b.role ≠ .die → b.rcpEn = false → Becomes (.recordFrameReceive f) s
      (b.modRcp (fun r => { r with ingress := r.ingress ++ [(tk.f, tk.fc)] }))) ∧
    (b.role = .tray → b.rcpEn = true → Becomes (.recordFrameReceive f) s (b.recordFrame tk.f tk.fc))) ∧
  (∀ s : State, s.blk.inReset = false → s.blk.rcp.fwClosing = true →
    (0 ≤ (s.blk.t64 - (s.blk.fwAlm + BitVec.ofNat 64 (4 * tkSec))).toInt → Gives .fwFreezeEnd s (fun t =>
      t.blk.rcp = { s.blk.rcp with fwClosing := false, fwFrozen := true, fwFrzShort := false } ∧
      t.blk.reg (.rcp .RCP_FW_FRZ_END_LO) = w32 s.blk.rcp.fwNext)) ∧
    ((s.blk.t64 - (s.blk.fwAlm + BitVec.ofNat 64 (4 * tkSec))).toInt < 0 → exec .fwFreezeEnd s = .next (settle s))) ∧
  (∀ (s : State) (c : Nat), s.blk.inReset = false → s.blk.collRuns c = true → s.blk.histOn c = true → s.blk.hasFuller = true →
    sdiff (s.blk.histTurn c) (s.blk.turnOf c) < 0 → s.blk.histBusy c = false →
    (∀ p ∈ s.blk.histParts c, (Store.look (Store.get [] s.blk.rcp.histPend c) (256 * (s.blk.histTurn c).toNat + p)).isSome = true) →
    Gives (.historyWrite c) s (fun t => ∃ data, t.blk.ful.queue = s.blk.ful.queue ++ [s.blk.histJob c (s.blk.histTurn c) data] ∧
      data = (s.blk.histParts c).flatMap (fun p =>
        (Store.look (Store.get [] s.blk.rcp.histPend c) (256 * (s.blk.histTurn c).toNat + p)).getD [])))

/-- DEBUG_AUTH_RESULT and DEBUG_GRANT_EXPIRE (R434): an authorisation is checked in the order signature, target, format, time, secure
time, lock; only one that passes all of them gives its grants until its end; one that fails says why and changes no grant. -/
def Obligations.DebugAuthorisation : Prop :=
  (∀ (s : State) (a : AuthCheck) (v : Verdict), s.blk.inReset = false → s.blk.trace.checking = some a →
    (s.blk.authReason a (decide (v = .ok)) = 0 → Gives (.debugAuthResult v) s (fun t =>
      t.blk.trace.grants = a.grants ∧ t.blk.trace.endT = a.until_ ∧ t.blk.trace.serial = a.serial ∧
      t.blk.trace.checking = none ∧ t.blk.reg (.ctr .CTR_AUTH_RESULT) = 6)) ∧
    (s.blk.authReason a (decide (v = .ok)) ≠ 0 → Gives (.debugAuthResult v) s (fun t =>
      t.blk.trace = { s.blk.trace with checking := none } ∧
      t.blk.reg (.ctr .CTR_AUTH_RESULT) = w32 (2 + s.blk.authReason a (decide (v = .ok)) <<< 4)))) ∧
  (∀ (b : Blk) (a : AuthCheck), b.authReason a false = 1 ∧ (a.bad ≠ 0 → b.authReason a true = a.bad) ∧
    (a.bad = 0 → b.authReason a true = 0 → a.from_.toNat ≤ b.t64.toNat ∧ b.t64.toNat < a.until_.toNat ∧ b.boot.lockSeen = true)) ∧
  (∀ s : State, s.blk.inReset = false →
    (s.blk.trace.endT.toNat ≤ s.blk.t64.toNat → Gives .debugGrantExpire s (fun t =>
      t.blk.trace = { s.blk.trace with grants := 0 })) ∧
    (s.blk.t64.toNat < s.blk.trace.endT.toNat → exec .debugGrantExpire s = .next (settle s)))

/-! ### Exact sums and the trees -/

/-- W320 sums (R219, R220): addition is two's complement modulo 2^320 with the flags ORed; it is commutative and associative, so the
value and flags of a sum do not depend on the order of its additions or the shape of its tree; a sum is exact whenever its true value is
in range, and wraps without a flag when it is not; a finite binary32 value converts exactly to less than 2^288 in magnitude, and no sum of
at most 2^31 of them, or of at most 2^95 signed 64-bit integers, leaves the range. -/
def Obligations.ExactSums : Prop :=
  (∀ a b : W320, (a.add b).val = a.val + b.val ∧ (a.add b).pinf = (a.pinf || b.pinf) ∧ (a.add b).ninf = (a.ninf || b.ninf) ∧
    (a.add b).nan = (a.nan || b.nan)) ∧
  (∀ a b c : W320, a.add b = b.add a ∧ (a.add b).add c = a.add (b.add c)) ∧
  (∀ l m : List W320, l.Perm m → l.foldl W320.add W320.zero = m.foldl W320.add W320.zero) ∧
  (∀ (l : List W320) (r : W320) (n : Int), r = l.foldl W320.add W320.zero → n = (l.map (fun w => w.val.toInt)).sum →
    r.val = BitVec.ofInt 320 n ∧ (-(2 ^ 319) ≤ n ∧ n < 2 ^ 319 → r.val.toInt = n) ∧
    r.pinf = l.any (fun w => w.pinf) ∧ r.ninf = l.any (fun w => w.ninf) ∧ r.nan = l.any (fun w => w.nan)) ∧
  (∀ (v m : Nat) (n : Bool) (e : Int), v < 2 ^ 32 → f32.val v = .fin n m e → -149 ≤ e ∧
    (W320.ofVal (f32.val v)).val.toInt = (if n then -1 else 1) * ((m : Int) * 2 ^ (e + 160).toNat) ∧
    (W320.ofVal (f32.val v)).val.toInt.natAbs < 2 ^ 288) ∧
  (∀ l : List Nat, l.length ≤ 2 ^ 31 → (∀ v ∈ l, v < 2 ^ 32 ∧ ∃ n m e, f32.val v = .fin n m e) →
    (l.foldl (fun a v => a.add (W320.ofVal (f32.val v))) W320.zero).val.toInt =
      (l.map (fun v => (W320.ofVal (f32.val v)).val.toInt)).sum) ∧
  (∀ l : List Int, l.length ≤ 2 ^ 95 → (∀ i ∈ l, -(2 ^ 63) ≤ i ∧ i < 2 ^ 63) →
    (l.foldl (fun a i => a.add (W320.ofInt i)) W320.zero).val.toInt = l.sum * 2 ^ 160)

/-- The two forms of a W320 in memory and in payloads (R203, R222): each reads back as the value it was made of, with its flags. -/
def Obligations.WideSumForms : Prop :=
  (∀ w : W320, W320.ofImage w.image = w) ∧
  (∀ w : W320, W320.unpack (w.pack.headD 0) (w.pack.drop 1) = w ∧ w.pack.length = formLen (w.pack.headD 0))

/-- The double tree (R27, R28, R231): in each tree only the crown has no parent, every other participant's parent is a participant, and
every participant is a leaf of at least one of the trees; a single participant is both crowns. -/
def Obligations.DoubleTree : Prop :=
  ∀ ps : List Word, ps.Nodup → ps.length ≤ 16384 →
    (∀ (b : Bool) (p : Word), p ∈ ps → (parentIn ps b p = none ↔ crownIn ps b = some p)) ∧
    (∀ (b : Bool) (p q : Word), p ∈ ps → parentIn ps b p = some q → q ∈ ps ∧ q ≠ p) ∧
    (∀ p ∈ ps, kidsIn ps false p = [] ∨ kidsIn ps true p = []) ∧
    (ps.length = 1 → crownIn ps false = crownIn ps true)

/-! ### Reduction -/

/-- CONTRIBUTION_RECEIVE, DIE_CUT, TREE_CUT, HALF_PARTIAL_RECEIVE, SITE_HALF_RECEIVE (R229, R230, R233, R235 to R237, R240): a
contribution or a half behind an earlier frame of its source, or whose turn cannot be opened, waits; a cut acts on every turn whose time has passed,
and on no other; a half is taken only from a child, a crown of the own site, or another site. -/
def Obligations.PartialsUp : Prop :=
  (∀ (s : State) (f : RxFrame) (b : Blk) (tk : Taken), s.blk.role = .tray →
    (HearsIf s f ftReduce (fun g => decide (g.srole = 1)) b tk → Becomes (.contributionReceive f) s (b.reduceIn tk)) ∧
    (HearsIf s f ftReduce (fun g => decide (g.srole ≠ 1) && decide (s.blk.headLevel g = 0)) b tk →
      Becomes (.halfPartialReceive f) s (b.reduceIn tk))) ∧
  (∀ (b c : Blk) (tk : Taken),
    (b.red.wait.any (fun e => e.1.src == tk.f.src && decide (e.1.coll = tk.f.coll)) = true →
      b.reduceIn tk = (b.modRed (fun m => { m with wait := m.wait ++ [(tk.f, tk.fc)] })).redEnd) ∧
    (b.red.wait.any (fun e => e.1.src == tk.f.src && decide (e.1.coll = tk.f.coll)) = false →
      ((if tk.f.srole = 1 then b.takeContribution tk.f tk.fc else b.takeHalfFrame tk.f tk.fc) = (true, c) →
        b.reduceIn tk = c.redEnd) ∧
      ((if tk.f.srole = 1 then b.takeContribution tk.f tk.fc else b.takeHalfFrame tk.f tk.fc) = (false, c) →
        b.reduceIn tk = (c.modRed (fun m => { m with wait := m.wait ++ [(tk.f, tk.fc)] })).redEnd))) ∧
  (∀ (b c : Blk) (f : Frame) (fc : Option Nat) (ws : List PWord), b.redEn = true → b.gather ⟨f, fc⟩ false = (some ws, c) →
    (∀ x, b.readHalf f.coll ws = some x → b.mustWait f.coll x.rid x.turn = false →
      b.takeHalfFrame f fc = (true, c.halfPartialIn f.coll f.src x)) ∧
    (b.readHalf f.coll ws = none → b.takeHalfFrame f fc = (true, c.malformed f.coll))) ∧
  (∀ (s : State) (c r : Nat) (v : Reduction) (due : List (Word × Nat)), s.blk.inReset = false → s.blk.reduction c r = some v →
    due = (s.blk.withBase c r (fun _ t => t.tray.isNone)).filter (fun p =>
      decide ((s.blk.cuts c v p.1 p.2).1 ≤ (s.blk.t64.toNat : Int))) →
    (due ≠ [] → Becomes (.dieCut c r) s (due.foldl (fun b p => b.tryTray c r p.1 true) s.blk).redEnd) ∧
    (due = [] → exec (.dieCut c r) s = .next (settle s))) ∧
  (∀ (s : State) (c r : Nat) (b : Bool) (v : Reduction) (due : List (Word × Nat)), s.blk.inReset = false →
    s.blk.reduction c r = some v → v.scope ≠ 1 →
    due = (s.blk.withBase c r (fun n t => s.blk.inTree c n && (if b then t.halfB else t.halfA).isNone)).filter (fun p =>
      decide ((if b then (s.blk.cuts c v p.1 p.2).2.2 else (s.blk.cuts c v p.1 p.2).2.1) ≤ (s.blk.t64.toNat : Int))) →
    (due ≠ [] → Becomes (.treeCut c r b) s
      (due.foldl (fun u p => (u.tryTray c r p.1 true).tryHalf c r p.1 b true) s.blk).redEnd) ∧
    (due = [] → exec (.treeCut c r b) s = .next (settle s))) ∧
  (∀ (s : State) (f : RxFrame) (b c : Blk) (tk : Taken) (ws : List PWord) (x : HalfIn), s.blk.role = .span → Hears s f ftReduce b tk →
    b.gather tk false = (some ws, c) → c.readHalf tk.f.coll ws = some x → x.level = 2 →
    (tk.f.srole = 2 → crownIn (c.treeOf tk.f.coll x.turn) x.b = some tk.f.src → Becomes (.siteHalfReceive f) s
      ((c.fromBelow x.turn).siteHalfIn tk.f.coll x (siteOf tk.f.src) true ws).redEnd) ∧
    (tk.f.srole ≠ 2 → siteOf tk.f.src ≠ siteOf c.place → Becomes (.siteHalfReceive f) s
      (c.siteHalfIn tk.f.coll x (siteOf tk.f.src) false ws).redEnd) ∧
    (tk.f.srole = 2 → crownIn (c.treeOf tk.f.coll x.turn) x.b ≠ some tk.f.src → Becomes (.siteHalfReceive f) s c))

/-- LEAD_WAIT_EXPIRE, LIST_RECEIVE, SPAN_HOLD_EXPIRE, FETCH_REQUEST, FETCH_REPLY (R241, R242, R245): the lead forms the list of a turn
once it holds every half or WSR_SPAN_WAIT has passed since it held the first, and, where it took the role from another, since that; a listed half still absent after WSR_SPAN_HOLD is
asked for once. -/
def Obligations.SpanCombine : Prop :=
  (∀ (s : State) (c r a : Nat) (n : Word) (t : RTurn), s.blk.inReset = false → s.blk.rturn c r n = some t → t.siteAt = some a →
    (s.blk.leadReady c = true →
      (s.blk.passed a (s.blk.us (s.blk.reg (.wsr .WSR_SPAN_WAIT)).toNat) = true ∨ s.blk.sitesFull c t = true) →
      Becomes (.leadWaitExpire c r n) s (s.blk.formList c r n).redEnd) ∧
    ((s.blk.leadReady c = false ∨
      (s.blk.passed a (s.blk.us (s.blk.reg (.wsr .WSR_SPAN_WAIT)).toNat) = false ∧ s.blk.sitesFull c t = false)) →
      exec (.leadWaitExpire c r n) s = .next (settle s))) ∧
  (∀ (b : Blk) (c l : Nat), Store.look b.red.leadOf c = some l →
    (b.isLead c = false → b.leadReady c = false) ∧
    (b.isLead c = true → (b.coll c).firstLead = false →
      b.leadReady c = b.passed l (b.us (b.reg (.wsr .WSR_SPAN_WAIT)).toNat))) ∧
  (∀ (s : State) (f : RxFrame) (b : Blk) (tk : Taken), Hears s f ftList b tk → (b.frameDone tk).role = .span →
    16 ≤ tk.f.payload.length → Becomes (.listReceive f) s
      ((b.frameDone tk).listIn tk.f.coll (fld (wordAt tk.f.payload 0) 3 0) (wordAt tk.f.payload 1)
        (fld (wordAt tk.f.payload 2) 7 0, fld (wordAt tk.f.payload 3) 7 0)).redEnd) ∧
  (∀ (s : State) (c r : Nat) (n : Word) (t : RTurn) (l : Nat × Nat), s.blk.inReset = false → s.blk.rturn c r n = some t →
    t.list = some l → t.handed = false → t.askedSpan = false → t.listHeld l = false →
    (s.blk.passed t.listAt (s.blk.us (s.blk.reg (.wsr .WSR_SPAN_HOLD)).toNat) = true →
      Becomes (.spanHoldExpire c r n) s (s.blk.askLead c r n t l)) ∧
    (s.blk.passed t.listAt (s.blk.us (s.blk.reg (.wsr .WSR_SPAN_HOLD)).toNat) = false →
      exec (.spanHoldExpire c r n) s = .next (settle s))) ∧
  (∀ (s : State) (f : RxFrame) (b : Blk) (tk : Taken), HearsSub s f ftFetch 1 b tk → 8 ≤ tk.f.payload.length →
    (fld (wordAt tk.f.payload 0) 9 8 = 1 ∨ fld (wordAt tk.f.payload 0) 9 8 = 2) →
    ((b.frameDone tk).role = .tray → 2 ≤ fld (wordAt tk.f.payload 0) 31 30 → Becomes (.fetchRequest f) s
      ((b.frameDone tk).requestIn tk.f.coll (fld (wordAt tk.f.payload 0) 19 16) (fld (wordAt tk.f.payload 0) 31 30)
        (decide (fld (wordAt tk.f.payload 0) 9 8 = 2)) (wordAt tk.f.payload 1) tk.f.src tk.f.srole)) ∧
    ((b.frameDone tk).role = .span → Becomes (.fetchRequest f) s
      ((b.frameDone tk).answerSites tk.f.coll (fld (wordAt tk.f.payload 0) 19 16) (wordAt tk.f.payload 1)
        (decide (fld (wordAt tk.f.payload 0) 9 8 = 2)) tk.f.src))) ∧
  (∀ (s : State) (f : RxFrame) (b c : Blk) (tk : Taken) (ws : List PWord) (x : HalfIn), HearsIf s f ftFetch (fun g =>
      decide (fld (wordAt g.payload 0) 7 0 = 2) || !(s.blk.chain (chainKey g.coll g.src g.srole true)).isEmpty) b tk →
    b.gather tk true = (some ws, c) → c.readHalf tk.f.coll (ws.drop 2) = some x →
    (c.role = .span → Becomes (.fetchReply f) s (c.siteReply tk.f.coll x).redEnd) ∧
    (∀ k, c.role = .tray → 2 ≤ x.level → c.rturn tk.f.coll x.rid x.turn = some k → (k.bcast x.level).done = false →
      Becomes (.fetchReply f) s ((c.count (.wsr .WSR_REREACH_CNT) 1).bcastIn tk.f.coll x.rid x.turn x.level x.b x.half
        x.sites x.exp).redEnd))

/-- BROADCAST_HALF_RECEIVE, BC_WAIT_EXPIRE, BC_HOLD_EXPIRE, RESULT_DELIVER, LATENESS_CUT (R243 to R246, R262): a broadcast half that comes
from above in its tree, of a turn still open, is taken; a die takes a whole result from its tray; a half held for WSR_BC_WAIT without
the other is asked for, and after WSR_BC_HOLD the result is formed without it; results leave in turn order. -/
def Obligations.ResultsDown : Prop :=
  (∀ (s : State) (f : RxFrame) (b c : Blk) (tk : Taken) (ws : List PWord), s.blk.role ≠ .span →
    HearsIf s f ftReduce (fun g => decide (s.blk.role = .die) || (decide (g.srole ≠ 1) && decide (s.blk.headLevel g ≠ 0))) b tk →
    b.gather tk false = (some ws, c) →
    (c.role = .die → Becomes (.broadcastHalfReceive f) s (c.dieResult tk.f.coll ws)) ∧
    (∀ x v, c.role ≠ .die → c.readHalf tk.f.coll ws = some x → 2 ≤ x.level → c.reduction tk.f.coll x.rid = some v → v.closed = none →
      0 ≤ sdiff x.turn (c.coll tk.f.coll).start → c.fromAboveTree tk.f.coll x tk.f.src tk.f.srole = true →
      Becomes (.broadcastHalfReceive f) s
        (c.bcastIn tk.f.coll x.rid x.turn x.level x.b x.half x.sites x.exp).redEnd)) ∧
  (∀ (s : State) (c r : Nat) (n : Word), s.blk.inReset = false →
    Becomes (.bcWaitExpire c r n) s ((s.blk.bcWaitAt c r n 2).bcWaitAt c r n 3) ∧
    Becomes (.bcHoldExpire c r n) s ((s.blk.bcHoldAt c r n 2).bcHoldAt c r n 3).redEnd) ∧
  (∀ (b : Blk) (c r l : Nat) (n : Word) (t : RTurn), b.rturn c r n = some t →
    (∀ h, (t.bcast l).wants = some h → b.passed (t.bcast l).at_ (b.us (b.reg (.wsr .WSR_BC_WAIT)).toNat) = true →
      b.bcWaitAt c r n l = b.bcastAsk c r n l h) ∧
    (∀ h, (t.bcast l).wants = some h → b.passed (t.bcast l).at_ (b.us (b.reg (.wsr .WSR_BC_HOLD)).toNat) = true →
      b.bcHoldAt c r n l = b.bcastDone c r n l) ∧
    (b.passed (t.bcast l).at_ (b.us (b.reg (.wsr .WSR_BC_WAIT)).toNat) = false → b.bcWaitAt c r n l = b) ∧
    (b.passed (t.bcast l).at_ (b.us (b.reg (.wsr .WSR_BC_HOLD)).toNat) = false → b.bcHoldAt c r n l = b) ∧
    ((t.bcast l).wants = none → b.bcWaitAt c r n l = b ∧ b.bcHoldAt c r n l = b)) ∧
  (∀ (s : State) (c r : Nat) (b : Blk), s.blk.inReset = false → s.blk.collRuns c = true →
    (∀ x, s.blk.deliverResult c r = (some x, b) →
      Becomes (.resultDeliver c r) s (Blk.ackRun 64 (b.lateResult c r x) c).redEnd) ∧
    (s.blk.deliverResult c r = (none, b) → Becomes (.resultDeliver c r) s b)) ∧
  (∀ (s : State) (c : Nat), s.blk.inReset = false → (s.blk.coll c).late = none → exec (.latenessCut c) s = .next (settle s)) ∧
  (∀ (s : State) (c k : Nat) (g : LateCfg) (x : LateTurn) (mx : Dword), s.blk.inReset = false → (s.blk.coll c).late = some g →
    s.blk.sk.late.filter (fun p => p.1 / 2 ^ 32 = c) = [(k, x)] → x.mx = some mx → 0 ≤ (s.blk.t64 - g.cutAt mx).toInt →
    Becomes (.latenessCut c) s (s.blk.lateForm c (w32 k) true))

/-! ### Units' jobs -/

/-- SKETCH_JOB_DONE, TSCORE_JOB_DONE, FULLER_JOB_START, FULLER_JOB_DONE, ALARM_ENQUEUE, MODEL_LOAD_DONE (R171, R172, R299, R305, R329):
the oldest job of a unit ends, with its completion or its fault, or, its collection torn down, with neither; the first waiting
compression job that may start takes the lowest free engine while FUL_CTRL.EN is 1, program jobs passing the history writer's while it
holds HIST_MAX engines; a load stages the image it could check, and says with its status why it could not. -/
def Obligations.UnitJobs : Prop :=
  (∀ (s : State) (k : Nat), s.blk.inReset = false → Store.get [] s.blk.sk.jobs k ≠ [] →
    Becomes (.sketchJobDone k) s ((Blk.jobEnded (s.blk.skJobEnd k)).redPump.redFaults.idleNow k)) ∧
  (∀ (s : State) (k : Nat), s.blk.inReset = false → Store.get [] s.blk.tre.jobs k ≠ [] →
    Becomes (.tscoreJobDone k) s ((Blk.jobEnded (s.blk.treJobEnd k)).idleNow k)) ∧
  (∀ (s : State) (e : Nat) (j : Job), s.blk.inReset = false → (s.blk.fulEngine e).job = some j →
    (j.hist = none → Becomes (.fullerJobDone e) s (Blk.jobEnded (s.blk.fulJobEnd e))) ∧
    (∀ n data, j.hist = some (n, data) → Becomes (.fullerJobDone e) s
      ((s.blk.engineFree e (s.blk.fulEngine e)).histWrite j.coll e j.gen n data))) ∧
  (∀ (s : State) (k : Nat) (j : Job) (l : List Job) (b : Blk), s.blk.inReset = false → Store.get [] s.blk.sk.jobs k = j :: l →
    b = s.blk.modSk (fun m => { m with jobs := Store.set [] m.jobs k l }) →
    (j.dead = true → s.blk.skJobEnd k = (none, b.count (.sku .SKU_JOB_CNT) 1)) ∧
    (∀ d, j.dead = false → b.skRun j = .error d → s.blk.skJobEnd k = (some (j, d), b))) ∧
  (∀ (s : State) (e : Nat) (j : Job) (l m : List Job), s.blk.inReset = false → s.blk.ful.queue = l ++ j :: m →
    (∀ i ∈ l, i.hist.isSome = true ∧ fld (s.blk.reg (.ful .FUL_CTRL)) 11 8 ≤ s.blk.histHeld) →
    (j.hist = none ∨ s.blk.histHeld < fld (s.blk.reg (.ful .FUL_CTRL)) 11 8) → s.blk.hasFuller = true →
    bit (s.blk.reg (.ful .FUL_CTRL)) 0 = true → (List.range 8).find? (fun e => (s.blk.fulEngine e).job.isNone) = some e →
    Gives .fullerJobStart s (fun t => t.blk.ful.queue = l ++ m ∧ t.blk.ful.starts = s.blk.ful.starts + 1 ∧
      (t.blk.fulEngine e).job = some j ∧ (∀ i, i ≠ e → t.blk.fulEngine i = s.blk.fulEngine i))) ∧
  (∀ (s : State) (k : Nat), s.blk.inReset = false → Store.get [] s.blk.tre.alarms k ≠ [] →
    Becomes (.alarmEnqueue k) s ((s.blk.enqAlarm k).idleNow k)) ∧
  (∀ (s : State) (n st : Nat) (e : Option Ens) (b : Blk), s.blk.inReset = false → (s.blk.slot n).loading = true →
    (s.blk.setSlot n { s.blk.slot n with staged := none }).loadImage n = (st, e, b) →
    Gives (.modelLoadDone n) s (fun t => t.blk.slot n = { b.slot n with loading := false, staged := e, lstat := st }))

/-! ### Collections -/

/-- COLLCTL_START, COLLCTL_ACK, COLLCTL_WAIT, COLLCTL_REREACH, COLLCTL_COMMIT, COLLCTL_ABORT, COLLCTL_OUTCOME, COLLCTL_EFFECTIVE
(R408, R454 to R459): a frame of a generation that is not starting is stale and is counted; an acknowledgement or a WAIT is noted as being
heard of its sender; a commit takes effect once all its places have come; an abort ends the start; the outcome is answered to the node
that asks; an instance that holds tl_ready low takes no part in a collection's trees and lets every COLLCTL frame go (R41). -/
def Obligations.StartFrames : Prop :=
  (∀ (s : State) (f : RxFrame) (b c : Blk) (tk : Taken), HearsSub s f ftCollctl 1 b tk → b.boot.ready = true → c = b.frameDone tk →
    (c.conf.colls ≤ tk.f.coll → Becomes (.collctlStart f) s c.ctlStale) ∧
    (∀ d, tk.f.coll < c.conf.colls → c.readDesc tk.f.coll (hiLo (tk.f.word 3) (tk.f.word 2)) = d →
      (d.1 = 0 ∧ (c.coll tk.f.coll).st = .idle ∧ c.fromAbove d.2.1.places tk.f.node = false → Becomes (.collctlStart f) s
        (c.relayUp tk.f.coll tk.f.gen16 d.2.1.places tk.f.node
          (startWords 0 (hiLo (tk.f.word 3) (tk.f.word 2)) (tk.f.word 4) (tk.f.word 5)))) ∧
      (¬ (d.1 = 0 ∧ (c.coll tk.f.coll).st = .idle ∧ c.fromAbove d.2.1.places tk.f.node = false) → Becomes (.collctlStart f) s
        (c.startIn tk.f.coll tk.f.gen16 (fld (tk.f.word 1) 0 0) (hiLo (tk.f.word 3) (tk.f.word 2)) (tk.f.word 4) (tk.f.word 5)
          tk.f.node)))) ∧
  (∀ (s : State) (f : RxFrame) (b c : Blk) (tk : Taken), HearsSub s f ftCollctl 2 b tk → b.boot.ready = true → c = b.frameDone tk →
    c.starting tk.f.coll tk.f.gen = false →
    (c.isInit tk.f.coll tk.f.gen = false → Becomes (.collctlAck f) s c.ctlStale) ∧
    (c.isInit tk.f.coll tk.f.gen = true → fld (tk.f.word 1) 7 0 ≠ 0 → Becomes (.collctlAck f) s
      (c.noteOutcome tk.f.coll tk.f.gen16 (abortWords (fld (tk.f.word 1) 7 0)
        (if (tk.f.word 2).toNat = 0 then tk.f.src else tk.f.word 3))))) ∧
  (∀ (s : State) (f : RxFrame) (b c : Blk) (tk : Taken) (cs : CStart), HearsSub s f ftCollctl 2 b tk → b.boot.ready = true → c = b.frameDone tk →
    c.starting tk.f.coll tk.f.gen = true → (c.coll tk.f.coll).cs = some cs → cs.relay.contains tk.f.src = false →
    (fld (tk.f.word 1) 7 0 = 0 → Becomes (.collctlAck f) s
      ((c.modCs tk.f.coll (fun cs => { cs with kids := cs.kids.map (fun (k : CKid) =>
        if k.place ≠ tk.f.src ∨ k.role ≠ tk.f.srole ∨ k.done then k else
          { k with
            heard := c.tclk, excl := addPlaces k.excl (tk.f.placeList.take (tk.f.word 2).toNat)
            done := decide ((tk.f.word 2).toNat ≤ (addPlaces k.excl (tk.f.placeList.take (tk.f.word 2).toNat)).length) }) })).startAgg
        tk.f.coll)) ∧
    (fld (tk.f.word 1) 7 0 ≠ 0 → Becomes (.collctlAck f) s
      ((c.modCs tk.f.coll (fun cs => { cs with kids := cs.kids.map (fun (k : CKid) =>
        if k.place ≠ tk.f.src ∨ k.role ≠ tk.f.srole ∨ k.done then k else
          { k with
            done := true, heard := c.tclk
            refusal := some (fld (tk.f.word 1) 7 0, if (tk.f.word 2).toNat = 0 then tk.f.src else tk.f.word 3) }) })).startAgg
        tk.f.coll))) ∧
  (∀ (s : State) (f : RxFrame) (b c : Blk) (tk : Taken), HearsSub s f ftCollctl 3 b tk → b.boot.ready = true → c = b.frameDone tk →
    (c.starting tk.f.coll tk.f.gen = false → Becomes (.collctlWait f) s c.ctlStale) ∧
    (c.starting tk.f.coll tk.f.gen = true → c.role ≠ .tray → (∀ cs, (c.coll tk.f.coll).cs = some cs → cs.relay = []) →
      Becomes (.collctlWait f) s (c.modCs tk.f.coll (fun cs => { cs with kids := cs.kids.map (fun (k : CKid) =>
        if k.place = tk.f.src ∧ k.role = tk.f.srole then { k with heard := c.tclk } else k) })))) ∧
  (∀ (s : State) (f : RxFrame) (b c : Blk) (tk : Taken), HearsSub s f ftCollctl 8 b tk → b.boot.ready = true → c = b.frameDone tk →
    (c.starting tk.f.coll tk.f.gen = false → Becomes (.collctlRereach f) s c.ctlStale) ∧
    (c.starting tk.f.coll tk.f.gen = true → crownIn (atSite (c.coll tk.f.coll).parts (siteOf c.place)) false ≠ some c.place →
      Becomes (.collctlRereach f) s (c.reachB tk.f.coll (tk.f.word 1)))) ∧
  (∀ (s : State) (f : RxFrame) (b c d : Blk) (tk : Taken) (cs : CStart), HearsSub s f ftCollctl 4 b tk → b.boot.ready = true → c = b.frameDone tk →
    c.starting tk.f.coll tk.f.gen = true →
    d = c.modCs tk.f.coll (fun cs => { cs with commitIn := addPlaces cs.commitIn (tk.f.placeList.take (tk.f.word 2).toNat) }) →
    (d.coll tk.f.coll).cs = some cs →
    ((tk.f.word 2).toNat ≤ cs.commitIn.length → Becomes (.collctlCommit f) s (d.outcome tk.f.coll (commitWords (tk.f.word 1) cs.commitIn))) ∧
    (cs.commitIn.length < (tk.f.word 2).toNat → Becomes (.collctlCommit f) s d)) ∧
  (∀ (s : State) (f : RxFrame) (b c : Blk) (tk : Taken), HearsSub s f ftCollctl 5 b tk → b.boot.ready = true → c = b.frameDone tk →
    (c.starting tk.f.coll tk.f.gen = true → Becomes (.collctlAbort f) s
      (c.outcome tk.f.coll (abortWords (fld (tk.f.word 1) 7 0) (tk.f.word 2)))) ∧
    (c.starting tk.f.coll tk.f.gen = false → c.isInit tk.f.coll tk.f.gen = false → Becomes (.collctlAbort f) s c.ctlStale)) ∧
  (∀ (s : State) (f : RxFrame) (b c : Blk) (tk : Taken), HearsSub s f ftCollctl 9 b tk → b.boot.ready = true → c = b.frameDone tk →
    (c.starting tk.f.coll tk.f.gen = true → Becomes (.collctlOutcome f) s c) ∧
    (∀ ws, c.starting tk.f.coll tk.f.gen = false → (c.coll tk.f.coll).outcome = some (tk.f.gen16, ws) →
      Becomes (.collctlOutcome f) s (c.ctlList tk.f.coll tk.f.gen16 tk.f.node ws))) ∧
  (∀ (s : State) (f : RxFrame) (b c : Blk) (tk : Taken), HearsSub s f ftCollctl 0xA b tk → b.boot.ready = true → c = b.frameDone tk →
    ((c.coll tk.f.coll).gen ≠ tk.f.gen16 → Becomes (.collctlEffective f) s c.ctlStale) ∧
    (c.role = .span → (c.coll tk.f.coll).gen = tk.f.gen16 → (c.coll tk.f.coll).st = .running →
      (c.coll tk.f.coll).gone.any (fun p => p.1 == tk.f.word 1) = false → (c.coll tk.f.coll).parts.contains (tk.f.word 1) = true →
      Gives (.collctlEffective f) s (fun t =>
        (t.blk.coll tk.f.coll).gone = (c.coll tk.f.coll).gone ++ [(tk.f.word 1, tk.f.word 2)]))) ∧
  (∀ (s : State) (f : RxFrame) (b : Blk) (tk : Taken), b.boot.ready = false →
    (HearsSub s f ftCollctl 1 b tk → Becomes (.collctlStart f) s (b.frameDone tk)) ∧
    (HearsSub s f ftCollctl 2 b tk → Becomes (.collctlAck f) s (b.frameDone tk)) ∧
    (HearsSub s f ftCollctl 3 b tk → Becomes (.collctlWait f) s (b.frameDone tk)) ∧
    (HearsSub s f ftCollctl 4 b tk → Becomes (.collctlCommit f) s (b.frameDone tk)) ∧
    (HearsSub s f ftCollctl 5 b tk → Becomes (.collctlAbort f) s (b.frameDone tk)) ∧
    (HearsSub s f ftCollctl 6 b tk → Becomes (.collctlTeardown f) s (b.frameDone tk)) ∧
    (HearsSub s f ftCollctl 7 b tk → Becomes (.collctlTdDone f) s (b.frameDone tk)) ∧
    (HearsSub s f ftCollctl 8 b tk → Becomes (.collctlRereach f) s (b.frameDone tk)) ∧
    (HearsSub s f ftCollctl 9 b tk → Becomes (.collctlOutcome f) s (b.frameDone tk)) ∧
    (HearsSub s f ftCollctl 0xA b tk → Becomes (.collctlEffective f) s (b.frameDone tk)))

/-- START_WAIT_REPEAT, REREACH_TIMEOUT, START_TIMEOUT, OUTCOME_TIMEOUT (R455 to R459): each acts once its time has passed and not before:
the WAIT is repeated every 1 ms; a child not heard for BOOT_RR is excluded, or its subtree is reached again; at BOOT_CS_TMO the
coordinator aborts with the first refusal, or 0x0E; the outcome is asked for again every BOOT_RR. -/
def Obligations.StartTimers : Prop :=
  (∀ (s : State) (c t : Nat) (cs : CStart), s.blk.inReset = false → (s.blk.coll c).cs = some cs → cs.waitAt = some t → cs.own = none →
    (s.blk.passed t (s.blk.ms 1) = true → Becomes (.startWaitRepeat c) s (s.blk.startWait c)) ∧
    (s.blk.passed t (s.blk.ms 1) = false → exec (.startWaitRepeat c) s = .next (settle s))) ∧
  (∀ (s : State) (c : Nat) (p : Word) (cs : CStart) (k : CKid), s.blk.inReset = false → (s.blk.coll c).cs = some cs →
    cs.kids.find? (fun k => k.place == p && !k.done) = some k →
    (s.blk.passed k.heard (s.blk.us (fld (s.blk.reg (.boot .BOOT_RR)) 15 0)) = false →
      exec (.rereachTimeout c p) s = .next (settle s)) ∧
    (s.blk.passed k.heard (s.blk.us (fld (s.blk.reg (.boot .BOOT_RR)) 15 0)) = true →
      (k.role = 1 → Becomes (.rereachTimeout c p) s (s.blk.excludeKid c k [k.place] false)) ∧
      (k.role = 2 → Becomes (.rereachTimeout c p) s (s.blk.traySilent c cs k)) ∧
      (k.role = 3 → Becomes (.rereachTimeout c p) s (s.blk.excludeKid c k [] false)))) ∧
  (∀ (s : State) (c : Nat) (cs : CStart), s.blk.inReset = false → (s.blk.coll c).cs = some cs → cs.coord = true →
    (s.blk.passed cs.at_ (s.blk.ms (s.blk.reg (.boot .BOOT_CS_TMO)).toNat) = true →
      (∀ r p, s.blk.firstRefusal cs = some (r, p) → Becomes (.startTimeout c) s (s.blk.outcome c (abortWords r p))) ∧
      (s.blk.firstRefusal cs = none → Becomes (.startTimeout c) s (s.blk.outcome c (abortWords 0x0E 0)))) ∧
    (s.blk.passed cs.at_ (s.blk.ms (s.blk.reg (.boot .BOOT_CS_TMO)).toNat) = false →
      exec (.startTimeout c) s = .next (settle s))) ∧
  (∀ (s : State) (c t : Nat) (cs : CStart) (n : Node), s.blk.inReset = false → (s.blk.coll c).cs = some cs → cs.acked = some t →
    (s.blk.passed t (s.blk.us (fld (s.blk.reg (.boot .BOOT_RR)) 15 0)) = false →
      exec (.outcomeTimeout c) s = .next (settle s)) ∧
    (s.blk.passed t (s.blk.us (fld (s.blk.reg (.boot .BOOT_RR)) 15 0)) = true → s.blk.role = .die → cs.up = some n →
      Becomes (.outcomeTimeout c) s
        ((s.blk.modCs c (fun cs => { cs with acked := some s.blk.tclk })).ctl c (s.blk.coll c).gen n [9])))

/-- COLLCTL_TEARDOWN, COLLCTL_TD_DONE, TEARDOWN_FORCE_CLOSE (R460): a teardown of another generation is stale; one that runs already
changes nothing; a child that is done is awaited no longer; after BOOT_TD_TMO the contexts still open are closed by force. -/
def Obligations.Teardown : Prop :=
  (∀ (s : State) (f : RxFrame) (b c : Blk) (tk : Taken), HearsSub s f ftCollctl 6 b tk → b.boot.ready = true → c = b.frameDone tk →
    ((c.coll tk.f.coll).gen ≠ tk.f.gen16 → Becomes (.collctlTeardown f) s c.ctlStale) ∧
    ((c.coll tk.f.coll).gen = tk.f.gen16 → (c.coll tk.f.coll).st = .tearing → Becomes (.collctlTeardown f) s c) ∧
    ((c.coll tk.f.coll).gen = tk.f.gen16 → (c.coll tk.f.coll).st = .running →
      (c.fromAbove (c.coll tk.f.coll).parts tk.f.node = true → Becomes (.collctlTeardown f) s (c.tdIn tk.f.coll
        (if c.coordOf (c.coll tk.f.coll).parts = some (c.place, roleCode c.role) then none else some tk.f.node))) ∧
      (c.fromAbove (c.coll tk.f.coll).parts tk.f.node = false → Becomes (.collctlTeardown f) s
        (c.relayUp tk.f.coll (c.coll tk.f.coll).gen (c.coll tk.f.coll).parts tk.f.node [6])))) ∧
  (∀ (s : State) (f : RxFrame) (b c : Blk) (tk : Taken) (d : CTear), HearsSub s f ftCollctl 7 b tk → b.boot.ready = true → c = b.frameDone tk →
    (c.coll tk.f.coll).gen = tk.f.gen16 → (c.coll tk.f.coll).st = .tearing → (c.coll tk.f.coll).td = some d → d.own = false →
    Gives (.collctlTdDone f) s (fun t => (t.blk.coll tk.f.coll).td = some { d with kids := d.kids.filter (· ≠ tk.f.node) })) ∧
  (∀ (s : State) (c : Nat) (d : CTear), s.blk.inReset = false → (s.blk.coll c).td = some d → d.own = false →
    (s.blk.passed d.at_ (s.blk.ms (s.blk.reg (.boot .BOOT_TD_TMO)).toNat) = true → Becomes (.teardownForceClose c) s
      ((s.blk.closeOwn c (s.blk.qsc.flows.filter (fun p => !p.2.recv && p.2.colls.contains c &&
        decide (sdiff p.2.limit (p.2.sent + w32 p.2.grant) < 0))).length).tdAgg c)) ∧
    (s.blk.passed d.at_ (s.blk.ms (s.blk.reg (.boot .BOOT_TD_TMO)).toNat) = false →
      exec (.teardownForceClose c) s = .next (settle s)))

/-! ### Queues, memories, firmware, health, the control port and the whole machine -/

/-! ### Queues and frames -/

/-- TOKEN_FRAME_CLOSE, SCHEDULER_PICK, SHAPER_SLOT, QUEUE_SAMPLE, CREDIT_ADVERTISE (R334, R337, R340 to R342, R345): the open frame of an
egress queue is closed QSC_PACK_NS after its first token and not before, its payload being its tokens in order; a fabric pair that
exists picks, classes C0, C1 and C2 in this order ahead of the weighted group; a shaped queue moves to its fine slot when its
coarse slot begins, and leaves the wheels when its slot has come; a weighted
queue is sampled after 10 µs; a LIMIT that has advanced by a quarter of the grant is advertised after QSC_CRED_NS, and any LIMIT after
100 µs. -/
def Obligations.QueueScheduling : Prop :=
  (∀ (s : State) (q : Nat), s.blk.inReset = false → s.blk.qEn q = true → s.blk.qEgress q = true → (s.blk.q q).openToks ≠ [] →
    (s.blk.passed (s.blk.q q).openAt (s.blk.ns (fld (s.blk.reg (.qsc .QSC_PACK_NS)) 15 0)) = true →
      Gives (.tokenFrameClose q) s (fun t => ∃ f : Frame, (t.blk.q q).openToks = [] ∧ (t.blk.q q).frames = (s.blk.q q).frames ++ [f] ∧
        f.ftype = ftToken ∧ f.payload = (s.blk.q q).openToks.flatMap Token.wire ∧ f.dst = (s.blk.q q).peer ∧ f.dq = (s.blk.q q).dq ∧
        f.cls = s.blk.qCls q ∧ (∀ p, p ≠ q → t.blk.q p = s.blk.q p))) ∧
    (s.blk.passed (s.blk.q q).openAt (s.blk.ns (fld (s.blk.reg (.qsc .QSC_PACK_NS)) 15 0)) = false →
      exec (.tokenFrameClose q) s = .next (settle s))) ∧
  (∀ (s : State) (p : Nat), s.blk.inReset = false →
    (p < s.blk.conf.pairs → Becomes (.schedulerPick p) s (s.blk.pick p)) ∧
    (s.blk.conf.pairs ≤ p → exec (.schedulerPick p) s = .next (settle s))) ∧
  (∀ (b c d : Blk) (p k q : Nat), c = [0, 1, 2].foldl (fun s k => s.refresh p k) b → k = 0 ∨ k = 2 →
    (∀ j, j < k → Store.get [] c.qsc.active (8 * p + j) = []) → Store.get [] c.qsc.active (8 * p + k) ≠ [] →
    Blk.roundHead (roundFuel (Store.get [] c.qsc.active (8 * p + k)).length) c (8 * p + k) = (some q, d) →
    b.pick p = d.sendHead p q) ∧
  (∀ (s : State) (b : Blk), s.blk.inReset = false →
    b = s.blk.qList.foldl Blk.wheelTurn s.blk →
    Becomes .shaperSlot s
      ((List.range b.conf.pairs).foldl (fun s p => ([0, 1, 2].foldl (fun s c => s.refresh p c) s).refreshClasses p) b)) ∧
  (∀ (b : Blk) (q : Nat) (e : Int) (c : Bool) (n : Nat), (b.q q).elig = some e → (b.q q).wheel = some (c, n) →
    (b.calOk q = true → ((b.wheelTurn q).q q).wheel = none) ∧
    (b.calOk q = false → c = true → e / 4194304 ≤ b.cal / 4194304 →
      ((b.wheelTurn q).q q).wheel = some (false, (e / 1024 % 4096).toNat)) ∧
    (b.calOk q = false → (c = false ∨ b.cal / 4194304 < e / 4194304) → b.wheelTurn q = b)) ∧
  (∀ (s : State) (q : Nat), s.blk.inReset = false → s.blk.qEn q = true → 3 ≤ s.blk.qCls q →
    (s.blk.passed (s.blk.q q).sampAt (s.blk.us 10) = true → Gives (.queueSample q) s (fun t =>
      (t.blk.q q).depth = (s.blk.q q).depthNow ∧ (t.blk.q q).hwmDepth = max (s.blk.q q).hwmDepth (s.blk.q q).depthNow ∧
      (t.blk.q q).sampAt = s.blk.tclk ∧ (∀ p, p ≠ q → t.blk.q p = s.blk.q p))) ∧
    (s.blk.passed (s.blk.q q).sampAt (s.blk.us 10) = false → exec (.queueSample q) s = .next (settle s))) ∧
  (∀ (s : State) (i : Nat) (x : Flow), s.blk.inReset = false → Store.look s.blk.qsc.flows i = some x → x.recv = true →
    ((s.blk.passed x.advAt (s.blk.us 100) = true ∨ (x.grant ≤ 4 * (x.limitNow - x.advLimit).toNat ∧ 0 ≤ sdiff x.limitNow x.advLimit ∧
        s.blk.passed x.advAt (s.blk.ns (fld (s.blk.reg (.qsc .QSC_CRED_NS)) 15 0)) = true)) →
      Becomes (.creditAdvertise i) s ((s.blk.sendCredit x).modFlow i (fun x =>
        { x with advLimit := x.limitNow, advAt := s.blk.tclk }))) ∧
    (s.blk.passed x.advAt (s.blk.us 100) = false →
      s.blk.passed x.advAt (s.blk.ns (fld (s.blk.reg (.qsc .QSC_CRED_NS)) 15 0)) = false →
      exec (.creditAdvertise i) s = .next (settle s)))

/-- TOKEN_FRAME_RECEIVE, CREDIT_RECEIVE and every frame that is not taken (R345, R349, R475, R17, R25, R37, R346): a token frame is delivered to its
queue; a credit frame lets a teardown go on; a frame in error, misaddressed, without credit or barred (a place with bits [31:28] set in
its payload, a fenced sender, at a die another die, or collection control or time that is not its tray's) leaves just what its drop
leaves, whichever command it came for. -/
def Obligations.FramesTaken : Prop :=
  (∀ (s : State) (f : RxFrame) (b : Blk) (tk : Taken), Hears s f ftToken b tk → Becomes (.tokenFrameReceive f) s (b.deliver tk)) ∧
  (∀ (s : State) (f : RxFrame) (b : Blk) (tk : Taken), Hears s f ftCredit b tk → Becomes (.creditReceive f) s b.tdPollAll) ∧
  (∀ row, WholeFrame row → ∀ (s : State) (f : RxFrame) (b : Blk), s.blk.inReset = false → s.blk.takeFrame f row.2 = (b, none) →
    Becomes (row.1 f) s b) ∧
  (∀ row, SubFrame row → ∀ (s : State) (f : RxFrame) (b : Blk), s.blk.inReset = false → s.blk.takeSub f row.2.1 row.2.2 = (b, none) →
    Becomes (row.1 f) s b) ∧
  (∀ (s : State) (f : RxFrame) (ty cause : Nat) (src : Word), f.pair < s.blk.conf.pairs → Store.get 0 s.blk.qsc.fiCrd f.pair ≠ 0 →
    parseFrame f = .bad cause src → s.blk.takeFrame f ty = (s.blk.frameBad f.pair src cause, none)) ∧
  (∀ (s : State) (f : RxFrame) (ty : Nat) (g : Frame), f.pair < s.blk.conf.pairs → Store.get 0 s.blk.qsc.fiCrd f.pair ≠ 0 →
    parseFrame f = .ok g → g.ftype = ty →
    (g.dst ≠ s.blk.place ∨ g.drole ≠ roleCode s.blk.role → s.blk.takeFrame f ty = (s.blk.frameBad f.pair g.src 5, none)) ∧
    (g.dst = s.blk.place → g.drole = roleCode s.blk.role →
      (g.placesOk = false ∨ s.blk.hlt.fenced.contains g.src = true ∨ (s.blk.role = .die ∧ g.srole = 1) ∨
        (s.blk.role = .die ∧ (g.ftype = ftCollctl ∨ g.ftype = ftTime) ∧ (g.src ≠ trayOf s.blk.place ∨ g.srole ≠ 2))) →
      s.blk.takeFrame f ty = (s.blk.otherDrop, none)))

/-- REKEY_MAXT and SKEW_WINDOW_END (R350, R351): QSC_REKEY_MAXT after the last re-key the salt is drawn anew and the epoch counts, or the
re-key is deferred while the security core is absent; a window that ends is booked, and a bank with more than twice the mean of the banks
raises QSC_SKEW. -/
def Obligations.Rekeying : Prop :=
  (∀ (s : State), s.blk.inReset = false → 3 ≤ s.blk.boot.stage →
    (s.blk.passed s.blk.qsc.rekeyAt (s.blk.sec (s.blk.reg (.qsc .QSC_REKEY_MAXT)).toNat) = true →
      (s.blk.secLost = false → Gives .rekeyMaxt s (fun t => t.blk.reg (.qsc .QSC_SALT_EPOCH) = s.blk.reg (.qsc .QSC_SALT_EPOCH) + 1 ∧
        t.blk.qsc.salt = BitVec.ofNat 64 (Config.free s.blk.draws) ∧ t.blk.qsc.rekeyAt = s.blk.tclk ∧ t.blk.qsc.rekeyBounds = 0)) ∧
      (s.blk.secLost = true → Gives .rekeyMaxt s (fun t => t.blk.qsc = s.blk.qsc ∧ t.blk.fwc.deferRekey.isSome = true))) ∧
    (s.blk.passed s.blk.qsc.rekeyAt (s.blk.sec (s.blk.reg (.qsc .QSC_REKEY_MAXT)).toNat) = false →
      exec .rekeyMaxt s = .next (settle s))) ∧
  (∀ (s : State) (n : Nat), s.blk.inReset = false → n = (if s.blk.conf = .d then 16 else 256) →
    (s.blk.cal / (tkSec : Nat) ≤ s.blk.qsc.skewWin → exec .skewWindowEnd s = .next (settle s)) ∧
    (s.blk.qsc.skewWin < s.blk.cal / (tkSec : Nat) →
      (topBank s.blk.qsc.banks).2 * n ≤ 2 * (s.blk.qsc.banks.map Prod.snd).sum →
      Becomes .skewWindowEnd s
        (s.blk.modQsc (fun m => { m with banks := [], skewWin := s.blk.cal / (tkSec : Nat), skew := false }))) ∧
    (s.blk.qsc.skewWin < s.blk.cal / (tkSec : Nat) → bit (s.blk.reg (.qsc .QSC_CTRL)) 1 = false →
      2 * (s.blk.qsc.banks.map Prod.snd).sum < (topBank s.blk.qsc.banks).2 * n →
      Gives .skewWindowEnd s (fun t => t.blk.qsc.skew = true ∧ t.blk.qsc.banks = [] ∧
        t.blk.reg (.qsc .QSC_SKEW_CNT) = satAdd (s.blk.reg (.qsc .QSC_SKEW_CNT)) 1)))

/-! ### Memories and SRAM -/

/-- SCRUB_READ, XM_READ_RESPONSE, XM_WRITE_COMPLETE, XM_REQUEST_TIMEOUT (R355, R356, R478, R479): a corrected word is counted and its
source and address are recorded, and a word is hot once its corrections of a scrub period reach the threshold; so is an uncorrectable one, whose word of a context's data store is marked poisoned; an answer of the XM
port frees its tag, and its line or error reaches the units unless it is late; a request is late after 1 ms and not before; a write
answered with an error while a flush runs sets FLUSH_ERR. -/
def Obligations.SramAndXm : Prop :=
  (∀ (s : State) (u i w n : Nat) (b : Blk), s.blk.inReset = false →
    b = (if s.blk.passed s.blk.scrubAt s.blk.scrubPer then { s.blk with ceHot := [], scrubAt := s.blk.tclk } else s.blk) →
    Becomes (.scrubRead u i w .clean) s b ∧ Becomes (.scrubRead u i w (.corrected n)) s (b.corrected1 u i w n) ∧
    Becomes (.scrubRead u i w (.uncorrectable n)) s (b.uncorrected u i w n)) ∧
  (∀ (b : Blk) (u i w n : Nat), u ≠ 9 →
    (b.corrected1 u i w n).reg (.err .ERR_CE_CNT) = satAdd (b.reg (.err .ERR_CE_CNT)) 1 ∧
    (b.corrected1 u i w n).reg (.err .ERR_CE_SRC) = eccSrc u i n ∧ (b.corrected1 u i w n).reg (.err .ERR_CE_ADDR) = w32 w ∧
    (b.corrected1 u i w n).mem = b.mem ∧ (b.corrected1 u i w n).regPoi =
      (b.regPoi.filter (fun p => decide (p.1 ≠ (Reg.err .ERR_CE_SRC).addr b.conf))).filter
        (fun p => decide (p.1 ≠ (Reg.err .ERR_CE_ADDR).addr b.conf))) ∧
  (∀ (b : Blk) (u i w n m : Nat) (up : Bool), u ≠ 9 → Store.get (0, false) b.ceHot ((2 ^ 8 * u + i % 256) * 2 ^ 32 + w) = (m, up) →
    Store.get (0, false) (b.corrected1 u i w n).ceHot ((2 ^ 8 * u + i % 256) * 2 ^ 32 + w) =
      (m + 1, up || decide (fld (b.reg (.err .ERR_CE_HOT_THR)) 15 0 ≤ m + 1))) ∧
  (∀ (b : Blk) (i w n : Nat), w < 2 ^ 24 → w / 2 ^ 18 < b.ctxPerClu →
    (b.uncorrected 6 i w n).reg (.err .ERR_UE_ADDR) = w32 w ∧
    (b.uncorrected 6 i w n).reg (.err .ERR_UE_CNT) = satAdd (b.reg (.err .ERR_UE_CNT)) 1 ∧
    (b.uncorrected 6 i w n).mem = { b.mem with
      dsPoi := Store.set false b.mem.dsPoi (2 ^ 18 * (i * b.ctxPerClu + w / 2 ^ 18) + w % 2 ^ 18) true }) ∧
  (∀ (s : State) (tag : Nat) (poi err : Bool) (b : Blk), s.blk.inReset = false →
    (s.blk.xmTake tag false = (none, b) → Becomes (.xmReadResponse tag poi err) s b) ∧
    (∀ r, s.blk.xmTake tag false = (some r, b) →
      (r.late = true → Becomes (.xmReadResponse tag poi err) s b) ∧
      (r.late = false → Becomes (.xmReadResponse tag poi err) s ((b.xmErr r err).xmAnswer r poi err)))) ∧
  (∀ (s : State) (tag : Nat) (err : Bool), s.blk.inReset = false →
    (err = false ∨ s.evr.flush = none → Becomes (.xmWriteComplete tag err) s (s.blk.xmWritten tag err)) ∧
    (∀ f, err = true → s.evr.flush = some f → exec (.xmWriteComplete tag err) s = .next (settle { s with
      blk := s.blk.xmWritten tag err, evr := { s.evr with flushErr := true, flush := some { f with err := true } } }))) ∧
  (∀ (b c : Blk) (tag : Nat) (w : Bool) (r : XmReq), b.xmTake tag w = (some r, c) →
    r ∈ b.mem.reqs ∧ r.tag = tag ∧ r.write = w ∧ c = b.modMem (fun m => { m with reqs := m.reqs.filter (fun r => r.tag != tag) })) ∧
  (∀ (s : State) (tag : Nat) (r : XmReq) (b : Blk), s.blk.inReset = false → s.blk.mem.reqs.find? (fun r => r.tag == tag) = some r →
    b = (s.blk.modMem (fun m => { m with reqs := m.reqs.map (fun r => if r.tag == tag then { r with late := true } else r) })) →
    (r.late = false → s.blk.passed r.at_ (s.blk.ms 1) = true →
      (r.write = true → Becomes (.xmRequestTimeout tag) s
        (b.emitAt 0xD (b.xmChan r.line) 0x1504 (64 * r.line) (b.xmChan r.line + 16 * tag))) ∧
      (r.write = false → Becomes (.xmRequestTimeout tag) s
        ((b.emitAt 0xD (b.xmChan r.line) 0x1504 (64 * r.line) (b.xmChan r.line + 16 * tag)).xmAnswer r false true))) ∧
    (r.late = true ∨ s.blk.passed r.at_ (s.blk.ms 1) = false → exec (.xmRequestTimeout tag) s = .next (settle s)))

/-- XM (R150, R151, R357): a write puts its bytes at its addresses and at no other, and keeps the memory's canonical form; data written
poisoned mark every line that they touch; data written unpoisoned clear the mark of every line that they fill and of no other; a read
gives the bytes, and is poisoned exactly when a line that it touches is marked. -/
def Obligations.ExternalMemory : Prop :=
  ∀ (b : Blk) (a : Nat) (bs : List Byte) (poi : Bool),
    (Memory.wf b.mem.xm = true → Memory.wf (b.xmWrite a bs poi).mem.xm = true) ∧
    Mem.rdN (b.xmWrite a bs poi).mem.xm a bs.length = bs ∧
    (∀ j, j < a ∨ a + bs.length ≤ j → Mem.rd (b.xmWrite a bs poi).mem.xm j = Mem.rd b.mem.xm j) ∧
    (∀ l, Store.get false (b.xmWrite a bs poi).mem.xmPoi l =
      if poi then Store.get false b.mem.xmPoi l || (linesOf a bs.length).contains l
      else Store.get false b.mem.xmPoi l &&
        !((linesOf a bs.length).contains l && decide (a ≤ 64 * l ∧ 64 * l + 64 ≤ a + bs.length))) ∧
    (∀ c n, (b.xmRead c a n).1 = Mem.rdN b.mem.xm a n ∧
      ((b.xmRead c a n).2.1 = true ↔ ∃ l ∈ linesOf a n, Store.get false b.mem.xmPoi l = true))

/-- FLUSH_COMPLETE, TL_SNAP, TL_PWR_WARN_N_HIGH, POWER_WARNING (R376 to R380): the header of 64 bytes is written last and the next flush
has the next number; tl_snap latches a set unless one is frozen, and a set that is frozen stays whatever triggers come; a power warning
sets EMERG and has a flush run; once the line has been high for 10 ms flushes may start again, a held one at once. -/
def Obligations.FlushAndSnapshot : Prop :=
  (∀ (s : State), s.blk.inReset = false → s.evr.flush = none → exec .flushComplete s = .next (settle s)) ∧
  (∀ (s : State) (f : Flush), s.blk.inReset = false → s.evr.flush = some f → Gives .flushComplete s (fun t =>
    t.evr.flushSeq = s.evr.flushSeq + 1 ∧ t.evr.flushErr = f.err ∧ t.evr.flushedPw = (s.evr.flushedPw || f.pw))) ∧
  (∀ (s : State) (f : Flush), (s.flushHeader f).length = 64 ∧ leAt (s.flushHeader f) 0 4 = 0x45560001) ∧
  (∀ (s : State), s.blk.inReset = false → s.blk.raised = [] →
    (bit (s.blk.reg (.snp .SNP_CTRL)) 1 = false → exec .tlSnap s = .next s) ∧
    (bit (s.blk.reg (.snp .SNP_CTRL)) 1 = true → bit (s.blk.reg (.snp .SNP_CTRL)) 0 = true → s.snap.frozen = false →
      Gives .tlSnap s (fun t => t.snap.frozen = true ∧ t.snap.cnt = s.snap.cnt + 1 ∧
        ∃ l, t.snap.set = some l ∧ l.src = 3 ∧ l.arg = 0 ∧ l.t64 = s.blk.t64 ∧ l.evr = s.evr ∧ l.blk.regs = s.blk.regs)) ∧
    (s.snap.frozen = true → Gives .tlSnap s (fun t => t.snap.frozen = true ∧ t.snap.set = s.snap.set ∧ t.snap.cnt = s.snap.cnt))) ∧
  (∀ (s : State), s.blk.inReset = false → Gives .tlPwrWarnNHigh s (fun t => t.evr.flushedPw = false ∧ t.blk.pwr.warnLow = false ∧
    (s.evr.flush = none → s.evr.held.isSome = true → t.evr.flush.isSome = true))) ∧
  (∀ (s : State), s.blk.inReset = false → s.blk.raised = [] → Gives .powerWarning s (fun t =>
    t.blk.pwr.emerg = true ∧ t.blk.pwr.warnLow = true ∧
    (s.blk.flushEn = true → s.evr.flushedPw = false → ∃ f, t.evr.flush = some f ∧ f.pw = true)))

/-! ### Firmware and power -/

/-- UPDATE_STAGED, SVN_RAISE, HANDOVER_COMPLETE, COMPONENT_FAULT, CC_DEADLINE, LICENCE_RESULT (R413, R416, R417, R419, R420, R430, R433): the
first check that fails names the status, and a bundle is staged only when all pass; after 24 h without revert the minimum security version
rises to the running bundle's; a core that has taken over runs the new image and keeps the previous one; of the handover
block, whose header stands as log 78 lays it out, a failing CRC starts every component afresh, and a state version that is not accepted
starts its component afresh and raises FWC_HO_DROP with the tag; a valid licence is stored and
another leaves the stored one as it is. -/
def Obligations.FirmwareAndLicence : Prop :=
  (∀ (s : State) (r : Verdict), s.blk.inReset = false →
    (s.blk.fwc.checking = none → exec (.updateStaged r) s = .next (settle s)) ∧
    (∀ ob, s.blk.fwc.checking = some ob → Gives (.updateStaged r) s (fun t =>
      t.blk.fwc.checking = none ∧ t.blk.cp.busy.contains Domain.update = false ∧
      (∀ n, r = .refuse n → t.blk.fwc.upd = n % 16) ∧
      (r = .ok → ob = none → t.blk.fwc.upd = 4) ∧
      (∀ b, r = .ok → ob = some b → b.svn.toNat < s.blk.fwc.svnMin.toNat → t.blk.fwc.upd = 5) ∧
      (∀ b, r = .ok → ob = some b → s.blk.fwc.svnMin.toNat ≤ b.svn.toNat →
        verOk b.ifver (s.blk.reg (.fwc .FWC_HOST_VER)) = false → t.blk.fwc.upd = 6) ∧
      (∀ b, r = .ok → ob = some b → s.blk.fwc.svnMin.toNat ≤ b.svn.toNat →
        verOk b.ifver (s.blk.reg (.fwc .FWC_HOST_VER)) = true → t.blk.fwc.upd = 2 ∧ t.blk.fwc.staged = some b) ∧
      (t.blk.fwc.upd ≠ 2 → t.blk.fwc.staged = s.blk.fwc.staged)))) ∧
  (∀ (s : State), s.blk.inReset = false →
    (s.blk.passed s.blk.fwc.since (s.blk.sec 86400) = true → s.blk.fwc.upd ≠ 9 →
      s.blk.fwc.svnMin.toNat < s.blk.fwc.running.svn.toNat →
      Gives .svnRaise s (fun t => t.blk.fwc = { s.blk.fwc with svnMin := s.blk.fwc.running.svn })) ∧
    (s.blk.passed s.blk.fwc.since (s.blk.sec 86400) = false ∨ s.blk.fwc.upd = 9 → exec .svnRaise s = .next (settle s))) ∧
  (∀ (s : State) (x : Nat), s.blk.inReset = false →
    (s.blk.fwc.active = none ∨ (s.blk.fcore x).st ≠ .handover → exec (.handoverComplete x) s = .next (settle s)) ∧
    (∀ b, s.blk.fwc.active = some b → (s.blk.fcore x).st = .handover → Gives (.handoverComplete x) s (fun t =>
      t.blk.fcore x = { s.blk.fcore x with
        st := .run, prevImg := (s.blk.fcore x).img, img := b.fwver, onPrev := false, tookAt := some s.blk.tclk }))) ∧
  (∀ (b c d : Blk) (h body : List Byte) (p q : Bool), b.xmRead 0x3F b.hoBase 64 = (h, p, c) →
    c.xmRead 0x3F (c.hoBase + 64) (leAt h 20 4) = (body, q, d) →
    (slice h 0 4 ≠ leBytes 4 0x48420001 ∨ leAt h 24 4 ≠ (crc32c body).toNat → b.hoBlock = ([], d)) ∧
    (slice h 0 4 = leBytes 4 0x48420001 → leAt h 24 4 = (crc32c body).toNat → b.hoBlock = (hoParse (leAt h 16 4) body, d))) ∧
  (∀ (b d : Blk) (x : Nat) (rs : List (Nat × Nat)), b.hoBlock = (rs, d) →
    (rs = [] → Store.get [] (b.hoRead x).fwc.hoFresh x = Store.get [] b.fwc.hoTags x) ∧
    (∀ t v, t ∈ Store.get [] b.fwc.hoTags x → rs.find? (fun r => r.1 = t) = some (t, v) →
      (Config.accepts (Config.free d.draws) t v = false → t ∈ Store.get [] (b.hoRead x).fwc.hoFresh x ∧
        Raise.ev ⟨0x1108, coreSrc x, BitVec.ofNat 64 x, BitVec.ofNat 48 t, false⟩ ∈ (b.hoRead x).raised) ∧
      (Config.accepts (Config.free d.draws) t v = true → t ∉ Store.get [] (b.hoRead x).fwc.hoFresh x))) ∧
  (∀ (s : State) (x n : Nat), s.blk.inReset = false →
    (s.blk.hasCore x = true → Becomes (.componentFault x n) s (s.blk.emitCore x 0x1107 x (n % 65536))) ∧
    (s.blk.hasCore x = false → exec (.componentFault x n) s = .next (settle s))) ∧
  (∀ (s : State) (k : Nat) (due : List (Nat × Dword)), s.blk.inReset = false →
    due = (s.blk.fcore (0x40 + k)).deadline.filter (fun d => decide (d.2.toNat ≤ s.blk.t64.toNat)) →
    (s.blk.coreLost (0x40 + k) = false → exec (.ccDeadline k) s = .next (settle s)) ∧
    (s.blk.coreLost (0x40 + k) = true → Becomes (.ccDeadline k) s
      (due.foldl (fun s d => if (s.coll d.1).st = .running then s.faultColl d.1 (w32 (5 <<< 20)) 0 else s)
        (s.blk.setCore (0x40 + k) { s.blk.fcore (0x40 + k) with
          deadline := (s.blk.fcore (0x40 + k)).deadline.filter (fun d => !due.contains d) })))) ∧
  (∀ (s : State) (r : Verdict), s.blk.inReset = false →
    (s.blk.lic.checking = none → exec (.licenceResult r) s = .next (settle s)) ∧
    (∀ why ol, s.blk.lic.checking = some (why, ol) → Gives (.licenceResult r) s (fun t => t.blk.lic.checking = none ∧
      (∀ l, r = .ok → why = 0 → ol = some l → t.blk.lic.stored = some l ∧ t.blk.lic.newer = true ∧
        t.blk.reg (.lic .LIC_RESULT) = 6) ∧
      (r = .ok → why ≠ 0 → t.blk.lic.stored = s.blk.lic.stored ∧ t.blk.reg (.lic .LIC_RESULT) = w32 (2 + why <<< 4)) ∧
      (∀ n, r = .refuse n → n % 16 ≠ 0 → t.blk.lic.stored = s.blk.lic.stored ∧
        t.blk.reg (.lic .LIC_RESULT) = w32 (2 + (n % 16) <<< 4)))))

/-- POWER_TICK, CLAMP_SAMPLE, CLAMP_HOLD_END, EMERG_CALM, SUPPLY_FAULT, VREQ_ACK, VREQ_TIMEOUT (R422, R423, R425, R426, R481): a sensor
above the emergency limit at a tick, a supply fault or a rise of more than 640 units within 100 µs sets EMERG; the rise also forces the
clusters of the sensor to OPP 0 and starts their hold, which ends once its time has passed; EMERG ends when no condition has held for
PWR_CALM; an acknowledged supply request moves a cluster up; one not answered for 1 ms is withdrawn and reported. -/
def Obligations.PowerEvents : Prop :=
  (∀ (s : State) (ts : List (Nat × BitVec 16)), s.blk.inReset = false →
    (s.blk.pwr.pcLost = true ∨ bit (s.blk.reg (.pwr .PWR_CTRL)) 0 = false → exec (.powerTick ts) s = .next (settle s)) ∧
    (s.blk.pwr.pcLost = false → bit (s.blk.reg (.pwr .PWR_CTRL)) 0 = true → Gives (.powerTick ts) s (fun t =>
      (t.blk.pwr.limit = true ↔ ∃ p ∈ ts, s.blk.watched p.1 = true ∧
        s16 (fld (s.blk.reg (.pwr .PWR_TEMP_LIM)) 31 16) < p.2.toInt) ∧
      (t.blk.pwr.limit = true → t.blk.pwr.emerg = true)))) ∧
  (∀ (s : State) (i : Nat) (v : BitVec 16) (h : List (BitVec 16)), s.blk.inReset = false → s.blk.watched i = true →
    h = Store.get [] s.blk.pwr.hist i →
    ((h[9]? = none ∨ ∃ o, h[9]? = some o ∧ v.toInt - o.toInt ≤ 640) → Becomes (.clampSample [(i, v)]) s
      (s.blk.modPwr (fun m => { m with hist := Store.set [] m.hist i ((v :: h).take 10) }))) ∧
    (∀ o, h[9]? = some o → 640 < v.toInt - o.toInt → ∃ b : Blk,
      Becomes (.clampSample [(i, v)]) s (if s.blk.role = .die then b.abortTests 3 else b) ∧ b.pwr.emerg = true ∧
      (∀ k ∈ s.blk.clustersOf i, (b.clu k).opp = 0 ∧ (b.clu k).clampAt = some s.blk.tclk))) ∧
  (∀ (s : State) (k t : Nat), s.blk.inReset = false → (s.blk.clu k).clampAt = some t →
    (s.blk.passed t (s.blk.us (s.blk.reg (.pwr .PWR_CLAMP_HOLD)).toNat) = false →
      exec (.clampHoldEnd k) s = .next (settle s)) ∧
    (s.blk.passed t (s.blk.us (s.blk.reg (.pwr .PWR_CLAMP_HOLD)).toNat) = true →
      Gives (.clampHoldEnd k) s (fun t => (t.blk.clu k).clampAt = none ∧ t.blk.pwr.lastCond = s.blk.tclk))) ∧
  (∀ (s : State), s.blk.inReset = false → s.blk.pwr.emerg = true → s.blk.pwr.pcLost = false → s.blk.clamped = false →
    s.blk.pwr.warnLow = false → s.blk.pwr.supply = false → s.blk.pwr.limit = false →
    (s.blk.passed s.blk.pwr.lastCond (s.blk.ms (fld (s.blk.reg (.pwr .PWR_CALM)) 15 0)) = true → Becomes .emergCalm s
      ((s.blk.modPwr (fun m => { m with emerg := false })).emit 0x12 0x1202 0 s.blk.t64.toNat)) ∧
    (s.blk.passed s.blk.pwr.lastCond (s.blk.ms (fld (s.blk.reg (.pwr .PWR_CALM)) 15 0)) = false →
      exec .emergCalm s = .next (settle s))) ∧
  (∀ (s : State), s.blk.inReset = false → (s.blk.pwr.emerg = false ∨ s.blk.pwr.pcLost = true ∨ s.blk.pwr.limit = true) →
    exec .emergCalm s = .next (settle s)) ∧
  (∀ (s : State), s.blk.inReset = false → Gives .supplyFault s (fun t => t.blk.pwr.emerg = true ∧ t.blk.pwr.lastCond = s.blk.tclk)) ∧
  (∀ (s : State) (v : Vreq) (l : List Vreq), s.blk.inReset = false → s.blk.pwr.vreqs = v :: l →
    s.blk.oppSlots (s.blk.clu v.cluster).opp < s.blk.oppSlots v.opp → (s.blk.clu v.cluster).clampAt = none →
    s.blk.pwr.pcLost = false → (s.blk.clu v.cluster).disabled = false → 6 < s.blk.boot.stage →
    Gives .vreqAck s (fun t => t.blk.clu v.cluster = { s.blk.clu v.cluster with opp := v.opp } ∧
      t.blk.pwr.vreqs.length = l.length)) ∧
  (∀ (s : State), s.blk.inReset = false → s.blk.pwr.vreqs = [] →
    exec .vreqAck s = .next (settle s) ∧ exec .vreqTimeout s = .next (settle s)) ∧
  (∀ (s : State) (v : Vreq) (l : List Vreq), s.blk.inReset = false → s.blk.pwr.vreqs = v :: l →
    (s.blk.passed v.at_ (s.blk.ms 1) = false → exec .vreqTimeout s = .next (settle s)) ∧
    (s.blk.passed v.at_ (s.blk.ms 1) = true → s.blk.boot.stage ≠ 6 → Becomes .vreqTimeout s
      (((s.blk.emitAt 0x12 v.cluster 0x1505 v.cluster v.code.toNat).modPwr (fun m => { m with vreqs := l })).vreqNext)) ∧
    (s.blk.passed v.at_ (s.blk.ms 1) = true → s.blk.boot.stage = 6 →
      Gives .vreqTimeout s (fun t => t.blk.pwr.vreqs = { v with at_ := s.blk.tclk } :: l)))

/-- CORE_WATCHDOG, CORE_CRASH, CORE_RESTART_DONE, NAP_ENTRY, WAKE_GRANT (R144, R169, R427, R429, R430, Table 14-4): a core that the instance
lacks, that is off or that is held does not crash; a control core that crashes below the limit restarts, with its cause and count; a core
that is back runs, and what was held for it is carried out; a cluster naps when the power core may nap it; the oldest wake request is
granted while fewer than N grants lie in the window. -/
def Obligations.CoresAndNaps : Prop :=
  (∀ (s : State) (x : Nat) (w : Word), s.blk.inReset = false →
    (s.blk.hasCore x = false ∨ (s.blk.fcore x).st = .off ∨ (s.blk.fcore x).st = .held →
      exec (.coreWatchdog x) s = .next (settle s) ∧ exec (.coreCrash x w) s = .next (settle s)) ∧
    Becomes (.coreWatchdog x) s (s.blk.crash x 1) ∧ Becomes (.coreCrash x w) s (s.blk.crash x (fld w 3 0))) ∧
  (∀ (b : Blk) (x n : Nat), b.hasCore x = true → 0x40 ≤ x → (b.fcore x).st = .run → n ≠ 1 → (b.fcore x).crashes = [] →
    1 < fld (b.reg (.fwc .FWC_CRASH_LIM)) 23 16 →
    ((b.crash x n).fcore x).st = .restart ∧ ((b.crash x n).fcore x).crashes = [b.tclk] ∧
    (b.crash x n).reg (.fwc (.FWC_COREx_CAUSE x)) = w32 (n % 16) ∧
    (b.crash x n).reg (.fwc (.FWC_COREx_CRASHES x)) = satAdd (b.reg (.fwc (.FWC_COREx_CRASHES x))) 1) ∧
  (∀ (s : State) (x : Nat) (b : Blk), s.blk.inReset = false →
    ((s.blk.fcore x).st ≠ .restart → exec (.coreRestartDone x) s = .next (settle s)) ∧
    ((s.blk.fcore x).st = .restart → b = s.blk.setCore x { s.blk.fcore x with st := .run } →
      (x = 0 → Becomes (.coreRestartDone x) s b.secBack.updCheck) ∧
      (x = 1 → Becomes (.coreRestartDone x) s (b.modPwr (fun m => { m with pcLost := false })).updCheck) ∧
      (x = 2 → Becomes (.coreRestartDone x) s b.schedBack.updCheck) ∧
      (2 < x → Becomes (.coreRestartDone x) s (b.ccBack x).updCheck))) ∧
  (∀ (s : State) (k : Nat), s.blk.inReset = false →
    (s.blk.mayNap k = false → exec (.napEntry k) s = .next (settle s)) ∧
    (s.blk.mayNap k = true → Gives (.napEntry k) s (fun t => (t.blk.clu k).nap = true ∧
      t.blk.reg (.pwr (.PWR_CLk_NAPS k)) = satAdd (s.blk.reg (.pwr (.PWR_CLk_NAPS k))) 1))) ∧
  (∀ (s : State), s.blk.inReset = false → (s.blk.pwr.wakeQ = [] ∨ fld (s.blk.reg (.pwr .PWR_WAKE)) 23 16 ≤ s.blk.grantsNow.length →
    exec .wakeGrant s = .next (settle s))) ∧
  (∀ (s : State) (q : Nat) (l : List Nat), s.blk.inReset = false → s.blk.pwr.wakeQ = q :: l →
    s.blk.grantsNow.length < fld (s.blk.reg (.pwr .PWR_WAKE)) 23 16 →
    Gives .wakeGrant s (fun t => (t.blk.clu (q % 64)).nap = false ∧ t.blk.pwr.wakeQ = l ∧
      t.blk.pwr.grants = s.blk.grantsNow ++ [s.blk.tclk] ∧
      t.blk.reg (.pwr .PWR_WAKE_CNT) = satAdd (s.blk.reg (.pwr .PWR_WAKE_CNT)) 1))

/-! ### The health unit -/

/-- TEST_DUE, TEST_PLACE, HOT_WAIT_EXPIRE, TEST_GRANT, TEST_DONE, TEST_ABORT, GRANT_TIMEOUT, RUN_TIMEOUT (R388 to R392): the tray orders
the test that comes first, with its set unless the die holds it, or ends it NOSET; a die places an ordered test in its lowest free slot,
hot or, on expiry, COOL; a granted test ends by its signature, ABORT 1 or ABORT 2, and one without a grant ends after HLT_GNT_TMO; the slot
of a test that has ended is free. -/
def Obligations.FieldTests : Prop :=
  (∀ (s : State) (p : Word) (c e : Nat), s.blk.inReset = false → e = Store.get 0 s.blk.hlt.types (512 * p.toNat + c) →
    (s.blk.role ≠ .tray ∨ s.blk.hltCtl 0 = false ∨ e = 0 ∨ s.blk.firstDue ≠ some (entity p 2 c) →
      exec (.testDue p c) s = .next (settle s)) ∧
    (s.blk.role = .tray → s.blk.hltCtl 0 = true → e ≠ 0 → s.blk.firstDue = some (entity p 2 c) →
      (s.blk.patEntry e 256 (s.blk.reg (.hlt .HLT_PAT_DIR)).toNat = none →
        Becomes (.testDue p c) s (s.blk.testEnded (entity p 2 c) 6 0)) ∧
      (∀ o n, s.blk.patEntry e 256 (s.blk.reg (.hlt .HLT_PAT_DIR)).toNat = some (o, n) →
        (leAt (Mem.rdN s.blk.mem.flash o 64) 0 4 ≠ 0x50530001 →
          Becomes (.testDue p c) s (s.blk.testEnded (entity p 2 c) (6 + n <<< 16) 0)) ∧
        (leAt (Mem.rdN s.blk.mem.flash o 64) 0 4 = 0x50530001 →
          crc32c (Mem.rdN s.blk.mem.flash (o + 64) (leAt (Mem.rdN s.blk.mem.flash o 64) 8 4)) =
            w32 (leAt (Mem.rdN s.blk.mem.flash o 64) 12 4) →
          Gives (.testDue p c) s (fun t =>
            Store.look t.blk.hlt.sent p.toNat = some (n, w32 (leAt (Mem.rdN s.blk.mem.flash o 64) 12 4)) ∧
            (∀ d, Store.look s.blk.hlt.due (entity p 2 c) = some d →
              Store.look t.blk.hlt.due (entity p 2 c) = some { d with order := true })))))) ∧
  (∀ (s : State) (c : Nat), s.blk.inReset = false →
    (s.blk.hotOf c = none → exec (.testPlace c) s = .next (settle s)) ∧
    (∀ t, s.blk.hotOf c = some t →
      (s.blk.mayPlace c = true → s16 (fld (s.blk.reg (.hlt .HLT_HOT)) 15 0) ≤ t →
        Becomes (.testPlace c) s (s.blk.placeTest c false)) ∧
      (s.blk.mayPlace c = false ∨ t < s16 (fld (s.blk.reg (.hlt .HLT_HOT)) 15 0) → exec (.testPlace c) s = .next (settle s))) ∧
    (s.blk.mayPlace c = true → Becomes (.hotWaitExpire c) s (s.blk.placeTest c true)) ∧
    (s.blk.mayPlace c = false → exec (.hotWaitExpire c) s = .next (settle s))) ∧
  (∀ (b : Blk) (c k : Nat) (cool : Bool) (p : PatSet), b.hlt.patSet = some p → freeKey b.hlt.tests 8 0 = some k →
    (b.placeTest c cool).hlt.tests = Store.put b.hlt.tests k
      { chan := c, v := true, f := true, setId := p.setId, exp := p.exp, len := 64 + p.len, cool := cool, at_ := b.tclk, gntAt := none }) ∧
  (∀ (s : State) (k : Nat) (t : DieTest), s.blk.inReset = false → Store.look s.blk.hlt.tests k = some t →
    (t.gntAt = none → Gives (.testGrant k) s (fun u => Store.look u.blk.hlt.tests k = some { t with gntAt := some s.blk.tclk })) ∧
    (∀ g, t.gntAt = some g → exec (.testGrant k) s = .next (settle s) ∧
      (∀ sig, Becomes (.testDone k sig) s (s.blk.endTest k (if sig = t.exp then (if t.cool then 2 else 1) else 3) 0 sig)) ∧
      Becomes (.testAbort k) s (s.blk.endTest k 4 1 0) ∧
      (s.blk.passed g (s.blk.ms (s.blk.reg (.hlt .HLT_RUN_TMO)).toNat) = true → Becomes (.runTimeout k) s (s.blk.endTest k 4 2 0)) ∧
      (s.blk.passed g (s.blk.ms (s.blk.reg (.hlt .HLT_RUN_TMO)).toNat) = false → exec (.runTimeout k) s = .next (settle s)) ∧
      exec (.grantTimeout k) s = .next (settle s)) ∧
    (t.gntAt = none → (∀ sig, exec (.testDone k sig) s = .next (settle s)) ∧ exec (.testAbort k) s = .next (settle s) ∧
      exec (.runTimeout k) s = .next (settle s) ∧
      (s.blk.passed t.at_ (s.blk.ms (s.blk.reg (.hlt .HLT_GNT_TMO)).toNat) = true → Becomes (.grantTimeout k) s (s.blk.endTest k 5 0 0)) ∧
      (s.blk.passed t.at_ (s.blk.ms (s.blk.reg (.hlt .HLT_GNT_TMO)).toNat) = false → exec (.grantTimeout k) s = .next (settle s)))) ∧
  (∀ (b : Blk) (k r n : Nat) (sig : Dword), (b.endTest k r n sig).hlt.tests = Store.del b.hlt.tests k ∨ Store.look b.hlt.tests k = none)

/-- PATTERN_SET_RECEIVE, ENGINE_TYPES_RECEIVE, TEST_RESULT_RECEIVE, HISTORY_RECORD_RECEIVE (R388, R392, R398): a die gathers a set, and
stores one that is whole and passes its check; a tray takes the items of an engine-type report and the records of a die or of its span
instance, a span instance those of a tray, each in order; another role leaves them. -/
def Obligations.HealthFrames : Prop :=
  (∀ (s : State) (f : RxFrame) (b c : Blk) (tk : Taken) (p : List Byte), HearsSub s f ftHealth 5 b tk → c = b.frameDone tk →
    leAt tk.f.payload 0 1 = 5 → p = c.hlt.patBuf ++ tk.f.payload.drop 4 →
    (c.role ≠ .die → Becomes (.patternSetReceive f) s c) ∧
    (c.role = .die → p.length < 64 → Becomes (.patternSetReceive f) s (c.modHlt (fun h => { h with patBuf := p }))) ∧
    (c.role = .die → 64 ≤ p.length → leAt p 0 4 = 0x50530001 → 64 + leAt p 8 4 ≤ fld (c.reg (.hlt .HLT_PAT_SIZE)) 15 0 * 1024 →
      (p.length < 64 + leAt p 8 4 → Becomes (.patternSetReceive f) s (c.modHlt (fun h => { h with patBuf := p }))) ∧
      (64 + leAt p 8 4 ≤ p.length → crc32c (slice p 64 (leAt p 8 4)) ≠ w32 (leAt p 12 4) →
        Becomes (.patternSetReceive f) s (c.modHlt (fun h => { h with patBuf := [] }))) ∧
      (64 + leAt p 8 4 ≤ p.length → crc32c (slice p 64 (leAt p 8 4)) = w32 (leAt p 12 4) → Gives (.patternSetReceive f) s (fun t =>
        t.blk.hlt.patBuf = [] ∧ t.blk.hlt.patSet = some
          ⟨leAt p 4 2, leAt p 6 2, leAt p 8 4, w32 (leAt p 12 4), BitVec.ofNat 64 (leAt p 16 8)⟩))) ∧
    (c.role = .die → 64 ≤ p.length → leAt p 0 4 ≠ 0x50530001 ∨ fld (c.reg (.hlt .HLT_PAT_SIZE)) 15 0 * 1024 < 64 + leAt p 8 4 →
      Becomes (.patternSetReceive f) s (c.modHlt (fun h => { h with patBuf := [] })))) ∧
  (∀ (s : State) (f : RxFrame) (b c : Blk) (tk : Taken), HearsSub s f ftHealth 6 b tk → c = b.frameDone tk → leAt tk.f.payload 0 1 = 6 →
    (c.role ≠ .tray → Becomes (.engineTypesReceive f) s c) ∧
    (c.role = .tray → Becomes (.engineTypesReceive f) s
      ((List.range (tk.f.payload.length / 4 - 1)).foldl (fun s i => s.typeIn tk.f.src (wordAt tk.f.payload (i + 1))) c))) ∧
  (∀ (s : State) (f : RxFrame) (b c : Blk) (tk : Taken), HearsSub s f ftHealth 1 b tk → c = b.frameDone tk → leAt tk.f.payload 0 1 = 1 →
    (c.role ≠ .tray → Becomes (.testResultReceive f) s c) ∧
    (c.role = .tray → Becomes (.testResultReceive f) s
      ((healthRecords tk.f.payload).foldl (fun s b => s.resultIn tk.f.srole b) c)) ∧
    (c.role ≠ .span → Becomes (.historyRecordReceive f) s c) ∧
    (c.role = .span → Becomes (.historyRecordReceive f) s
      ((healthRecords tk.f.payload).foldl (fun s b => s.historyIn tk.f.src b) c))) ∧
  (∀ (b : Blk) (src : Word) (r : List Byte) (n : Word), Store.look b.hlt.rseqOf src.toNat = some n → (recRseq r).toNat ≤ n.toNat →
    b.historyIn src r = b)

/-- CLEAN_DAY, CE_DAY_END, MEMBER_DETACH, REBUILD_DONE and the guard group's GUARD_EPOCH_END, GUARD_DELTA_RECEIVE, GUARD_ACK_RECEIVE,
GUARD_COMMIT_RECEIVE (R26, R394, R396, R399 to R402): a full period counts a clean day when a test has passed and nothing was bad, else
the count begins again; a day's totals become records and are cleared; a member that detaches is none any more; a holder stages a delta and
acknowledges it; the last acknowledgement of an epoch commits it. -/
def Obligations.HistoryAndGuard : Prop :=
  (∀ (s : State), s.blk.inReset = false →
    Becomes .cleanDay s ((Store.keys s.blk.hlt.watch).foldl Blk.cleanDay1 s.blk)) ∧
  (∀ (b : Blk) (e : Nat) (w : Watch), Store.look b.hlt.watch e = some w →
    (b.cal < w.since + (tkDay : Nat) → b.cleanDay1 e = b) ∧
    (w.since + (tkDay : Nat) ≤ b.cal → w.perm = true →
      Store.look (b.cleanDay1 e).hlt.watch e =
        some ⟨true, if w.pass = true ∧ w.bad = false then w.clean + 1 else 0, w.since + (tkDay : Nat), false, false⟩)) ∧
  (∀ (s : State), s.blk.inReset = false →
    ((s.blk.utc s.blk.t64).1.toNat / 86400 ≤ s.blk.hlt.ceDay → exec .ceDayEnd s = .next (settle s)) ∧
    (s.blk.hlt.ceDay < (s.blk.utc s.blk.t64).1.toNat / 86400 → Gives .ceDayEnd s (fun t =>
      t.blk.hlt.ceTot = [] ∧ t.blk.hlt.ceDay = (s.blk.utc s.blk.t64).1.toNat / 86400))) ∧
  (∀ (s : State) (p : Word), s.blk.inReset = false →
    (s.blk.role = .tray → s.blk.boot.members.contains p = true → Becomes (.memberDetach p) s (s.blk.memberGone p)) ∧
    (s.blk.role ≠ .tray ∨ s.blk.boot.members.contains p = false → exec (.memberDetach p) s = .next (settle s))) ∧
  (∀ (s : State), s.blk.inReset = false →
    (s.blk.hlt.rebuild = none → exec .rebuildDone s = .next (settle s)) ∧
    (∀ r, s.blk.hlt.rebuild = some r → Gives .rebuildDone s (fun t => t.blk.hlt.rebuild = none))) ∧
  (∀ (s : State), s.blk.inReset = false →
    (s.blk.role = .tray → Becomes .guardEpochEnd s s.blk.guardEpoch) ∧
    (s.blk.role ≠ .tray → exec .guardEpochEnd s = .next (settle s))) ∧
  (∀ (s : State) (f : RxFrame) (b c : Blk) (tk : Taken), HearsSub s f ftHealth 2 b tk → c = b.frameDone tk → leAt tk.f.payload 0 1 = 2 →
    (c.role ≠ .tray ∨ c.grdRank tk.f.src = none → Becomes (.guardDeltaReceive f) s c) ∧
    (c.role = .tray → (c.grdRank tk.f.src).isSome = true → Gives (.guardDeltaReceive f) s (fun t =>
      ∃ d : Delta, t.blk.hlt.staged = c.hlt.staged ++ [d] ∧ d.place = tk.f.src ∧ d.epoch = w32 (leAt tk.f.payload 12 4) ∧
        d.chunk = leAt tk.f.payload 4 4 ∧ d.data = slice tk.f.payload 16 2048))) ∧
  (∀ (s : State) (f : RxFrame) (b c : Blk) (tk : Taken) (k : Word × Nat), HearsSub s f ftHealth 3 b tk → c = b.frameDone tk →
    leAt tk.f.payload 0 1 = 3 → k = (tk.f.src, 2 * leAt tk.f.payload 4 4 + leAt tk.f.payload 8 4 / 256 % 2) →
    (w32 (leAt tk.f.payload 12 4) ≠ c.hlt.epoch ∨ c.hlt.awaited.contains k = false → Becomes (.guardAckReceive f) s c) ∧
    (w32 (leAt tk.f.payload 12 4) = c.hlt.epoch → c.hlt.awaited.contains k = true →
      (c.hlt.awaited.filter (· ≠ k) ≠ [] → Becomes (.guardAckReceive f) s
        (c.modHlt (fun h => { h with awaited := h.awaited.filter (· ≠ k) }))) ∧
      (c.hlt.awaited.filter (· ≠ k) = [] → Gives (.guardAckReceive f) s (fun t =>
        t.blk.hlt.cepoch = c.hlt.epoch ∧ t.blk.hlt.awaited = [] ∧ t.blk.hlt.flight = [] ∧ t.blk.hlt.holders = [])))) ∧
  (∀ (s : State) (f : RxFrame) (b c : Blk) (tk : Taken), HearsSub s f ftHealth 4 b tk → c = b.frameDone tk → leAt tk.f.payload 0 1 = 4 →
    (c.grdRank tk.f.src = none → Becomes (.guardCommitReceive f) s c) ∧
    (∀ r, c.grdRank tk.f.src = some r → Gives (.guardCommitReceive f) s (fun t =>
      t.blk.hlt.staged = c.hlt.staged.filter (fun d => !(d.place == tk.f.src && d.epoch == w32 (leAt tk.f.payload 12 4))))))

/-- HEARTBEAT_SEND, HEARTBEAT_RECEIVE, PEER_SILENT, FENCE_NOTICE_RECEIVE, FENCE_FRAME_RECEIVE, TL_MN_UP_CHANGE (R403 to R407, R483): a
heartbeat and every notice go out on both networks, each notice once less; a heartbeat heard makes its peer known and books its votes; a
peer is silent only when neither network has carried it for HLT_HB_SILENT; a fence already applied is counted and does nothing more; the
line of a network drives its DOWN bit. -/
def Obligations.HeartbeatsAndFences : Prop :=
  (∀ (s : State), s.blk.inReset = false →
    (s.blk.hltCtl 1 = false ∨ s.blk.role = .die → exec .heartbeatSend s = .next (settle s)) ∧
    (s.blk.hltCtl 1 = true → s.blk.role ≠ .die → Gives .heartbeatSend s (fun t =>
      t.blk.hlt.hseq = s.blk.hlt.hseq + 1 ∧ t.blk.port.mgmt.map Prod.fst = (s.blk.hlt.notices.flatMap (fun _ => [0, 1])).foldl
        (fun l x => l ++ [x]) [0, 1] ∧
      t.blk.hlt.notices = (s.blk.hlt.notices.filter (fun n => decide (1 < n.left))).map (fun n => { n with left := n.left - 1 })))) ∧
  (∀ (s : State) (n : Nat) (f : MgmtFrame) (x : Word), s.blk.inReset = false → x = w32 (leAt f.bytes 4 4) →
    (s.blk.role = .die ∨ mgmtFmt f (fld (s.blk.reg (.hlt .HLT_HB_ETYPE)) 15 0) ≠ some 0x4842 ∨
        (x = s.blk.place ∧ leAt f.bytes 2 1 % 4 = roleCode s.blk.role) →
      exec (.heartbeatReceive n f) s = .next (settle s)) ∧
    (∀ (b c : Blk) (l : Nat), s.blk.role ≠ .die → mgmtFmt f (fld (s.blk.reg (.hlt .HLT_HB_ETYPE)) 15 0) = some 0x4842 →
      ¬ (x = s.blk.place ∧ leAt f.bytes 2 1 % 4 = roleCode s.blk.role) → l = leAt f.bytes 2 1 →
      b = s.blk.modHlt (fun h => { h with
        peers := (Store.put h.peers x.toNat { Store.get Peer.fresh s.blk.hlt.peers x.toNat with
          m0 := if n = 0 then some s.blk.tclk else (Store.get Peer.fresh s.blk.hlt.peers x.toNat).m0
          m1 := if n = 0 then (Store.get Peer.fresh s.blk.hlt.peers x.toNat).m1 else some s.blk.tclk
          role := l % 4
          ready := decide (l / 4 % 2 = 1)
          fself := decide (l / 8 % 2 = 1)
          part := leAt f.bytes 8 2 % 4096
          grd := leAt f.bytes 10 2 % 4096
          chunks := w32 (leAt f.bytes 32 4)
          silent := false })
        own := h.own.filter (· ≠ x) }) →
      c = (if l % 4 = 3 then b.grdCheck.spanHeard x (decide (l / 4 % 2 = 1)) else b.grdCheck) →
      (l / 8 % 2 = 1 ∨ c.isFenced x = true ∨ c.grdMem.contains x = false → Becomes (.heartbeatReceive n f) s c) ∧
      (l / 8 % 2 ≠ 1 → c.isFenced x = false → c.grdMem.contains x = true → Becomes (.heartbeatReceive n f) s
        (c.bookVotes x ((if l / 16 % 2 = 1 then [w32 (leAt f.bytes 24 4)] else []) ++
          (if l / 32 % 2 = 1 then [w32 (leAt f.bytes 28 4)] else [])))))) ∧
  (∀ (s : State) (x : Word), s.blk.inReset = false → Store.look s.blk.hlt.peers x.toNat = none →
    exec (.peerSilent x) s = .next (settle s)) ∧
  (∀ (s : State) (x : Word) (p : Peer), s.blk.inReset = false → Store.look s.blk.hlt.peers x.toNat = some p →
    (s.blk.hltCtl 1 = false ∨ p.silent = true ∨ s.blk.quiet p.m0 s.blk.silentTime = false ∨ s.blk.quiet p.m1 s.blk.silentTime = false →
      exec (.peerSilent x) s = .next (settle s)) ∧
    (∀ b : Blk, s.blk.hltCtl 1 = true → p.silent = false → s.blk.quiet p.m0 s.blk.silentTime = true →
      s.blk.quiet p.m1 s.blk.silentTime = true →
      b = (s.blk.modHlt (fun h => { h with peers := Store.put h.peers x.toNat { p with silent := true } })).leadCheck →
      (b.hltCtl 2 = false ∨ b.role ≠ .tray ∨ b.grdMem.contains x = false ∨ b.hlt.fencedSelf = true ∨ b.hlt.own.contains x = true ∨
          b.isFenced x = true ∨ 2 ≤ b.hlt.own.length → Becomes (.peerSilent x) s b) ∧
      (b.hltCtl 2 = true → b.role = .tray → b.grdMem.contains x = true → b.hlt.fencedSelf = false → b.hlt.own.contains x = false →
        b.isFenced x = false → b.hlt.own.length < 2 → ∀ c : Blk,
        c = (b.modHlt (fun h => { h with own := h.own ++ [x] })).mgmtClear.sendHeartbeat →
        Becomes (.peerSilent x) s (c.bookVotes c.place c.hlt.own)))) ∧
  (∀ (s : State) (n : Nat) (f : MgmtFrame), s.blk.inReset = false →
    (s.blk.role = .die ∨ mgmtFmt f (fld (s.blk.reg (.hlt .HLT_HB_ETYPE)) 15 0) ≠ some 0x464E →
      exec (.fenceNoticeReceive n f) s = .next (settle s)) ∧
    (s.blk.role = .tray → mgmtFmt f (fld (s.blk.reg (.hlt .HLT_HB_ETYPE)) 15 0) = some 0x464E →
      (leAt f.bytes 8 2 % 4096 = s.blk.part → Becomes (.fenceNoticeReceive n f) s
        (s.blk.applyFence (decide (leAt f.bytes 2 1 % 2 = 1)) (w32 (leAt f.bytes 24 4)) (decide (leAt f.bytes 2 1 / 2 % 2 = 1)))) ∧
      (leAt f.bytes 8 2 % 4096 ≠ s.blk.part → exec (.fenceNoticeReceive n f) s = .next (settle s)))) ∧
  (∀ (s : State) (f : RxFrame) (b : Blk) (tk : Taken), Hears s f ftFence b tk → Becomes (.fenceFrameReceive f) s
    ((b.frameDone tk).applyFence (bit (wordAt tk.f.payload 0) 0) (wordAt tk.f.payload 1) (bit (wordAt tk.f.payload 2) 0))) ∧
  (∀ (b : Blk) (on v : Bool) (y : Word), b.hlt.fenced.contains y = on → b.applyFence on y v = b.count (.hlt .HLT_FENCE_CNT) 1) ∧
  (∀ (s : State) (up : Bool), s.blk.inReset = false →
    Gives (.tlMnUpChange 0 up) s (fun t => t.blk.hlt = { s.blk.hlt with m0Down := !up }) ∧
    Gives (.tlMnUpChange 1 up) s (fun t => t.blk.hlt = { s.blk.hlt with m1Down := !up }) ∧
    (∀ n, 2 ≤ n → exec (.tlMnUpChange n up) s = .next (settle s)))

/-- The rows that are a write of the control port (R370, R492, R495, R499 to R501): an accepted write does what its register does with
the value, clears the poison of the word and is acknowledged; the first write of a guarded pair is held; the second, at 0x800 above and
with the complement, puts the value in force; a write of a word without register, or of a read-only window, does nothing; a write of a
bit's alias reads the word, changes the one bit and writes it back; and a posted write ends its domain's BUSY. -/
def Obligations.PortWrites : Prop :=
  (∀ c r, PortRow c r → ∀ (s : State) (a : Access) (v : Word), Accepts s a r v →
    exec (c a v) s = .next (Acked (s.writeReg a r v) (r.addr s.blk.conf))) ∧
  (∀ (s : State) (a : Access) (r : Reg) (v : Word), Accepts s a r v →
    exec (.registerWrite a (r.addr s.blk.conf) v) s = .next (Acked (s.writeReg a r v) (r.addr s.blk.conf))) ∧
  (∀ (s : State) (a : Access) (r : Reg) (v : Word), s.blk.inReset = false → Lies s r → s.held a = none →
    s.blk.badValue r v = false → s.blk.allows a true r = true → (r.info s.blk.conf).acc = .wg →
    ∃ t, exec (.registerWrite a (r.addr s.blk.conf) v) s = .next t ∧ t.held a = some ⟨r.addr s.blk.conf, v⟩ ∧
      t.blk.regs = s.blk.regs ∧ t.blk.cp.resp = some .ack) ∧
  (∀ c r f, PairRow c r f → ∀ (s : State) (a : Access) (v : Word), Pairs s a r (f v) →
    exec (c a v) s = .next (Acked ((s.unhold a).guardApply r (f v)) (r.addr s.blk.conf))) ∧
  (∀ (s : State) (a : Access) (r : Reg) (v : Word), Pairs s a r v →
    exec (.registerWrite a (r.addr s.blk.conf + 0x800) (~~~v)) s =
      .next (Acked ((s.unhold a).guardApply r v) (r.addr s.blk.conf))) ∧
  (∀ (s : State) (a : Access) (x : Nat) (v : Word), s.blk.inReset = false → s.badAddr x = false → 0x10000 ≤ x → s.held a = none →
    (∀ r, s.target x ≠ .reg r) → s.admits a true (s.target x) = true → s.guardedAt x = none →
    exec (.registerWrite a x v) s = .next (settle (s.answer .ack 0 false))) ∧
  (∀ (s : State) (a : Access) (x w n : Nat) (v : Word) (r : Reg), s.blk.inReset = false → s.badAddr x = false → x < 0x10000 →
    s.held a = none → s.aliasOf a x = (w, n) → s.target w = .reg r → s.blk.allows a true r = true →
    ((r.info s.blk.conf).acc = .ro ∨ (r.info s.blk.conf).acc = .rc →
      exec (.bitAliasWrite a x v) s = .next (settle ((s.unhold a).answer .ack 0 false))) ∧
    ((r.info s.blk.conf).acc = .w1c → exec (.bitAliasWrite a x v) s =
      .next (settle ((if bit v 0 then s.unhold a else (s.unhold a).writeReg a r (BitVec.ofNat 32 (2 ^ n))).answer .ack 0 false))) ∧
    (∀ y : Word, (r.info s.blk.conf).acc = .rw ∨ (r.info s.blk.conf).acc = .rwb ∨ (r.info s.blk.conf).acc = .rwp →
      s.blk.busyFor r = false →
      y = (if bit v 0 then (s.unhold a).valueFor a r ||| BitVec.ofNat 32 (2 ^ n)
        else (s.unhold a).valueFor a r &&& ~~~(BitVec.ofNat 32 (2 ^ n))) →
      ((s.unhold a).blk.badValue r y = false → (s.unhold a).blk.refusesVal a r y = false → exec (.bitAliasWrite a x v) s =
        .next (settle (((s.unhold a).writeReg a r y).answer .ack 0 false))) ∧
      ((s.unhold a).blk.badValue r y = true ∨ (s.unhold a).blk.refusesVal a r y = true → exec (.bitAliasWrite a x v) s =
        .next (settle (((s.unhold a).modBlk (fun b => b.refused r y)).answer .ack 0 false))))) ∧
  (∀ (s : State) (d : Domain), s.blk.inReset = false → Becomes (.postedWriteApply d) s (s.blk.clearBusy d))

/-- What the control port answers (R359, R370, R489, R492, R496, R499, R501, R504, R508): a row that is a write is the write at its
register's address; an access is refused for its address, its level, its guard and its busy domain, in this order, and a refusal changes
nothing but the log of violations and the initiator's first write; a read gives the value, says whether the word is poisoned, and clears
an RC register; a read of a bit's alias gives the bit and clears nothing. -/
def Obligations.PortAnswers : Prop :=
  (∀ c r, PortRow c r → ∀ (s : State) (a : Access) (v : Word), s.blk.inReset = false →
    (Reg.at s.blk.conf (r.addr s.blk.conf) = some r ∨ Reg.at s.blk.conf (r.addr s.blk.conf) = none →
      exec (c a v) s = exec (.registerWrite a (r.addr s.blk.conf) v) s) ∧
    (∀ q, Reg.at s.blk.conf (r.addr s.blk.conf) = some q → q ≠ r → exec (c a v) s = .next (settle s))) ∧
  (∀ c r f, PairRow c r f → ∀ (s : State) (a : Access) (v : Word),
    exec (c a v) s = exec (.registerWrite a (r.addr s.blk.conf + 0x800) (~~~(f v))) s) ∧
  (∀ (s : State) (a : Access) (x : Nat) (v : Word), exec (.bitAliasWrite a x v) s = exec (.registerWrite a x v) s ∧
    exec (.readClear a x) s = exec (.registerRead a x) s) ∧
  (∀ (s : State) (a : Access) (x : Nat) (we al : Bool) (n : Resp) (t : State), t = (s.unhold a).nak a x we al n →
    t.blk.cp.resp = some n ∧ t.held a = none ∧ t.blk.cp.viols = s.blk.cp.viols + 1 ∧
    t.blk.reg (.cpi .CPI_VIOL_ADDR) = w32 (x % 2 ^ 26) ∧
    t.blk.reg (.cpi .CPI_VIOL_INFO) = w32 (((s.blk.cp.viols + 1) % 256) <<< 24 + (b2n al) <<< 11 + (b2n we) <<< 10 +
      (a.lvl % 4) <<< 8 + n.code <<< 4 + a.ini) ∧
    t.blk = { s.blk with cp := t.blk.cp, regs := t.blk.regs, regPoi := t.blk.regPoi, raised := t.blk.raised } ∧
    t.blk.regPoi = (s.blk.regPoi.filter (fun p => decide (p.1 ≠ (Reg.cpi .CPI_VIOL_ADDR).addr s.blk.conf))).filter
      (fun p => decide (p.1 ≠ (Reg.cpi .CPI_VIOL_INFO).addr s.blk.conf)) ∧
    (∀ q : Reg, q.addr s.blk.conf ≠ (Reg.cpi .CPI_VIOL_ADDR).addr s.blk.conf → q.addr s.blk.conf ≠
      (Reg.cpi .CPI_VIOL_INFO).addr s.blk.conf → q.addr s.blk.conf ≠ (Reg.cpi .CPI_VIOL_CNT).addr s.blk.conf →
      t.blk.reg q = s.blk.reg q)) ∧
  (∀ (s : State) (a : Access) (x : Nat) (v : Word) (c : Bool → Resp → State), s.blk.inReset = false →
    (∀ al n, c al n = settle ((s.unhold a).nak a x true al n)) →
    (s.badAddr x = true → exec (.registerWrite a x v) s = .next (c false .nakAddr)) ∧
    (s.badAddr x = false → 0x10000 ≤ x → (∀ h, s.held a = some h → x ≠ h.addr + 0x800) →
      (∀ r, s.target x = .reg r → s.blk.badValue r v = true → exec (.registerWrite a x v) s = .next (c false .nakAddr)) ∧
      ((∀ r, s.target x = .reg r → s.blk.badValue r v = false) → s.admits a true (s.target x) = false → exec (.registerWrite a x v) s = .next (c false .nakPriv)) ∧
      ((∀ r, s.target x = .reg r → s.blk.badValue r v = false) → s.admits a true (s.target x) = true →
        (s.held a).isSome = true → exec (.registerWrite a x v) s = .next (c false .nakGuard)) ∧
      (s.held a = none → s.target x = .none → (s.guardedAt x).isSome = true →
        exec (.registerWrite a x v) s = .next (c false .nakGuard)) ∧
      (∀ r, s.blk.badValue r v = false → s.admits a true (s.target x) = true → s.held a = none → s.target x = .reg r →
        (r.info s.blk.conf).acc ≠ .wg → s.blk.busyFor r = true → exec (.registerWrite a x v) s = .next (c false .nakBusy))) ∧
    (∀ r y, Lies s r → s.badAddr x = false → s.held a = some ⟨r.addr s.blk.conf, y⟩ → x = r.addr s.blk.conf + 0x800 →
      (s.blk.allows a true r = false → exec (.registerWrite a x v) s = .next (c false .nakPriv)) ∧
      (s.blk.allows a true r = true → v ≠ ~~~y → exec (.registerWrite a x v) s = .next (c false .nakGuard))) ∧
    (∀ w n, s.badAddr x = false → x < 0x10000 → s.aliasOf a x = (w, n) →
      (s.admits a true (s.target w) = false → exec (.bitAliasWrite a x v) s = .next (c true .nakPriv)) ∧
      (s.admits a true (s.target w) = true → (s.held a).isSome = true →
        exec (.bitAliasWrite a x v) s = .next (c true .nakGuard)) ∧
      (∀ r, s.admits a true (s.target w) = true → s.held a = none → s.target w = .reg r →
        ((r.info s.blk.conf).acc = .wg → exec (.bitAliasWrite a x v) s = .next (c true .nakGuard)) ∧
        (s.blk.busyFor r = true → exec (.bitAliasWrite a x v) s = .next (c true .nakBusy))))) ∧
  (∀ (s : State) (a : Access) (x w n : Nat) (y : Word) (t : Target), s.blk.inReset = false →
    (s.badAddr x = true → exec (.registerRead a x) s = .next (settle ((s.unhold a).nak a x false false .nakAddr))) ∧
    (s.badAddr x = false → (w, n) = (if x < 0x10000 then s.aliasOf a x else (x, 0)) → t = s.target w →
      (s.admits a false t = false →
        exec (.registerRead a x) s = .next (settle ((s.unhold a).nak a x false (decide (x < 0x10000)) .nakPriv))) ∧
      (s.admits a false t = true → (s.held a).isSome = true →
        exec (.registerRead a x) s = .next (settle ((s.unhold a).nak a x false (decide (x < 0x10000)) .nakGuard))) ∧
      (s.admits a false t = true → s.held a = none → 
        (∀ r, t = .reg r → y = s.valueFor a r) → (∀ p z, t = .win p z → y = z) → (t = .none → y = 0) →
        (x < 0x10000 → exec (.registerRead a x) s = .next (settle (s.give x w (w32 (b2n (bit y n)))))) ∧
        (0x10000 ≤ x → exec (.registerRead a x) s = .next (settle ((s.clearRead t).give x w y)))))) ∧
  (∀ (s : State) (x w : Nat) (y : Word),
    (s.give x w y).blk.cp.resp = some .ack ∧ (s.give x w y).blk.cp.rdata = y ∧
    (s.give x w y).blk.cp.rpoi = Store.get false s.blk.regPoi w ∧
    (Store.get false s.blk.regPoi w = true → bit ((s.give x w y).blk.reg (.err .ERR_STAT)) 1 = true) ∧
    (Store.get false s.blk.regPoi w = false → (s.give x w y).blk.regs = s.blk.regs))

/-- What accepted writes do (R53, R77, R97, R109, R135, R139, R305, R372, R376, R379, R380, R392, R396, R398, R417, R433, R443, R492,
R498): by the access code of the register, and for the rows whose write is a command of its unit. -/
def Obligations.WriteEffects : Prop :=
  (∀ (s : State) (a : Access) (r : Reg) (v : Word),
    ((r.info s.blk.conf).acc = .ro ∨ (r.info s.blk.conf).acc = .rc → s.writeReg a r v = s) ∧
    ((r.info s.blk.conf).acc = .w1c →
      (s.writeReg a r v).blk.reg r = s.blk.reg r &&& ~~~(v &&& (r.info s.blk.conf).mask))) ∧
  (∀ (s : State) (a : Access) (e : ErrReg) (v : Word), ((Reg.err e).info s.blk.conf).acc = .rw →
    (s.writeReg a (.err e) v).blk.reg (.err e) = v &&& ((Reg.err e).info s.blk.conf).mask) ∧
  (∀ (s : State) (a : Access) (v : Word),
    (s.writeReg a (.tim .TIM_TSF_POP) v).blk.time.fifo = (if bit v 0 then s.blk.time.fifo.drop 1 else s.blk.time.fifo)) ∧
  (∀ (s : State) (a : Access) (n : Nat) (v : Word), Store.get 0 (s.writeReg a (.tim (.TIM_TTn_TIME_LO n)) v).blk.time.ttNext n =
    BitVec.ofNat 64 (hiLo ((s.blk.setReg (.tim (.TIM_TTn_TIME_LO n)) v).reg (.tim (.TIM_TTn_TIME_HI n))) v)) ∧
  (∀ (s : State) (a : Access) (v : Word), bit v 3 = false → (s.writeReg a (.prb .PRB_CTRL) v).blk.prb.digests = []) ∧
  (∀ (s : State) (a : Access) (v : Word), bit v 0 = true → s.blk.rcp.fwFrozen = true →
    (s.writeReg a (.rcp .RCP_FW_RELEASE) v).blk.rcp = { s.blk.rcp with fwFrozen := false } ∧
    ∃ e : Ev, (s.writeReg a (.rcp .RCP_FW_RELEASE) v).blk.raised = s.blk.raised ++ [.ev e] ∧ e.code = 0x0402) ∧
  (∀ (s : State) (a : Access) (v : Word), bit v 0 = true →
    (s.writeReg a (.ctr .CTR_AUTH_GO) v).blk.reg (.ctr .CTR_AUTH_RESULT) = 1 ∧
    (s.writeReg a (.ctr .CTR_AUTH_GO) v).blk.trace.checking.isSome = true) ∧
  (∀ (s : State) (a : Access) (n : Nat) (v : Word), (s.writeReg a (.tre (.TRE_En_LOAD n)) v).blk =
    (if bit v 0 then s.blk.setSlot n { s.blk.slot n with
      loading := true, loadAt := s.blk.tclk, loadCtl := s.blk.reg (.tre (.TRE_En_CTRL n))
      loadAddr := s.blk.reg2 (.tre (.TRE_En_ADDR_HI n)) (.tre (.TRE_En_ADDR_LO n)) } else s.blk)) ∧
  (∀ (s : State) (a : Access) (v : Word), ∃ e : Ev, e.code = v.setWidth 16 ∧ e.src = hostSrc a.ini ∧
    (s.writeReg a (.evr .EVR_INJ_CODE) v).blk.raised = s.blk.raised ++ [.ev e]) ∧
  (∀ (s : State) (a : Access) (v : Word), (s.writeReg a (.evr .EVR_FLUSH_NOW) v).blk.raised =
    (if bit v 0 then s.blk.raised ++ [.flush 4 0] else s.blk.raised)) ∧
  (∀ (s : State) (a : Access) (v : Word), (s.writeReg a (.snp .SNP_TRIG) v).blk.raised =
    (if bit v 0 then s.blk.raised ++ [.snap 1 (s.blk.reg (.snp .SNP_TRIG_ARG))] else s.blk.raised)) ∧
  (∀ (s : State) (v : Word), (s.guardApply (.snp .SNP_RELEASE) v).snap =
    (if bit v 0 then { s.snap with frozen := false } else s.snap)) ∧
  (∀ (s : State) (v : Word), s.blk.role = .die → (s.guardApply (.hlt .HLT_STRESS) v).blk.hlt.manual =
    (if bit (v &&& ((Reg.hlt .HLT_STRESS).info s.blk.conf).mask) 31 then
      some (fld (v &&& ((Reg.hlt .HLT_STRESS).info s.blk.conf).mask) 24 16, bit (v &&& ((Reg.hlt .HLT_STRESS).info s.blk.conf).mask) 0,
        bit (v &&& ((Reg.hlt .HLT_STRESS).info s.blk.conf).mask) 1) else none)) ∧
  (∀ (s : State) (a : Access) (v : Word) (i k : Nat), i = (s.blk.setReg (.hlt .HLT_CE_REPORT) v).pairVal (.hlt .HLT_CE_ENT_HI)
      (.hlt .HLT_CE_ENT_LO) % 2 ^ 48 → k = Store.get 0 s.blk.hlt.ceTot i + v.toNat →
    k ≤ ((s.blk.setReg (.hlt .HLT_CE_REPORT) v).reg (.hlt .HLT_CE_THR)).toNat →
    Store.get 0 (s.writeReg a (.hlt .HLT_CE_REPORT) v).blk.hlt.ceTot i = k) ∧
  (∀ (s : State) (a : Access) (v : Word), s.blk.boot.waitGo = true → s.blk.boot.stage = 2 →
    bit v 0 = true → (s.writeReg a (.boot .BOOT_GO) v).blk.boot.stage = 3 ∧
      (s.writeReg a (.boot .BOOT_GO) v).blk.boot.waitGo = false) ∧
  (∀ (s : State) (a : Access) (v : Word), bit v 0 = true →
    (s.blk.secLost = true → (s.writeReg a (.fwc .FWC_UPD_GO) v).blk = s.blk.modFwc (fun m => { m with upd := 0xA })) ∧
    (s.blk.secLost = false → (s.writeReg a (.fwc .FWC_UPD_GO) v).blk.fwc.upd = 1 ∧
      (s.writeReg a (.fwc .FWC_UPD_GO) v).blk.domBusy .update = true)) ∧
  (∀ (s : State) (v : Word), bit v 0 = true →
    (s.blk.secLost = false → (s.guardApply (.lic .LIC_INSTALL) v).blk.reg (.lic .LIC_RESULT) = 1 ∧
      (s.guardApply (.lic .LIC_INSTALL) v).blk.lic.checking.isSome = true) ∧
    (s.blk.secLost = true → (s.guardApply (.lic .LIC_INSTALL) v).blk.reg (.lic .LIC_RESULT) = 0x52))

/-- A step takes the command at the front of the queue, and its outcome is that of the command with the rest of the queue waiting;
on an empty queue one tclk passes (a choice of the model, log 4). -/
def Obligations.StepRunsFront : Prop :=
  (∀ (c : Instr) (s : State), step { s with pending := c :: s.pending } = exec c s) ∧
  (∀ s : State, s.pending = [] → step s = .next s.tick) ∧
  (∀ s : State, s.blk.inReset = true → s.tick = { s with blk := { s.blk with tclk := s.blk.tclk + 1 } }) ∧
  (∀ s : State, s.blk.inReset = false → s.tick = settle { s with blk := s.blk.tick })

/-- The machine right after reset: no command waits, no reset is asserted, every register reads the reset value of its table, FRC and
the record counts are 0, the servo runs at the nominal rate, no context is loaded and no collection known, nothing has been latched,
and the recorder is well formed. That the host holds a tray licence is the model's choice (log 2). -/
def Obligations.ResetValues : Prop :=
  State.reset.pending = [] ∧ State.reset.blk.inReset = false ∧ State.reset.blk.conf = .a64 ∧ State.reset.blk.role = .tray ∧
  (∀ r : Reg, State.reset.blk.reg r = (r.info .a64).rst) ∧
  State.reset.blk.reg (.tim .TIM_LOCK_THR) = 0xA0 ∧ State.reset.blk.reg (.tim .TIM_STEP_THR) = 0xF42400 ∧
  State.reset.blk.reg (.tim .TIM_RATE_NOM_HI) = 0x10 ∧ (∀ t, State.reset.blk.reg (.trn (.TRN_CTRL t)) = 2) ∧
  (∀ g, State.reset.blk.reg (.prb (.PRB_Gg_CTRL g)) = 0xFE00) ∧ State.reset.blk.reg (.prb .PRB_SMP_PERIOD) = 0x3E8 ∧
  State.reset.blk.reg (.rcp .RCP_FLUSH) = 0x7D0 ∧ State.reset.blk.reg (.wsr .WSR_SPAN_WAIT) = 0x4E20 ∧
  State.reset.blk.reg (.sku .SKU_HORIZON) = 0x3F480 ∧ (∀ n, State.reset.blk.reg (.tre (.TRE_En_CTRL n)) = 0xFE) ∧
  State.reset.blk.reg (.fea .FEA_AREA) = 0x40 ∧ State.reset.blk.reg (.ful .FUL_CTRL) = 0x201 ∧
  (∀ q, State.reset.blk.reg (.qsc (.QSC_Qq_CFG q)) = 0xFE0000) ∧ State.reset.blk.reg (.err .ERR_SCRUB_PER) = 0xE10 ∧
  State.reset.blk.reg (.evr .EVR_CTRL) = 3 ∧ State.reset.blk.reg (.snp .SNP_CTRL) = 1 ∧
  State.reset.blk.reg (.hlt .HLT_HB_ETYPE) = 0x88B5 ∧ State.reset.blk.reg (.fwc .FWC_CC_GRACE) = 0x4E20 ∧
  State.reset.blk.reg (.pwr .PWR_TEMP_LIM) = 0x39803480 ∧ State.reset.blk.reg (.boot .BOOT_PARENT) = 0xFFFFFFFF ∧
  (∀ c, State.reset.blk.reg (.cpi (.CPI_Cc_OWNER c)) = 0xFE) ∧
  State.reset.blk.time.frc = 0 ∧ State.reset.blk.time.rate = 0x1000000000 ∧ State.reset.blk.time.lock = false ∧
  State.reset.blk.ctxs = [] ∧ State.reset.blk.colls = [] ∧ State.reset.blk.boot.stage = 0 ∧ State.reset.blk.boot.ready = false ∧
  State.reset.blk.regPoi = [] ∧ State.reset.evr.wcount = 0 ∧ State.reset.evr.flush = none ∧ State.reset.snap.cnt = 0 ∧
  RecorderInv State.reset

/-- From every state that meets the invariant of the recorder, a step always answers a next state, with one command less waiting, and
the next state meets the invariant again (R373 to R380): whatever the command, the ring holds a record at just the indices that have been
written, a running flush covers records that have been written and at most the ring, a frozen snapshot exists, and no event raised is left
behind. -/
def Obligations.RecorderKept : Prop :=
  ∀ s : State, RecorderInv s → ∃ t, step s = .next t ∧ t.pending = s.pending.tail ∧ RecorderInv t
end

