-- ==== Sys2Proof/Laws/State.lean ====
section
/-!
SUPPORT. What each update of one part of the state leaves: one lemma per field per update, true by unfolding.
-/

namespace Sys2Proof.Machine

@[simp] theorem Blk.modRegs_conf (s : Blk) (f : Store Word → Store Word) : (s.modRegs f).conf = s.conf := rfl
@[simp] theorem Blk.modRegs_role (s : Blk) (f : Store Word → Store Word) : (s.modRegs f).role = s.role := rfl
@[simp] theorem Blk.modRegs_inst (s : Blk) (f : Store Word → Store Word) : (s.modRegs f).inst = s.inst := rfl
@[simp] theorem Blk.modRegs_inReset (s : Blk) (f : Store Word → Store Word) : (s.modRegs f).inReset = s.inReset := rfl
@[simp] theorem Blk.modRegs_tclk (s : Blk) (f : Store Word → Store Word) : (s.modRegs f).tclk = s.tclk := rfl
@[simp] theorem Blk.modRegs_draws (s : Blk) (f : Store Word → Store Word) : (s.modRegs f).draws = s.draws := rfl
@[simp] theorem Blk.modRegs_regs (s : Blk) (f : Store Word → Store Word) : (s.modRegs f).regs = f s.regs := rfl
@[simp] theorem Blk.modRegs_rwb (s : Blk) (f : Store Word → Store Word) : (s.modRegs f).rwb = s.rwb := rfl
@[simp] theorem Blk.modRegs_regPoi (s : Blk) (f : Store Word → Store Word) : (s.modRegs f).regPoi = s.regPoi := rfl
@[simp] theorem Blk.modRegs_cp (s : Blk) (f : Store Word → Store Word) : (s.modRegs f).cp = s.cp := rfl
@[simp] theorem Blk.modRegs_time (s : Blk) (f : Store Word → Store Word) : (s.modRegs f).time = s.time := rfl
@[simp] theorem Blk.modRegs_trk (s : Blk) (f : Store Word → Store Word) : (s.modRegs f).trk = s.trk := rfl
@[simp] theorem Blk.modRegs_prb (s : Blk) (f : Store Word → Store Word) : (s.modRegs f).prb = s.prb := rfl
@[simp] theorem Blk.modRegs_rcp (s : Blk) (f : Store Word → Store Word) : (s.modRegs f).rcp = s.rcp := rfl
@[simp] theorem Blk.modRegs_trace (s : Blk) (f : Store Word → Store Word) : (s.modRegs f).trace = s.trace := rfl
@[simp] theorem Blk.modRegs_qsc (s : Blk) (f : Store Word → Store Word) : (s.modRegs f).qsc = s.qsc := rfl
@[simp] theorem Blk.modRegs_ctxs (s : Blk) (f : Store Word → Store Word) : (s.modRegs f).ctxs = s.ctxs := rfl
@[simp] theorem Blk.modRegs_red (s : Blk) (f : Store Word → Store Word) : (s.modRegs f).red = s.red := rfl
@[simp] theorem Blk.modRegs_sk (s : Blk) (f : Store Word → Store Word) : (s.modRegs f).sk = s.sk := rfl
@[simp] theorem Blk.modRegs_tre (s : Blk) (f : Store Word → Store Word) : (s.modRegs f).tre = s.tre := rfl
@[simp] theorem Blk.modRegs_ful (s : Blk) (f : Store Word → Store Word) : (s.modRegs f).ful = s.ful := rfl
@[simp] theorem Blk.modRegs_hlt (s : Blk) (f : Store Word → Store Word) : (s.modRegs f).hlt = s.hlt := rfl
@[simp] theorem Blk.modRegs_fwc (s : Blk) (f : Store Word → Store Word) : (s.modRegs f).fwc = s.fwc := rfl
@[simp] theorem Blk.modRegs_pwr (s : Blk) (f : Store Word → Store Word) : (s.modRegs f).pwr = s.pwr := rfl
@[simp] theorem Blk.modRegs_lic (s : Blk) (f : Store Word → Store Word) : (s.modRegs f).lic = s.lic := rfl
@[simp] theorem Blk.modRegs_boot (s : Blk) (f : Store Word → Store Word) : (s.modRegs f).boot = s.boot := rfl
@[simp] theorem Blk.modRegs_colls (s : Blk) (f : Store Word → Store Word) : (s.modRegs f).colls = s.colls := rfl
@[simp] theorem Blk.modRegs_port (s : Blk) (f : Store Word → Store Word) : (s.modRegs f).port = s.port := rfl
@[simp] theorem Blk.modRegs_mem (s : Blk) (f : Store Word → Store Word) : (s.modRegs f).mem = s.mem := rfl
@[simp] theorem Blk.modRegs_ceHot (s : Blk) (f : Store Word → Store Word) : (s.modRegs f).ceHot = s.ceHot := rfl
@[simp] theorem Blk.modRegs_scrubAt (s : Blk) (f : Store Word → Store Word) : (s.modRegs f).scrubAt = s.scrubAt := rfl
@[simp] theorem Blk.modRegs_stopped (s : Blk) (f : Store Word → Store Word) : (s.modRegs f).stopped = s.stopped := rfl
@[simp] theorem Blk.modRegs_raised (s : Blk) (f : Store Word → Store Word) : (s.modRegs f).raised = s.raised := rfl
@[simp] theorem Blk.modRwb_conf (s : Blk) (f : Store (Word × Nat) → Store (Word × Nat)) : (s.modRwb f).conf = s.conf := rfl
@[simp] theorem Blk.modRwb_role (s : Blk) (f : Store (Word × Nat) → Store (Word × Nat)) : (s.modRwb f).role = s.role := rfl
@[simp] theorem Blk.modRwb_inst (s : Blk) (f : Store (Word × Nat) → Store (Word × Nat)) : (s.modRwb f).inst = s.inst := rfl
@[simp] theorem Blk.modRwb_inReset (s : Blk) (f : Store (Word × Nat) → Store (Word × Nat)) : (s.modRwb f).inReset = s.inReset := rfl
@[simp] theorem Blk.modRwb_tclk (s : Blk) (f : Store (Word × Nat) → Store (Word × Nat)) : (s.modRwb f).tclk = s.tclk := rfl
@[simp] theorem Blk.modRwb_draws (s : Blk) (f : Store (Word × Nat) → Store (Word × Nat)) : (s.modRwb f).draws = s.draws := rfl
@[simp] theorem Blk.modRwb_regs (s : Blk) (f : Store (Word × Nat) → Store (Word × Nat)) : (s.modRwb f).regs = s.regs := rfl
@[simp] theorem Blk.modRwb_rwb (s : Blk) (f : Store (Word × Nat) → Store (Word × Nat)) : (s.modRwb f).rwb = f s.rwb := rfl
@[simp] theorem Blk.modRwb_regPoi (s : Blk) (f : Store (Word × Nat) → Store (Word × Nat)) : (s.modRwb f).regPoi = s.regPoi := rfl
@[simp] theorem Blk.modRwb_cp (s : Blk) (f : Store (Word × Nat) → Store (Word × Nat)) : (s.modRwb f).cp = s.cp := rfl
@[simp] theorem Blk.modRwb_time (s : Blk) (f : Store (Word × Nat) → Store (Word × Nat)) : (s.modRwb f).time = s.time := rfl
@[simp] theorem Blk.modRwb_trk (s : Blk) (f : Store (Word × Nat) → Store (Word × Nat)) : (s.modRwb f).trk = s.trk := rfl
@[simp] theorem Blk.modRwb_prb (s : Blk) (f : Store (Word × Nat) → Store (Word × Nat)) : (s.modRwb f).prb = s.prb := rfl
@[simp] theorem Blk.modRwb_rcp (s : Blk) (f : Store (Word × Nat) → Store (Word × Nat)) : (s.modRwb f).rcp = s.rcp := rfl
@[simp] theorem Blk.modRwb_trace (s : Blk) (f : Store (Word × Nat) → Store (Word × Nat)) : (s.modRwb f).trace = s.trace := rfl
@[simp] theorem Blk.modRwb_qsc (s : Blk) (f : Store (Word × Nat) → Store (Word × Nat)) : (s.modRwb f).qsc = s.qsc := rfl
@[simp] theorem Blk.modRwb_ctxs (s : Blk) (f : Store (Word × Nat) → Store (Word × Nat)) : (s.modRwb f).ctxs = s.ctxs := rfl
@[simp] theorem Blk.modRwb_red (s : Blk) (f : Store (Word × Nat) → Store (Word × Nat)) : (s.modRwb f).red = s.red := rfl
@[simp] theorem Blk.modRwb_sk (s : Blk) (f : Store (Word × Nat) → Store (Word × Nat)) : (s.modRwb f).sk = s.sk := rfl
@[simp] theorem Blk.modRwb_tre (s : Blk) (f : Store (Word × Nat) → Store (Word × Nat)) : (s.modRwb f).tre = s.tre := rfl
@[simp] theorem Blk.modRwb_ful (s : Blk) (f : Store (Word × Nat) → Store (Word × Nat)) : (s.modRwb f).ful = s.ful := rfl
@[simp] theorem Blk.modRwb_hlt (s : Blk) (f : Store (Word × Nat) → Store (Word × Nat)) : (s.modRwb f).hlt = s.hlt := rfl
@[simp] theorem Blk.modRwb_fwc (s : Blk) (f : Store (Word × Nat) → Store (Word × Nat)) : (s.modRwb f).fwc = s.fwc := rfl
@[simp] theorem Blk.modRwb_pwr (s : Blk) (f : Store (Word × Nat) → Store (Word × Nat)) : (s.modRwb f).pwr = s.pwr := rfl
@[simp] theorem Blk.modRwb_lic (s : Blk) (f : Store (Word × Nat) → Store (Word × Nat)) : (s.modRwb f).lic = s.lic := rfl
@[simp] theorem Blk.modRwb_boot (s : Blk) (f : Store (Word × Nat) → Store (Word × Nat)) : (s.modRwb f).boot = s.boot := rfl
@[simp] theorem Blk.modRwb_colls (s : Blk) (f : Store (Word × Nat) → Store (Word × Nat)) : (s.modRwb f).colls = s.colls := rfl
@[simp] theorem Blk.modRwb_port (s : Blk) (f : Store (Word × Nat) → Store (Word × Nat)) : (s.modRwb f).port = s.port := rfl
@[simp] theorem Blk.modRwb_mem (s : Blk) (f : Store (Word × Nat) → Store (Word × Nat)) : (s.modRwb f).mem = s.mem := rfl
@[simp] theorem Blk.modRwb_ceHot (s : Blk) (f : Store (Word × Nat) → Store (Word × Nat)) : (s.modRwb f).ceHot = s.ceHot := rfl
@[simp] theorem Blk.modRwb_scrubAt (s : Blk) (f : Store (Word × Nat) → Store (Word × Nat)) : (s.modRwb f).scrubAt = s.scrubAt := rfl
@[simp] theorem Blk.modRwb_stopped (s : Blk) (f : Store (Word × Nat) → Store (Word × Nat)) : (s.modRwb f).stopped = s.stopped := rfl
@[simp] theorem Blk.modRwb_raised (s : Blk) (f : Store (Word × Nat) → Store (Word × Nat)) : (s.modRwb f).raised = s.raised := rfl
@[simp] theorem Blk.modRegPoi_conf (s : Blk) (f : Store Bool → Store Bool) : (s.modRegPoi f).conf = s.conf := rfl
@[simp] theorem Blk.modRegPoi_role (s : Blk) (f : Store Bool → Store Bool) : (s.modRegPoi f).role = s.role := rfl
@[simp] theorem Blk.modRegPoi_inst (s : Blk) (f : Store Bool → Store Bool) : (s.modRegPoi f).inst = s.inst := rfl
@[simp] theorem Blk.modRegPoi_inReset (s : Blk) (f : Store Bool → Store Bool) : (s.modRegPoi f).inReset = s.inReset := rfl
@[simp] theorem Blk.modRegPoi_tclk (s : Blk) (f : Store Bool → Store Bool) : (s.modRegPoi f).tclk = s.tclk := rfl
@[simp] theorem Blk.modRegPoi_draws (s : Blk) (f : Store Bool → Store Bool) : (s.modRegPoi f).draws = s.draws := rfl
@[simp] theorem Blk.modRegPoi_regs (s : Blk) (f : Store Bool → Store Bool) : (s.modRegPoi f).regs = s.regs := rfl
@[simp] theorem Blk.modRegPoi_rwb (s : Blk) (f : Store Bool → Store Bool) : (s.modRegPoi f).rwb = s.rwb := rfl
@[simp] theorem Blk.modRegPoi_regPoi (s : Blk) (f : Store Bool → Store Bool) : (s.modRegPoi f).regPoi = f s.regPoi := rfl
@[simp] theorem Blk.modRegPoi_cp (s : Blk) (f : Store Bool → Store Bool) : (s.modRegPoi f).cp = s.cp := rfl
@[simp] theorem Blk.modRegPoi_time (s : Blk) (f : Store Bool → Store Bool) : (s.modRegPoi f).time = s.time := rfl
@[simp] theorem Blk.modRegPoi_trk (s : Blk) (f : Store Bool → Store Bool) : (s.modRegPoi f).trk = s.trk := rfl
@[simp] theorem Blk.modRegPoi_prb (s : Blk) (f : Store Bool → Store Bool) : (s.modRegPoi f).prb = s.prb := rfl
@[simp] theorem Blk.modRegPoi_rcp (s : Blk) (f : Store Bool → Store Bool) : (s.modRegPoi f).rcp = s.rcp := rfl
@[simp] theorem Blk.modRegPoi_trace (s : Blk) (f : Store Bool → Store Bool) : (s.modRegPoi f).trace = s.trace := rfl
@[simp] theorem Blk.modRegPoi_qsc (s : Blk) (f : Store Bool → Store Bool) : (s.modRegPoi f).qsc = s.qsc := rfl
@[simp] theorem Blk.modRegPoi_ctxs (s : Blk) (f : Store Bool → Store Bool) : (s.modRegPoi f).ctxs = s.ctxs := rfl
@[simp] theorem Blk.modRegPoi_red (s : Blk) (f : Store Bool → Store Bool) : (s.modRegPoi f).red = s.red := rfl
@[simp] theorem Blk.modRegPoi_sk (s : Blk) (f : Store Bool → Store Bool) : (s.modRegPoi f).sk = s.sk := rfl
@[simp] theorem Blk.modRegPoi_tre (s : Blk) (f : Store Bool → Store Bool) : (s.modRegPoi f).tre = s.tre := rfl
@[simp] theorem Blk.modRegPoi_ful (s : Blk) (f : Store Bool → Store Bool) : (s.modRegPoi f).ful = s.ful := rfl
@[simp] theorem Blk.modRegPoi_hlt (s : Blk) (f : Store Bool → Store Bool) : (s.modRegPoi f).hlt = s.hlt := rfl
@[simp] theorem Blk.modRegPoi_fwc (s : Blk) (f : Store Bool → Store Bool) : (s.modRegPoi f).fwc = s.fwc := rfl
@[simp] theorem Blk.modRegPoi_pwr (s : Blk) (f : Store Bool → Store Bool) : (s.modRegPoi f).pwr = s.pwr := rfl
@[simp] theorem Blk.modRegPoi_lic (s : Blk) (f : Store Bool → Store Bool) : (s.modRegPoi f).lic = s.lic := rfl
@[simp] theorem Blk.modRegPoi_boot (s : Blk) (f : Store Bool → Store Bool) : (s.modRegPoi f).boot = s.boot := rfl
@[simp] theorem Blk.modRegPoi_colls (s : Blk) (f : Store Bool → Store Bool) : (s.modRegPoi f).colls = s.colls := rfl
@[simp] theorem Blk.modRegPoi_port (s : Blk) (f : Store Bool → Store Bool) : (s.modRegPoi f).port = s.port := rfl
@[simp] theorem Blk.modRegPoi_mem (s : Blk) (f : Store Bool → Store Bool) : (s.modRegPoi f).mem = s.mem := rfl
@[simp] theorem Blk.modRegPoi_ceHot (s : Blk) (f : Store Bool → Store Bool) : (s.modRegPoi f).ceHot = s.ceHot := rfl
@[simp] theorem Blk.modRegPoi_scrubAt (s : Blk) (f : Store Bool → Store Bool) : (s.modRegPoi f).scrubAt = s.scrubAt := rfl
@[simp] theorem Blk.modRegPoi_stopped (s : Blk) (f : Store Bool → Store Bool) : (s.modRegPoi f).stopped = s.stopped := rfl
@[simp] theorem Blk.modRegPoi_raised (s : Blk) (f : Store Bool → Store Bool) : (s.modRegPoi f).raised = s.raised := rfl
@[simp] theorem Blk.modCp_conf (s : Blk) (f : CpState → CpState) : (s.modCp f).conf = s.conf := rfl
@[simp] theorem Blk.modCp_role (s : Blk) (f : CpState → CpState) : (s.modCp f).role = s.role := rfl
@[simp] theorem Blk.modCp_inst (s : Blk) (f : CpState → CpState) : (s.modCp f).inst = s.inst := rfl
@[simp] theorem Blk.modCp_inReset (s : Blk) (f : CpState → CpState) : (s.modCp f).inReset = s.inReset := rfl
@[simp] theorem Blk.modCp_tclk (s : Blk) (f : CpState → CpState) : (s.modCp f).tclk = s.tclk := rfl
@[simp] theorem Blk.modCp_draws (s : Blk) (f : CpState → CpState) : (s.modCp f).draws = s.draws := rfl
@[simp] theorem Blk.modCp_regs (s : Blk) (f : CpState → CpState) : (s.modCp f).regs = s.regs := rfl
@[simp] theorem Blk.modCp_rwb (s : Blk) (f : CpState → CpState) : (s.modCp f).rwb = s.rwb := rfl
@[simp] theorem Blk.modCp_regPoi (s : Blk) (f : CpState → CpState) : (s.modCp f).regPoi = s.regPoi := rfl
@[simp] theorem Blk.modCp_cp (s : Blk) (f : CpState → CpState) : (s.modCp f).cp = f s.cp := rfl
@[simp] theorem Blk.modCp_time (s : Blk) (f : CpState → CpState) : (s.modCp f).time = s.time := rfl
@[simp] theorem Blk.modCp_trk (s : Blk) (f : CpState → CpState) : (s.modCp f).trk = s.trk := rfl
@[simp] theorem Blk.modCp_prb (s : Blk) (f : CpState → CpState) : (s.modCp f).prb = s.prb := rfl
@[simp] theorem Blk.modCp_rcp (s : Blk) (f : CpState → CpState) : (s.modCp f).rcp = s.rcp := rfl
@[simp] theorem Blk.modCp_trace (s : Blk) (f : CpState → CpState) : (s.modCp f).trace = s.trace := rfl
@[simp] theorem Blk.modCp_qsc (s : Blk) (f : CpState → CpState) : (s.modCp f).qsc = s.qsc := rfl
@[simp] theorem Blk.modCp_ctxs (s : Blk) (f : CpState → CpState) : (s.modCp f).ctxs = s.ctxs := rfl
@[simp] theorem Blk.modCp_red (s : Blk) (f : CpState → CpState) : (s.modCp f).red = s.red := rfl
@[simp] theorem Blk.modCp_sk (s : Blk) (f : CpState → CpState) : (s.modCp f).sk = s.sk := rfl
@[simp] theorem Blk.modCp_tre (s : Blk) (f : CpState → CpState) : (s.modCp f).tre = s.tre := rfl
@[simp] theorem Blk.modCp_ful (s : Blk) (f : CpState → CpState) : (s.modCp f).ful = s.ful := rfl
@[simp] theorem Blk.modCp_hlt (s : Blk) (f : CpState → CpState) : (s.modCp f).hlt = s.hlt := rfl
@[simp] theorem Blk.modCp_fwc (s : Blk) (f : CpState → CpState) : (s.modCp f).fwc = s.fwc := rfl
@[simp] theorem Blk.modCp_pwr (s : Blk) (f : CpState → CpState) : (s.modCp f).pwr = s.pwr := rfl
@[simp] theorem Blk.modCp_lic (s : Blk) (f : CpState → CpState) : (s.modCp f).lic = s.lic := rfl
@[simp] theorem Blk.modCp_boot (s : Blk) (f : CpState → CpState) : (s.modCp f).boot = s.boot := rfl
@[simp] theorem Blk.modCp_colls (s : Blk) (f : CpState → CpState) : (s.modCp f).colls = s.colls := rfl
@[simp] theorem Blk.modCp_port (s : Blk) (f : CpState → CpState) : (s.modCp f).port = s.port := rfl
@[simp] theorem Blk.modCp_mem (s : Blk) (f : CpState → CpState) : (s.modCp f).mem = s.mem := rfl
@[simp] theorem Blk.modCp_ceHot (s : Blk) (f : CpState → CpState) : (s.modCp f).ceHot = s.ceHot := rfl
@[simp] theorem Blk.modCp_scrubAt (s : Blk) (f : CpState → CpState) : (s.modCp f).scrubAt = s.scrubAt := rfl
@[simp] theorem Blk.modCp_stopped (s : Blk) (f : CpState → CpState) : (s.modCp f).stopped = s.stopped := rfl
@[simp] theorem Blk.modCp_raised (s : Blk) (f : CpState → CpState) : (s.modCp f).raised = s.raised := rfl
@[simp] theorem Blk.modTime_conf (s : Blk) (f : TimeState → TimeState) : (s.modTime f).conf = s.conf := rfl
@[simp] theorem Blk.modTime_role (s : Blk) (f : TimeState → TimeState) : (s.modTime f).role = s.role := rfl
@[simp] theorem Blk.modTime_inst (s : Blk) (f : TimeState → TimeState) : (s.modTime f).inst = s.inst := rfl
@[simp] theorem Blk.modTime_inReset (s : Blk) (f : TimeState → TimeState) : (s.modTime f).inReset = s.inReset := rfl
@[simp] theorem Blk.modTime_tclk (s : Blk) (f : TimeState → TimeState) : (s.modTime f).tclk = s.tclk := rfl
@[simp] theorem Blk.modTime_draws (s : Blk) (f : TimeState → TimeState) : (s.modTime f).draws = s.draws := rfl
@[simp] theorem Blk.modTime_regs (s : Blk) (f : TimeState → TimeState) : (s.modTime f).regs = s.regs := rfl
@[simp] theorem Blk.modTime_rwb (s : Blk) (f : TimeState → TimeState) : (s.modTime f).rwb = s.rwb := rfl
@[simp] theorem Blk.modTime_regPoi (s : Blk) (f : TimeState → TimeState) : (s.modTime f).regPoi = s.regPoi := rfl
@[simp] theorem Blk.modTime_cp (s : Blk) (f : TimeState → TimeState) : (s.modTime f).cp = s.cp := rfl
@[simp] theorem Blk.modTime_time (s : Blk) (f : TimeState → TimeState) : (s.modTime f).time = f s.time := rfl
@[simp] theorem Blk.modTime_trk (s : Blk) (f : TimeState → TimeState) : (s.modTime f).trk = s.trk := rfl
@[simp] theorem Blk.modTime_prb (s : Blk) (f : TimeState → TimeState) : (s.modTime f).prb = s.prb := rfl
@[simp] theorem Blk.modTime_rcp (s : Blk) (f : TimeState → TimeState) : (s.modTime f).rcp = s.rcp := rfl
@[simp] theorem Blk.modTime_trace (s : Blk) (f : TimeState → TimeState) : (s.modTime f).trace = s.trace := rfl
@[simp] theorem Blk.modTime_qsc (s : Blk) (f : TimeState → TimeState) : (s.modTime f).qsc = s.qsc := rfl
@[simp] theorem Blk.modTime_ctxs (s : Blk) (f : TimeState → TimeState) : (s.modTime f).ctxs = s.ctxs := rfl
@[simp] theorem Blk.modTime_red (s : Blk) (f : TimeState → TimeState) : (s.modTime f).red = s.red := rfl
@[simp] theorem Blk.modTime_sk (s : Blk) (f : TimeState → TimeState) : (s.modTime f).sk = s.sk := rfl
@[simp] theorem Blk.modTime_tre (s : Blk) (f : TimeState → TimeState) : (s.modTime f).tre = s.tre := rfl
@[simp] theorem Blk.modTime_ful (s : Blk) (f : TimeState → TimeState) : (s.modTime f).ful = s.ful := rfl
@[simp] theorem Blk.modTime_hlt (s : Blk) (f : TimeState → TimeState) : (s.modTime f).hlt = s.hlt := rfl
@[simp] theorem Blk.modTime_fwc (s : Blk) (f : TimeState → TimeState) : (s.modTime f).fwc = s.fwc := rfl
@[simp] theorem Blk.modTime_pwr (s : Blk) (f : TimeState → TimeState) : (s.modTime f).pwr = s.pwr := rfl
@[simp] theorem Blk.modTime_lic (s : Blk) (f : TimeState → TimeState) : (s.modTime f).lic = s.lic := rfl
@[simp] theorem Blk.modTime_boot (s : Blk) (f : TimeState → TimeState) : (s.modTime f).boot = s.boot := rfl
@[simp] theorem Blk.modTime_colls (s : Blk) (f : TimeState → TimeState) : (s.modTime f).colls = s.colls := rfl
@[simp] theorem Blk.modTime_port (s : Blk) (f : TimeState → TimeState) : (s.modTime f).port = s.port := rfl
@[simp] theorem Blk.modTime_mem (s : Blk) (f : TimeState → TimeState) : (s.modTime f).mem = s.mem := rfl
@[simp] theorem Blk.modTime_ceHot (s : Blk) (f : TimeState → TimeState) : (s.modTime f).ceHot = s.ceHot := rfl
@[simp] theorem Blk.modTime_scrubAt (s : Blk) (f : TimeState → TimeState) : (s.modTime f).scrubAt = s.scrubAt := rfl
@[simp] theorem Blk.modTime_stopped (s : Blk) (f : TimeState → TimeState) : (s.modTime f).stopped = s.stopped := rfl
@[simp] theorem Blk.modTime_raised (s : Blk) (f : TimeState → TimeState) : (s.modTime f).raised = s.raised := rfl
@[simp] theorem Blk.modTrk_conf (s : Blk) (f : Store Tracker → Store Tracker) : (s.modTrk f).conf = s.conf := rfl
@[simp] theorem Blk.modTrk_role (s : Blk) (f : Store Tracker → Store Tracker) : (s.modTrk f).role = s.role := rfl
@[simp] theorem Blk.modTrk_inst (s : Blk) (f : Store Tracker → Store Tracker) : (s.modTrk f).inst = s.inst := rfl
@[simp] theorem Blk.modTrk_inReset (s : Blk) (f : Store Tracker → Store Tracker) : (s.modTrk f).inReset = s.inReset := rfl
@[simp] theorem Blk.modTrk_tclk (s : Blk) (f : Store Tracker → Store Tracker) : (s.modTrk f).tclk = s.tclk := rfl
@[simp] theorem Blk.modTrk_draws (s : Blk) (f : Store Tracker → Store Tracker) : (s.modTrk f).draws = s.draws := rfl
@[simp] theorem Blk.modTrk_regs (s : Blk) (f : Store Tracker → Store Tracker) : (s.modTrk f).regs = s.regs := rfl
@[simp] theorem Blk.modTrk_rwb (s : Blk) (f : Store Tracker → Store Tracker) : (s.modTrk f).rwb = s.rwb := rfl
@[simp] theorem Blk.modTrk_regPoi (s : Blk) (f : Store Tracker → Store Tracker) : (s.modTrk f).regPoi = s.regPoi := rfl
@[simp] theorem Blk.modTrk_cp (s : Blk) (f : Store Tracker → Store Tracker) : (s.modTrk f).cp = s.cp := rfl
@[simp] theorem Blk.modTrk_time (s : Blk) (f : Store Tracker → Store Tracker) : (s.modTrk f).time = s.time := rfl
@[simp] theorem Blk.modTrk_trk (s : Blk) (f : Store Tracker → Store Tracker) : (s.modTrk f).trk = f s.trk := rfl
@[simp] theorem Blk.modTrk_prb (s : Blk) (f : Store Tracker → Store Tracker) : (s.modTrk f).prb = s.prb := rfl
@[simp] theorem Blk.modTrk_rcp (s : Blk) (f : Store Tracker → Store Tracker) : (s.modTrk f).rcp = s.rcp := rfl
@[simp] theorem Blk.modTrk_trace (s : Blk) (f : Store Tracker → Store Tracker) : (s.modTrk f).trace = s.trace := rfl
@[simp] theorem Blk.modTrk_qsc (s : Blk) (f : Store Tracker → Store Tracker) : (s.modTrk f).qsc = s.qsc := rfl
@[simp] theorem Blk.modTrk_ctxs (s : Blk) (f : Store Tracker → Store Tracker) : (s.modTrk f).ctxs = s.ctxs := rfl
@[simp] theorem Blk.modTrk_red (s : Blk) (f : Store Tracker → Store Tracker) : (s.modTrk f).red = s.red := rfl
@[simp] theorem Blk.modTrk_sk (s : Blk) (f : Store Tracker → Store Tracker) : (s.modTrk f).sk = s.sk := rfl
@[simp] theorem Blk.modTrk_tre (s : Blk) (f : Store Tracker → Store Tracker) : (s.modTrk f).tre = s.tre := rfl
@[simp] theorem Blk.modTrk_ful (s : Blk) (f : Store Tracker → Store Tracker) : (s.modTrk f).ful = s.ful := rfl
@[simp] theorem Blk.modTrk_hlt (s : Blk) (f : Store Tracker → Store Tracker) : (s.modTrk f).hlt = s.hlt := rfl
@[simp] theorem Blk.modTrk_fwc (s : Blk) (f : Store Tracker → Store Tracker) : (s.modTrk f).fwc = s.fwc := rfl
@[simp] theorem Blk.modTrk_pwr (s : Blk) (f : Store Tracker → Store Tracker) : (s.modTrk f).pwr = s.pwr := rfl
@[simp] theorem Blk.modTrk_lic (s : Blk) (f : Store Tracker → Store Tracker) : (s.modTrk f).lic = s.lic := rfl
@[simp] theorem Blk.modTrk_boot (s : Blk) (f : Store Tracker → Store Tracker) : (s.modTrk f).boot = s.boot := rfl
@[simp] theorem Blk.modTrk_colls (s : Blk) (f : Store Tracker → Store Tracker) : (s.modTrk f).colls = s.colls := rfl
@[simp] theorem Blk.modTrk_port (s : Blk) (f : Store Tracker → Store Tracker) : (s.modTrk f).port = s.port := rfl
@[simp] theorem Blk.modTrk_mem (s : Blk) (f : Store Tracker → Store Tracker) : (s.modTrk f).mem = s.mem := rfl
@[simp] theorem Blk.modTrk_ceHot (s : Blk) (f : Store Tracker → Store Tracker) : (s.modTrk f).ceHot = s.ceHot := rfl
@[simp] theorem Blk.modTrk_scrubAt (s : Blk) (f : Store Tracker → Store Tracker) : (s.modTrk f).scrubAt = s.scrubAt := rfl
@[simp] theorem Blk.modTrk_stopped (s : Blk) (f : Store Tracker → Store Tracker) : (s.modTrk f).stopped = s.stopped := rfl
@[simp] theorem Blk.modTrk_raised (s : Blk) (f : Store Tracker → Store Tracker) : (s.modTrk f).raised = s.raised := rfl
@[simp] theorem Blk.modPrb_conf (s : Blk) (f : ProbeState → ProbeState) : (s.modPrb f).conf = s.conf := rfl
@[simp] theorem Blk.modPrb_role (s : Blk) (f : ProbeState → ProbeState) : (s.modPrb f).role = s.role := rfl
@[simp] theorem Blk.modPrb_inst (s : Blk) (f : ProbeState → ProbeState) : (s.modPrb f).inst = s.inst := rfl
@[simp] theorem Blk.modPrb_inReset (s : Blk) (f : ProbeState → ProbeState) : (s.modPrb f).inReset = s.inReset := rfl
@[simp] theorem Blk.modPrb_tclk (s : Blk) (f : ProbeState → ProbeState) : (s.modPrb f).tclk = s.tclk := rfl
@[simp] theorem Blk.modPrb_draws (s : Blk) (f : ProbeState → ProbeState) : (s.modPrb f).draws = s.draws := rfl
@[simp] theorem Blk.modPrb_regs (s : Blk) (f : ProbeState → ProbeState) : (s.modPrb f).regs = s.regs := rfl
@[simp] theorem Blk.modPrb_rwb (s : Blk) (f : ProbeState → ProbeState) : (s.modPrb f).rwb = s.rwb := rfl
@[simp] theorem Blk.modPrb_regPoi (s : Blk) (f : ProbeState → ProbeState) : (s.modPrb f).regPoi = s.regPoi := rfl
@[simp] theorem Blk.modPrb_cp (s : Blk) (f : ProbeState → ProbeState) : (s.modPrb f).cp = s.cp := rfl
@[simp] theorem Blk.modPrb_time (s : Blk) (f : ProbeState → ProbeState) : (s.modPrb f).time = s.time := rfl
@[simp] theorem Blk.modPrb_trk (s : Blk) (f : ProbeState → ProbeState) : (s.modPrb f).trk = s.trk := rfl
@[simp] theorem Blk.modPrb_prb (s : Blk) (f : ProbeState → ProbeState) : (s.modPrb f).prb = f s.prb := rfl
@[simp] theorem Blk.modPrb_rcp (s : Blk) (f : ProbeState → ProbeState) : (s.modPrb f).rcp = s.rcp := rfl
@[simp] theorem Blk.modPrb_trace (s : Blk) (f : ProbeState → ProbeState) : (s.modPrb f).trace = s.trace := rfl
@[simp] theorem Blk.modPrb_qsc (s : Blk) (f : ProbeState → ProbeState) : (s.modPrb f).qsc = s.qsc := rfl
@[simp] theorem Blk.modPrb_ctxs (s : Blk) (f : ProbeState → ProbeState) : (s.modPrb f).ctxs = s.ctxs := rfl
@[simp] theorem Blk.modPrb_red (s : Blk) (f : ProbeState → ProbeState) : (s.modPrb f).red = s.red := rfl
@[simp] theorem Blk.modPrb_sk (s : Blk) (f : ProbeState → ProbeState) : (s.modPrb f).sk = s.sk := rfl
@[simp] theorem Blk.modPrb_tre (s : Blk) (f : ProbeState → ProbeState) : (s.modPrb f).tre = s.tre := rfl
@[simp] theorem Blk.modPrb_ful (s : Blk) (f : ProbeState → ProbeState) : (s.modPrb f).ful = s.ful := rfl
@[simp] theorem Blk.modPrb_hlt (s : Blk) (f : ProbeState → ProbeState) : (s.modPrb f).hlt = s.hlt := rfl
@[simp] theorem Blk.modPrb_fwc (s : Blk) (f : ProbeState → ProbeState) : (s.modPrb f).fwc = s.fwc := rfl
@[simp] theorem Blk.modPrb_pwr (s : Blk) (f : ProbeState → ProbeState) : (s.modPrb f).pwr = s.pwr := rfl
@[simp] theorem Blk.modPrb_lic (s : Blk) (f : ProbeState → ProbeState) : (s.modPrb f).lic = s.lic := rfl
@[simp] theorem Blk.modPrb_boot (s : Blk) (f : ProbeState → ProbeState) : (s.modPrb f).boot = s.boot := rfl
@[simp] theorem Blk.modPrb_colls (s : Blk) (f : ProbeState → ProbeState) : (s.modPrb f).colls = s.colls := rfl
@[simp] theorem Blk.modPrb_port (s : Blk) (f : ProbeState → ProbeState) : (s.modPrb f).port = s.port := rfl
@[simp] theorem Blk.modPrb_mem (s : Blk) (f : ProbeState → ProbeState) : (s.modPrb f).mem = s.mem := rfl
@[simp] theorem Blk.modPrb_ceHot (s : Blk) (f : ProbeState → ProbeState) : (s.modPrb f).ceHot = s.ceHot := rfl
@[simp] theorem Blk.modPrb_scrubAt (s : Blk) (f : ProbeState → ProbeState) : (s.modPrb f).scrubAt = s.scrubAt := rfl
@[simp] theorem Blk.modPrb_stopped (s : Blk) (f : ProbeState → ProbeState) : (s.modPrb f).stopped = s.stopped := rfl
@[simp] theorem Blk.modPrb_raised (s : Blk) (f : ProbeState → ProbeState) : (s.modPrb f).raised = s.raised := rfl
@[simp] theorem Blk.modRcp_conf (s : Blk) (f : RecState → RecState) : (s.modRcp f).conf = s.conf := rfl
@[simp] theorem Blk.modRcp_role (s : Blk) (f : RecState → RecState) : (s.modRcp f).role = s.role := rfl
@[simp] theorem Blk.modRcp_inst (s : Blk) (f : RecState → RecState) : (s.modRcp f).inst = s.inst := rfl
@[simp] theorem Blk.modRcp_inReset (s : Blk) (f : RecState → RecState) : (s.modRcp f).inReset = s.inReset := rfl
@[simp] theorem Blk.modRcp_tclk (s : Blk) (f : RecState → RecState) : (s.modRcp f).tclk = s.tclk := rfl
@[simp] theorem Blk.modRcp_draws (s : Blk) (f : RecState → RecState) : (s.modRcp f).draws = s.draws := rfl
@[simp] theorem Blk.modRcp_regs (s : Blk) (f : RecState → RecState) : (s.modRcp f).regs = s.regs := rfl
@[simp] theorem Blk.modRcp_rwb (s : Blk) (f : RecState → RecState) : (s.modRcp f).rwb = s.rwb := rfl
@[simp] theorem Blk.modRcp_regPoi (s : Blk) (f : RecState → RecState) : (s.modRcp f).regPoi = s.regPoi := rfl
@[simp] theorem Blk.modRcp_cp (s : Blk) (f : RecState → RecState) : (s.modRcp f).cp = s.cp := rfl
@[simp] theorem Blk.modRcp_time (s : Blk) (f : RecState → RecState) : (s.modRcp f).time = s.time := rfl
@[simp] theorem Blk.modRcp_trk (s : Blk) (f : RecState → RecState) : (s.modRcp f).trk = s.trk := rfl
@[simp] theorem Blk.modRcp_prb (s : Blk) (f : RecState → RecState) : (s.modRcp f).prb = s.prb := rfl
@[simp] theorem Blk.modRcp_rcp (s : Blk) (f : RecState → RecState) : (s.modRcp f).rcp = f s.rcp := rfl
@[simp] theorem Blk.modRcp_trace (s : Blk) (f : RecState → RecState) : (s.modRcp f).trace = s.trace := rfl
@[simp] theorem Blk.modRcp_qsc (s : Blk) (f : RecState → RecState) : (s.modRcp f).qsc = s.qsc := rfl
@[simp] theorem Blk.modRcp_ctxs (s : Blk) (f : RecState → RecState) : (s.modRcp f).ctxs = s.ctxs := rfl
@[simp] theorem Blk.modRcp_red (s : Blk) (f : RecState → RecState) : (s.modRcp f).red = s.red := rfl
@[simp] theorem Blk.modRcp_sk (s : Blk) (f : RecState → RecState) : (s.modRcp f).sk = s.sk := rfl
@[simp] theorem Blk.modRcp_tre (s : Blk) (f : RecState → RecState) : (s.modRcp f).tre = s.tre := rfl
@[simp] theorem Blk.modRcp_ful (s : Blk) (f : RecState → RecState) : (s.modRcp f).ful = s.ful := rfl
@[simp] theorem Blk.modRcp_hlt (s : Blk) (f : RecState → RecState) : (s.modRcp f).hlt = s.hlt := rfl
@[simp] theorem Blk.modRcp_fwc (s : Blk) (f : RecState → RecState) : (s.modRcp f).fwc = s.fwc := rfl
@[simp] theorem Blk.modRcp_pwr (s : Blk) (f : RecState → RecState) : (s.modRcp f).pwr = s.pwr := rfl
@[simp] theorem Blk.modRcp_lic (s : Blk) (f : RecState → RecState) : (s.modRcp f).lic = s.lic := rfl
@[simp] theorem Blk.modRcp_boot (s : Blk) (f : RecState → RecState) : (s.modRcp f).boot = s.boot := rfl
@[simp] theorem Blk.modRcp_colls (s : Blk) (f : RecState → RecState) : (s.modRcp f).colls = s.colls := rfl
@[simp] theorem Blk.modRcp_port (s : Blk) (f : RecState → RecState) : (s.modRcp f).port = s.port := rfl
@[simp] theorem Blk.modRcp_mem (s : Blk) (f : RecState → RecState) : (s.modRcp f).mem = s.mem := rfl
@[simp] theorem Blk.modRcp_ceHot (s : Blk) (f : RecState → RecState) : (s.modRcp f).ceHot = s.ceHot := rfl
@[simp] theorem Blk.modRcp_scrubAt (s : Blk) (f : RecState → RecState) : (s.modRcp f).scrubAt = s.scrubAt := rfl
@[simp] theorem Blk.modRcp_stopped (s : Blk) (f : RecState → RecState) : (s.modRcp f).stopped = s.stopped := rfl
@[simp] theorem Blk.modRcp_raised (s : Blk) (f : RecState → RecState) : (s.modRcp f).raised = s.raised := rfl
@[simp] theorem Blk.modTrace_conf (s : Blk) (f : TraceState → TraceState) : (s.modTrace f).conf = s.conf := rfl
@[simp] theorem Blk.modTrace_role (s : Blk) (f : TraceState → TraceState) : (s.modTrace f).role = s.role := rfl
@[simp] theorem Blk.modTrace_inst (s : Blk) (f : TraceState → TraceState) : (s.modTrace f).inst = s.inst := rfl
@[simp] theorem Blk.modTrace_inReset (s : Blk) (f : TraceState → TraceState) : (s.modTrace f).inReset = s.inReset := rfl
@[simp] theorem Blk.modTrace_tclk (s : Blk) (f : TraceState → TraceState) : (s.modTrace f).tclk = s.tclk := rfl
@[simp] theorem Blk.modTrace_draws (s : Blk) (f : TraceState → TraceState) : (s.modTrace f).draws = s.draws := rfl
@[simp] theorem Blk.modTrace_regs (s : Blk) (f : TraceState → TraceState) : (s.modTrace f).regs = s.regs := rfl
@[simp] theorem Blk.modTrace_rwb (s : Blk) (f : TraceState → TraceState) : (s.modTrace f).rwb = s.rwb := rfl
@[simp] theorem Blk.modTrace_regPoi (s : Blk) (f : TraceState → TraceState) : (s.modTrace f).regPoi = s.regPoi := rfl
@[simp] theorem Blk.modTrace_cp (s : Blk) (f : TraceState → TraceState) : (s.modTrace f).cp = s.cp := rfl
@[simp] theorem Blk.modTrace_time (s : Blk) (f : TraceState → TraceState) : (s.modTrace f).time = s.time := rfl
@[simp] theorem Blk.modTrace_trk (s : Blk) (f : TraceState → TraceState) : (s.modTrace f).trk = s.trk := rfl
@[simp] theorem Blk.modTrace_prb (s : Blk) (f : TraceState → TraceState) : (s.modTrace f).prb = s.prb := rfl
@[simp] theorem Blk.modTrace_rcp (s : Blk) (f : TraceState → TraceState) : (s.modTrace f).rcp = s.rcp := rfl
@[simp] theorem Blk.modTrace_trace (s : Blk) (f : TraceState → TraceState) : (s.modTrace f).trace = f s.trace := rfl
@[simp] theorem Blk.modTrace_qsc (s : Blk) (f : TraceState → TraceState) : (s.modTrace f).qsc = s.qsc := rfl
@[simp] theorem Blk.modTrace_ctxs (s : Blk) (f : TraceState → TraceState) : (s.modTrace f).ctxs = s.ctxs := rfl
@[simp] theorem Blk.modTrace_red (s : Blk) (f : TraceState → TraceState) : (s.modTrace f).red = s.red := rfl
@[simp] theorem Blk.modTrace_sk (s : Blk) (f : TraceState → TraceState) : (s.modTrace f).sk = s.sk := rfl
@[simp] theorem Blk.modTrace_tre (s : Blk) (f : TraceState → TraceState) : (s.modTrace f).tre = s.tre := rfl
@[simp] theorem Blk.modTrace_ful (s : Blk) (f : TraceState → TraceState) : (s.modTrace f).ful = s.ful := rfl
@[simp] theorem Blk.modTrace_hlt (s : Blk) (f : TraceState → TraceState) : (s.modTrace f).hlt = s.hlt := rfl
@[simp] theorem Blk.modTrace_fwc (s : Blk) (f : TraceState → TraceState) : (s.modTrace f).fwc = s.fwc := rfl
@[simp] theorem Blk.modTrace_pwr (s : Blk) (f : TraceState → TraceState) : (s.modTrace f).pwr = s.pwr := rfl
@[simp] theorem Blk.modTrace_lic (s : Blk) (f : TraceState → TraceState) : (s.modTrace f).lic = s.lic := rfl
@[simp] theorem Blk.modTrace_boot (s : Blk) (f : TraceState → TraceState) : (s.modTrace f).boot = s.boot := rfl
@[simp] theorem Blk.modTrace_colls (s : Blk) (f : TraceState → TraceState) : (s.modTrace f).colls = s.colls := rfl
@[simp] theorem Blk.modTrace_port (s : Blk) (f : TraceState → TraceState) : (s.modTrace f).port = s.port := rfl
@[simp] theorem Blk.modTrace_mem (s : Blk) (f : TraceState → TraceState) : (s.modTrace f).mem = s.mem := rfl
@[simp] theorem Blk.modTrace_ceHot (s : Blk) (f : TraceState → TraceState) : (s.modTrace f).ceHot = s.ceHot := rfl
@[simp] theorem Blk.modTrace_scrubAt (s : Blk) (f : TraceState → TraceState) : (s.modTrace f).scrubAt = s.scrubAt := rfl
@[simp] theorem Blk.modTrace_stopped (s : Blk) (f : TraceState → TraceState) : (s.modTrace f).stopped = s.stopped := rfl
@[simp] theorem Blk.modTrace_raised (s : Blk) (f : TraceState → TraceState) : (s.modTrace f).raised = s.raised := rfl
@[simp] theorem Blk.modQsc_conf (s : Blk) (f : QscState → QscState) : (s.modQsc f).conf = s.conf := rfl
@[simp] theorem Blk.modQsc_role (s : Blk) (f : QscState → QscState) : (s.modQsc f).role = s.role := rfl
@[simp] theorem Blk.modQsc_inst (s : Blk) (f : QscState → QscState) : (s.modQsc f).inst = s.inst := rfl
@[simp] theorem Blk.modQsc_inReset (s : Blk) (f : QscState → QscState) : (s.modQsc f).inReset = s.inReset := rfl
@[simp] theorem Blk.modQsc_tclk (s : Blk) (f : QscState → QscState) : (s.modQsc f).tclk = s.tclk := rfl
@[simp] theorem Blk.modQsc_draws (s : Blk) (f : QscState → QscState) : (s.modQsc f).draws = s.draws := rfl
@[simp] theorem Blk.modQsc_regs (s : Blk) (f : QscState → QscState) : (s.modQsc f).regs = s.regs := rfl
@[simp] theorem Blk.modQsc_rwb (s : Blk) (f : QscState → QscState) : (s.modQsc f).rwb = s.rwb := rfl
@[simp] theorem Blk.modQsc_regPoi (s : Blk) (f : QscState → QscState) : (s.modQsc f).regPoi = s.regPoi := rfl
@[simp] theorem Blk.modQsc_cp (s : Blk) (f : QscState → QscState) : (s.modQsc f).cp = s.cp := rfl
@[simp] theorem Blk.modQsc_time (s : Blk) (f : QscState → QscState) : (s.modQsc f).time = s.time := rfl
@[simp] theorem Blk.modQsc_trk (s : Blk) (f : QscState → QscState) : (s.modQsc f).trk = s.trk := rfl
@[simp] theorem Blk.modQsc_prb (s : Blk) (f : QscState → QscState) : (s.modQsc f).prb = s.prb := rfl
@[simp] theorem Blk.modQsc_rcp (s : Blk) (f : QscState → QscState) : (s.modQsc f).rcp = s.rcp := rfl
@[simp] theorem Blk.modQsc_trace (s : Blk) (f : QscState → QscState) : (s.modQsc f).trace = s.trace := rfl
@[simp] theorem Blk.modQsc_qsc (s : Blk) (f : QscState → QscState) : (s.modQsc f).qsc = f s.qsc := rfl
@[simp] theorem Blk.modQsc_ctxs (s : Blk) (f : QscState → QscState) : (s.modQsc f).ctxs = s.ctxs := rfl
@[simp] theorem Blk.modQsc_red (s : Blk) (f : QscState → QscState) : (s.modQsc f).red = s.red := rfl
@[simp] theorem Blk.modQsc_sk (s : Blk) (f : QscState → QscState) : (s.modQsc f).sk = s.sk := rfl
@[simp] theorem Blk.modQsc_tre (s : Blk) (f : QscState → QscState) : (s.modQsc f).tre = s.tre := rfl
@[simp] theorem Blk.modQsc_ful (s : Blk) (f : QscState → QscState) : (s.modQsc f).ful = s.ful := rfl
@[simp] theorem Blk.modQsc_hlt (s : Blk) (f : QscState → QscState) : (s.modQsc f).hlt = s.hlt := rfl
@[simp] theorem Blk.modQsc_fwc (s : Blk) (f : QscState → QscState) : (s.modQsc f).fwc = s.fwc := rfl
@[simp] theorem Blk.modQsc_pwr (s : Blk) (f : QscState → QscState) : (s.modQsc f).pwr = s.pwr := rfl
@[simp] theorem Blk.modQsc_lic (s : Blk) (f : QscState → QscState) : (s.modQsc f).lic = s.lic := rfl
@[simp] theorem Blk.modQsc_boot (s : Blk) (f : QscState → QscState) : (s.modQsc f).boot = s.boot := rfl
@[simp] theorem Blk.modQsc_colls (s : Blk) (f : QscState → QscState) : (s.modQsc f).colls = s.colls := rfl
@[simp] theorem Blk.modQsc_port (s : Blk) (f : QscState → QscState) : (s.modQsc f).port = s.port := rfl
@[simp] theorem Blk.modQsc_mem (s : Blk) (f : QscState → QscState) : (s.modQsc f).mem = s.mem := rfl
@[simp] theorem Blk.modQsc_ceHot (s : Blk) (f : QscState → QscState) : (s.modQsc f).ceHot = s.ceHot := rfl
@[simp] theorem Blk.modQsc_scrubAt (s : Blk) (f : QscState → QscState) : (s.modQsc f).scrubAt = s.scrubAt := rfl
@[simp] theorem Blk.modQsc_stopped (s : Blk) (f : QscState → QscState) : (s.modQsc f).stopped = s.stopped := rfl
@[simp] theorem Blk.modQsc_raised (s : Blk) (f : QscState → QscState) : (s.modQsc f).raised = s.raised := rfl
@[simp] theorem Blk.modCtxs_conf (s : Blk) (f : Store Ctx → Store Ctx) : (s.modCtxs f).conf = s.conf := rfl
@[simp] theorem Blk.modCtxs_role (s : Blk) (f : Store Ctx → Store Ctx) : (s.modCtxs f).role = s.role := rfl
@[simp] theorem Blk.modCtxs_inst (s : Blk) (f : Store Ctx → Store Ctx) : (s.modCtxs f).inst = s.inst := rfl
@[simp] theorem Blk.modCtxs_inReset (s : Blk) (f : Store Ctx → Store Ctx) : (s.modCtxs f).inReset = s.inReset := rfl
@[simp] theorem Blk.modCtxs_tclk (s : Blk) (f : Store Ctx → Store Ctx) : (s.modCtxs f).tclk = s.tclk := rfl
@[simp] theorem Blk.modCtxs_draws (s : Blk) (f : Store Ctx → Store Ctx) : (s.modCtxs f).draws = s.draws := rfl
@[simp] theorem Blk.modCtxs_regs (s : Blk) (f : Store Ctx → Store Ctx) : (s.modCtxs f).regs = s.regs := rfl
@[simp] theorem Blk.modCtxs_rwb (s : Blk) (f : Store Ctx → Store Ctx) : (s.modCtxs f).rwb = s.rwb := rfl
@[simp] theorem Blk.modCtxs_regPoi (s : Blk) (f : Store Ctx → Store Ctx) : (s.modCtxs f).regPoi = s.regPoi := rfl
@[simp] theorem Blk.modCtxs_cp (s : Blk) (f : Store Ctx → Store Ctx) : (s.modCtxs f).cp = s.cp := rfl
@[simp] theorem Blk.modCtxs_time (s : Blk) (f : Store Ctx → Store Ctx) : (s.modCtxs f).time = s.time := rfl
@[simp] theorem Blk.modCtxs_trk (s : Blk) (f : Store Ctx → Store Ctx) : (s.modCtxs f).trk = s.trk := rfl
@[simp] theorem Blk.modCtxs_prb (s : Blk) (f : Store Ctx → Store Ctx) : (s.modCtxs f).prb = s.prb := rfl
@[simp] theorem Blk.modCtxs_rcp (s : Blk) (f : Store Ctx → Store Ctx) : (s.modCtxs f).rcp = s.rcp := rfl
@[simp] theorem Blk.modCtxs_trace (s : Blk) (f : Store Ctx → Store Ctx) : (s.modCtxs f).trace = s.trace := rfl
@[simp] theorem Blk.modCtxs_qsc (s : Blk) (f : Store Ctx → Store Ctx) : (s.modCtxs f).qsc = s.qsc := rfl
@[simp] theorem Blk.modCtxs_ctxs (s : Blk) (f : Store Ctx → Store Ctx) : (s.modCtxs f).ctxs = f s.ctxs := rfl
@[simp] theorem Blk.modCtxs_red (s : Blk) (f : Store Ctx → Store Ctx) : (s.modCtxs f).red = s.red := rfl
@[simp] theorem Blk.modCtxs_sk (s : Blk) (f : Store Ctx → Store Ctx) : (s.modCtxs f).sk = s.sk := rfl
@[simp] theorem Blk.modCtxs_tre (s : Blk) (f : Store Ctx → Store Ctx) : (s.modCtxs f).tre = s.tre := rfl
@[simp] theorem Blk.modCtxs_ful (s : Blk) (f : Store Ctx → Store Ctx) : (s.modCtxs f).ful = s.ful := rfl
@[simp] theorem Blk.modCtxs_hlt (s : Blk) (f : Store Ctx → Store Ctx) : (s.modCtxs f).hlt = s.hlt := rfl
@[simp] theorem Blk.modCtxs_fwc (s : Blk) (f : Store Ctx → Store Ctx) : (s.modCtxs f).fwc = s.fwc := rfl
@[simp] theorem Blk.modCtxs_pwr (s : Blk) (f : Store Ctx → Store Ctx) : (s.modCtxs f).pwr = s.pwr := rfl
@[simp] theorem Blk.modCtxs_lic (s : Blk) (f : Store Ctx → Store Ctx) : (s.modCtxs f).lic = s.lic := rfl
@[simp] theorem Blk.modCtxs_boot (s : Blk) (f : Store Ctx → Store Ctx) : (s.modCtxs f).boot = s.boot := rfl
@[simp] theorem Blk.modCtxs_colls (s : Blk) (f : Store Ctx → Store Ctx) : (s.modCtxs f).colls = s.colls := rfl
@[simp] theorem Blk.modCtxs_port (s : Blk) (f : Store Ctx → Store Ctx) : (s.modCtxs f).port = s.port := rfl
@[simp] theorem Blk.modCtxs_mem (s : Blk) (f : Store Ctx → Store Ctx) : (s.modCtxs f).mem = s.mem := rfl
@[simp] theorem Blk.modCtxs_ceHot (s : Blk) (f : Store Ctx → Store Ctx) : (s.modCtxs f).ceHot = s.ceHot := rfl
@[simp] theorem Blk.modCtxs_scrubAt (s : Blk) (f : Store Ctx → Store Ctx) : (s.modCtxs f).scrubAt = s.scrubAt := rfl
@[simp] theorem Blk.modCtxs_stopped (s : Blk) (f : Store Ctx → Store Ctx) : (s.modCtxs f).stopped = s.stopped := rfl
@[simp] theorem Blk.modCtxs_raised (s : Blk) (f : Store Ctx → Store Ctx) : (s.modCtxs f).raised = s.raised := rfl
@[simp] theorem Blk.modRed_conf (s : Blk) (f : RedState → RedState) : (s.modRed f).conf = s.conf := rfl
@[simp] theorem Blk.modRed_role (s : Blk) (f : RedState → RedState) : (s.modRed f).role = s.role := rfl
@[simp] theorem Blk.modRed_inst (s : Blk) (f : RedState → RedState) : (s.modRed f).inst = s.inst := rfl
@[simp] theorem Blk.modRed_inReset (s : Blk) (f : RedState → RedState) : (s.modRed f).inReset = s.inReset := rfl
@[simp] theorem Blk.modRed_tclk (s : Blk) (f : RedState → RedState) : (s.modRed f).tclk = s.tclk := rfl
@[simp] theorem Blk.modRed_draws (s : Blk) (f : RedState → RedState) : (s.modRed f).draws = s.draws := rfl
@[simp] theorem Blk.modRed_regs (s : Blk) (f : RedState → RedState) : (s.modRed f).regs = s.regs := rfl
@[simp] theorem Blk.modRed_rwb (s : Blk) (f : RedState → RedState) : (s.modRed f).rwb = s.rwb := rfl
@[simp] theorem Blk.modRed_regPoi (s : Blk) (f : RedState → RedState) : (s.modRed f).regPoi = s.regPoi := rfl
@[simp] theorem Blk.modRed_cp (s : Blk) (f : RedState → RedState) : (s.modRed f).cp = s.cp := rfl
@[simp] theorem Blk.modRed_time (s : Blk) (f : RedState → RedState) : (s.modRed f).time = s.time := rfl
@[simp] theorem Blk.modRed_trk (s : Blk) (f : RedState → RedState) : (s.modRed f).trk = s.trk := rfl
@[simp] theorem Blk.modRed_prb (s : Blk) (f : RedState → RedState) : (s.modRed f).prb = s.prb := rfl
@[simp] theorem Blk.modRed_rcp (s : Blk) (f : RedState → RedState) : (s.modRed f).rcp = s.rcp := rfl
@[simp] theorem Blk.modRed_trace (s : Blk) (f : RedState → RedState) : (s.modRed f).trace = s.trace := rfl
@[simp] theorem Blk.modRed_qsc (s : Blk) (f : RedState → RedState) : (s.modRed f).qsc = s.qsc := rfl
@[simp] theorem Blk.modRed_ctxs (s : Blk) (f : RedState → RedState) : (s.modRed f).ctxs = s.ctxs := rfl
@[simp] theorem Blk.modRed_red (s : Blk) (f : RedState → RedState) : (s.modRed f).red = f s.red := rfl
@[simp] theorem Blk.modRed_sk (s : Blk) (f : RedState → RedState) : (s.modRed f).sk = s.sk := rfl
@[simp] theorem Blk.modRed_tre (s : Blk) (f : RedState → RedState) : (s.modRed f).tre = s.tre := rfl
@[simp] theorem Blk.modRed_ful (s : Blk) (f : RedState → RedState) : (s.modRed f).ful = s.ful := rfl
@[simp] theorem Blk.modRed_hlt (s : Blk) (f : RedState → RedState) : (s.modRed f).hlt = s.hlt := rfl
@[simp] theorem Blk.modRed_fwc (s : Blk) (f : RedState → RedState) : (s.modRed f).fwc = s.fwc := rfl
@[simp] theorem Blk.modRed_pwr (s : Blk) (f : RedState → RedState) : (s.modRed f).pwr = s.pwr := rfl
@[simp] theorem Blk.modRed_lic (s : Blk) (f : RedState → RedState) : (s.modRed f).lic = s.lic := rfl
@[simp] theorem Blk.modRed_boot (s : Blk) (f : RedState → RedState) : (s.modRed f).boot = s.boot := rfl
@[simp] theorem Blk.modRed_colls (s : Blk) (f : RedState → RedState) : (s.modRed f).colls = s.colls := rfl
@[simp] theorem Blk.modRed_port (s : Blk) (f : RedState → RedState) : (s.modRed f).port = s.port := rfl
@[simp] theorem Blk.modRed_mem (s : Blk) (f : RedState → RedState) : (s.modRed f).mem = s.mem := rfl
@[simp] theorem Blk.modRed_ceHot (s : Blk) (f : RedState → RedState) : (s.modRed f).ceHot = s.ceHot := rfl
@[simp] theorem Blk.modRed_scrubAt (s : Blk) (f : RedState → RedState) : (s.modRed f).scrubAt = s.scrubAt := rfl
@[simp] theorem Blk.modRed_stopped (s : Blk) (f : RedState → RedState) : (s.modRed f).stopped = s.stopped := rfl
@[simp] theorem Blk.modRed_raised (s : Blk) (f : RedState → RedState) : (s.modRed f).raised = s.raised := rfl
@[simp] theorem Blk.modSk_conf (s : Blk) (f : SkState → SkState) : (s.modSk f).conf = s.conf := rfl
@[simp] theorem Blk.modSk_role (s : Blk) (f : SkState → SkState) : (s.modSk f).role = s.role := rfl
@[simp] theorem Blk.modSk_inst (s : Blk) (f : SkState → SkState) : (s.modSk f).inst = s.inst := rfl
@[simp] theorem Blk.modSk_inReset (s : Blk) (f : SkState → SkState) : (s.modSk f).inReset = s.inReset := rfl
@[simp] theorem Blk.modSk_tclk (s : Blk) (f : SkState → SkState) : (s.modSk f).tclk = s.tclk := rfl
@[simp] theorem Blk.modSk_draws (s : Blk) (f : SkState → SkState) : (s.modSk f).draws = s.draws := rfl
@[simp] theorem Blk.modSk_regs (s : Blk) (f : SkState → SkState) : (s.modSk f).regs = s.regs := rfl
@[simp] theorem Blk.modSk_rwb (s : Blk) (f : SkState → SkState) : (s.modSk f).rwb = s.rwb := rfl
@[simp] theorem Blk.modSk_regPoi (s : Blk) (f : SkState → SkState) : (s.modSk f).regPoi = s.regPoi := rfl
@[simp] theorem Blk.modSk_cp (s : Blk) (f : SkState → SkState) : (s.modSk f).cp = s.cp := rfl
@[simp] theorem Blk.modSk_time (s : Blk) (f : SkState → SkState) : (s.modSk f).time = s.time := rfl
@[simp] theorem Blk.modSk_trk (s : Blk) (f : SkState → SkState) : (s.modSk f).trk = s.trk := rfl
@[simp] theorem Blk.modSk_prb (s : Blk) (f : SkState → SkState) : (s.modSk f).prb = s.prb := rfl
@[simp] theorem Blk.modSk_rcp (s : Blk) (f : SkState → SkState) : (s.modSk f).rcp = s.rcp := rfl
@[simp] theorem Blk.modSk_trace (s : Blk) (f : SkState → SkState) : (s.modSk f).trace = s.trace := rfl
@[simp] theorem Blk.modSk_qsc (s : Blk) (f : SkState → SkState) : (s.modSk f).qsc = s.qsc := rfl
@[simp] theorem Blk.modSk_ctxs (s : Blk) (f : SkState → SkState) : (s.modSk f).ctxs = s.ctxs := rfl
@[simp] theorem Blk.modSk_red (s : Blk) (f : SkState → SkState) : (s.modSk f).red = s.red := rfl
@[simp] theorem Blk.modSk_sk (s : Blk) (f : SkState → SkState) : (s.modSk f).sk = f s.sk := rfl
@[simp] theorem Blk.modSk_tre (s : Blk) (f : SkState → SkState) : (s.modSk f).tre = s.tre := rfl
@[simp] theorem Blk.modSk_ful (s : Blk) (f : SkState → SkState) : (s.modSk f).ful = s.ful := rfl
@[simp] theorem Blk.modSk_hlt (s : Blk) (f : SkState → SkState) : (s.modSk f).hlt = s.hlt := rfl
@[simp] theorem Blk.modSk_fwc (s : Blk) (f : SkState → SkState) : (s.modSk f).fwc = s.fwc := rfl
@[simp] theorem Blk.modSk_pwr (s : Blk) (f : SkState → SkState) : (s.modSk f).pwr = s.pwr := rfl
@[simp] theorem Blk.modSk_lic (s : Blk) (f : SkState → SkState) : (s.modSk f).lic = s.lic := rfl
@[simp] theorem Blk.modSk_boot (s : Blk) (f : SkState → SkState) : (s.modSk f).boot = s.boot := rfl
@[simp] theorem Blk.modSk_colls (s : Blk) (f : SkState → SkState) : (s.modSk f).colls = s.colls := rfl
@[simp] theorem Blk.modSk_port (s : Blk) (f : SkState → SkState) : (s.modSk f).port = s.port := rfl
@[simp] theorem Blk.modSk_mem (s : Blk) (f : SkState → SkState) : (s.modSk f).mem = s.mem := rfl
@[simp] theorem Blk.modSk_ceHot (s : Blk) (f : SkState → SkState) : (s.modSk f).ceHot = s.ceHot := rfl
@[simp] theorem Blk.modSk_scrubAt (s : Blk) (f : SkState → SkState) : (s.modSk f).scrubAt = s.scrubAt := rfl
@[simp] theorem Blk.modSk_stopped (s : Blk) (f : SkState → SkState) : (s.modSk f).stopped = s.stopped := rfl
@[simp] theorem Blk.modSk_raised (s : Blk) (f : SkState → SkState) : (s.modSk f).raised = s.raised := rfl
@[simp] theorem Blk.modTre_conf (s : Blk) (f : TreState → TreState) : (s.modTre f).conf = s.conf := rfl
@[simp] theorem Blk.modTre_role (s : Blk) (f : TreState → TreState) : (s.modTre f).role = s.role := rfl
@[simp] theorem Blk.modTre_inst (s : Blk) (f : TreState → TreState) : (s.modTre f).inst = s.inst := rfl
@[simp] theorem Blk.modTre_inReset (s : Blk) (f : TreState → TreState) : (s.modTre f).inReset = s.inReset := rfl
@[simp] theorem Blk.modTre_tclk (s : Blk) (f : TreState → TreState) : (s.modTre f).tclk = s.tclk := rfl
@[simp] theorem Blk.modTre_draws (s : Blk) (f : TreState → TreState) : (s.modTre f).draws = s.draws := rfl
@[simp] theorem Blk.modTre_regs (s : Blk) (f : TreState → TreState) : (s.modTre f).regs = s.regs := rfl
@[simp] theorem Blk.modTre_rwb (s : Blk) (f : TreState → TreState) : (s.modTre f).rwb = s.rwb := rfl
@[simp] theorem Blk.modTre_regPoi (s : Blk) (f : TreState → TreState) : (s.modTre f).regPoi = s.regPoi := rfl
@[simp] theorem Blk.modTre_cp (s : Blk) (f : TreState → TreState) : (s.modTre f).cp = s.cp := rfl
@[simp] theorem Blk.modTre_time (s : Blk) (f : TreState → TreState) : (s.modTre f).time = s.time := rfl
@[simp] theorem Blk.modTre_trk (s : Blk) (f : TreState → TreState) : (s.modTre f).trk = s.trk := rfl
@[simp] theorem Blk.modTre_prb (s : Blk) (f : TreState → TreState) : (s.modTre f).prb = s.prb := rfl
@[simp] theorem Blk.modTre_rcp (s : Blk) (f : TreState → TreState) : (s.modTre f).rcp = s.rcp := rfl
@[simp] theorem Blk.modTre_trace (s : Blk) (f : TreState → TreState) : (s.modTre f).trace = s.trace := rfl
@[simp] theorem Blk.modTre_qsc (s : Blk) (f : TreState → TreState) : (s.modTre f).qsc = s.qsc := rfl
@[simp] theorem Blk.modTre_ctxs (s : Blk) (f : TreState → TreState) : (s.modTre f).ctxs = s.ctxs := rfl
@[simp] theorem Blk.modTre_red (s : Blk) (f : TreState → TreState) : (s.modTre f).red = s.red := rfl
@[simp] theorem Blk.modTre_sk (s : Blk) (f : TreState → TreState) : (s.modTre f).sk = s.sk := rfl
@[simp] theorem Blk.modTre_tre (s : Blk) (f : TreState → TreState) : (s.modTre f).tre = f s.tre := rfl
@[simp] theorem Blk.modTre_ful (s : Blk) (f : TreState → TreState) : (s.modTre f).ful = s.ful := rfl
@[simp] theorem Blk.modTre_hlt (s : Blk) (f : TreState → TreState) : (s.modTre f).hlt = s.hlt := rfl
@[simp] theorem Blk.modTre_fwc (s : Blk) (f : TreState → TreState) : (s.modTre f).fwc = s.fwc := rfl
@[simp] theorem Blk.modTre_pwr (s : Blk) (f : TreState → TreState) : (s.modTre f).pwr = s.pwr := rfl
@[simp] theorem Blk.modTre_lic (s : Blk) (f : TreState → TreState) : (s.modTre f).lic = s.lic := rfl
@[simp] theorem Blk.modTre_boot (s : Blk) (f : TreState → TreState) : (s.modTre f).boot = s.boot := rfl
@[simp] theorem Blk.modTre_colls (s : Blk) (f : TreState → TreState) : (s.modTre f).colls = s.colls := rfl
@[simp] theorem Blk.modTre_port (s : Blk) (f : TreState → TreState) : (s.modTre f).port = s.port := rfl
@[simp] theorem Blk.modTre_mem (s : Blk) (f : TreState → TreState) : (s.modTre f).mem = s.mem := rfl
@[simp] theorem Blk.modTre_ceHot (s : Blk) (f : TreState → TreState) : (s.modTre f).ceHot = s.ceHot := rfl
@[simp] theorem Blk.modTre_scrubAt (s : Blk) (f : TreState → TreState) : (s.modTre f).scrubAt = s.scrubAt := rfl
@[simp] theorem Blk.modTre_stopped (s : Blk) (f : TreState → TreState) : (s.modTre f).stopped = s.stopped := rfl
@[simp] theorem Blk.modTre_raised (s : Blk) (f : TreState → TreState) : (s.modTre f).raised = s.raised := rfl
@[simp] theorem Blk.modFul_conf (s : Blk) (f : FulState → FulState) : (s.modFul f).conf = s.conf := rfl
@[simp] theorem Blk.modFul_role (s : Blk) (f : FulState → FulState) : (s.modFul f).role = s.role := rfl
@[simp] theorem Blk.modFul_inst (s : Blk) (f : FulState → FulState) : (s.modFul f).inst = s.inst := rfl
@[simp] theorem Blk.modFul_inReset (s : Blk) (f : FulState → FulState) : (s.modFul f).inReset = s.inReset := rfl
@[simp] theorem Blk.modFul_tclk (s : Blk) (f : FulState → FulState) : (s.modFul f).tclk = s.tclk := rfl
@[simp] theorem Blk.modFul_draws (s : Blk) (f : FulState → FulState) : (s.modFul f).draws = s.draws := rfl
@[simp] theorem Blk.modFul_regs (s : Blk) (f : FulState → FulState) : (s.modFul f).regs = s.regs := rfl
@[simp] theorem Blk.modFul_rwb (s : Blk) (f : FulState → FulState) : (s.modFul f).rwb = s.rwb := rfl
@[simp] theorem Blk.modFul_regPoi (s : Blk) (f : FulState → FulState) : (s.modFul f).regPoi = s.regPoi := rfl
@[simp] theorem Blk.modFul_cp (s : Blk) (f : FulState → FulState) : (s.modFul f).cp = s.cp := rfl
@[simp] theorem Blk.modFul_time (s : Blk) (f : FulState → FulState) : (s.modFul f).time = s.time := rfl
@[simp] theorem Blk.modFul_trk (s : Blk) (f : FulState → FulState) : (s.modFul f).trk = s.trk := rfl
@[simp] theorem Blk.modFul_prb (s : Blk) (f : FulState → FulState) : (s.modFul f).prb = s.prb := rfl
@[simp] theorem Blk.modFul_rcp (s : Blk) (f : FulState → FulState) : (s.modFul f).rcp = s.rcp := rfl
@[simp] theorem Blk.modFul_trace (s : Blk) (f : FulState → FulState) : (s.modFul f).trace = s.trace := rfl
@[simp] theorem Blk.modFul_qsc (s : Blk) (f : FulState → FulState) : (s.modFul f).qsc = s.qsc := rfl
@[simp] theorem Blk.modFul_ctxs (s : Blk) (f : FulState → FulState) : (s.modFul f).ctxs = s.ctxs := rfl
@[simp] theorem Blk.modFul_red (s : Blk) (f : FulState → FulState) : (s.modFul f).red = s.red := rfl
@[simp] theorem Blk.modFul_sk (s : Blk) (f : FulState → FulState) : (s.modFul f).sk = s.sk := rfl
@[simp] theorem Blk.modFul_tre (s : Blk) (f : FulState → FulState) : (s.modFul f).tre = s.tre := rfl
@[simp] theorem Blk.modFul_ful (s : Blk) (f : FulState → FulState) : (s.modFul f).ful = f s.ful := rfl
@[simp] theorem Blk.modFul_hlt (s : Blk) (f : FulState → FulState) : (s.modFul f).hlt = s.hlt := rfl
@[simp] theorem Blk.modFul_fwc (s : Blk) (f : FulState → FulState) : (s.modFul f).fwc = s.fwc := rfl
@[simp] theorem Blk.modFul_pwr (s : Blk) (f : FulState → FulState) : (s.modFul f).pwr = s.pwr := rfl
@[simp] theorem Blk.modFul_lic (s : Blk) (f : FulState → FulState) : (s.modFul f).lic = s.lic := rfl
@[simp] theorem Blk.modFul_boot (s : Blk) (f : FulState → FulState) : (s.modFul f).boot = s.boot := rfl
@[simp] theorem Blk.modFul_colls (s : Blk) (f : FulState → FulState) : (s.modFul f).colls = s.colls := rfl
@[simp] theorem Blk.modFul_port (s : Blk) (f : FulState → FulState) : (s.modFul f).port = s.port := rfl
@[simp] theorem Blk.modFul_mem (s : Blk) (f : FulState → FulState) : (s.modFul f).mem = s.mem := rfl
@[simp] theorem Blk.modFul_ceHot (s : Blk) (f : FulState → FulState) : (s.modFul f).ceHot = s.ceHot := rfl
@[simp] theorem Blk.modFul_scrubAt (s : Blk) (f : FulState → FulState) : (s.modFul f).scrubAt = s.scrubAt := rfl
@[simp] theorem Blk.modFul_stopped (s : Blk) (f : FulState → FulState) : (s.modFul f).stopped = s.stopped := rfl
@[simp] theorem Blk.modFul_raised (s : Blk) (f : FulState → FulState) : (s.modFul f).raised = s.raised := rfl
@[simp] theorem Blk.modHlt_conf (s : Blk) (f : HltState → HltState) : (s.modHlt f).conf = s.conf := rfl
@[simp] theorem Blk.modHlt_role (s : Blk) (f : HltState → HltState) : (s.modHlt f).role = s.role := rfl
@[simp] theorem Blk.modHlt_inst (s : Blk) (f : HltState → HltState) : (s.modHlt f).inst = s.inst := rfl
@[simp] theorem Blk.modHlt_inReset (s : Blk) (f : HltState → HltState) : (s.modHlt f).inReset = s.inReset := rfl
@[simp] theorem Blk.modHlt_tclk (s : Blk) (f : HltState → HltState) : (s.modHlt f).tclk = s.tclk := rfl
@[simp] theorem Blk.modHlt_draws (s : Blk) (f : HltState → HltState) : (s.modHlt f).draws = s.draws := rfl
@[simp] theorem Blk.modHlt_regs (s : Blk) (f : HltState → HltState) : (s.modHlt f).regs = s.regs := rfl
@[simp] theorem Blk.modHlt_rwb (s : Blk) (f : HltState → HltState) : (s.modHlt f).rwb = s.rwb := rfl
@[simp] theorem Blk.modHlt_regPoi (s : Blk) (f : HltState → HltState) : (s.modHlt f).regPoi = s.regPoi := rfl
@[simp] theorem Blk.modHlt_cp (s : Blk) (f : HltState → HltState) : (s.modHlt f).cp = s.cp := rfl
@[simp] theorem Blk.modHlt_time (s : Blk) (f : HltState → HltState) : (s.modHlt f).time = s.time := rfl
@[simp] theorem Blk.modHlt_trk (s : Blk) (f : HltState → HltState) : (s.modHlt f).trk = s.trk := rfl
@[simp] theorem Blk.modHlt_prb (s : Blk) (f : HltState → HltState) : (s.modHlt f).prb = s.prb := rfl
@[simp] theorem Blk.modHlt_rcp (s : Blk) (f : HltState → HltState) : (s.modHlt f).rcp = s.rcp := rfl
@[simp] theorem Blk.modHlt_trace (s : Blk) (f : HltState → HltState) : (s.modHlt f).trace = s.trace := rfl
@[simp] theorem Blk.modHlt_qsc (s : Blk) (f : HltState → HltState) : (s.modHlt f).qsc = s.qsc := rfl
@[simp] theorem Blk.modHlt_ctxs (s : Blk) (f : HltState → HltState) : (s.modHlt f).ctxs = s.ctxs := rfl
@[simp] theorem Blk.modHlt_red (s : Blk) (f : HltState → HltState) : (s.modHlt f).red = s.red := rfl
@[simp] theorem Blk.modHlt_sk (s : Blk) (f : HltState → HltState) : (s.modHlt f).sk = s.sk := rfl
@[simp] theorem Blk.modHlt_tre (s : Blk) (f : HltState → HltState) : (s.modHlt f).tre = s.tre := rfl
@[simp] theorem Blk.modHlt_ful (s : Blk) (f : HltState → HltState) : (s.modHlt f).ful = s.ful := rfl
@[simp] theorem Blk.modHlt_hlt (s : Blk) (f : HltState → HltState) : (s.modHlt f).hlt = f s.hlt := rfl
@[simp] theorem Blk.modHlt_fwc (s : Blk) (f : HltState → HltState) : (s.modHlt f).fwc = s.fwc := rfl
@[simp] theorem Blk.modHlt_pwr (s : Blk) (f : HltState → HltState) : (s.modHlt f).pwr = s.pwr := rfl
@[simp] theorem Blk.modHlt_lic (s : Blk) (f : HltState → HltState) : (s.modHlt f).lic = s.lic := rfl
@[simp] theorem Blk.modHlt_boot (s : Blk) (f : HltState → HltState) : (s.modHlt f).boot = s.boot := rfl
@[simp] theorem Blk.modHlt_colls (s : Blk) (f : HltState → HltState) : (s.modHlt f).colls = s.colls := rfl
@[simp] theorem Blk.modHlt_port (s : Blk) (f : HltState → HltState) : (s.modHlt f).port = s.port := rfl
@[simp] theorem Blk.modHlt_mem (s : Blk) (f : HltState → HltState) : (s.modHlt f).mem = s.mem := rfl
@[simp] theorem Blk.modHlt_ceHot (s : Blk) (f : HltState → HltState) : (s.modHlt f).ceHot = s.ceHot := rfl
@[simp] theorem Blk.modHlt_scrubAt (s : Blk) (f : HltState → HltState) : (s.modHlt f).scrubAt = s.scrubAt := rfl
@[simp] theorem Blk.modHlt_stopped (s : Blk) (f : HltState → HltState) : (s.modHlt f).stopped = s.stopped := rfl
@[simp] theorem Blk.modHlt_raised (s : Blk) (f : HltState → HltState) : (s.modHlt f).raised = s.raised := rfl
@[simp] theorem Blk.modFwc_conf (s : Blk) (f : FwcState → FwcState) : (s.modFwc f).conf = s.conf := rfl
@[simp] theorem Blk.modFwc_role (s : Blk) (f : FwcState → FwcState) : (s.modFwc f).role = s.role := rfl
@[simp] theorem Blk.modFwc_inst (s : Blk) (f : FwcState → FwcState) : (s.modFwc f).inst = s.inst := rfl
@[simp] theorem Blk.modFwc_inReset (s : Blk) (f : FwcState → FwcState) : (s.modFwc f).inReset = s.inReset := rfl
@[simp] theorem Blk.modFwc_tclk (s : Blk) (f : FwcState → FwcState) : (s.modFwc f).tclk = s.tclk := rfl
@[simp] theorem Blk.modFwc_draws (s : Blk) (f : FwcState → FwcState) : (s.modFwc f).draws = s.draws := rfl
@[simp] theorem Blk.modFwc_regs (s : Blk) (f : FwcState → FwcState) : (s.modFwc f).regs = s.regs := rfl
@[simp] theorem Blk.modFwc_rwb (s : Blk) (f : FwcState → FwcState) : (s.modFwc f).rwb = s.rwb := rfl
@[simp] theorem Blk.modFwc_regPoi (s : Blk) (f : FwcState → FwcState) : (s.modFwc f).regPoi = s.regPoi := rfl
@[simp] theorem Blk.modFwc_cp (s : Blk) (f : FwcState → FwcState) : (s.modFwc f).cp = s.cp := rfl
@[simp] theorem Blk.modFwc_time (s : Blk) (f : FwcState → FwcState) : (s.modFwc f).time = s.time := rfl
@[simp] theorem Blk.modFwc_trk (s : Blk) (f : FwcState → FwcState) : (s.modFwc f).trk = s.trk := rfl
@[simp] theorem Blk.modFwc_prb (s : Blk) (f : FwcState → FwcState) : (s.modFwc f).prb = s.prb := rfl
@[simp] theorem Blk.modFwc_rcp (s : Blk) (f : FwcState → FwcState) : (s.modFwc f).rcp = s.rcp := rfl
@[simp] theorem Blk.modFwc_trace (s : Blk) (f : FwcState → FwcState) : (s.modFwc f).trace = s.trace := rfl
@[simp] theorem Blk.modFwc_qsc (s : Blk) (f : FwcState → FwcState) : (s.modFwc f).qsc = s.qsc := rfl
@[simp] theorem Blk.modFwc_ctxs (s : Blk) (f : FwcState → FwcState) : (s.modFwc f).ctxs = s.ctxs := rfl
@[simp] theorem Blk.modFwc_red (s : Blk) (f : FwcState → FwcState) : (s.modFwc f).red = s.red := rfl
@[simp] theorem Blk.modFwc_sk (s : Blk) (f : FwcState → FwcState) : (s.modFwc f).sk = s.sk := rfl
@[simp] theorem Blk.modFwc_tre (s : Blk) (f : FwcState → FwcState) : (s.modFwc f).tre = s.tre := rfl
@[simp] theorem Blk.modFwc_ful (s : Blk) (f : FwcState → FwcState) : (s.modFwc f).ful = s.ful := rfl
@[simp] theorem Blk.modFwc_hlt (s : Blk) (f : FwcState → FwcState) : (s.modFwc f).hlt = s.hlt := rfl
@[simp] theorem Blk.modFwc_fwc (s : Blk) (f : FwcState → FwcState) : (s.modFwc f).fwc = f s.fwc := rfl
@[simp] theorem Blk.modFwc_pwr (s : Blk) (f : FwcState → FwcState) : (s.modFwc f).pwr = s.pwr := rfl
@[simp] theorem Blk.modFwc_lic (s : Blk) (f : FwcState → FwcState) : (s.modFwc f).lic = s.lic := rfl
@[simp] theorem Blk.modFwc_boot (s : Blk) (f : FwcState → FwcState) : (s.modFwc f).boot = s.boot := rfl
@[simp] theorem Blk.modFwc_colls (s : Blk) (f : FwcState → FwcState) : (s.modFwc f).colls = s.colls := rfl
@[simp] theorem Blk.modFwc_port (s : Blk) (f : FwcState → FwcState) : (s.modFwc f).port = s.port := rfl
@[simp] theorem Blk.modFwc_mem (s : Blk) (f : FwcState → FwcState) : (s.modFwc f).mem = s.mem := rfl
@[simp] theorem Blk.modFwc_ceHot (s : Blk) (f : FwcState → FwcState) : (s.modFwc f).ceHot = s.ceHot := rfl
@[simp] theorem Blk.modFwc_scrubAt (s : Blk) (f : FwcState → FwcState) : (s.modFwc f).scrubAt = s.scrubAt := rfl
@[simp] theorem Blk.modFwc_stopped (s : Blk) (f : FwcState → FwcState) : (s.modFwc f).stopped = s.stopped := rfl
@[simp] theorem Blk.modFwc_raised (s : Blk) (f : FwcState → FwcState) : (s.modFwc f).raised = s.raised := rfl
@[simp] theorem Blk.modPwr_conf (s : Blk) (f : PwrState → PwrState) : (s.modPwr f).conf = s.conf := rfl
@[simp] theorem Blk.modPwr_role (s : Blk) (f : PwrState → PwrState) : (s.modPwr f).role = s.role := rfl
@[simp] theorem Blk.modPwr_inst (s : Blk) (f : PwrState → PwrState) : (s.modPwr f).inst = s.inst := rfl
@[simp] theorem Blk.modPwr_inReset (s : Blk) (f : PwrState → PwrState) : (s.modPwr f).inReset = s.inReset := rfl
@[simp] theorem Blk.modPwr_tclk (s : Blk) (f : PwrState → PwrState) : (s.modPwr f).tclk = s.tclk := rfl
@[simp] theorem Blk.modPwr_draws (s : Blk) (f : PwrState → PwrState) : (s.modPwr f).draws = s.draws := rfl
@[simp] theorem Blk.modPwr_regs (s : Blk) (f : PwrState → PwrState) : (s.modPwr f).regs = s.regs := rfl
@[simp] theorem Blk.modPwr_rwb (s : Blk) (f : PwrState → PwrState) : (s.modPwr f).rwb = s.rwb := rfl
@[simp] theorem Blk.modPwr_regPoi (s : Blk) (f : PwrState → PwrState) : (s.modPwr f).regPoi = s.regPoi := rfl
@[simp] theorem Blk.modPwr_cp (s : Blk) (f : PwrState → PwrState) : (s.modPwr f).cp = s.cp := rfl
@[simp] theorem Blk.modPwr_time (s : Blk) (f : PwrState → PwrState) : (s.modPwr f).time = s.time := rfl
@[simp] theorem Blk.modPwr_trk (s : Blk) (f : PwrState → PwrState) : (s.modPwr f).trk = s.trk := rfl
@[simp] theorem Blk.modPwr_prb (s : Blk) (f : PwrState → PwrState) : (s.modPwr f).prb = s.prb := rfl
@[simp] theorem Blk.modPwr_rcp (s : Blk) (f : PwrState → PwrState) : (s.modPwr f).rcp = s.rcp := rfl
@[simp] theorem Blk.modPwr_trace (s : Blk) (f : PwrState → PwrState) : (s.modPwr f).trace = s.trace := rfl
@[simp] theorem Blk.modPwr_qsc (s : Blk) (f : PwrState → PwrState) : (s.modPwr f).qsc = s.qsc := rfl
@[simp] theorem Blk.modPwr_ctxs (s : Blk) (f : PwrState → PwrState) : (s.modPwr f).ctxs = s.ctxs := rfl
@[simp] theorem Blk.modPwr_red (s : Blk) (f : PwrState → PwrState) : (s.modPwr f).red = s.red := rfl
@[simp] theorem Blk.modPwr_sk (s : Blk) (f : PwrState → PwrState) : (s.modPwr f).sk = s.sk := rfl
@[simp] theorem Blk.modPwr_tre (s : Blk) (f : PwrState → PwrState) : (s.modPwr f).tre = s.tre := rfl
@[simp] theorem Blk.modPwr_ful (s : Blk) (f : PwrState → PwrState) : (s.modPwr f).ful = s.ful := rfl
@[simp] theorem Blk.modPwr_hlt (s : Blk) (f : PwrState → PwrState) : (s.modPwr f).hlt = s.hlt := rfl
@[simp] theorem Blk.modPwr_fwc (s : Blk) (f : PwrState → PwrState) : (s.modPwr f).fwc = s.fwc := rfl
@[simp] theorem Blk.modPwr_pwr (s : Blk) (f : PwrState → PwrState) : (s.modPwr f).pwr = f s.pwr := rfl
@[simp] theorem Blk.modPwr_lic (s : Blk) (f : PwrState → PwrState) : (s.modPwr f).lic = s.lic := rfl
@[simp] theorem Blk.modPwr_boot (s : Blk) (f : PwrState → PwrState) : (s.modPwr f).boot = s.boot := rfl
@[simp] theorem Blk.modPwr_colls (s : Blk) (f : PwrState → PwrState) : (s.modPwr f).colls = s.colls := rfl
@[simp] theorem Blk.modPwr_port (s : Blk) (f : PwrState → PwrState) : (s.modPwr f).port = s.port := rfl
@[simp] theorem Blk.modPwr_mem (s : Blk) (f : PwrState → PwrState) : (s.modPwr f).mem = s.mem := rfl
@[simp] theorem Blk.modPwr_ceHot (s : Blk) (f : PwrState → PwrState) : (s.modPwr f).ceHot = s.ceHot := rfl
@[simp] theorem Blk.modPwr_scrubAt (s : Blk) (f : PwrState → PwrState) : (s.modPwr f).scrubAt = s.scrubAt := rfl
@[simp] theorem Blk.modPwr_stopped (s : Blk) (f : PwrState → PwrState) : (s.modPwr f).stopped = s.stopped := rfl
@[simp] theorem Blk.modPwr_raised (s : Blk) (f : PwrState → PwrState) : (s.modPwr f).raised = s.raised := rfl
@[simp] theorem Blk.modLic_conf (s : Blk) (f : LicState → LicState) : (s.modLic f).conf = s.conf := rfl
@[simp] theorem Blk.modLic_role (s : Blk) (f : LicState → LicState) : (s.modLic f).role = s.role := rfl
@[simp] theorem Blk.modLic_inst (s : Blk) (f : LicState → LicState) : (s.modLic f).inst = s.inst := rfl
@[simp] theorem Blk.modLic_inReset (s : Blk) (f : LicState → LicState) : (s.modLic f).inReset = s.inReset := rfl
@[simp] theorem Blk.modLic_tclk (s : Blk) (f : LicState → LicState) : (s.modLic f).tclk = s.tclk := rfl
@[simp] theorem Blk.modLic_draws (s : Blk) (f : LicState → LicState) : (s.modLic f).draws = s.draws := rfl
@[simp] theorem Blk.modLic_regs (s : Blk) (f : LicState → LicState) : (s.modLic f).regs = s.regs := rfl
@[simp] theorem Blk.modLic_rwb (s : Blk) (f : LicState → LicState) : (s.modLic f).rwb = s.rwb := rfl
@[simp] theorem Blk.modLic_regPoi (s : Blk) (f : LicState → LicState) : (s.modLic f).regPoi = s.regPoi := rfl
@[simp] theorem Blk.modLic_cp (s : Blk) (f : LicState → LicState) : (s.modLic f).cp = s.cp := rfl
@[simp] theorem Blk.modLic_time (s : Blk) (f : LicState → LicState) : (s.modLic f).time = s.time := rfl
@[simp] theorem Blk.modLic_trk (s : Blk) (f : LicState → LicState) : (s.modLic f).trk = s.trk := rfl
@[simp] theorem Blk.modLic_prb (s : Blk) (f : LicState → LicState) : (s.modLic f).prb = s.prb := rfl
@[simp] theorem Blk.modLic_rcp (s : Blk) (f : LicState → LicState) : (s.modLic f).rcp = s.rcp := rfl
@[simp] theorem Blk.modLic_trace (s : Blk) (f : LicState → LicState) : (s.modLic f).trace = s.trace := rfl
@[simp] theorem Blk.modLic_qsc (s : Blk) (f : LicState → LicState) : (s.modLic f).qsc = s.qsc := rfl
@[simp] theorem Blk.modLic_ctxs (s : Blk) (f : LicState → LicState) : (s.modLic f).ctxs = s.ctxs := rfl
@[simp] theorem Blk.modLic_red (s : Blk) (f : LicState → LicState) : (s.modLic f).red = s.red := rfl
@[simp] theorem Blk.modLic_sk (s : Blk) (f : LicState → LicState) : (s.modLic f).sk = s.sk := rfl
@[simp] theorem Blk.modLic_tre (s : Blk) (f : LicState → LicState) : (s.modLic f).tre = s.tre := rfl
@[simp] theorem Blk.modLic_ful (s : Blk) (f : LicState → LicState) : (s.modLic f).ful = s.ful := rfl
@[simp] theorem Blk.modLic_hlt (s : Blk) (f : LicState → LicState) : (s.modLic f).hlt = s.hlt := rfl
@[simp] theorem Blk.modLic_fwc (s : Blk) (f : LicState → LicState) : (s.modLic f).fwc = s.fwc := rfl
@[simp] theorem Blk.modLic_pwr (s : Blk) (f : LicState → LicState) : (s.modLic f).pwr = s.pwr := rfl
@[simp] theorem Blk.modLic_lic (s : Blk) (f : LicState → LicState) : (s.modLic f).lic = f s.lic := rfl
@[simp] theorem Blk.modLic_boot (s : Blk) (f : LicState → LicState) : (s.modLic f).boot = s.boot := rfl
@[simp] theorem Blk.modLic_colls (s : Blk) (f : LicState → LicState) : (s.modLic f).colls = s.colls := rfl
@[simp] theorem Blk.modLic_port (s : Blk) (f : LicState → LicState) : (s.modLic f).port = s.port := rfl
@[simp] theorem Blk.modLic_mem (s : Blk) (f : LicState → LicState) : (s.modLic f).mem = s.mem := rfl
@[simp] theorem Blk.modLic_ceHot (s : Blk) (f : LicState → LicState) : (s.modLic f).ceHot = s.ceHot := rfl
@[simp] theorem Blk.modLic_scrubAt (s : Blk) (f : LicState → LicState) : (s.modLic f).scrubAt = s.scrubAt := rfl
@[simp] theorem Blk.modLic_stopped (s : Blk) (f : LicState → LicState) : (s.modLic f).stopped = s.stopped := rfl
@[simp] theorem Blk.modLic_raised (s : Blk) (f : LicState → LicState) : (s.modLic f).raised = s.raised := rfl
@[simp] theorem Blk.modBoot_conf (s : Blk) (f : BootState → BootState) : (s.modBoot f).conf = s.conf := rfl
@[simp] theorem Blk.modBoot_role (s : Blk) (f : BootState → BootState) : (s.modBoot f).role = s.role := rfl
@[simp] theorem Blk.modBoot_inst (s : Blk) (f : BootState → BootState) : (s.modBoot f).inst = s.inst := rfl
@[simp] theorem Blk.modBoot_inReset (s : Blk) (f : BootState → BootState) : (s.modBoot f).inReset = s.inReset := rfl
@[simp] theorem Blk.modBoot_tclk (s : Blk) (f : BootState → BootState) : (s.modBoot f).tclk = s.tclk := rfl
@[simp] theorem Blk.modBoot_draws (s : Blk) (f : BootState → BootState) : (s.modBoot f).draws = s.draws := rfl
@[simp] theorem Blk.modBoot_regs (s : Blk) (f : BootState → BootState) : (s.modBoot f).regs = s.regs := rfl
@[simp] theorem Blk.modBoot_rwb (s : Blk) (f : BootState → BootState) : (s.modBoot f).rwb = s.rwb := rfl
@[simp] theorem Blk.modBoot_regPoi (s : Blk) (f : BootState → BootState) : (s.modBoot f).regPoi = s.regPoi := rfl
@[simp] theorem Blk.modBoot_cp (s : Blk) (f : BootState → BootState) : (s.modBoot f).cp = s.cp := rfl
@[simp] theorem Blk.modBoot_time (s : Blk) (f : BootState → BootState) : (s.modBoot f).time = s.time := rfl
@[simp] theorem Blk.modBoot_trk (s : Blk) (f : BootState → BootState) : (s.modBoot f).trk = s.trk := rfl
@[simp] theorem Blk.modBoot_prb (s : Blk) (f : BootState → BootState) : (s.modBoot f).prb = s.prb := rfl
@[simp] theorem Blk.modBoot_rcp (s : Blk) (f : BootState → BootState) : (s.modBoot f).rcp = s.rcp := rfl
@[simp] theorem Blk.modBoot_trace (s : Blk) (f : BootState → BootState) : (s.modBoot f).trace = s.trace := rfl
@[simp] theorem Blk.modBoot_qsc (s : Blk) (f : BootState → BootState) : (s.modBoot f).qsc = s.qsc := rfl
@[simp] theorem Blk.modBoot_ctxs (s : Blk) (f : BootState → BootState) : (s.modBoot f).ctxs = s.ctxs := rfl
@[simp] theorem Blk.modBoot_red (s : Blk) (f : BootState → BootState) : (s.modBoot f).red = s.red := rfl
@[simp] theorem Blk.modBoot_sk (s : Blk) (f : BootState → BootState) : (s.modBoot f).sk = s.sk := rfl
@[simp] theorem Blk.modBoot_tre (s : Blk) (f : BootState → BootState) : (s.modBoot f).tre = s.tre := rfl
@[simp] theorem Blk.modBoot_ful (s : Blk) (f : BootState → BootState) : (s.modBoot f).ful = s.ful := rfl
@[simp] theorem Blk.modBoot_hlt (s : Blk) (f : BootState → BootState) : (s.modBoot f).hlt = s.hlt := rfl
@[simp] theorem Blk.modBoot_fwc (s : Blk) (f : BootState → BootState) : (s.modBoot f).fwc = s.fwc := rfl
@[simp] theorem Blk.modBoot_pwr (s : Blk) (f : BootState → BootState) : (s.modBoot f).pwr = s.pwr := rfl
@[simp] theorem Blk.modBoot_lic (s : Blk) (f : BootState → BootState) : (s.modBoot f).lic = s.lic := rfl
@[simp] theorem Blk.modBoot_boot (s : Blk) (f : BootState → BootState) : (s.modBoot f).boot = f s.boot := rfl
@[simp] theorem Blk.modBoot_colls (s : Blk) (f : BootState → BootState) : (s.modBoot f).colls = s.colls := rfl
@[simp] theorem Blk.modBoot_port (s : Blk) (f : BootState → BootState) : (s.modBoot f).port = s.port := rfl
@[simp] theorem Blk.modBoot_mem (s : Blk) (f : BootState → BootState) : (s.modBoot f).mem = s.mem := rfl
@[simp] theorem Blk.modBoot_ceHot (s : Blk) (f : BootState → BootState) : (s.modBoot f).ceHot = s.ceHot := rfl
@[simp] theorem Blk.modBoot_scrubAt (s : Blk) (f : BootState → BootState) : (s.modBoot f).scrubAt = s.scrubAt := rfl
@[simp] theorem Blk.modBoot_stopped (s : Blk) (f : BootState → BootState) : (s.modBoot f).stopped = s.stopped := rfl
@[simp] theorem Blk.modBoot_raised (s : Blk) (f : BootState → BootState) : (s.modBoot f).raised = s.raised := rfl
@[simp] theorem Blk.modColls_conf (s : Blk) (f : Store Coll → Store Coll) : (s.modColls f).conf = s.conf := rfl
@[simp] theorem Blk.modColls_role (s : Blk) (f : Store Coll → Store Coll) : (s.modColls f).role = s.role := rfl
@[simp] theorem Blk.modColls_inst (s : Blk) (f : Store Coll → Store Coll) : (s.modColls f).inst = s.inst := rfl
@[simp] theorem Blk.modColls_inReset (s : Blk) (f : Store Coll → Store Coll) : (s.modColls f).inReset = s.inReset := rfl
@[simp] theorem Blk.modColls_tclk (s : Blk) (f : Store Coll → Store Coll) : (s.modColls f).tclk = s.tclk := rfl
@[simp] theorem Blk.modColls_draws (s : Blk) (f : Store Coll → Store Coll) : (s.modColls f).draws = s.draws := rfl
@[simp] theorem Blk.modColls_regs (s : Blk) (f : Store Coll → Store Coll) : (s.modColls f).regs = s.regs := rfl
@[simp] theorem Blk.modColls_rwb (s : Blk) (f : Store Coll → Store Coll) : (s.modColls f).rwb = s.rwb := rfl
@[simp] theorem Blk.modColls_regPoi (s : Blk) (f : Store Coll → Store Coll) : (s.modColls f).regPoi = s.regPoi := rfl
@[simp] theorem Blk.modColls_cp (s : Blk) (f : Store Coll → Store Coll) : (s.modColls f).cp = s.cp := rfl
@[simp] theorem Blk.modColls_time (s : Blk) (f : Store Coll → Store Coll) : (s.modColls f).time = s.time := rfl
@[simp] theorem Blk.modColls_trk (s : Blk) (f : Store Coll → Store Coll) : (s.modColls f).trk = s.trk := rfl
@[simp] theorem Blk.modColls_prb (s : Blk) (f : Store Coll → Store Coll) : (s.modColls f).prb = s.prb := rfl
@[simp] theorem Blk.modColls_rcp (s : Blk) (f : Store Coll → Store Coll) : (s.modColls f).rcp = s.rcp := rfl
@[simp] theorem Blk.modColls_trace (s : Blk) (f : Store Coll → Store Coll) : (s.modColls f).trace = s.trace := rfl
@[simp] theorem Blk.modColls_qsc (s : Blk) (f : Store Coll → Store Coll) : (s.modColls f).qsc = s.qsc := rfl
@[simp] theorem Blk.modColls_ctxs (s : Blk) (f : Store Coll → Store Coll) : (s.modColls f).ctxs = s.ctxs := rfl
@[simp] theorem Blk.modColls_red (s : Blk) (f : Store Coll → Store Coll) : (s.modColls f).red = s.red := rfl
@[simp] theorem Blk.modColls_sk (s : Blk) (f : Store Coll → Store Coll) : (s.modColls f).sk = s.sk := rfl
@[simp] theorem Blk.modColls_tre (s : Blk) (f : Store Coll → Store Coll) : (s.modColls f).tre = s.tre := rfl
@[simp] theorem Blk.modColls_ful (s : Blk) (f : Store Coll → Store Coll) : (s.modColls f).ful = s.ful := rfl
@[simp] theorem Blk.modColls_hlt (s : Blk) (f : Store Coll → Store Coll) : (s.modColls f).hlt = s.hlt := rfl
@[simp] theorem Blk.modColls_fwc (s : Blk) (f : Store Coll → Store Coll) : (s.modColls f).fwc = s.fwc := rfl
@[simp] theorem Blk.modColls_pwr (s : Blk) (f : Store Coll → Store Coll) : (s.modColls f).pwr = s.pwr := rfl
@[simp] theorem Blk.modColls_lic (s : Blk) (f : Store Coll → Store Coll) : (s.modColls f).lic = s.lic := rfl
@[simp] theorem Blk.modColls_boot (s : Blk) (f : Store Coll → Store Coll) : (s.modColls f).boot = s.boot := rfl
@[simp] theorem Blk.modColls_colls (s : Blk) (f : Store Coll → Store Coll) : (s.modColls f).colls = f s.colls := rfl
@[simp] theorem Blk.modColls_port (s : Blk) (f : Store Coll → Store Coll) : (s.modColls f).port = s.port := rfl
@[simp] theorem Blk.modColls_mem (s : Blk) (f : Store Coll → Store Coll) : (s.modColls f).mem = s.mem := rfl
@[simp] theorem Blk.modColls_ceHot (s : Blk) (f : Store Coll → Store Coll) : (s.modColls f).ceHot = s.ceHot := rfl
@[simp] theorem Blk.modColls_scrubAt (s : Blk) (f : Store Coll → Store Coll) : (s.modColls f).scrubAt = s.scrubAt := rfl
@[simp] theorem Blk.modColls_stopped (s : Blk) (f : Store Coll → Store Coll) : (s.modColls f).stopped = s.stopped := rfl
@[simp] theorem Blk.modColls_raised (s : Blk) (f : Store Coll → Store Coll) : (s.modColls f).raised = s.raised := rfl
@[simp] theorem Blk.modPort_conf (s : Blk) (f : PortState → PortState) : (s.modPort f).conf = s.conf := rfl
@[simp] theorem Blk.modPort_role (s : Blk) (f : PortState → PortState) : (s.modPort f).role = s.role := rfl
@[simp] theorem Blk.modPort_inst (s : Blk) (f : PortState → PortState) : (s.modPort f).inst = s.inst := rfl
@[simp] theorem Blk.modPort_inReset (s : Blk) (f : PortState → PortState) : (s.modPort f).inReset = s.inReset := rfl
@[simp] theorem Blk.modPort_tclk (s : Blk) (f : PortState → PortState) : (s.modPort f).tclk = s.tclk := rfl
@[simp] theorem Blk.modPort_draws (s : Blk) (f : PortState → PortState) : (s.modPort f).draws = s.draws := rfl
@[simp] theorem Blk.modPort_regs (s : Blk) (f : PortState → PortState) : (s.modPort f).regs = s.regs := rfl
@[simp] theorem Blk.modPort_rwb (s : Blk) (f : PortState → PortState) : (s.modPort f).rwb = s.rwb := rfl
@[simp] theorem Blk.modPort_regPoi (s : Blk) (f : PortState → PortState) : (s.modPort f).regPoi = s.regPoi := rfl
@[simp] theorem Blk.modPort_cp (s : Blk) (f : PortState → PortState) : (s.modPort f).cp = s.cp := rfl
@[simp] theorem Blk.modPort_time (s : Blk) (f : PortState → PortState) : (s.modPort f).time = s.time := rfl
@[simp] theorem Blk.modPort_trk (s : Blk) (f : PortState → PortState) : (s.modPort f).trk = s.trk := rfl
@[simp] theorem Blk.modPort_prb (s : Blk) (f : PortState → PortState) : (s.modPort f).prb = s.prb := rfl
@[simp] theorem Blk.modPort_rcp (s : Blk) (f : PortState → PortState) : (s.modPort f).rcp = s.rcp := rfl
@[simp] theorem Blk.modPort_trace (s : Blk) (f : PortState → PortState) : (s.modPort f).trace = s.trace := rfl
@[simp] theorem Blk.modPort_qsc (s : Blk) (f : PortState → PortState) : (s.modPort f).qsc = s.qsc := rfl
@[simp] theorem Blk.modPort_ctxs (s : Blk) (f : PortState → PortState) : (s.modPort f).ctxs = s.ctxs := rfl
@[simp] theorem Blk.modPort_red (s : Blk) (f : PortState → PortState) : (s.modPort f).red = s.red := rfl
@[simp] theorem Blk.modPort_sk (s : Blk) (f : PortState → PortState) : (s.modPort f).sk = s.sk := rfl
@[simp] theorem Blk.modPort_tre (s : Blk) (f : PortState → PortState) : (s.modPort f).tre = s.tre := rfl
@[simp] theorem Blk.modPort_ful (s : Blk) (f : PortState → PortState) : (s.modPort f).ful = s.ful := rfl
@[simp] theorem Blk.modPort_hlt (s : Blk) (f : PortState → PortState) : (s.modPort f).hlt = s.hlt := rfl
@[simp] theorem Blk.modPort_fwc (s : Blk) (f : PortState → PortState) : (s.modPort f).fwc = s.fwc := rfl
@[simp] theorem Blk.modPort_pwr (s : Blk) (f : PortState → PortState) : (s.modPort f).pwr = s.pwr := rfl
@[simp] theorem Blk.modPort_lic (s : Blk) (f : PortState → PortState) : (s.modPort f).lic = s.lic := rfl
@[simp] theorem Blk.modPort_boot (s : Blk) (f : PortState → PortState) : (s.modPort f).boot = s.boot := rfl
@[simp] theorem Blk.modPort_colls (s : Blk) (f : PortState → PortState) : (s.modPort f).colls = s.colls := rfl
@[simp] theorem Blk.modPort_port (s : Blk) (f : PortState → PortState) : (s.modPort f).port = f s.port := rfl
@[simp] theorem Blk.modPort_mem (s : Blk) (f : PortState → PortState) : (s.modPort f).mem = s.mem := rfl
@[simp] theorem Blk.modPort_ceHot (s : Blk) (f : PortState → PortState) : (s.modPort f).ceHot = s.ceHot := rfl
@[simp] theorem Blk.modPort_scrubAt (s : Blk) (f : PortState → PortState) : (s.modPort f).scrubAt = s.scrubAt := rfl
@[simp] theorem Blk.modPort_stopped (s : Blk) (f : PortState → PortState) : (s.modPort f).stopped = s.stopped := rfl
@[simp] theorem Blk.modPort_raised (s : Blk) (f : PortState → PortState) : (s.modPort f).raised = s.raised := rfl
@[simp] theorem Blk.modMem_conf (s : Blk) (f : MemState → MemState) : (s.modMem f).conf = s.conf := rfl
@[simp] theorem Blk.modMem_role (s : Blk) (f : MemState → MemState) : (s.modMem f).role = s.role := rfl
@[simp] theorem Blk.modMem_inst (s : Blk) (f : MemState → MemState) : (s.modMem f).inst = s.inst := rfl
@[simp] theorem Blk.modMem_inReset (s : Blk) (f : MemState → MemState) : (s.modMem f).inReset = s.inReset := rfl
@[simp] theorem Blk.modMem_tclk (s : Blk) (f : MemState → MemState) : (s.modMem f).tclk = s.tclk := rfl
@[simp] theorem Blk.modMem_draws (s : Blk) (f : MemState → MemState) : (s.modMem f).draws = s.draws := rfl
@[simp] theorem Blk.modMem_regs (s : Blk) (f : MemState → MemState) : (s.modMem f).regs = s.regs := rfl
@[simp] theorem Blk.modMem_rwb (s : Blk) (f : MemState → MemState) : (s.modMem f).rwb = s.rwb := rfl
@[simp] theorem Blk.modMem_regPoi (s : Blk) (f : MemState → MemState) : (s.modMem f).regPoi = s.regPoi := rfl
@[simp] theorem Blk.modMem_cp (s : Blk) (f : MemState → MemState) : (s.modMem f).cp = s.cp := rfl
@[simp] theorem Blk.modMem_time (s : Blk) (f : MemState → MemState) : (s.modMem f).time = s.time := rfl
@[simp] theorem Blk.modMem_trk (s : Blk) (f : MemState → MemState) : (s.modMem f).trk = s.trk := rfl
@[simp] theorem Blk.modMem_prb (s : Blk) (f : MemState → MemState) : (s.modMem f).prb = s.prb := rfl
@[simp] theorem Blk.modMem_rcp (s : Blk) (f : MemState → MemState) : (s.modMem f).rcp = s.rcp := rfl
@[simp] theorem Blk.modMem_trace (s : Blk) (f : MemState → MemState) : (s.modMem f).trace = s.trace := rfl
@[simp] theorem Blk.modMem_qsc (s : Blk) (f : MemState → MemState) : (s.modMem f).qsc = s.qsc := rfl
@[simp] theorem Blk.modMem_ctxs (s : Blk) (f : MemState → MemState) : (s.modMem f).ctxs = s.ctxs := rfl
@[simp] theorem Blk.modMem_red (s : Blk) (f : MemState → MemState) : (s.modMem f).red = s.red := rfl
@[simp] theorem Blk.modMem_sk (s : Blk) (f : MemState → MemState) : (s.modMem f).sk = s.sk := rfl
@[simp] theorem Blk.modMem_tre (s : Blk) (f : MemState → MemState) : (s.modMem f).tre = s.tre := rfl
@[simp] theorem Blk.modMem_ful (s : Blk) (f : MemState → MemState) : (s.modMem f).ful = s.ful := rfl
@[simp] theorem Blk.modMem_hlt (s : Blk) (f : MemState → MemState) : (s.modMem f).hlt = s.hlt := rfl
@[simp] theorem Blk.modMem_fwc (s : Blk) (f : MemState → MemState) : (s.modMem f).fwc = s.fwc := rfl
@[simp] theorem Blk.modMem_pwr (s : Blk) (f : MemState → MemState) : (s.modMem f).pwr = s.pwr := rfl
@[simp] theorem Blk.modMem_lic (s : Blk) (f : MemState → MemState) : (s.modMem f).lic = s.lic := rfl
@[simp] theorem Blk.modMem_boot (s : Blk) (f : MemState → MemState) : (s.modMem f).boot = s.boot := rfl
@[simp] theorem Blk.modMem_colls (s : Blk) (f : MemState → MemState) : (s.modMem f).colls = s.colls := rfl
@[simp] theorem Blk.modMem_port (s : Blk) (f : MemState → MemState) : (s.modMem f).port = s.port := rfl
@[simp] theorem Blk.modMem_mem (s : Blk) (f : MemState → MemState) : (s.modMem f).mem = f s.mem := rfl
@[simp] theorem Blk.modMem_ceHot (s : Blk) (f : MemState → MemState) : (s.modMem f).ceHot = s.ceHot := rfl
@[simp] theorem Blk.modMem_scrubAt (s : Blk) (f : MemState → MemState) : (s.modMem f).scrubAt = s.scrubAt := rfl
@[simp] theorem Blk.modMem_stopped (s : Blk) (f : MemState → MemState) : (s.modMem f).stopped = s.stopped := rfl
@[simp] theorem Blk.modMem_raised (s : Blk) (f : MemState → MemState) : (s.modMem f).raised = s.raised := rfl
@[simp] theorem State.modBlk_pending (s : State) (f : Blk → Blk) : (s.modBlk f).pending = s.pending := rfl
@[simp] theorem State.modBlk_blk (s : State) (f : Blk → Blk) : (s.modBlk f).blk = f s.blk := rfl
@[simp] theorem State.modBlk_evr (s : State) (f : Blk → Blk) : (s.modBlk f).evr = s.evr := rfl
@[simp] theorem State.modBlk_snap (s : State) (f : Blk → Blk) : (s.modBlk f).snap = s.snap := rfl
@[simp] theorem State.modEvr_pending (s : State) (f : EvrState → EvrState) : (s.modEvr f).pending = s.pending := rfl
@[simp] theorem State.modEvr_blk (s : State) (f : EvrState → EvrState) : (s.modEvr f).blk = s.blk := rfl
@[simp] theorem State.modEvr_evr (s : State) (f : EvrState → EvrState) : (s.modEvr f).evr = f s.evr := rfl
@[simp] theorem State.modEvr_snap (s : State) (f : EvrState → EvrState) : (s.modEvr f).snap = s.snap := rfl
@[simp] theorem State.modSnap_pending (s : State) (f : SnapState → SnapState) : (s.modSnap f).pending = s.pending := rfl
@[simp] theorem State.modSnap_blk (s : State) (f : SnapState → SnapState) : (s.modSnap f).blk = s.blk := rfl
@[simp] theorem State.modSnap_evr (s : State) (f : SnapState → SnapState) : (s.modSnap f).evr = s.evr := rfl
@[simp] theorem State.modSnap_snap (s : State) (f : SnapState → SnapState) : (s.modSnap f).snap = f s.snap := rfl

end Sys2Proof.Machine
end

