-- ==== Sys2Proof/Laws/Settle.lean ====
section
/-!
SUPPORT. What the end of a command does: the recorder and the snapshot network touch nothing of the units but the draws, XM (a flush
is written there) and poison marks, and they leave nothing raised.
-/

namespace Sys2Proof.Machine

/-- The units without what the recorder may change. -/
def Blk.units (b : Blk) : Blk :=
  { b with raised := [], draws := 0, regPoi := [], mem := { b.mem with xm := [], xmPoi := [] } }

/-- The recorder goes from `s` to `t`: the units (but for the parts named above), what is raised and the queue stay. -/
def Quiet (s t : State) : Prop := t.blk.units = s.blk.units ∧ t.blk.raised = s.blk.raised ∧ t.pending = s.pending

theorem Quiet.refl (s : State) : Quiet s s := ⟨rfl, rfl, rfl⟩

theorem Quiet.trans {s t u : State} (h : Quiet s t) (k : Quiet t u) : Quiet s u :=
  ⟨k.1.trans h.1, k.2.1.trans h.2.1, k.2.2.trans h.2.2⟩

theorem quiet_foldl {α : Type} (f : State → α → State) (h : ∀ s a, Quiet s (f s a)) (l : List α) (s : State) :
    Quiet s (l.foldl f s) := by
  induction l generalizing s with
  | nil => exact .refl s
  | cons a t ih => exact (h s a).trans (ih _)

theorem quiet_modEvr (s : State) (f : EvrState → EvrState) : Quiet s (s.modEvr f) := ⟨rfl, rfl, rfl⟩
theorem quiet_modSnap (s : State) (f : SnapState → SnapState) : Quiet s (s.modSnap f) := ⟨rfl, rfl, rfl⟩

theorem Blk.xmPoi_foldl (l : List Nat) (v : Bool) (c : Blk) :
    (l.foldl (fun s l => s.modMem (fun m => { m with xmPoi := Store.set false m.xmPoi l v })) c).units = c.units ∧
    (l.foldl (fun s l => s.modMem (fun m => { m with xmPoi := Store.set false m.xmPoi l v })) c).raised = c.raised := by
  induction l generalizing c with
  | nil => exact ⟨rfl, rfl⟩
  | cons x t ih => rw [List.foldl_cons]; exact ⟨(ih _).1, (ih _).2⟩

/-- A clean write to XM changes nothing but XM. -/
theorem Blk.units_xmWrite (b : Blk) (a : Nat) (bs : List Byte) :
    (b.xmWrite a bs false).units = b.units ∧ (b.xmWrite a bs false).raised = b.raised := by
  simp only [Blk.xmWrite, Bool.false_eq_true, if_false]
  exact ⟨(Blk.xmPoi_foldl _ _ _).1, (Blk.xmPoi_foldl _ _ _).2⟩

theorem quiet_xmWrite (s : State) (a : Nat) (bs : List Byte) : Quiet s (s.modBlk (fun b => b.xmWrite a bs false)) :=
  ⟨(Blk.units_xmWrite _ _ _).1, (Blk.units_xmWrite _ _ _).2, rfl⟩

theorem quiet_clearPoi (s : State) (a n : Nat) : Quiet s (s.modBlk (fun b => b.clearPoi a n)) := ⟨rfl, rfl, rfl⟩

theorem quiet_flushRecords (s : State) (f a n : Nat) : Quiet s (s.flushRecords f a n) :=
  quiet_foldl _ (fun s _ => quiet_xmWrite s _ _) _ _

theorem quiet_flushStart (s : State) (c : BitVec 4) (k : BitVec 16) (t : Dword) : Quiet s (s.flushStart c k t) := by
  unfold State.flushStart
  exact (quiet_flushRecords _ _ _ _).trans (quiet_modEvr _ _)

theorem quiet_flushTrigger (s : State) (c : BitVec 4) (k : BitVec 16) : Quiet s (s.flushTrigger c k) := by
  unfold State.flushTrigger
  split
  · exact .refl s
  · split
    · exact quiet_flushStart _ _ _ _
    · split
      · exact (quiet_flushRecords _ _ _ _).trans (quiet_modEvr _ _)
      · exact quiet_modEvr _ _

theorem quiet_latch (s : State) (src : Nat) (arg : Word) : Quiet s (s.latch src arg).2 := by
  unfold State.latch
  split
  · exact .refl s
  · split
    · exact quiet_modSnap _ _
    · exact ⟨rfl, rfl, rfl⟩

theorem quiet_recordEv (s : State) (i : Nat) (e : Ev) : Quiet s (s.recordEv i e) := by
  unfold State.recordEv
  exact (quiet_clearPoi _ _ _).trans (quiet_modEvr _ _)

theorem quiet_suppressEv (s : State) (i : Nat) : Quiet s (s.suppressEv i) := by
  unfold State.suppressEv
  exact quiet_modEvr _ _

theorem quiet_passEv (s : State) (e : Ev) : Quiet s (s.passEv e) := by
  unfold State.passEv
  split
  · exact quiet_modEvr _ _
  · dsimp only
    split
    · split
      · exact (quiet_recordEv _ _ _).trans (quiet_flushTrigger _ _ _)
      · exact quiet_recordEv _ _ _
    · exact quiet_suppressEv _ _

theorem quiet_flushAll (s : State) (l : List Raise) : Quiet s (s.flushAll l) := by
  induction l generalizing s with
  | nil => exact .refl s
  | cons r t ih =>
    cases r <;> simp only [State.flushAll]
    · exact ih s
    · exact (quiet_flushTrigger _ _ _).trans (ih _)
    · exact ih s

theorem quiet_snapAll (s : State) (l : List (Nat × Word)) : Quiet s (s.snapAll l).2 := by
  induction l generalizing s with
  | nil => exact .refl s
  | cons r t ih =>
    obtain ⟨src, arg⟩ := r
    have h := quiet_latch s src arg
    simp only [State.snapAll]
    split <;> rename_i heq <;> rw [heq] at h
    · exact h.trans (ih _)
    · exact h.trans (ih _)

theorem quiet_takeRaised (s : State) (rs : List Raise) : Quiet s (s.takeRaised rs) := by
  unfold State.takeRaised
  exact (((quiet_flushAll _ _).trans (quiet_snapAll _ _)).trans (quiet_snapAll _ _)).trans (quiet_foldl _ quiet_passEv _ _)

/-- The end of a command: the units keep everything but the draws, XM and poison marks; nothing stays raised; the queue is as it was. -/
theorem settle_quiet (s : State) :
    (settle s).blk.units = s.blk.units ∧ (settle s).blk.raised = [] ∧ (settle s).pending = s.pending := by
  unfold settle
  split
  · rename_i h
    exact ⟨rfl, by simpa using h, rfl⟩
  · exact quiet_takeRaised _ _

theorem Blk.units_ext {b c : Blk} (h : b.units = c.units) :
    b.conf = c.conf ∧ b.role = c.role ∧ b.inst = c.inst ∧ b.inReset = c.inReset ∧ b.tclk = c.tclk ∧ b.regs = c.regs ∧
    b.rwb = c.rwb ∧ b.cp = c.cp ∧ b.time = c.time ∧ b.trk = c.trk ∧ b.prb = c.prb ∧ b.rcp = c.rcp ∧ b.trace = c.trace ∧
    b.qsc = c.qsc ∧ b.ctxs = c.ctxs ∧ b.red = c.red ∧ b.sk = c.sk ∧ b.tre = c.tre ∧ b.ful = c.ful ∧ b.hlt = c.hlt ∧
    b.fwc = c.fwc ∧ b.pwr = c.pwr ∧ b.lic = c.lic ∧ b.boot = c.boot ∧ b.colls = c.colls ∧ b.port = c.port ∧
    b.ceHot = c.ceHot ∧ b.scrubAt = c.scrubAt ∧ b.stopped = c.stopped := by
  cases b; cases c
  simp only [Blk.units, Blk.mk.injEq] at h
  simp only
  tauto

@[simp] theorem settle_conf (s : State) : (settle s).blk.conf = s.blk.conf := (Blk.units_ext (settle_quiet s).1).1
@[simp] theorem settle_role (s : State) : (settle s).blk.role = s.blk.role := (Blk.units_ext (settle_quiet s).1).2.1
@[simp] theorem settle_inst (s : State) : (settle s).blk.inst = s.blk.inst := (Blk.units_ext (settle_quiet s).1).2.2.1
@[simp] theorem settle_inReset (s : State) : (settle s).blk.inReset = s.blk.inReset := (Blk.units_ext (settle_quiet s).1).2.2.2.1
@[simp] theorem settle_tclk (s : State) : (settle s).blk.tclk = s.blk.tclk := (Blk.units_ext (settle_quiet s).1).2.2.2.2.1
@[simp] theorem settle_regs (s : State) : (settle s).blk.regs = s.blk.regs := (Blk.units_ext (settle_quiet s).1).2.2.2.2.2.1
@[simp] theorem settle_rwb (s : State) : (settle s).blk.rwb = s.blk.rwb := (Blk.units_ext (settle_quiet s).1).2.2.2.2.2.2.1
@[simp] theorem settle_cp (s : State) : (settle s).blk.cp = s.blk.cp := (Blk.units_ext (settle_quiet s).1).2.2.2.2.2.2.2.1
@[simp] theorem settle_time (s : State) : (settle s).blk.time = s.blk.time := (Blk.units_ext (settle_quiet s).1).2.2.2.2.2.2.2.2.1
@[simp] theorem settle_trk (s : State) : (settle s).blk.trk = s.blk.trk := (Blk.units_ext (settle_quiet s).1).2.2.2.2.2.2.2.2.2.1
@[simp] theorem settle_prb (s : State) : (settle s).blk.prb = s.blk.prb := (Blk.units_ext (settle_quiet s).1).2.2.2.2.2.2.2.2.2.2.1
@[simp] theorem settle_rcp (s : State) : (settle s).blk.rcp = s.blk.rcp := (Blk.units_ext (settle_quiet s).1).2.2.2.2.2.2.2.2.2.2.2.1
@[simp] theorem settle_trace (s : State) : (settle s).blk.trace = s.blk.trace := (Blk.units_ext (settle_quiet s).1).2.2.2.2.2.2.2.2.2.2.2.2.1
@[simp] theorem settle_qsc (s : State) : (settle s).blk.qsc = s.blk.qsc := (Blk.units_ext (settle_quiet s).1).2.2.2.2.2.2.2.2.2.2.2.2.2.1
@[simp] theorem settle_ctxs (s : State) : (settle s).blk.ctxs = s.blk.ctxs := (Blk.units_ext (settle_quiet s).1).2.2.2.2.2.2.2.2.2.2.2.2.2.2.1
@[simp] theorem settle_red (s : State) : (settle s).blk.red = s.blk.red := (Blk.units_ext (settle_quiet s).1).2.2.2.2.2.2.2.2.2.2.2.2.2.2.2.1
@[simp] theorem settle_sk (s : State) : (settle s).blk.sk = s.blk.sk := (Blk.units_ext (settle_quiet s).1).2.2.2.2.2.2.2.2.2.2.2.2.2.2.2.2.1
@[simp] theorem settle_tre (s : State) : (settle s).blk.tre = s.blk.tre := (Blk.units_ext (settle_quiet s).1).2.2.2.2.2.2.2.2.2.2.2.2.2.2.2.2.2.1
@[simp] theorem settle_ful (s : State) : (settle s).blk.ful = s.blk.ful := (Blk.units_ext (settle_quiet s).1).2.2.2.2.2.2.2.2.2.2.2.2.2.2.2.2.2.2.1
@[simp] theorem settle_hlt (s : State) : (settle s).blk.hlt = s.blk.hlt := (Blk.units_ext (settle_quiet s).1).2.2.2.2.2.2.2.2.2.2.2.2.2.2.2.2.2.2.2.1
@[simp] theorem settle_fwc (s : State) : (settle s).blk.fwc = s.blk.fwc := (Blk.units_ext (settle_quiet s).1).2.2.2.2.2.2.2.2.2.2.2.2.2.2.2.2.2.2.2.2.1
@[simp] theorem settle_pwr (s : State) : (settle s).blk.pwr = s.blk.pwr := (Blk.units_ext (settle_quiet s).1).2.2.2.2.2.2.2.2.2.2.2.2.2.2.2.2.2.2.2.2.2.1
@[simp] theorem settle_lic (s : State) : (settle s).blk.lic = s.blk.lic := (Blk.units_ext (settle_quiet s).1).2.2.2.2.2.2.2.2.2.2.2.2.2.2.2.2.2.2.2.2.2.2.1
@[simp] theorem settle_boot (s : State) : (settle s).blk.boot = s.blk.boot := (Blk.units_ext (settle_quiet s).1).2.2.2.2.2.2.2.2.2.2.2.2.2.2.2.2.2.2.2.2.2.2.2.1
@[simp] theorem settle_colls (s : State) : (settle s).blk.colls = s.blk.colls := (Blk.units_ext (settle_quiet s).1).2.2.2.2.2.2.2.2.2.2.2.2.2.2.2.2.2.2.2.2.2.2.2.2.1
@[simp] theorem settle_port (s : State) : (settle s).blk.port = s.blk.port := (Blk.units_ext (settle_quiet s).1).2.2.2.2.2.2.2.2.2.2.2.2.2.2.2.2.2.2.2.2.2.2.2.2.2.1
@[simp] theorem settle_ceHot (s : State) : (settle s).blk.ceHot = s.blk.ceHot := (Blk.units_ext (settle_quiet s).1).2.2.2.2.2.2.2.2.2.2.2.2.2.2.2.2.2.2.2.2.2.2.2.2.2.2.1
@[simp] theorem settle_scrubAt (s : State) : (settle s).blk.scrubAt = s.blk.scrubAt := (Blk.units_ext (settle_quiet s).1).2.2.2.2.2.2.2.2.2.2.2.2.2.2.2.2.2.2.2.2.2.2.2.2.2.2.2.1
@[simp] theorem settle_stopped (s : State) : (settle s).blk.stopped = s.blk.stopped := (Blk.units_ext (settle_quiet s).1).2.2.2.2.2.2.2.2.2.2.2.2.2.2.2.2.2.2.2.2.2.2.2.2.2.2.2.2
@[simp] theorem settle_raised (s : State) : (settle s).blk.raised = [] := (settle_quiet s).2.1
@[simp] theorem settle_pending (s : State) : (settle s).pending = s.pending := (settle_quiet s).2.2

/-- A command that has an effect on the units, out of reset: a next state that holds it. -/
theorem lift_next (f : Blk → Blk) (s : State) (h : s.blk.inReset = false) :
    lift f s = .next (settle { s with blk := f s.blk }) := by simp [lift, h]

theorem liftS_next (f : State → State) (s : State) (h : s.blk.inReset = false) :
    liftS f s = .next (settle (f s)) := by simp [liftS, h]

/-- Such a command always answers a next state, with the queue as it was. -/
theorem lift_pending (f : Blk → Blk) (s : State) : ∃ t, lift f s = .next t ∧ t.pending = s.pending := by
  unfold lift
  split
  · exact ⟨s, rfl, rfl⟩
  · exact ⟨_, rfl, settle_pending _⟩

theorem liftS_pending (f : State → State) (s : State) (h : (f s).pending = s.pending) :
    ∃ t, liftS f s = .next t ∧ t.pending = s.pending := by
  unfold liftS
  split
  · exact ⟨s, rfl, rfl⟩
  · exact ⟨_, rfl, (settle_pending _).trans h⟩

end Sys2Proof.Machine
end

