-- ==== Sys2Proof/Laws/Store.lean ====
section
/-!
SUPPORT. Sparse tables: what is read after a write, and that every operation keeps the canonical form (keys strictly rising, no entry
equal to what an unlisted key reads as). Memory is such a table, of bytes.
-/

namespace Sys2Proof.Machine

variable {α : Type}

/-- Every key listed is above `k`. -/
def Store.above (k : Nat) (m : Store α) : Prop := ∀ p ∈ m, k < p.1

theorem Store.sorted_cons (k : Nat) (v : α) (m : Store α) :
    Store.sorted ((k, v) :: m) = true ↔ Store.above k m ∧ Store.sorted m = true := by
  induction m generalizing k v with
  | nil => simp [Store.sorted, Store.above]
  | cons p t ih =>
    obtain ⟨k', v'⟩ := p
    simp only [Store.sorted, Bool.and_eq_true, decide_eq_true_eq]
    constructor
    · rintro ⟨h, hs⟩
      refine ⟨?_, hs⟩
      intro q hq
      rcases List.mem_cons.1 hq with rfl | hq
      · exact h
      · exact h.trans (((ih k' v').1 hs).1 q hq)
    · rintro ⟨h, hs⟩
      exact ⟨h _ (List.mem_cons_self ..), hs⟩

theorem Store.look_above (k : Nat) (m : Store α) (h : Store.above k m) (j : Nat) (hj : j ≤ k) : Store.look m j = none := by
  induction m with
  | nil => rfl
  | cons p t ih =>
    obtain ⟨k', v'⟩ := p
    have h1 : k < k' := h (k', v') (List.mem_cons_self ..)
    simp only [Store.look]
    rw [if_neg (by omega), ih (fun q hq => h q (List.mem_cons_of_mem _ hq))]

/-- Reading after an insertion. -/
@[simp] theorem Store.look_put (m : Store α) (k : Nat) (v : α) (j : Nat) :
    Store.look (Store.put m k v) j = if j = k then some v else Store.look m j := by
  induction m with
  | nil => simp [Store.put, Store.look, eq_comm]
  | cons p t ih =>
    obtain ⟨k', v'⟩ := p
    simp only [Store.put]
    by_cases h1 : k' = k
    · subst h1
      by_cases h2 : j = k'
      · subst h2; simp [Store.look]
      · simp [Store.look, h2, Ne.symm h2]
    · rw [if_neg h1]
      by_cases h2 : j = k
      · subst h2
        split
        · simp [Store.look]
        · simp [Store.look, h1, ih]
      · split
        · simp [Store.look, Ne.symm h2]
        · simp [Store.look, ih, h2]

/-- Reading after a removal. -/
@[simp] theorem Store.look_del (m : Store α) (k j : Nat) :
    Store.look (Store.del m k) j = if j = k then none else Store.look m j := by
  induction m with
  | nil => simp [Store.del, Store.look]
  | cons p t ih =>
    obtain ⟨k', v'⟩ := p
    simp only [Store.del, List.filter_cons] at ih ⊢
    by_cases h1 : k' = k
    · subst h1
      by_cases h2 : j = k'
      · subst h2; simp [ih]
      · simp [Store.look, ih, h2, Ne.symm h2]
    · by_cases h2 : j = k
      · subst h2; simp [Store.look, ih, h1]
      · simp [Store.look, ih, h1, h2]

/-- Reading after a write: the value written there, and every other key as before. -/
@[simp] theorem Store.get_set [DecidableEq α] (d : α) (m : Store α) (k : Nat) (v : α) (j : Nat) :
    Store.get d (Store.set d m k v) j = if j = k then v else Store.get d m j := by
  unfold Store.get Store.set
  split
  · rename_i h
    rw [Store.look_del]
    split <;> simp_all
  · rw [Store.look_put]
    split <;> simp_all

/-- A key that is not written reads as before, whatever the written key reads as when it is not listed. -/
theorem Store.get_set_ne [DecidableEq α] (d e : α) (m : Store α) (k : Nat) (v : α) (j : Nat) (h : j ≠ k) :
    Store.get d (Store.set e m k v) j = Store.get d m j := by
  unfold Store.get Store.set
  split
  · rw [Store.look_del, if_neg h]
  · rw [Store.look_put, if_neg h]

theorem Store.above_put (i k : Nat) (m : Store α) (v : α) (hi : i < k) (h : Store.above i m) :
    Store.above i (Store.put m k v) := by
  induction m with
  | nil => intro p hp; simp only [Store.put, List.mem_singleton] at hp; subst hp; exact hi
  | cons p t ih =>
    obtain ⟨k', v'⟩ := p
    have ht : Store.above i t := fun q hq => h q (List.mem_cons_of_mem _ hq)
    have hk := h (k', v') (List.mem_cons_self ..)
    simp only [Store.put]
    intro q hq
    split at hq
    · rcases List.mem_cons.1 hq with rfl | hq
      · exact hi
      · exact ht q hq
    · split at hq
      · rcases List.mem_cons.1 hq with rfl | hq
        · exact hi
        · exact h q hq
      · rcases List.mem_cons.1 hq with rfl | hq
        · exact hk
        · exact ih ht q hq

/-- Insertion keeps the keys rising. -/
theorem Store.sorted_put (m : Store α) (k : Nat) (v : α) (h : Store.sorted m = true) : Store.sorted (Store.put m k v) = true := by
  induction m with
  | nil => rfl
  | cons p t ih =>
    obtain ⟨k', v'⟩ := p
    obtain ⟨ha, ht⟩ := (Store.sorted_cons k' v' t).1 h
    simp only [Store.put]
    split
    · rename_i e
      subst e
      exact (Store.sorted_cons _ _ _).2 ⟨ha, ht⟩
    · split
      · rename_i hlt
        refine (Store.sorted_cons _ _ _).2 ⟨?_, h⟩
        intro q hq
        rcases List.mem_cons.1 hq with rfl | hq
        · exact hlt
        · exact hlt.trans (ha q hq)
      · refine (Store.sorted_cons _ _ _).2 ⟨Store.above_put k' k t v (by omega) ha, ih ht⟩

/-- Removal keeps the keys rising. -/
theorem Store.sorted_filter (m : Store α) (f : Nat × α → Bool) (h : Store.sorted m = true) :
    Store.sorted (m.filter f) = true := by
  induction m with
  | nil => rfl
  | cons p t ih =>
    obtain ⟨k', v'⟩ := p
    obtain ⟨ha, ht⟩ := (Store.sorted_cons k' v' t).1 h
    rw [List.filter_cons]
    split
    · exact (Store.sorted_cons _ _ _).2 ⟨fun q hq => ha q (List.mem_filter.1 hq).1, ih ht⟩
    · exact ih ht

theorem Store.mem_put (m : Store α) (k : Nat) (v : α) (q : Nat × α) (h : q ∈ Store.put m k v) : q = (k, v) ∨ q ∈ m := by
  induction m with
  | nil => simp only [Store.put, List.mem_singleton] at h; exact .inl h
  | cons p t ih =>
    obtain ⟨k', v'⟩ := p
    simp only [Store.put] at h
    split at h
    · rcases List.mem_cons.1 h with h | h
      · exact .inl h
      · exact .inr (List.mem_cons_of_mem _ h)
    · split at h
      · rcases List.mem_cons.1 h with h | h
        · exact .inl h
        · exact .inr h
      · rcases List.mem_cons.1 h with h | h
        · exact .inr (h ▸ List.mem_cons_self ..)
        · rcases ih h with h | h
          · exact .inl h
          · exact .inr (List.mem_cons_of_mem _ h)

/-- A write keeps the canonical form. -/
theorem Store.wf_set [DecidableEq α] (d : α) (m : Store α) (k : Nat) (v : α) (h : Store.wf d m = true) :
    Store.wf d (Store.set d m k v) = true := by
  simp only [Store.wf, Bool.and_eq_true, List.all_eq_true, decide_eq_true_eq] at h ⊢
  unfold Store.set
  split
  · exact ⟨Store.sorted_filter m _ h.1, fun q hq => h.2 q (List.mem_filter.1 hq).1⟩
  · rename_i hv
    refine ⟨Store.sorted_put m k v h.1, fun q hq => ?_⟩
    rcases Store.mem_put m k v q hq with rfl | hq
    · exact hv
    · exact h.2 q hq

theorem Store.sorted_eq (m n : Store α) (hm : Store.sorted m = true) (hn : Store.sorted n = true)
    (h : ∀ k, Store.look m k = Store.look n k) : m = n := by
  induction m generalizing n with
  | nil =>
    cases n with
    | nil => rfl
    | cons p t => have := h p.1; simp [Store.look] at this
  | cons p t ih =>
    obtain ⟨k, v⟩ := p
    cases n with
    | nil => have := h k; simp [Store.look] at this
    | cons q u =>
      obtain ⟨k', v'⟩ := q
      obtain ⟨ha, ht⟩ := (Store.sorted_cons k v t).1 hm
      obtain ⟨hb, hu⟩ := (Store.sorted_cons k' v' u).1 hn
      have hk : k = k' := by
        rcases Nat.lt_trichotomy k k' with hlt | heq | hlt
        · have := h k
          simp only [Store.look, if_true] at this
          rw [if_neg (by omega), Store.look_above k' u hb k (by omega)] at this
          cases this
        · exact heq
        · have := h k'
          simp only [Store.look, if_true] at this
          rw [if_neg (by omega), Store.look_above k t ha k' (by omega)] at this
          cases this
      subst hk
      have hv : v = v' := by have := h k; simpa [Store.look] using this
      subst hv
      congr 1
      refine ih u ht hu (fun j => ?_)
      have := h j
      simp only [Store.look] at this
      split at this
      · rename_i e; subst e
        rw [Store.look_above k t ha k (le_refl k), Store.look_above k u hb k (le_refl k)]
      · exact this

/-! ### Memory -/

/-- A byte read after a byte is written. -/
@[simp] theorem Mem.rd_wr (m : Mem) (a : Nat) (b : Byte) (j : Nat) : Mem.rd (Mem.wr m a b) j = if j = a then b else Mem.rd m j :=
  Store.get_set 0 m a b j

/-- A byte read after bytes are written: outside the bytes written it is as before. -/
theorem Mem.rd_wrN_out (m : Mem) (a : Nat) (bs : List Byte) (j : Nat) (h : j < a ∨ a + bs.length ≤ j) :
    Mem.rd (Mem.wrN m a bs) j = Mem.rd m j := by
  induction bs generalizing m a with
  | nil => rfl
  | cons b t ih =>
    simp only [List.length_cons] at h
    simp only [Mem.wrN]
    rw [ih _ _ (by omega), Mem.rd_wr, if_neg (by omega)]

/-- A byte read after bytes are written: within them it is the byte written. -/
theorem Mem.rd_wrN_in (m : Mem) (a : Nat) (bs : List Byte) (i : Nat) (h : i < bs.length) :
    Mem.rd (Mem.wrN m a bs) (a + i) = bs[i] := by
  induction bs generalizing m a i with
  | nil => simp at h
  | cons b t ih =>
    simp only [Mem.wrN]
    cases i with
    | zero => rw [Mem.rd_wrN_out _ _ _ _ (by omega)]; simp
    | succ i =>
      have := ih (Mem.wr m a b) (a + 1) i (by simpa using h)
      rw [show a + (i + 1) = a + 1 + i by omega]
      simpa using this

/-- Reading back the bytes written. -/
theorem Mem.rdN_wrN (m : Mem) (a : Nat) (bs : List Byte) : Mem.rdN (Mem.wrN m a bs) a bs.length = bs := by
  induction bs generalizing m a with
  | nil => rfl
  | cons b t ih =>
    simp only [List.length_cons, Mem.wrN, Mem.rdN]
    rw [ih, Mem.rd_wrN_out _ _ _ _ (by omega)]
    simp

/-- Every memory operation keeps the canonical form. -/
theorem Memory.wf_wr (m : Mem) (a : Nat) (b : Byte) (h : Memory.wf m = true) : Memory.wf (Mem.wr m a b) = true :=
  Store.wf_set 0 m a b h

theorem Memory.wf_wrN (m : Mem) (a : Nat) (bs : List Byte) (h : Memory.wf m = true) : Memory.wf (Mem.wrN m a bs) = true := by
  induction bs generalizing m a with
  | nil => exact h
  | cons b t ih => exact ih _ _ (Memory.wf_wr m a b h)

theorem Memory.wf_reset : Memory.wf ([] : Mem) = true := rfl

end Sys2Proof.Machine
end

