-- ==== Sys2Proof/Laws/Trace.lean ====
section
/-!
SUPPORT. What core trace may change when a context retires an instruction or accesses memory: the trace buffers, poison marks of
their words, and what is raised.
-/

namespace Sys2Proof.Machine

/-- From `s` to `t` only the trace unit, poison marks and what is raised have changed. -/
@[irreducible] def TraceOnly (s t : Blk) : Prop := t = { s with trace := t.trace, regPoi := t.regPoi, raised := t.raised }

theorem TraceOnly.refl (s : Blk) : TraceOnly s s := by unfold TraceOnly; rfl

theorem TraceOnly.trans {s t u : Blk} (h : TraceOnly s t) (k : TraceOnly t u) : TraceOnly s u := by
  unfold TraceOnly at *
  rw [k, h]

theorem traceOnly_foldl {α : Type} (f : Blk → α → Blk) (h : ∀ s a, TraceOnly s (f s a)) (l : List α) (s : Blk) :
    TraceOnly s (l.foldl f s) := by
  induction l generalizing s with
  | nil => exact .refl s
  | cons a t ih => exact (h s a).trans (ih _)

theorem traceOnly_setTbuf (s : Blk) (b : Nat) (v : TraceBuf) : TraceOnly s (s.setTbuf b v) := by
  unfold TraceOnly; rfl
theorem traceOnly_modTbuf (s : Blk) (b : Nat) (f : TraceBuf → TraceBuf) : TraceOnly s (s.modTbuf b f) := by
  unfold TraceOnly; rfl
theorem traceOnly_modTsrc (s : Blk) (b i : Nat) (f : TraceSrc → TraceSrc) : TraceOnly s (s.modTsrc b i f) := by
  unfold TraceOnly; rfl
theorem traceOnly_clearPoi (s : Blk) (a n : Nat) : TraceOnly s (s.clearPoi a n) := by
  unfold TraceOnly; rfl
theorem traceOnly_emitAt (s : Blk) (u i c a0 a1 : Nat) : TraceOnly s (s.emitAt u i c a0 a1) := by
  unfold TraceOnly; rfl

theorem traceOnly_tbPut (s : Blk) (b : Nat) (bs : List Byte) : TraceOnly s (s.tbPut b bs) := by
  unfold Blk.tbPut
  dsimp only
  split
  · exact .refl s
  · split
    · exact traceOnly_setTbuf _ _ _
    · exact (traceOnly_clearPoi _ _ _).trans (traceOnly_setTbuf _ _ _)

theorem traceOnly_modTrace (s : Blk) (f : TraceState → TraceState) : TraceOnly s (s.modTrace f) := by
  unfold TraceOnly; rfl

theorem traceOnly_tbSend (s : Blk) (b i : Nat) (bs : List Byte) : TraceOnly s (s.tbSend b i bs) := by
  unfold Blk.tbSend
  dsimp only
  split
  · exact .refl s
  · refine TraceOnly.trans (traceOnly_modTrace s (fun m => { m with packets := s.trace.packets + 1 })) ?_
    split
    · exact (traceOnly_modTbuf _ _ _).trans (traceOnly_modTsrc _ _ _ _)
    · exact traceOnly_tbPut _ _ _

theorem traceOnly_tbSync (s : Blk) (b i a : Nat) : TraceOnly s (s.tbSync b i a) := by
  unfold Blk.tbSync
  exact ((traceOnly_tbPut _ _ _).trans (traceOnly_modTbuf _ _ _)).trans (traceOnly_modTsrc _ _ _ _)

theorem traceOnly_tbAlign (s : Blk) (b : Nat) : TraceOnly s (s.tbAlign b) := by
  unfold Blk.tbAlign
  refine ((traceOnly_tbPut _ _ _).trans (traceOnly_modTbuf _ _ _)).trans (traceOnly_foldl _ (fun s i => ?_) _ _)
  split
  · exact traceOnly_tbSync _ _ _ _
  · exact .refl s

theorem traceOnly_tbOvf (s : Blk) (b : Nat) : TraceOnly s (s.tbOvf b) := by
  unfold Blk.tbOvf
  dsimp only
  split
  · exact .refl s
  · exact (traceOnly_foldl _ (fun s i => (traceOnly_tbPut _ _ _).trans (traceOnly_modTsrc _ _ _ _)) _ _).trans (traceOnly_tbAlign _ _)

theorem traceOnly_tbPrep (s : Blk) (b : Nat) : TraceOnly s (s.tbPrep b) := by
  unfold Blk.tbPrep
  dsimp only
  refine (traceOnly_tbOvf s b).trans ?_
  generalize s.tbOvf b = s
  refine TraceOnly.trans (t := if max 256 (fld (s.reg (.ctr (.CTR_SYNC_INT b))) 15 0) ≤ (s.tbuf b).sinceAlign
    then s.tbAlign b else s) ?_ ?_
  · split
    · exact traceOnly_tbAlign _ _
    · exact .refl s
  · generalize (if max 256 (fld (s.reg (.ctr (.CTR_SYNC_INT b))) 15 0) ≤ (s.tbuf b).sinceAlign then s.tbAlign b else s) = u
    split
    · exact (traceOnly_tbPut _ _ _).trans (traceOnly_modTbuf _ _ _)
    · exact .refl u

theorem traceOnly_tbGate (s : Blk) (b i r : Nat) : TraceOnly s (s.tbGate b i r) := by
  unfold Blk.tbGate
  split
  · exact .refl s
  · split
    · exact traceOnly_modTsrc _ _ _ _
    · exact ((traceOnly_tbPrep _ _).trans (traceOnly_tbSend _ _ _ _)).trans (traceOnly_modTsrc _ _ _ _)

theorem traceOnly_tbFlow (s : Blk) (b i u a : Nat) (e : Bool) : TraceOnly s (s.tbFlow b i u a e) := by
  unfold Blk.tbFlow
  exact (traceOnly_tbSend _ _ _ _).trans (traceOnly_modTsrc _ _ _ _)

theorem traceOnly_tbStart (s : Blk) (b : Nat) : TraceOnly s (s.tbStart b) := by
  unfold Blk.tbStart
  dsimp only
  split
  · exact .refl s
  · exact (traceOnly_setTbuf _ _ _).trans (traceOnly_tbAlign _ _)

theorem traceOnly_tbStop (s : Blk) (b : Nat) : TraceOnly s (s.tbStop b) := by
  unfold Blk.tbStop
  dsimp only
  split
  · exact traceOnly_modTbuf _ _ _
  · exact ((traceOnly_modTbuf _ _ _).trans (traceOnly_foldl _ (fun s i => traceOnly_tbGate _ _ _ _) _ _)).trans
      (traceOnly_modTbuf _ _ _)

theorem traceOnly_tbCompare (s : Blk) (b i k a : Nat) : TraceOnly s (s.tbCompare b i k a) := by
  unfold Blk.tbCompare
  dsimp only
  refine (traceOnly_foldl _ (fun s i => ?_) _ _).trans (traceOnly_foldl _ (fun s i => ?_) _ _)
  · split
    · exact traceOnly_tbStop _ _
    · exact .refl s
  · split
    · exact traceOnly_tbStart _ _
    · split
      · exact traceOnly_emitAt _ _ _ _ _ _
      · exact .refl s

theorem traceOnly_tbBegin (s : Blk) (b i pc : Nat) : TraceOnly s (s.tbBegin b i pc) := by
  unfold Blk.tbBegin
  dsimp only
  refine TraceOnly.trans (t := if (s.tsrc b i).on then s else
    ((s.tbPrep b).tbSync b i pc).modTsrc b i (fun t => { t with on := true })) ?_ ?_
  · split
    · exact .refl s
    · exact ((traceOnly_tbPrep _ _).trans (traceOnly_tbSync _ _ _ _)).trans (traceOnly_modTsrc _ _ _ _)
  · generalize (if (s.tsrc b i).on then s else
      ((s.tbPrep b).tbSync b i pc).modTsrc b i (fun t => { t with on := true })) = u
    split
    · exact .refl u
    · exact (traceOnly_tbPrep _ _).trans (traceOnly_tbFlow _ _ _ _ _ _)

theorem traceOnly_tbCount (s : Blk) (b i npc : Nat) (taken : Bool) : TraceOnly s (s.tbCount b i npc taken) := by
  unfold Blk.tbCount
  cases taken
  · simp only [Bool.false_eq_true, if_false]
    exact traceOnly_modTsrc _ _ _ _
  · simp only [if_true]
    exact ((traceOnly_tbPrep _ _).trans (traceOnly_modTsrc _ _ _ _)).trans (traceOnly_tbFlow _ _ _ _ _ _)

/-- Retiring an instruction: trace only. -/
theorem traceOnly_traceRetire (s : Blk) (x : Ctx) (pc npc : Nat) (taken : Bool) : TraceOnly s (s.traceRetire x pc npc taken) := by
  unfold Blk.traceRetire
  dsimp only
  split
  · exact .refl s
  · refine TraceOnly.trans ?_ (traceOnly_tbCompare _ _ _ _ _)
    refine TraceOnly.trans (traceOnly_modTsrc s (s.tbOf x).1 (s.tbOf x).2 (fun t => { t with excl := s.tbExcl (s.tbOf x).1 x.coll })) ?_
    split
    · exact .refl _
    · split
      · exact traceOnly_tbGate _ _ _ _
      · exact (traceOnly_tbBegin _ _ _ _).trans (traceOnly_tbCount _ _ _ _ _)

/-- Accessing memory: trace only. -/
theorem traceOnly_traceAccess (s : Blk) (x : Ctx) (st : Bool) (n a v : Nat) : TraceOnly s (s.traceAccess x st n a v) := by
  unfold Blk.traceAccess
  dsimp only
  split
  · exact .refl s
  · refine TraceOnly.trans ?_ (traceOnly_tbCompare _ _ _ _ _)
    split
    · refine TraceOnly.trans (t := if s.tbWhy (s.tbOf x).1 (s.tbOf x).2 x.coll x.pc = 0
        then s.tbBegin (s.tbOf x).1 (s.tbOf x).2 x.pc else s) ?_
        (traceOnly_foldl _ (fun s p => ((traceOnly_tbPrep _ _).trans (traceOnly_tbSend _ _ _ _)).trans (traceOnly_modTsrc _ _ _ _)) _ _)
      split
      · exact traceOnly_tbBegin _ _ _ _
      · exact .refl s
    · exact .refl s

/-- A context whose buffer is neither written nor watched leaves trace alone. -/
theorem traceRetire_off (s : Blk) (x : Ctx) (pc npc : Nat) (taken : Bool) (h : s.tbOff (s.tbOf x).1 = true) :
    s.traceRetire x pc npc taken = s := by simp [Blk.traceRetire, h]

theorem traceAccess_off (s : Blk) (x : Ctx) (st : Bool) (n a v : Nat) (h : s.tbOff (s.tbOf x).1 = true) :
    s.traceAccess x st n a v = s := by simp [Blk.traceAccess, h]

end Sys2Proof.Machine
end

