-- ==== Sys2Proof/Laws/Dexey.lean ====
section
/-!
SUPPORT. What the issue of an instruction comes to: the checks passed, its effect; an instruction that retires, the next state.
-/

namespace Sys2Proof.Machine

theorem settle_calm (s : State) (h : s.blk.raised = []) : settle s = s := by simp [settle, h]

theorem sameUnits_of_units {b a : Blk} (h : b.units = a.units) :
    SameUnits a b ∧ b.mem = { a.mem with xm := b.mem.xm, xmPoi := b.mem.xmPoi } := by
  have e1 := congrArg (fun u => ({ u with raised := b.raised, draws := b.draws, regPoi := b.regPoi, mem := b.mem,
                                          ctxs := b.ctxs, trace := b.trace } : Blk)) h
  have e2 := congrArg (fun u => ({ u.mem with xm := b.mem.xm, xmPoi := b.mem.xmPoi } : MemState)) h
  exact ⟨e1, e2⟩

/-- The end of a command changes no unit and no memory but XM. -/
theorem settle_sameUnits (s : State) :
    SameUnits s.blk (settle s).blk ∧ (settle s).blk.mem = { s.blk.mem with xm := (settle s).blk.mem.xm, xmPoi := (settle s).blk.mem.xmPoi } :=
  sameUnits_of_units (settle_quiet s).1

theorem SameUnits.trans {a b c : Blk} (h : SameUnits a b) (k : SameUnits b c) : SameUnits a c := by
  unfold SameUnits at *
  rw [k, h]

/-- Issue: the checks pass and the instruction acts. -/
theorem dxStep_issues {s : State} {k : Nat} {x : Ctx} {w : Word} {e : Enc} (h : Issues s k x w e) (es : List Enc)
    (hm : es.find? (fun e => e.is w) = some e) (act : Act) :
    s.blk.dxStep k es act = match act s.blk k x w with
      | .fault code sub addr slot => s.blk.dxFault k x code sub addr slot
      | .next b => b := by
  obtain ⟨_, hl, hi, hw, hu, _, hf⟩ := h
  simp only [Blk.dxStep, hl, hi, hw, hu, hm, Blk.dxRun, hf]
  rfl

theorem traceOnly_eq {s t : Blk} (h : TraceOnly s t) : t = { s with trace := t.trace, regPoi := t.regPoi, raised := t.raised } := by
  unfold TraceOnly at h; exact h

theorem Store.put_put {α : Type} (m : Store α) (k : Nat) (a b : α) : Store.put (Store.put m k a) k b = Store.put m k b := by
  induction m with
  | nil => simp [Store.put]
  | cons p t ih =>
    obtain ⟨k', v'⟩ := p
    simp only [Store.put]
    by_cases h1 : k' = k
    · simp [h1, Store.put]
    · by_cases h2 : k < k'
      · simp [h1, h2, Store.put]
      · simp [h1, h2, Store.put, ih]

/-- An instruction of a context that is not blocked retires. -/
theorem retire_look {b : Blk} {k : Nat} {y : Ctx} (h : Store.look b.ctxs k = some y) (hn : y.blocked = .no) (npc : Nat) (taken : Bool) :
    b.retire k npc taken = (b.traceRetire y y.pc npc taken).modCtxs (fun m => Store.put m k (y.goOn npc)) := by
  simp [Blk.retire, h, hn]

theorem dxJump_eq (b : Blk) (k : Nat) (y : Ctx) (hn : y.blocked = .no) (npc : Nat) (taken : Bool) :
    ∃ c, TraceOnly b c ∧ (b.tbOff (b.tbOf y).1 = true → c = b) ∧
      b.dxJump k y npc taken = c.modCtxs (fun m => Store.put m k (y.usedUp.goOn npc)) := by
  have hl : Store.look (b.modCtxs (fun m => Store.put m k y.usedUp)).ctxs k = some y.usedUp := by simp
  rw [Blk.dxJump, retire_look hl hn]
  have ht := traceOnly_eq (traceOnly_traceRetire (b.modCtxs (fun m => Store.put m k y.usedUp)) y.usedUp y.usedUp.pc npc taken)
  have hf := traceRetire_off (b.modCtxs (fun m => Store.put m k y.usedUp)) y.usedUp y.usedUp.pc npc taken
  generalize (b.modCtxs (fun m => Store.put m k y.usedUp)).traceRetire y.usedUp y.usedUp.pc npc taken = d at ht hf
  refine ⟨{ b with trace := d.trace, regPoi := d.regPoi, raised := d.raised }, by unfold TraceOnly; rfl, ?_, ?_⟩
  · intro h
    rw [hf h]
    rfl
  · rw [ht]
    simp only [Blk.modCtxs, Store.put_put]

/-- An instruction that retires, with the trace of a memory access before it or none: `y` is its context as it leaves it. -/
theorem retired_dxJump {s : State} {k : Nat} (y : Ctx) (hn : y.blocked = .no) (npc : Nat) (taken : Bool)
    (b : Blk) (hb : TraceOnly s.blk b) (hoff : s.blk.tbOff (s.blk.tbOf y).1 = true → b = s.blk) :
    Retired s (settle { s with blk := b.dxJump k y npc taken }) k y npc := by
  obtain ⟨c, hc, hcoff, he⟩ := dxJump_eq b k y hn npc taken
  have ht := traceOnly_eq (hb.trans hc)
  have hu := settle_sameUnits { s with blk := b.dxJump k y npc taken }
  refine ⟨settle_pending _, ?_, ?_, ?_, ?_⟩
  · rw [settle_ctxs]
    simp only [he, Blk.modCtxs_ctxs]
    rw [ht]
  · refine SameUnits.trans ?_ hu.1
    simp only [he]
    rw [ht]
    rfl
  · rw [hu.2]
    simp only [he]
    rw [ht]
    rfl
  · intro hl
    have e1 := hoff hl
    subst e1
    have e2 := hcoff hl
    subst e2
    rw [he]
    rfl

@[simp] theorem Ctx.setS_blocked (x : Ctx) (r : Nat) (v : Dword) (p : Bool) : (x.setS r v p).blocked = x.blocked := by
  unfold Ctx.setS; split <;> rfl
@[simp] theorem Ctx.setS_pc (x : Ctx) (r : Nat) (v : Dword) (p : Bool) : (x.setS r v p).pc = x.pc := by
  unfold Ctx.setS; split <;> rfl
@[simp] theorem Ctx.setP_blocked (x : Ctx) (r : Nat) (v : BitVec 16) (p : Bool) : (x.setP r v p).blocked = x.blocked := by
  unfold Ctx.setP; split <;> rfl
@[simp] theorem Ctx.setP_pc (x : Ctx) (r : Nat) (v : BitVec 16) (p : Bool) : (x.setP r v p).pc = x.pc := by
  unfold Ctx.setP; split <;> rfl
@[simp] theorem Ctx.setW_blocked (x : Ctx) (r : Nat) (v : W320) (p : Bool) : (x.setW r v p).blocked = x.blocked := rfl
@[simp] theorem Ctx.setW_pc (x : Ctx) (r : Nat) (v : W320) (p : Bool) : (x.setW r v p).pc = x.pc := rfl
@[simp] theorem Ctx.store_blocked (x : Ctx) (sp : Space) (o : Nat) (bs : List (Byte × Bool)) : (x.store sp o bs).blocked = x.blocked := by
  unfold Ctx.store; split <;> rfl
@[simp] theorem Ctx.store_pc (x : Ctx) (sp : Space) (o : Nat) (bs : List (Byte × Bool)) : (x.store sp o bs).pc = x.pc := by
  unfold Ctx.store; split <;> rfl

theorem Ctx.setLanes_keep (x : Ctx) (r : Nat) (m : BitVec 16) (f : Nat → Word × Bool) :
    (x.setLanes r m f).blocked = x.blocked ∧ (x.setLanes r m f).pc = x.pc := by
  unfold Ctx.setLanes
  generalize lanesOf m = l
  induction l generalizing x with
  | nil => exact ⟨rfl, rfl⟩
  | cons a t ih => rw [List.foldl_cons]; exact ih _

@[simp] theorem Ctx.setLanes_blocked (x : Ctx) (r : Nat) (m : BitVec 16) (f : Nat → Word × Bool) :
    (x.setLanes r m f).blocked = x.blocked := (Ctx.setLanes_keep x r m f).1
@[simp] theorem Ctx.setLanes_pc (x : Ctx) (r : Nat) (m : BitVec 16) (f : Nat → Word × Bool) :
    (x.setLanes r m f).pc = x.pc := (Ctx.setLanes_keep x r m f).2

theorem Issues.no {s : State} {k : Nat} {x : Ctx} {w : Word} {e : Enc} (h : Issues s k x w e) : x.blocked = .no := by
  have hi := h.2.2.1
  simp only [Blk.mayIssue, Bool.and_eq_true] at hi
  exact eq_of_beq hi.1.2

theorem Issues.find {s : State} {k : Nat} {x : Ctx} {w : Word} {e : Enc} (h : Issues s k x w e) :
    [e].find? (fun e => e.is w) = some e := by
  simp [List.find?, h.2.2.2.2.2.1]

/-- What an issued instruction comes to. -/
theorem gives_next {s : State} {k : Nat} {x : Ctx} {w : Word} {e : Enc} (h : Issues s k x w e) (act : Act) (es : List Enc)
    (hm : es.find? (fun e => e.is w) = some e) (b : Blk) (ha : act s.blk k x w = .next b) :
    lift (fun b => b.dxStep k es act) s = .next (settle { s with blk := b }) := by
  rw [lift_next _ s h.1, dxStep_issues h es hm, ha]

/-- An issued instruction that retires, its other effect on the units having made them `b₀`, the trace of an access before it or none. -/
theorem gives_retired_from {s : State} {k : Nat} {x : Ctx} {w : Word} {e : Enc} (h : Issues s k x w e) (act : Act) (es : List Enc)
    (hm : es.find? (fun e => e.is w) = some e) (b₀ : Blk) (y : Ctx) (hy : y.blocked = x.blocked) (npc : Nat) (taken : Bool)
    (b : Blk) (hb : TraceOnly b₀ b) (hoff : b₀.tbOff (b₀.tbOf y).1 = true → b = b₀)
    (ha : act s.blk k x w = .next (b.dxJump k y npc taken)) :
    ∃ t, lift (fun b => b.dxStep k es act) s = .next t ∧ Retired { s with blk := b₀ } t k y npc :=
  ⟨_, gives_next h act es hm _ ha, retired_dxJump (s := { s with blk := b₀ }) y (hy.trans h.no) npc taken b hb hoff⟩

/-- The same without another effect. -/
theorem gives_retired {s : State} {k : Nat} {x : Ctx} {w : Word} {e : Enc} (h : Issues s k x w e) (act : Act) (es : List Enc)
    (hm : es.find? (fun e => e.is w) = some e) (y : Ctx) (hy : y.blocked = x.blocked) (npc : Nat) (taken : Bool)
    (b : Blk) (hb : TraceOnly s.blk b) (hoff : s.blk.tbOff (s.blk.tbOf y).1 = true → b = s.blk)
    (ha : act s.blk k x w = .next (b.dxJump k y npc taken)) :
    ∃ t, lift (fun b => b.dxStep k es act) s = .next t ∧ Retired s t k y npc :=
  gives_retired_from h act es hm s.blk y hy npc taken b hb hoff ha

/-- An issued instruction that takes an exception. -/
theorem gives_fault {s : State} {k : Nat} {x : Ctx} {w : Word} {e : Enc} (h : Issues s k x w e) (act : Act) (es : List Enc)
    (hm : es.find? (fun e => e.is w) = some e) {a b c d : Nat} (ha : act s.blk k x w = .fault a b c d) :
    lift (fun b => b.dxStep k es act) s = .next (settle { s with blk := s.blk.dxFault k x a b c d }) := by
  rw [lift_next _ s h.1, dxStep_issues h es hm, ha]

end Sys2Proof.Machine
end

