-- ==== Sys2Proof/Laws/Ops.lean ====
section
/-!
SUPPORT. What the named operations on registers and events leave alone: one lemma per field per operation.
-/

namespace Sys2Proof.Machine

@[simp] theorem Blk.putReg_conf (s : Blk) (r : Reg) (v : Word) : (s.putReg r v).conf = s.conf := rfl
@[simp] theorem Blk.putReg_role (s : Blk) (r : Reg) (v : Word) : (s.putReg r v).role = s.role := rfl
@[simp] theorem Blk.putReg_inst (s : Blk) (r : Reg) (v : Word) : (s.putReg r v).inst = s.inst := rfl
@[simp] theorem Blk.putReg_inReset (s : Blk) (r : Reg) (v : Word) : (s.putReg r v).inReset = s.inReset := rfl
@[simp] theorem Blk.putReg_tclk (s : Blk) (r : Reg) (v : Word) : (s.putReg r v).tclk = s.tclk := rfl
@[simp] theorem Blk.putReg_draws (s : Blk) (r : Reg) (v : Word) : (s.putReg r v).draws = s.draws := rfl
@[simp] theorem Blk.putReg_rwb (s : Blk) (r : Reg) (v : Word) : (s.putReg r v).rwb = s.rwb := rfl
@[simp] theorem Blk.putReg_regPoi (s : Blk) (r : Reg) (v : Word) : (s.putReg r v).regPoi = s.regPoi := rfl
@[simp] theorem Blk.putReg_cp (s : Blk) (r : Reg) (v : Word) : (s.putReg r v).cp = s.cp := rfl
@[simp] theorem Blk.putReg_time (s : Blk) (r : Reg) (v : Word) : (s.putReg r v).time = s.time := rfl
@[simp] theorem Blk.putReg_trk (s : Blk) (r : Reg) (v : Word) : (s.putReg r v).trk = s.trk := rfl
@[simp] theorem Blk.putReg_prb (s : Blk) (r : Reg) (v : Word) : (s.putReg r v).prb = s.prb := rfl
@[simp] theorem Blk.putReg_rcp (s : Blk) (r : Reg) (v : Word) : (s.putReg r v).rcp = s.rcp := rfl
@[simp] theorem Blk.putReg_trace (s : Blk) (r : Reg) (v : Word) : (s.putReg r v).trace = s.trace := rfl
@[simp] theorem Blk.putReg_qsc (s : Blk) (r : Reg) (v : Word) : (s.putReg r v).qsc = s.qsc := rfl
@[simp] theorem Blk.putReg_ctxs (s : Blk) (r : Reg) (v : Word) : (s.putReg r v).ctxs = s.ctxs := rfl
@[simp] theorem Blk.putReg_red (s : Blk) (r : Reg) (v : Word) : (s.putReg r v).red = s.red := rfl
@[simp] theorem Blk.putReg_sk (s : Blk) (r : Reg) (v : Word) : (s.putReg r v).sk = s.sk := rfl
@[simp] theorem Blk.putReg_tre (s : Blk) (r : Reg) (v : Word) : (s.putReg r v).tre = s.tre := rfl
@[simp] theorem Blk.putReg_ful (s : Blk) (r : Reg) (v : Word) : (s.putReg r v).ful = s.ful := rfl
@[simp] theorem Blk.putReg_hlt (s : Blk) (r : Reg) (v : Word) : (s.putReg r v).hlt = s.hlt := rfl
@[simp] theorem Blk.putReg_fwc (s : Blk) (r : Reg) (v : Word) : (s.putReg r v).fwc = s.fwc := rfl
@[simp] theorem Blk.putReg_pwr (s : Blk) (r : Reg) (v : Word) : (s.putReg r v).pwr = s.pwr := rfl
@[simp] theorem Blk.putReg_lic (s : Blk) (r : Reg) (v : Word) : (s.putReg r v).lic = s.lic := rfl
@[simp] theorem Blk.putReg_boot (s : Blk) (r : Reg) (v : Word) : (s.putReg r v).boot = s.boot := rfl
@[simp] theorem Blk.putReg_colls (s : Blk) (r : Reg) (v : Word) : (s.putReg r v).colls = s.colls := rfl
@[simp] theorem Blk.putReg_port (s : Blk) (r : Reg) (v : Word) : (s.putReg r v).port = s.port := rfl
@[simp] theorem Blk.putReg_mem (s : Blk) (r : Reg) (v : Word) : (s.putReg r v).mem = s.mem := rfl
@[simp] theorem Blk.putReg_ceHot (s : Blk) (r : Reg) (v : Word) : (s.putReg r v).ceHot = s.ceHot := rfl
@[simp] theorem Blk.putReg_scrubAt (s : Blk) (r : Reg) (v : Word) : (s.putReg r v).scrubAt = s.scrubAt := rfl
@[simp] theorem Blk.putReg_stopped (s : Blk) (r : Reg) (v : Word) : (s.putReg r v).stopped = s.stopped := rfl
@[simp] theorem Blk.putReg_raised (s : Blk) (r : Reg) (v : Word) : (s.putReg r v).raised = s.raised := rfl
@[simp] theorem Blk.setReg_conf (s : Blk) (r : Reg) (v : Word) : (s.setReg r v).conf = s.conf := rfl
@[simp] theorem Blk.setReg_role (s : Blk) (r : Reg) (v : Word) : (s.setReg r v).role = s.role := rfl
@[simp] theorem Blk.setReg_inst (s : Blk) (r : Reg) (v : Word) : (s.setReg r v).inst = s.inst := rfl
@[simp] theorem Blk.setReg_inReset (s : Blk) (r : Reg) (v : Word) : (s.setReg r v).inReset = s.inReset := rfl
@[simp] theorem Blk.setReg_tclk (s : Blk) (r : Reg) (v : Word) : (s.setReg r v).tclk = s.tclk := rfl
@[simp] theorem Blk.setReg_draws (s : Blk) (r : Reg) (v : Word) : (s.setReg r v).draws = s.draws := rfl
@[simp] theorem Blk.setReg_rwb (s : Blk) (r : Reg) (v : Word) : (s.setReg r v).rwb = s.rwb := rfl
@[simp] theorem Blk.setReg_regPoi (s : Blk) (r : Reg) (v : Word) :
    (s.setReg r v).regPoi = s.regPoi.filter (fun p => decide (p.1 ≠ r.addr s.conf)) := rfl
@[simp] theorem Blk.setReg_cp (s : Blk) (r : Reg) (v : Word) : (s.setReg r v).cp = s.cp := rfl
@[simp] theorem Blk.setReg_time (s : Blk) (r : Reg) (v : Word) : (s.setReg r v).time = s.time := rfl
@[simp] theorem Blk.setReg_trk (s : Blk) (r : Reg) (v : Word) : (s.setReg r v).trk = s.trk := rfl
@[simp] theorem Blk.setReg_prb (s : Blk) (r : Reg) (v : Word) : (s.setReg r v).prb = s.prb := rfl
@[simp] theorem Blk.setReg_rcp (s : Blk) (r : Reg) (v : Word) : (s.setReg r v).rcp = s.rcp := rfl
@[simp] theorem Blk.setReg_trace (s : Blk) (r : Reg) (v : Word) : (s.setReg r v).trace = s.trace := rfl
@[simp] theorem Blk.setReg_qsc (s : Blk) (r : Reg) (v : Word) : (s.setReg r v).qsc = s.qsc := rfl
@[simp] theorem Blk.setReg_ctxs (s : Blk) (r : Reg) (v : Word) : (s.setReg r v).ctxs = s.ctxs := rfl
@[simp] theorem Blk.setReg_red (s : Blk) (r : Reg) (v : Word) : (s.setReg r v).red = s.red := rfl
@[simp] theorem Blk.setReg_sk (s : Blk) (r : Reg) (v : Word) : (s.setReg r v).sk = s.sk := rfl
@[simp] theorem Blk.setReg_tre (s : Blk) (r : Reg) (v : Word) : (s.setReg r v).tre = s.tre := rfl
@[simp] theorem Blk.setReg_ful (s : Blk) (r : Reg) (v : Word) : (s.setReg r v).ful = s.ful := rfl
@[simp] theorem Blk.setReg_hlt (s : Blk) (r : Reg) (v : Word) : (s.setReg r v).hlt = s.hlt := rfl
@[simp] theorem Blk.setReg_fwc (s : Blk) (r : Reg) (v : Word) : (s.setReg r v).fwc = s.fwc := rfl
@[simp] theorem Blk.setReg_pwr (s : Blk) (r : Reg) (v : Word) : (s.setReg r v).pwr = s.pwr := rfl
@[simp] theorem Blk.setReg_lic (s : Blk) (r : Reg) (v : Word) : (s.setReg r v).lic = s.lic := rfl
@[simp] theorem Blk.setReg_boot (s : Blk) (r : Reg) (v : Word) : (s.setReg r v).boot = s.boot := rfl
@[simp] theorem Blk.setReg_colls (s : Blk) (r : Reg) (v : Word) : (s.setReg r v).colls = s.colls := rfl
@[simp] theorem Blk.setReg_port (s : Blk) (r : Reg) (v : Word) : (s.setReg r v).port = s.port := rfl
@[simp] theorem Blk.setReg_mem (s : Blk) (r : Reg) (v : Word) : (s.setReg r v).mem = s.mem := rfl
@[simp] theorem Blk.setReg_ceHot (s : Blk) (r : Reg) (v : Word) : (s.setReg r v).ceHot = s.ceHot := rfl
@[simp] theorem Blk.setReg_scrubAt (s : Blk) (r : Reg) (v : Word) : (s.setReg r v).scrubAt = s.scrubAt := rfl
@[simp] theorem Blk.setReg_stopped (s : Blk) (r : Reg) (v : Word) : (s.setReg r v).stopped = s.stopped := rfl
@[simp] theorem Blk.setReg_raised (s : Blk) (r : Reg) (v : Word) : (s.setReg r v).raised = s.raised := rfl

@[simp] theorem Blk.setReg2_conf (s : Blk) (hi lo : Reg) (n : Nat) : (s.setReg2 hi lo n).conf = s.conf := rfl
@[simp] theorem Blk.setReg2_role (s : Blk) (hi lo : Reg) (n : Nat) : (s.setReg2 hi lo n).role = s.role := rfl
@[simp] theorem Blk.setReg2_inst (s : Blk) (hi lo : Reg) (n : Nat) : (s.setReg2 hi lo n).inst = s.inst := rfl
@[simp] theorem Blk.setReg2_inReset (s : Blk) (hi lo : Reg) (n : Nat) : (s.setReg2 hi lo n).inReset = s.inReset := rfl
@[simp] theorem Blk.setReg2_tclk (s : Blk) (hi lo : Reg) (n : Nat) : (s.setReg2 hi lo n).tclk = s.tclk := rfl
@[simp] theorem Blk.setReg2_draws (s : Blk) (hi lo : Reg) (n : Nat) : (s.setReg2 hi lo n).draws = s.draws := rfl
@[simp] theorem Blk.setReg2_rwb (s : Blk) (hi lo : Reg) (n : Nat) : (s.setReg2 hi lo n).rwb = s.rwb := rfl
@[simp] theorem Blk.setReg2_regPoi (s : Blk) (hi lo : Reg) (n : Nat) :
    (s.setReg2 hi lo n).regPoi =
      (s.regPoi.filter (fun p => decide (p.1 ≠ hi.addr s.conf))).filter (fun p => decide (p.1 ≠ lo.addr s.conf)) := rfl
@[simp] theorem Blk.setReg2_cp (s : Blk) (hi lo : Reg) (n : Nat) : (s.setReg2 hi lo n).cp = s.cp := rfl
@[simp] theorem Blk.setReg2_time (s : Blk) (hi lo : Reg) (n : Nat) : (s.setReg2 hi lo n).time = s.time := rfl
@[simp] theorem Blk.setReg2_trk (s : Blk) (hi lo : Reg) (n : Nat) : (s.setReg2 hi lo n).trk = s.trk := rfl
@[simp] theorem Blk.setReg2_prb (s : Blk) (hi lo : Reg) (n : Nat) : (s.setReg2 hi lo n).prb = s.prb := rfl
@[simp] theorem Blk.setReg2_rcp (s : Blk) (hi lo : Reg) (n : Nat) : (s.setReg2 hi lo n).rcp = s.rcp := rfl
@[simp] theorem Blk.setReg2_trace (s : Blk) (hi lo : Reg) (n : Nat) : (s.setReg2 hi lo n).trace = s.trace := rfl
@[simp] theorem Blk.setReg2_qsc (s : Blk) (hi lo : Reg) (n : Nat) : (s.setReg2 hi lo n).qsc = s.qsc := rfl
@[simp] theorem Blk.setReg2_ctxs (s : Blk) (hi lo : Reg) (n : Nat) : (s.setReg2 hi lo n).ctxs = s.ctxs := rfl
@[simp] theorem Blk.setReg2_red (s : Blk) (hi lo : Reg) (n : Nat) : (s.setReg2 hi lo n).red = s.red := rfl
@[simp] theorem Blk.setReg2_sk (s : Blk) (hi lo : Reg) (n : Nat) : (s.setReg2 hi lo n).sk = s.sk := rfl
@[simp] theorem Blk.setReg2_tre (s : Blk) (hi lo : Reg) (n : Nat) : (s.setReg2 hi lo n).tre = s.tre := rfl
@[simp] theorem Blk.setReg2_ful (s : Blk) (hi lo : Reg) (n : Nat) : (s.setReg2 hi lo n).ful = s.ful := rfl
@[simp] theorem Blk.setReg2_hlt (s : Blk) (hi lo : Reg) (n : Nat) : (s.setReg2 hi lo n).hlt = s.hlt := rfl
@[simp] theorem Blk.setReg2_fwc (s : Blk) (hi lo : Reg) (n : Nat) : (s.setReg2 hi lo n).fwc = s.fwc := rfl
@[simp] theorem Blk.setReg2_pwr (s : Blk) (hi lo : Reg) (n : Nat) : (s.setReg2 hi lo n).pwr = s.pwr := rfl
@[simp] theorem Blk.setReg2_lic (s : Blk) (hi lo : Reg) (n : Nat) : (s.setReg2 hi lo n).lic = s.lic := rfl
@[simp] theorem Blk.setReg2_boot (s : Blk) (hi lo : Reg) (n : Nat) : (s.setReg2 hi lo n).boot = s.boot := rfl
@[simp] theorem Blk.setReg2_colls (s : Blk) (hi lo : Reg) (n : Nat) : (s.setReg2 hi lo n).colls = s.colls := rfl
@[simp] theorem Blk.setReg2_port (s : Blk) (hi lo : Reg) (n : Nat) : (s.setReg2 hi lo n).port = s.port := rfl
@[simp] theorem Blk.setReg2_mem (s : Blk) (hi lo : Reg) (n : Nat) : (s.setReg2 hi lo n).mem = s.mem := rfl
@[simp] theorem Blk.setReg2_ceHot (s : Blk) (hi lo : Reg) (n : Nat) : (s.setReg2 hi lo n).ceHot = s.ceHot := rfl
@[simp] theorem Blk.setReg2_scrubAt (s : Blk) (hi lo : Reg) (n : Nat) : (s.setReg2 hi lo n).scrubAt = s.scrubAt := rfl
@[simp] theorem Blk.setReg2_stopped (s : Blk) (hi lo : Reg) (n : Nat) : (s.setReg2 hi lo n).stopped = s.stopped := rfl
@[simp] theorem Blk.setReg2_raised (s : Blk) (hi lo : Reg) (n : Nat) : (s.setReg2 hi lo n).raised = s.raised := rfl

@[simp] theorem Blk.count_conf (s : Blk) (r : Reg) (n : Nat) : (s.count r n).conf = s.conf := rfl
@[simp] theorem Blk.count_role (s : Blk) (r : Reg) (n : Nat) : (s.count r n).role = s.role := rfl
@[simp] theorem Blk.count_inst (s : Blk) (r : Reg) (n : Nat) : (s.count r n).inst = s.inst := rfl
@[simp] theorem Blk.count_inReset (s : Blk) (r : Reg) (n : Nat) : (s.count r n).inReset = s.inReset := rfl
@[simp] theorem Blk.count_tclk (s : Blk) (r : Reg) (n : Nat) : (s.count r n).tclk = s.tclk := rfl
@[simp] theorem Blk.count_draws (s : Blk) (r : Reg) (n : Nat) : (s.count r n).draws = s.draws := rfl
@[simp] theorem Blk.count_rwb (s : Blk) (r : Reg) (n : Nat) : (s.count r n).rwb = s.rwb := rfl
@[simp] theorem Blk.count_regPoi (s : Blk) (r : Reg) (n : Nat) : (s.count r n).regPoi = s.regPoi := rfl
@[simp] theorem Blk.count_cp (s : Blk) (r : Reg) (n : Nat) : (s.count r n).cp = s.cp := rfl
@[simp] theorem Blk.count_time (s : Blk) (r : Reg) (n : Nat) : (s.count r n).time = s.time := rfl
@[simp] theorem Blk.count_trk (s : Blk) (r : Reg) (n : Nat) : (s.count r n).trk = s.trk := rfl
@[simp] theorem Blk.count_prb (s : Blk) (r : Reg) (n : Nat) : (s.count r n).prb = s.prb := rfl
@[simp] theorem Blk.count_rcp (s : Blk) (r : Reg) (n : Nat) : (s.count r n).rcp = s.rcp := rfl
@[simp] theorem Blk.count_trace (s : Blk) (r : Reg) (n : Nat) : (s.count r n).trace = s.trace := rfl
@[simp] theorem Blk.count_qsc (s : Blk) (r : Reg) (n : Nat) : (s.count r n).qsc = s.qsc := rfl
@[simp] theorem Blk.count_ctxs (s : Blk) (r : Reg) (n : Nat) : (s.count r n).ctxs = s.ctxs := rfl
@[simp] theorem Blk.count_red (s : Blk) (r : Reg) (n : Nat) : (s.count r n).red = s.red := rfl
@[simp] theorem Blk.count_sk (s : Blk) (r : Reg) (n : Nat) : (s.count r n).sk = s.sk := rfl
@[simp] theorem Blk.count_tre (s : Blk) (r : Reg) (n : Nat) : (s.count r n).tre = s.tre := rfl
@[simp] theorem Blk.count_ful (s : Blk) (r : Reg) (n : Nat) : (s.count r n).ful = s.ful := rfl
@[simp] theorem Blk.count_hlt (s : Blk) (r : Reg) (n : Nat) : (s.count r n).hlt = s.hlt := rfl
@[simp] theorem Blk.count_fwc (s : Blk) (r : Reg) (n : Nat) : (s.count r n).fwc = s.fwc := rfl
@[simp] theorem Blk.count_pwr (s : Blk) (r : Reg) (n : Nat) : (s.count r n).pwr = s.pwr := rfl
@[simp] theorem Blk.count_lic (s : Blk) (r : Reg) (n : Nat) : (s.count r n).lic = s.lic := rfl
@[simp] theorem Blk.count_boot (s : Blk) (r : Reg) (n : Nat) : (s.count r n).boot = s.boot := rfl
@[simp] theorem Blk.count_colls (s : Blk) (r : Reg) (n : Nat) : (s.count r n).colls = s.colls := rfl
@[simp] theorem Blk.count_port (s : Blk) (r : Reg) (n : Nat) : (s.count r n).port = s.port := rfl
@[simp] theorem Blk.count_mem (s : Blk) (r : Reg) (n : Nat) : (s.count r n).mem = s.mem := rfl
@[simp] theorem Blk.count_ceHot (s : Blk) (r : Reg) (n : Nat) : (s.count r n).ceHot = s.ceHot := rfl
@[simp] theorem Blk.count_scrubAt (s : Blk) (r : Reg) (n : Nat) : (s.count r n).scrubAt = s.scrubAt := rfl
@[simp] theorem Blk.count_stopped (s : Blk) (r : Reg) (n : Nat) : (s.count r n).stopped = s.stopped := rfl
@[simp] theorem Blk.count_raised (s : Blk) (r : Reg) (n : Nat) : (s.count r n).raised = s.raised := rfl

@[simp] theorem Blk.setBits_conf (s : Blk) (r : Reg) (m : Word) : (s.setBits r m).conf = s.conf := rfl
@[simp] theorem Blk.setBits_role (s : Blk) (r : Reg) (m : Word) : (s.setBits r m).role = s.role := rfl
@[simp] theorem Blk.setBits_inst (s : Blk) (r : Reg) (m : Word) : (s.setBits r m).inst = s.inst := rfl
@[simp] theorem Blk.setBits_inReset (s : Blk) (r : Reg) (m : Word) : (s.setBits r m).inReset = s.inReset := rfl
@[simp] theorem Blk.setBits_tclk (s : Blk) (r : Reg) (m : Word) : (s.setBits r m).tclk = s.tclk := rfl
@[simp] theorem Blk.setBits_draws (s : Blk) (r : Reg) (m : Word) : (s.setBits r m).draws = s.draws := rfl
@[simp] theorem Blk.setBits_rwb (s : Blk) (r : Reg) (m : Word) : (s.setBits r m).rwb = s.rwb := rfl
@[simp] theorem Blk.setBits_regPoi (s : Blk) (r : Reg) (m : Word) : (s.setBits r m).regPoi = s.regPoi := rfl
@[simp] theorem Blk.setBits_cp (s : Blk) (r : Reg) (m : Word) : (s.setBits r m).cp = s.cp := rfl
@[simp] theorem Blk.setBits_time (s : Blk) (r : Reg) (m : Word) : (s.setBits r m).time = s.time := rfl
@[simp] theorem Blk.setBits_trk (s : Blk) (r : Reg) (m : Word) : (s.setBits r m).trk = s.trk := rfl
@[simp] theorem Blk.setBits_prb (s : Blk) (r : Reg) (m : Word) : (s.setBits r m).prb = s.prb := rfl
@[simp] theorem Blk.setBits_rcp (s : Blk) (r : Reg) (m : Word) : (s.setBits r m).rcp = s.rcp := rfl
@[simp] theorem Blk.setBits_trace (s : Blk) (r : Reg) (m : Word) : (s.setBits r m).trace = s.trace := rfl
@[simp] theorem Blk.setBits_qsc (s : Blk) (r : Reg) (m : Word) : (s.setBits r m).qsc = s.qsc := rfl
@[simp] theorem Blk.setBits_ctxs (s : Blk) (r : Reg) (m : Word) : (s.setBits r m).ctxs = s.ctxs := rfl
@[simp] theorem Blk.setBits_red (s : Blk) (r : Reg) (m : Word) : (s.setBits r m).red = s.red := rfl
@[simp] theorem Blk.setBits_sk (s : Blk) (r : Reg) (m : Word) : (s.setBits r m).sk = s.sk := rfl
@[simp] theorem Blk.setBits_tre (s : Blk) (r : Reg) (m : Word) : (s.setBits r m).tre = s.tre := rfl
@[simp] theorem Blk.setBits_ful (s : Blk) (r : Reg) (m : Word) : (s.setBits r m).ful = s.ful := rfl
@[simp] theorem Blk.setBits_hlt (s : Blk) (r : Reg) (m : Word) : (s.setBits r m).hlt = s.hlt := rfl
@[simp] theorem Blk.setBits_fwc (s : Blk) (r : Reg) (m : Word) : (s.setBits r m).fwc = s.fwc := rfl
@[simp] theorem Blk.setBits_pwr (s : Blk) (r : Reg) (m : Word) : (s.setBits r m).pwr = s.pwr := rfl
@[simp] theorem Blk.setBits_lic (s : Blk) (r : Reg) (m : Word) : (s.setBits r m).lic = s.lic := rfl
@[simp] theorem Blk.setBits_boot (s : Blk) (r : Reg) (m : Word) : (s.setBits r m).boot = s.boot := rfl
@[simp] theorem Blk.setBits_colls (s : Blk) (r : Reg) (m : Word) : (s.setBits r m).colls = s.colls := rfl
@[simp] theorem Blk.setBits_port (s : Blk) (r : Reg) (m : Word) : (s.setBits r m).port = s.port := rfl
@[simp] theorem Blk.setBits_mem (s : Blk) (r : Reg) (m : Word) : (s.setBits r m).mem = s.mem := rfl
@[simp] theorem Blk.setBits_ceHot (s : Blk) (r : Reg) (m : Word) : (s.setBits r m).ceHot = s.ceHot := rfl
@[simp] theorem Blk.setBits_scrubAt (s : Blk) (r : Reg) (m : Word) : (s.setBits r m).scrubAt = s.scrubAt := rfl
@[simp] theorem Blk.setBits_stopped (s : Blk) (r : Reg) (m : Word) : (s.setBits r m).stopped = s.stopped := rfl
@[simp] theorem Blk.setBits_raised (s : Blk) (r : Reg) (m : Word) : (s.setBits r m).raised = s.raised := rfl

@[simp] theorem Blk.emitEv_conf (s : Blk) (e : Ev) : (s.emitEv e).conf = s.conf := rfl
@[simp] theorem Blk.emitEv_role (s : Blk) (e : Ev) : (s.emitEv e).role = s.role := rfl
@[simp] theorem Blk.emitEv_inst (s : Blk) (e : Ev) : (s.emitEv e).inst = s.inst := rfl
@[simp] theorem Blk.emitEv_inReset (s : Blk) (e : Ev) : (s.emitEv e).inReset = s.inReset := rfl
@[simp] theorem Blk.emitEv_tclk (s : Blk) (e : Ev) : (s.emitEv e).tclk = s.tclk := rfl
@[simp] theorem Blk.emitEv_draws (s : Blk) (e : Ev) : (s.emitEv e).draws = s.draws := rfl
@[simp] theorem Blk.emitEv_regs (s : Blk) (e : Ev) : (s.emitEv e).regs = s.regs := rfl
@[simp] theorem Blk.emitEv_rwb (s : Blk) (e : Ev) : (s.emitEv e).rwb = s.rwb := rfl
@[simp] theorem Blk.emitEv_regPoi (s : Blk) (e : Ev) : (s.emitEv e).regPoi = s.regPoi := rfl
@[simp] theorem Blk.emitEv_cp (s : Blk) (e : Ev) : (s.emitEv e).cp = s.cp := rfl
@[simp] theorem Blk.emitEv_time (s : Blk) (e : Ev) : (s.emitEv e).time = s.time := rfl
@[simp] theorem Blk.emitEv_trk (s : Blk) (e : Ev) : (s.emitEv e).trk = s.trk := rfl
@[simp] theorem Blk.emitEv_prb (s : Blk) (e : Ev) : (s.emitEv e).prb = s.prb := rfl
@[simp] theorem Blk.emitEv_rcp (s : Blk) (e : Ev) : (s.emitEv e).rcp = s.rcp := rfl
@[simp] theorem Blk.emitEv_trace (s : Blk) (e : Ev) : (s.emitEv e).trace = s.trace := rfl
@[simp] theorem Blk.emitEv_qsc (s : Blk) (e : Ev) : (s.emitEv e).qsc = s.qsc := rfl
@[simp] theorem Blk.emitEv_ctxs (s : Blk) (e : Ev) : (s.emitEv e).ctxs = s.ctxs := rfl
@[simp] theorem Blk.emitEv_red (s : Blk) (e : Ev) : (s.emitEv e).red = s.red := rfl
@[simp] theorem Blk.emitEv_sk (s : Blk) (e : Ev) : (s.emitEv e).sk = s.sk := rfl
@[simp] theorem Blk.emitEv_tre (s : Blk) (e : Ev) : (s.emitEv e).tre = s.tre := rfl
@[simp] theorem Blk.emitEv_ful (s : Blk) (e : Ev) : (s.emitEv e).ful = s.ful := rfl
@[simp] theorem Blk.emitEv_hlt (s : Blk) (e : Ev) : (s.emitEv e).hlt = s.hlt := rfl
@[simp] theorem Blk.emitEv_fwc (s : Blk) (e : Ev) : (s.emitEv e).fwc = s.fwc := rfl
@[simp] theorem Blk.emitEv_pwr (s : Blk) (e : Ev) : (s.emitEv e).pwr = s.pwr := rfl
@[simp] theorem Blk.emitEv_lic (s : Blk) (e : Ev) : (s.emitEv e).lic = s.lic := rfl
@[simp] theorem Blk.emitEv_boot (s : Blk) (e : Ev) : (s.emitEv e).boot = s.boot := rfl
@[simp] theorem Blk.emitEv_colls (s : Blk) (e : Ev) : (s.emitEv e).colls = s.colls := rfl
@[simp] theorem Blk.emitEv_port (s : Blk) (e : Ev) : (s.emitEv e).port = s.port := rfl
@[simp] theorem Blk.emitEv_mem (s : Blk) (e : Ev) : (s.emitEv e).mem = s.mem := rfl
@[simp] theorem Blk.emitEv_ceHot (s : Blk) (e : Ev) : (s.emitEv e).ceHot = s.ceHot := rfl
@[simp] theorem Blk.emitEv_scrubAt (s : Blk) (e : Ev) : (s.emitEv e).scrubAt = s.scrubAt := rfl
@[simp] theorem Blk.emitEv_stopped (s : Blk) (e : Ev) : (s.emitEv e).stopped = s.stopped := rfl

@[simp] theorem Blk.emitAt_conf (s : Blk) (u i c a b : Nat) : (s.emitAt u i c a b).conf = s.conf := rfl
@[simp] theorem Blk.emitAt_role (s : Blk) (u i c a b : Nat) : (s.emitAt u i c a b).role = s.role := rfl
@[simp] theorem Blk.emitAt_inst (s : Blk) (u i c a b : Nat) : (s.emitAt u i c a b).inst = s.inst := rfl
@[simp] theorem Blk.emitAt_inReset (s : Blk) (u i c a b : Nat) : (s.emitAt u i c a b).inReset = s.inReset := rfl
@[simp] theorem Blk.emitAt_tclk (s : Blk) (u i c a b : Nat) : (s.emitAt u i c a b).tclk = s.tclk := rfl
@[simp] theorem Blk.emitAt_draws (s : Blk) (u i c a b : Nat) : (s.emitAt u i c a b).draws = s.draws := rfl
@[simp] theorem Blk.emitAt_regs (s : Blk) (u i c a b : Nat) : (s.emitAt u i c a b).regs = s.regs := rfl
@[simp] theorem Blk.emitAt_rwb (s : Blk) (u i c a b : Nat) : (s.emitAt u i c a b).rwb = s.rwb := rfl
@[simp] theorem Blk.emitAt_regPoi (s : Blk) (u i c a b : Nat) : (s.emitAt u i c a b).regPoi = s.regPoi := rfl
@[simp] theorem Blk.emitAt_cp (s : Blk) (u i c a b : Nat) : (s.emitAt u i c a b).cp = s.cp := rfl
@[simp] theorem Blk.emitAt_time (s : Blk) (u i c a b : Nat) : (s.emitAt u i c a b).time = s.time := rfl
@[simp] theorem Blk.emitAt_trk (s : Blk) (u i c a b : Nat) : (s.emitAt u i c a b).trk = s.trk := rfl
@[simp] theorem Blk.emitAt_prb (s : Blk) (u i c a b : Nat) : (s.emitAt u i c a b).prb = s.prb := rfl
@[simp] theorem Blk.emitAt_rcp (s : Blk) (u i c a b : Nat) : (s.emitAt u i c a b).rcp = s.rcp := rfl
@[simp] theorem Blk.emitAt_trace (s : Blk) (u i c a b : Nat) : (s.emitAt u i c a b).trace = s.trace := rfl
@[simp] theorem Blk.emitAt_qsc (s : Blk) (u i c a b : Nat) : (s.emitAt u i c a b).qsc = s.qsc := rfl
@[simp] theorem Blk.emitAt_ctxs (s : Blk) (u i c a b : Nat) : (s.emitAt u i c a b).ctxs = s.ctxs := rfl
@[simp] theorem Blk.emitAt_red (s : Blk) (u i c a b : Nat) : (s.emitAt u i c a b).red = s.red := rfl
@[simp] theorem Blk.emitAt_sk (s : Blk) (u i c a b : Nat) : (s.emitAt u i c a b).sk = s.sk := rfl
@[simp] theorem Blk.emitAt_tre (s : Blk) (u i c a b : Nat) : (s.emitAt u i c a b).tre = s.tre := rfl
@[simp] theorem Blk.emitAt_ful (s : Blk) (u i c a b : Nat) : (s.emitAt u i c a b).ful = s.ful := rfl
@[simp] theorem Blk.emitAt_hlt (s : Blk) (u i c a b : Nat) : (s.emitAt u i c a b).hlt = s.hlt := rfl
@[simp] theorem Blk.emitAt_fwc (s : Blk) (u i c a b : Nat) : (s.emitAt u i c a b).fwc = s.fwc := rfl
@[simp] theorem Blk.emitAt_pwr (s : Blk) (u i c a b : Nat) : (s.emitAt u i c a b).pwr = s.pwr := rfl
@[simp] theorem Blk.emitAt_lic (s : Blk) (u i c a b : Nat) : (s.emitAt u i c a b).lic = s.lic := rfl
@[simp] theorem Blk.emitAt_boot (s : Blk) (u i c a b : Nat) : (s.emitAt u i c a b).boot = s.boot := rfl
@[simp] theorem Blk.emitAt_colls (s : Blk) (u i c a b : Nat) : (s.emitAt u i c a b).colls = s.colls := rfl
@[simp] theorem Blk.emitAt_port (s : Blk) (u i c a b : Nat) : (s.emitAt u i c a b).port = s.port := rfl
@[simp] theorem Blk.emitAt_mem (s : Blk) (u i c a b : Nat) : (s.emitAt u i c a b).mem = s.mem := rfl
@[simp] theorem Blk.emitAt_ceHot (s : Blk) (u i c a b : Nat) : (s.emitAt u i c a b).ceHot = s.ceHot := rfl
@[simp] theorem Blk.emitAt_scrubAt (s : Blk) (u i c a b : Nat) : (s.emitAt u i c a b).scrubAt = s.scrubAt := rfl
@[simp] theorem Blk.emitAt_stopped (s : Blk) (u i c a b : Nat) : (s.emitAt u i c a b).stopped = s.stopped := rfl

@[simp] theorem Blk.emit_conf (s : Blk) (u c a b : Nat) : (s.emit u c a b).conf = s.conf := rfl
@[simp] theorem Blk.emit_role (s : Blk) (u c a b : Nat) : (s.emit u c a b).role = s.role := rfl
@[simp] theorem Blk.emit_inst (s : Blk) (u c a b : Nat) : (s.emit u c a b).inst = s.inst := rfl
@[simp] theorem Blk.emit_inReset (s : Blk) (u c a b : Nat) : (s.emit u c a b).inReset = s.inReset := rfl
@[simp] theorem Blk.emit_tclk (s : Blk) (u c a b : Nat) : (s.emit u c a b).tclk = s.tclk := rfl
@[simp] theorem Blk.emit_draws (s : Blk) (u c a b : Nat) : (s.emit u c a b).draws = s.draws := rfl
@[simp] theorem Blk.emit_regs (s : Blk) (u c a b : Nat) : (s.emit u c a b).regs = s.regs := rfl
@[simp] theorem Blk.emit_rwb (s : Blk) (u c a b : Nat) : (s.emit u c a b).rwb = s.rwb := rfl
@[simp] theorem Blk.emit_regPoi (s : Blk) (u c a b : Nat) : (s.emit u c a b).regPoi = s.regPoi := rfl
@[simp] theorem Blk.emit_cp (s : Blk) (u c a b : Nat) : (s.emit u c a b).cp = s.cp := rfl
@[simp] theorem Blk.emit_time (s : Blk) (u c a b : Nat) : (s.emit u c a b).time = s.time := rfl
@[simp] theorem Blk.emit_trk (s : Blk) (u c a b : Nat) : (s.emit u c a b).trk = s.trk := rfl
@[simp] theorem Blk.emit_prb (s : Blk) (u c a b : Nat) : (s.emit u c a b).prb = s.prb := rfl
@[simp] theorem Blk.emit_rcp (s : Blk) (u c a b : Nat) : (s.emit u c a b).rcp = s.rcp := rfl
@[simp] theorem Blk.emit_trace (s : Blk) (u c a b : Nat) : (s.emit u c a b).trace = s.trace := rfl
@[simp] theorem Blk.emit_qsc (s : Blk) (u c a b : Nat) : (s.emit u c a b).qsc = s.qsc := rfl
@[simp] theorem Blk.emit_ctxs (s : Blk) (u c a b : Nat) : (s.emit u c a b).ctxs = s.ctxs := rfl
@[simp] theorem Blk.emit_red (s : Blk) (u c a b : Nat) : (s.emit u c a b).red = s.red := rfl
@[simp] theorem Blk.emit_sk (s : Blk) (u c a b : Nat) : (s.emit u c a b).sk = s.sk := rfl
@[simp] theorem Blk.emit_tre (s : Blk) (u c a b : Nat) : (s.emit u c a b).tre = s.tre := rfl
@[simp] theorem Blk.emit_ful (s : Blk) (u c a b : Nat) : (s.emit u c a b).ful = s.ful := rfl
@[simp] theorem Blk.emit_hlt (s : Blk) (u c a b : Nat) : (s.emit u c a b).hlt = s.hlt := rfl
@[simp] theorem Blk.emit_fwc (s : Blk) (u c a b : Nat) : (s.emit u c a b).fwc = s.fwc := rfl
@[simp] theorem Blk.emit_pwr (s : Blk) (u c a b : Nat) : (s.emit u c a b).pwr = s.pwr := rfl
@[simp] theorem Blk.emit_lic (s : Blk) (u c a b : Nat) : (s.emit u c a b).lic = s.lic := rfl
@[simp] theorem Blk.emit_boot (s : Blk) (u c a b : Nat) : (s.emit u c a b).boot = s.boot := rfl
@[simp] theorem Blk.emit_colls (s : Blk) (u c a b : Nat) : (s.emit u c a b).colls = s.colls := rfl
@[simp] theorem Blk.emit_port (s : Blk) (u c a b : Nat) : (s.emit u c a b).port = s.port := rfl
@[simp] theorem Blk.emit_mem (s : Blk) (u c a b : Nat) : (s.emit u c a b).mem = s.mem := rfl
@[simp] theorem Blk.emit_ceHot (s : Blk) (u c a b : Nat) : (s.emit u c a b).ceHot = s.ceHot := rfl
@[simp] theorem Blk.emit_scrubAt (s : Blk) (u c a b : Nat) : (s.emit u c a b).scrubAt = s.scrubAt := rfl
@[simp] theorem Blk.emit_stopped (s : Blk) (u c a b : Nat) : (s.emit u c a b).stopped = s.stopped := rfl

@[simp] theorem Blk.emitCore_conf (s : Blk) (x c a b : Nat) : (s.emitCore x c a b).conf = s.conf := rfl
@[simp] theorem Blk.emitCore_role (s : Blk) (x c a b : Nat) : (s.emitCore x c a b).role = s.role := rfl
@[simp] theorem Blk.emitCore_inst (s : Blk) (x c a b : Nat) : (s.emitCore x c a b).inst = s.inst := rfl
@[simp] theorem Blk.emitCore_inReset (s : Blk) (x c a b : Nat) : (s.emitCore x c a b).inReset = s.inReset := rfl
@[simp] theorem Blk.emitCore_tclk (s : Blk) (x c a b : Nat) : (s.emitCore x c a b).tclk = s.tclk := rfl
@[simp] theorem Blk.emitCore_draws (s : Blk) (x c a b : Nat) : (s.emitCore x c a b).draws = s.draws := rfl
@[simp] theorem Blk.emitCore_regs (s : Blk) (x c a b : Nat) : (s.emitCore x c a b).regs = s.regs := rfl
@[simp] theorem Blk.emitCore_rwb (s : Blk) (x c a b : Nat) : (s.emitCore x c a b).rwb = s.rwb := rfl
@[simp] theorem Blk.emitCore_regPoi (s : Blk) (x c a b : Nat) : (s.emitCore x c a b).regPoi = s.regPoi := rfl
@[simp] theorem Blk.emitCore_cp (s : Blk) (x c a b : Nat) : (s.emitCore x c a b).cp = s.cp := rfl
@[simp] theorem Blk.emitCore_time (s : Blk) (x c a b : Nat) : (s.emitCore x c a b).time = s.time := rfl
@[simp] theorem Blk.emitCore_trk (s : Blk) (x c a b : Nat) : (s.emitCore x c a b).trk = s.trk := rfl
@[simp] theorem Blk.emitCore_prb (s : Blk) (x c a b : Nat) : (s.emitCore x c a b).prb = s.prb := rfl
@[simp] theorem Blk.emitCore_rcp (s : Blk) (x c a b : Nat) : (s.emitCore x c a b).rcp = s.rcp := rfl
@[simp] theorem Blk.emitCore_trace (s : Blk) (x c a b : Nat) : (s.emitCore x c a b).trace = s.trace := rfl
@[simp] theorem Blk.emitCore_qsc (s : Blk) (x c a b : Nat) : (s.emitCore x c a b).qsc = s.qsc := rfl
@[simp] theorem Blk.emitCore_ctxs (s : Blk) (x c a b : Nat) : (s.emitCore x c a b).ctxs = s.ctxs := rfl
@[simp] theorem Blk.emitCore_red (s : Blk) (x c a b : Nat) : (s.emitCore x c a b).red = s.red := rfl
@[simp] theorem Blk.emitCore_sk (s : Blk) (x c a b : Nat) : (s.emitCore x c a b).sk = s.sk := rfl
@[simp] theorem Blk.emitCore_tre (s : Blk) (x c a b : Nat) : (s.emitCore x c a b).tre = s.tre := rfl
@[simp] theorem Blk.emitCore_ful (s : Blk) (x c a b : Nat) : (s.emitCore x c a b).ful = s.ful := rfl
@[simp] theorem Blk.emitCore_hlt (s : Blk) (x c a b : Nat) : (s.emitCore x c a b).hlt = s.hlt := rfl
@[simp] theorem Blk.emitCore_fwc (s : Blk) (x c a b : Nat) : (s.emitCore x c a b).fwc = s.fwc := rfl
@[simp] theorem Blk.emitCore_pwr (s : Blk) (x c a b : Nat) : (s.emitCore x c a b).pwr = s.pwr := rfl
@[simp] theorem Blk.emitCore_lic (s : Blk) (x c a b : Nat) : (s.emitCore x c a b).lic = s.lic := rfl
@[simp] theorem Blk.emitCore_boot (s : Blk) (x c a b : Nat) : (s.emitCore x c a b).boot = s.boot := rfl
@[simp] theorem Blk.emitCore_colls (s : Blk) (x c a b : Nat) : (s.emitCore x c a b).colls = s.colls := rfl
@[simp] theorem Blk.emitCore_port (s : Blk) (x c a b : Nat) : (s.emitCore x c a b).port = s.port := rfl
@[simp] theorem Blk.emitCore_mem (s : Blk) (x c a b : Nat) : (s.emitCore x c a b).mem = s.mem := rfl
@[simp] theorem Blk.emitCore_ceHot (s : Blk) (x c a b : Nat) : (s.emitCore x c a b).ceHot = s.ceHot := rfl
@[simp] theorem Blk.emitCore_scrubAt (s : Blk) (x c a b : Nat) : (s.emitCore x c a b).scrubAt = s.scrubAt := rfl
@[simp] theorem Blk.emitCore_stopped (s : Blk) (x c a b : Nat) : (s.emitCore x c a b).stopped = s.stopped := rfl

@[simp] theorem Blk.clearBusy_conf (s : Blk) (d : Domain) : (s.clearBusy d).conf = s.conf := rfl
@[simp] theorem Blk.clearBusy_role (s : Blk) (d : Domain) : (s.clearBusy d).role = s.role := rfl
@[simp] theorem Blk.clearBusy_inst (s : Blk) (d : Domain) : (s.clearBusy d).inst = s.inst := rfl
@[simp] theorem Blk.clearBusy_inReset (s : Blk) (d : Domain) : (s.clearBusy d).inReset = s.inReset := rfl
@[simp] theorem Blk.clearBusy_tclk (s : Blk) (d : Domain) : (s.clearBusy d).tclk = s.tclk := rfl
@[simp] theorem Blk.clearBusy_draws (s : Blk) (d : Domain) : (s.clearBusy d).draws = s.draws := rfl
@[simp] theorem Blk.clearBusy_regs (s : Blk) (d : Domain) : (s.clearBusy d).regs = s.regs := rfl
@[simp] theorem Blk.clearBusy_rwb (s : Blk) (d : Domain) : (s.clearBusy d).rwb = s.rwb := rfl
@[simp] theorem Blk.clearBusy_regPoi (s : Blk) (d : Domain) : (s.clearBusy d).regPoi = s.regPoi := rfl
@[simp] theorem Blk.clearBusy_time (s : Blk) (d : Domain) : (s.clearBusy d).time = s.time := rfl
@[simp] theorem Blk.clearBusy_trk (s : Blk) (d : Domain) : (s.clearBusy d).trk = s.trk := rfl
@[simp] theorem Blk.clearBusy_prb (s : Blk) (d : Domain) : (s.clearBusy d).prb = s.prb := rfl
@[simp] theorem Blk.clearBusy_rcp (s : Blk) (d : Domain) : (s.clearBusy d).rcp = s.rcp := rfl
@[simp] theorem Blk.clearBusy_trace (s : Blk) (d : Domain) : (s.clearBusy d).trace = s.trace := rfl
@[simp] theorem Blk.clearBusy_qsc (s : Blk) (d : Domain) : (s.clearBusy d).qsc = s.qsc := rfl
@[simp] theorem Blk.clearBusy_ctxs (s : Blk) (d : Domain) : (s.clearBusy d).ctxs = s.ctxs := rfl
@[simp] theorem Blk.clearBusy_red (s : Blk) (d : Domain) : (s.clearBusy d).red = s.red := rfl
@[simp] theorem Blk.clearBusy_sk (s : Blk) (d : Domain) : (s.clearBusy d).sk = s.sk := rfl
@[simp] theorem Blk.clearBusy_tre (s : Blk) (d : Domain) : (s.clearBusy d).tre = s.tre := rfl
@[simp] theorem Blk.clearBusy_ful (s : Blk) (d : Domain) : (s.clearBusy d).ful = s.ful := rfl
@[simp] theorem Blk.clearBusy_hlt (s : Blk) (d : Domain) : (s.clearBusy d).hlt = s.hlt := rfl
@[simp] theorem Blk.clearBusy_fwc (s : Blk) (d : Domain) : (s.clearBusy d).fwc = s.fwc := rfl
@[simp] theorem Blk.clearBusy_pwr (s : Blk) (d : Domain) : (s.clearBusy d).pwr = s.pwr := rfl
@[simp] theorem Blk.clearBusy_lic (s : Blk) (d : Domain) : (s.clearBusy d).lic = s.lic := rfl
@[simp] theorem Blk.clearBusy_boot (s : Blk) (d : Domain) : (s.clearBusy d).boot = s.boot := rfl
@[simp] theorem Blk.clearBusy_colls (s : Blk) (d : Domain) : (s.clearBusy d).colls = s.colls := rfl
@[simp] theorem Blk.clearBusy_port (s : Blk) (d : Domain) : (s.clearBusy d).port = s.port := rfl
@[simp] theorem Blk.clearBusy_mem (s : Blk) (d : Domain) : (s.clearBusy d).mem = s.mem := rfl
@[simp] theorem Blk.clearBusy_ceHot (s : Blk) (d : Domain) : (s.clearBusy d).ceHot = s.ceHot := rfl
@[simp] theorem Blk.clearBusy_scrubAt (s : Blk) (d : Domain) : (s.clearBusy d).scrubAt = s.scrubAt := rfl
@[simp] theorem Blk.clearBusy_stopped (s : Blk) (d : Domain) : (s.clearBusy d).stopped = s.stopped := rfl
@[simp] theorem Blk.clearBusy_raised (s : Blk) (d : Domain) : (s.clearBusy d).raised = s.raised := rfl

end Sys2Proof.Machine
end

