-- ==== Sys2Proof/Laws/Memory.lean ====
section
/-!
SUPPORT. What observers see of the memories (R153): how stores, requests on the XM port and the stores that only some observers see
change it.
-/

namespace Sys2Proof.Machine

@[simp] theorem MemState.setSram_seen (m : MemState) (sp : Space) (d : Mem) (p : Store Bool) : (m.setSram sp d p).seen = m.seen := by cases sp <;> rfl

@[simp] theorem Blk.spPut_seen (s : Blk) (sp : Space) (o : Nat) (bs : List (Byte × Bool)) :
    (s.spPut sp o bs).mem.seen = s.mem.seen := by
  unfold Blk.spPut; dsimp only; split
  · rw [Blk.count_mem]; exact MemState.setSram_seen _ _ _ _
  · exact MemState.setSram_seen _ _ _ _

/-- Two blocks with the same pool, CSM and XM, poison included. -/
def SameMemory (a b : Blk) : Prop := a.mem.pool = b.mem.pool ∧ a.mem.poolPoi = b.mem.poolPoi ∧ a.mem.csm = b.mem.csm ∧ a.mem.csmPoi = b.mem.csmPoi ∧
  a.mem.xm = b.mem.xm ∧ a.mem.xmPoi = b.mem.xmPoi

/-- A store into two memories that agree leaves two that agree. -/
theorem Blk.spPut_same {a b : Blk} (h : SameMemory a b) (sp : Space) (o : Nat) (bs : List (Byte × Bool)) : SameMemory (a.spPut sp o bs) (b.spPut sp o bs) := by
  obtain ⟨h1,h2,h3,h4,h5,h6⟩ := h
  cases sp <;> simp only [Blk.spPut, SameMemory, Blk.count_mem, reduceCtorEq, if_false, if_true] <;>
    simp [Blk.modMem, MemState.sram, MemState.setSram, h1,h2,h3,h4,h5,h6]

theorem seen_foldl_same (o : Nat) (l : List SeenStore) {a b : Blk} (h : SameMemory a b) :
    SameMemory (l.foldl (fun (s : Blk) e => if e.seen.contains o then s.spPut e.sp e.addr e.data else s) a)
          (l.foldl (fun (s : Blk) e => if e.seen.contains o then s.spPut e.sp e.addr e.data else s) b) := by
  induction l generalizing a b with
  | nil => exact h
  | cons e l ih =>
    simp only [List.foldl_cons]
    split
    · exact ih (Blk.spPut_same h _ _ _)
    · exact ih h

/-- Stores into a DS slice leave the other memories and the stores that only some observers see. -/
theorem dsPuts_same (i : Nat) (l : List BufStore) (h : ∀ b ∈ l, b.sp = .ds i) (s : Blk) :
    SameMemory (l.foldl (fun (s : Blk) b => s.spPut b.sp b.addr b.data) s) s ∧
    (l.foldl (fun (s : Blk) b => s.spPut b.sp b.addr b.data) s).mem.seen = s.mem.seen := by
  induction l generalizing s with
  | nil => exact ⟨⟨rfl,rfl,rfl,rfl,rfl,rfl⟩, rfl⟩
  | cons b l ih =>
    simp only [List.foldl_cons]
    have h1 : SameMemory (s.spPut b.sp b.addr b.data) s := by
      rw [h b (by simp)]; exact ⟨rfl,rfl,rfl,rfl,rfl,rfl⟩
    obtain ⟨⟨a1,a2,a3,a4,a5,a6⟩, a7⟩ := ih (fun c hc => h c (by simp [hc])) (s.spPut b.sp b.addr b.data)
    obtain ⟨b1,b2,b3,b4,b5,b6⟩ := h1
    exact ⟨⟨a1.trans b1,a2.trans b2,a3.trans b3,a4.trans b4,a5.trans b5,a6.trans b6⟩, a7.trans (by rw [h b (by simp)]; rfl)⟩

/-- Stores that an observer does not see change nothing of what it sees. -/
theorem Blk.seenBy_same {a b : Blk} (h : SameMemory a b) (o : Nat) (l : List SeenStore) (hl : ∀ e ∈ l, e.seen.contains o = false)
    (hs : a.mem.seen = b.mem.seen ++ l) : SameMemory (a.seenBy o) (b.seenBy o) := by
  show SameMemory (List.foldl _ a a.mem.seen) (List.foldl _ b b.mem.seen)
  rw [hs, List.foldl_append]
  have : ∀ (l : List SeenStore) (c : Blk), (∀ e ∈ l, e.seen.contains o = false) →
      l.foldl (fun (s : Blk) e => if e.seen.contains o then s.spPut e.sp e.addr e.data else s) c = c := by
    intro l; induction l with
    | nil => intros; rfl
    | cons e l ih => intro c hc; simp only [List.foldl_cons]; rw [hc e (by simp)]; exact ih c (fun x hx => hc x (by simp [hx]))
  rw [this l _ hl]
  exact seen_foldl_same o _ h

/-- A request on the XM port leaves the memories. -/
theorem Blk.xmReq_same (s : Blk) (i c l : Nat) (w : Bool) : SameMemory (s.xmReq i c l w) s ∧ (s.xmReq i c l w).mem.seen = s.mem.seen := by
  unfold Blk.xmReq; split <;> exact ⟨⟨rfl,rfl,rfl,rfl,rfl,rfl⟩, rfl⟩

theorem xmReqs_same (i c : Nat) (w : Bool) (l : List Nat) (s : Blk) : SameMemory (l.foldl (fun (s : Blk) l => s.xmReq i c l w) s) s ∧
    (l.foldl (fun (s : Blk) l => s.xmReq i c l w) s).mem.seen = s.mem.seen := by
  induction l generalizing s with
  | nil => exact ⟨⟨rfl,rfl,rfl,rfl,rfl,rfl⟩, rfl⟩
  | cons b l ih =>
    obtain ⟨⟨a1,a2,a3,a4,a5,a6⟩, a7⟩ := ih (s.xmReq i c b w)
    obtain ⟨⟨b1,b2,b3,b4,b5,b6⟩, b7⟩ := Blk.xmReq_same s i c b w
    exact ⟨⟨a1.trans b1,a2.trans b2,a3.trans b3,a4.trans b4,a5.trans b5,a6.trans b6⟩, a7.trans b7⟩

/-- What is left of a store is a store of the same context. -/
theorem SeenStore.cut_ctx (e : SeenStore) (sp : Space) (a n : Nat) : ∀ f ∈ e.cut sp a n, f.ctx = e.ctx := by
  intro f hf; unfold SeenStore.cut at hf; split at hf
  · simp at hf; rw [hf]
  · have := (List.mem_filter.1 hf).1; simp at this; rcases this with h | h <;> rw [h]

end Sys2Proof.Machine
end

