-- ==== Sys2Proof/Laws/Queue.lean ====
section
/-!
SUPPORT. What the sending of a frame changes: the queue scheduler, registers, XM where the frame spills, and what is raised, and nothing
else of the units.
-/

namespace Sys2Proof.Machine

/-- From `s` to `t` nothing has changed but the queue scheduler, registers, XM and what is raised. -/
def QueueOnly (s t : Blk) : Prop :=
  t = { s with qsc := t.qsc, regs := t.regs, regPoi := t.regPoi, raised := t.raised,
               mem := { s.mem with xm := t.mem.xm, xmPoi := t.mem.xmPoi } }

theorem QueueOnly.refl (s : Blk) : QueueOnly s s := by unfold QueueOnly; rfl

theorem QueueOnly.trans {s t u : Blk} (h : QueueOnly s t) (k : QueueOnly t u) : QueueOnly s u := by
  unfold QueueOnly at *
  rw [h] at k
  exact k

theorem queueOnly_foldl {α : Type} (f : Blk → α → Blk) (h : ∀ s a, QueueOnly s (f s a)) (l : List α) (s : Blk) :
    QueueOnly s (l.foldl f s) := by
  induction l generalizing s with
  | nil => exact .refl s
  | cons a t ih => exact (h s a).trans (ih _)

theorem queueOnly_modQsc (s : Blk) (f : QscState → QscState) : QueueOnly s (s.modQsc f) := by unfold QueueOnly; rfl
theorem queueOnly_setQ (s : Blk) (q : Nat) (v : Queue) : QueueOnly s (s.setQ q v) := queueOnly_modQsc _ _
theorem queueOnly_modQ (s : Blk) (q : Nat) (f : Queue → Queue) : QueueOnly s (s.modQ q f) := by
  unfold Blk.modQ; exact queueOnly_setQ _ _ _
theorem queueOnly_setReg (s : Blk) (r : Reg) (v : Word) : QueueOnly s (s.setReg r v) := by unfold QueueOnly; rfl
theorem queueOnly_count (s : Blk) (r : Reg) (n : Nat) : QueueOnly s (s.count r n) := by unfold QueueOnly; rfl
theorem queueOnly_emit (s : Blk) (u c a b : Nat) : QueueOnly s (s.emit u c a b) := by unfold QueueOnly; rfl

theorem queueOnly_qMark (s : Blk) (q : Nat) (t : Int) : QueueOnly s (s.qMark q t) := by
  unfold Blk.qMark
  split
  · exact queueOnly_modQ _ _ _
  · exact .refl _

theorem queueOnly_bankCount (s : Blk) (bs : List Nat) : QueueOnly s (s.bankCount bs) :=
  queueOnly_foldl _ (fun _ _ => queueOnly_modQsc _ _) _ _

theorem queueOnly_bankPut (s : Blk) (q n : Nat) : QueueOnly s (s.bankPut q n).2 :=
  (queueOnly_modQ _ _ _).trans (queueOnly_bankCount _ _)

theorem queueOnly_setXmPoi (s : Blk) (f : Store Bool → Store Bool) :
    QueueOnly s (s.modMem (fun m => { m with xmPoi := f m.xmPoi })) := by unfold QueueOnly; rfl

theorem queueOnly_xmWrite (s : Blk) (a : Nat) (bs : List Byte) (poi : Bool) : QueueOnly s (s.xmWrite a bs poi) := by
  unfold Blk.xmWrite
  dsimp only
  have h : QueueOnly s (s.modMem (fun m => { m with xm := Mem.wrN m.xm a bs })) := by unfold QueueOnly; rfl
  refine h.trans ?_
  split
  · exact (queueOnly_foldl _ (fun s l => queueOnly_setXmPoi s (fun m => Store.set false m l true)) _ _).trans (queueOnly_count _ _ _)
  · exact queueOnly_foldl _ (fun s l => queueOnly_setXmPoi s (fun m => Store.set false m l false)) _ _

theorem queueOnly_spillPut (s : Blk) (q n : Nat) (bs : List Byte) (bad : Nat → Bool) : QueueOnly s (s.spillPut q n bs bad).2 := by
  unfold Blk.spillPut
  dsimp only
  exact ((queueOnly_foldl _ (fun s k => queueOnly_xmWrite _ _ _ _) _ _).trans (queueOnly_count _ _ _)).trans (queueOnly_modQsc _ _)

theorem queueOnly_spillEvent (s : Blk) (q : Nat) : QueueOnly s (s.spillEvent q) := by
  unfold Blk.spillEvent
  dsimp only
  have h : ∀ u x, QueueOnly s ((s.modQsc (fun m => { m with spillEvAt := some u })).emit 0xC 0x0D03 q x) :=
    fun _ _ => (queueOnly_modQsc _ _).trans (queueOnly_emit _ _ _ _ _)
  split <;> split <;> first | exact h _ _ | exact .refl _

theorem queueOnly_blockQueue (s : Blk) (c : Nat) (p : Word) (o : Nat) : QueueOnly s (s.blockQueue c p o).2 := by
  unfold Blk.blockQueue
  split
  · exact .refl _
  · split
    · exact .refl _
    · exact (queueOnly_setReg _ _ _).trans (queueOnly_setQ _ _ _)

theorem queueOnly_openFlow (s t : Blk) (r : Bool) (c : Nat) (p : Word) (o n : Nat) (k : Option Nat)
    (h : s.openFlow r c p o n k = some t) : QueueOnly s t := by
  unfold Blk.openFlow at h
  dsimp only at h
  split at h
  · cases h; exact queueOnly_modQsc _ _
  · split at h
    · cases h
    · split at h
      · cases h
      · have hb := queueOnly_blockQueue s (if r = true then 1 else c) p o
        split at h
        · cases h
        · rename_i e
          rw [e] at hb
          cases h
          exact hb.trans (queueOnly_modQsc _ _)

theorem queueOnly_openFirst (s : Blk) (r : Bool) (c f : Nat) (p : Word) (o : Nat) : QueueOnly s (s.openFirst r c f p o) := by
  unfold Blk.openFirst
  split
  · rcases h : s.openFlow r c p o 0 none with _ | t
    · exact .refl _
    · exact queueOnly_openFlow _ _ _ _ _ _ _ _ h
  · exact .refl _

theorem queueOnly_putFrame (s : Blk) (q : Nat) (f : Frame) : QueueOnly s (s.putFrame q f) := by
  unfold Blk.putFrame
  split
  · exact ((queueOnly_spillPut _ _ _ _ _).trans (queueOnly_modQ _ _ _)).trans (queueOnly_spillEvent _ _)
  · exact (queueOnly_bankPut _ _ _).trans (queueOnly_modQ _ _ _)

theorem queueOnly_enqFrame (s : Blk) (q : Nat) (f : Frame) : QueueOnly s (s.enqFrame q f) :=
  (queueOnly_putFrame _ _ _).trans (queueOnly_qMark _ _ _)

/-- Sending a frame. -/
theorem queueOnly_sendMsg (s : Blk) (c : Nat) (d : Word) (r f : Nat) (k : Option (Nat × BitVec 16)) (p : List Byte) (m : Dword)
    (t : Option Word) : QueueOnly s (s.sendMsg c d r f k p m t) := by
  unfold Blk.sendMsg
  have h := (queueOnly_openFirst s false c f d r).trans (queueOnly_blockQueue (s.openFirst false c f d r) c d r)
  split
  · rename_i u e; rw [e] at h; exact h
  · rename_i q u e; rw [e] at h; exact h.trans (queueOnly_enqFrame _ _ _)

/-- A queue that is changed, and every other queue. -/
theorem Blk.q_modQ (s : Blk) (q p : Nat) (f : Queue → Queue) : (s.modQ q f).q p = if p = q then f (s.q q) else s.q p := by
  simp [Blk.q, Blk.modQ, Blk.setQ, Blk.modQsc]

/-- What keeps the whole queue scheduler keeps every queue. -/
theorem Blk.q_congr {s t : Blk} (h : t.qsc.queues = s.qsc.queues) (p : Nat) : t.q p = s.q p := by simp [Blk.q, h]

theorem queues_foldl {α : Type} (f : Blk → α → Blk) (h : ∀ s a, (f s a).qsc.queues = s.qsc.queues) (l : List α) (s : Blk) :
    (l.foldl f s).qsc.queues = s.qsc.queues := by
  induction l generalizing s with
  | nil => rfl
  | cons a t ih => exact (ih _).trans (h s a)

theorem Blk.bankCount_queues (s : Blk) (bs : List Nat) : (s.bankCount bs).qsc.queues = s.qsc.queues := by
  refine queues_foldl _ ?_ _ _
  intro s b; rfl

theorem Blk.xmWrite_queues (s : Blk) (a : Nat) (bs : List Byte) (poi : Bool) :
    (s.xmWrite a bs poi).qsc.queues = s.qsc.queues := by
  unfold Blk.xmWrite
  dsimp only
  split
  · refine (queues_foldl _ ?_ (linesOf a bs.length) _).trans rfl
    intro s l; rfl
  · refine (queues_foldl _ ?_ _ _).trans rfl
    intro s l; rfl

theorem Blk.spillPut_queues (s : Blk) (q n : Nat) (bs : List Byte) (bad : Nat → Bool) :
    (s.spillPut q n bs bad).2.qsc.queues = s.qsc.queues := by
  refine (queues_foldl _ ?_ (List.range n) s).trans rfl
  intro s k; exact s.xmWrite_queues _ _ _

theorem Blk.spillEvent_queues (s : Blk) (q : Nat) : (s.spillEvent q).qsc.queues = s.qsc.queues := by
  unfold Blk.spillEvent
  dsimp only
  split <;> split <;> rfl

/-- What `putFrame` does to the queues: the frame becomes the last of its queue, whether it spills or lies in banks, and no other
queue changes. -/
theorem Blk.putFrame_q (s : Blk) (q : Nat) (f : Frame) : ∃ (sp : Option (List Nat)) (bs : List Nat) (u : Nat),
    (s.putFrame q f).q q = { s.q q with frames := (s.q q).frames ++ [{ f with spilled := sp, banks := bs }], unitIx := u } ∧
    ∀ p, p ≠ q → (s.putFrame q f).q p = s.q p := by
  by_cases h : s.mustSpill q f.units = true
  · obtain ⟨us, t, e⟩ : ∃ us t, s.spillPut q f.units (f.wire f.sent f.limit f.lv)
        (fun k => decide (1 ≤ k) && f.poim.getLsbD (k - 1)) = (us, t) := ⟨_, _, rfl⟩
    have k : ∀ p, t.q p = s.q p := fun p => by
      have := Blk.spillPut_queues s q f.units (f.wire f.sent f.limit f.lv) (fun k => decide (1 ≤ k) && f.poim.getLsbD (k - 1))
      rw [e] at this
      exact Blk.q_congr this p
    refine ⟨some us, f.banks, (s.q q).unitIx, ?_, fun p hp => ?_⟩ <;> unfold Blk.putFrame <;> rw [if_pos h, e] <;> dsimp only
    · rw [Blk.q_congr (Blk.spillEvent_queues _ _), Blk.q_modQ, if_pos rfl, k]
    · rw [Blk.q_congr (Blk.spillEvent_queues _ _), Blk.q_modQ, if_neg hp, k]
  · obtain ⟨bs, t, e⟩ : ∃ bs t, s.bankPut q f.units = (bs, t) := ⟨_, _, rfl⟩
    have k : ∀ p, t.q p = if p = q then { s.q q with unitIx := (s.q q).unitIx + f.units } else s.q p := fun p => by
      have : (s.bankPut q f.units).2 = t := by rw [e]
      rw [← this]
      exact (Blk.q_congr (Blk.bankCount_queues _ _) p).trans (Blk.q_modQ _ _ _ _)
    refine ⟨f.spilled, bs, (s.q q).unitIx + f.units, ?_, fun p hp => ?_⟩ <;> unfold Blk.putFrame <;> rw [if_neg h, e] <;> dsimp only
    · rw [Blk.q_modQ, if_pos rfl, k, if_pos rfl]
    · rw [Blk.q_modQ, if_neg hp, k, if_neg hp]

end Sys2Proof.Machine
end

