-- ==== Sys2Proof/Laws/Recorder.lean ====
section
/-!
SUPPORT. What each part of the recorder and of the snapshot network keeps, and from it what the end of a command keeps.
-/

namespace Sys2Proof.Machine

/-- A fold keeps what each of its steps keeps. -/
theorem foldl_keeps {α β : Type} (p : State → β) (g : State → α → State) (hg : ∀ s i, p (g s i) = p s) (l : List α) (s : State) :
    p (l.foldl g s) = p s := by
  induction l generalizing s with
  | nil => rfl
  | cons a t ih => rw [List.foldl_cons, ih, hg]

/-- Records are written to XM only. -/
theorem State.flushRecords_evr (s : State) (f a n : Nat) : (s.flushRecords f a n).evr = s.evr := by
  unfold State.flushRecords
  generalize s.blk.flushSlot f = base
  apply foldl_keeps (fun s => s.evr)
  intro s i; exact State.modBlk_evr _ _

theorem State.flushRecords_snap (s : State) (f a n : Nat) : (s.flushRecords f a n).snap = s.snap := by
  unfold State.flushRecords
  generalize s.blk.flushSlot f = base
  apply foldl_keeps (fun s => s.snap)
  intro s i; exact State.modBlk_snap _ _

/-- A flush that starts covers the records held at its trigger. -/
theorem State.flushStart_evr (s : State) (c : BitVec 4) (k : BitVec 16) (t : Dword) :
    ∃ a, (s.flushStart c k t).evr = { s.evr with flush := some ⟨c, k, t, s.evr.wcount - 8192, s.evr.wcount, c.getLsbD 1, a, false⟩ } := by
  unfold State.flushStart
  simp only [State.modEvr, State.flushRecords_evr]
  exact ⟨_, rfl⟩

theorem State.flushStart_snap (s : State) (c : BitVec 4) (k : BitVec 16) (t : Dword) : (s.flushStart c k t).snap = s.snap := by
  unfold State.flushStart
  simp only [State.modEvr, State.flushRecords_snap]

/-- A property that every part of the recorder and of the snapshot network keeps. -/
structure Kept (P : State → Prop) : Prop where
  flush : ∀ s c k, P s → P (s.flushTrigger c k)
  latch : ∀ s src arg, P s → P (s.latch src arg).2
  pass : ∀ s i e, P s → s.slotPasses i = true → P (s.recordEv i e)
  supp : ∀ s i, P s → P (s.suppressEv i)
  tot : ∀ s n, P s → P (s.modEvr (fun v => { v with suppTot := satAdd v.suppTot n }))

namespace Kept
variable {P : State → Prop} (h : Kept P)
include h

theorem passEv (s : State) (e : Ev) (hs : P s) : P (s.passEv e) := by
  unfold State.passEv
  split
  · exact h.tot _ _ hs
  · dsimp only
    split
    · rename_i hp
      split
      · exact h.flush _ _ _ (h.pass _ _ _ hs hp)
      · exact h.pass _ _ _ hs hp
    · exact h.supp _ _ hs

theorem flushAll (s : State) (l : List Raise) (hs : P s) : P (s.flushAll l) := by
  induction l generalizing s with
  | nil => exact hs
  | cons a t ih => cases a <;> simp only [State.flushAll] <;> first | exact ih _ (h.flush _ _ _ hs) | exact ih _ hs

theorem snapAll (s : State) (l : List (Nat × Word)) (hs : P s) : P (s.snapAll l).2 := by
  induction l generalizing s with
  | nil => exact hs
  | cons a t ih =>
    obtain ⟨src, arg⟩ := a
    have k := h.latch s src arg hs
    unfold State.snapAll
    rcases e : s.latch src arg with ⟨b, u⟩
    rw [e] at k
    cases b
    · exact ih _ k
    · exact ih _ k

theorem foldEv (l : List Ev) (s : State) (hs : P s) : P (l.foldl State.passEv s) := by
  induction l generalizing s with
  | nil => exact hs
  | cons a t ih => exact ih _ (h.passEv _ _ hs)

theorem takeRaised (s : State) (rs : List Raise) (hs : P s) : P (s.takeRaised rs) := by
  unfold State.takeRaised
  exact h.foldEv _ _ (h.snapAll _ _ (h.snapAll _ _ (h.flushAll _ _ hs)))

theorem settle (s : State) (hc : ∀ s, P s → P (s.modBlk Blk.calm)) (hs : P s) : P (settle s) := by
  unfold Machine.settle
  split
  · exact hs
  · exact h.takeRaised _ _ (hc _ hs)

end Kept

end Sys2Proof.Machine
end

