-- ==== Sys2Proof/Laws/Regs.lean ====
section
/-!
SUPPORT. What registers read after they are written, and what other updates of the units leave of them.
-/

namespace Sys2Proof.Machine

/-- A register reads what was written to it. -/
@[simp] theorem Blk.reg_putReg (s : Blk) (r : Reg) (v : Word) : (s.putReg r v).reg r = v := by
  simp [Blk.reg, Blk.putReg]
@[simp] theorem Blk.reg_setReg (s : Blk) (r : Reg) (v : Word) : (s.setReg r v).reg r = v := Blk.reg_putReg s r v

/-- The two ways to write a register leave the same words. -/
@[simp] theorem Blk.setReg_regs (s : Blk) (r : Reg) (v : Word) : (s.setReg r v).regs = (s.putReg r v).regs := rfl

/-- Another register reads as before. -/
theorem Blk.reg_putReg_ne (s : Blk) (r q : Reg) (v : Word) (h : q.addr s.conf ≠ r.addr s.conf) :
    (s.putReg r v).reg q = s.reg q := Store.get_set_ne _ _ _ _ _ _ h

/-- Another register reads as before. -/
theorem Blk.reg_setReg_ne (s : Blk) (r q : Reg) (v : Word) (h : q.addr s.conf ≠ r.addr s.conf) :
    (s.setReg r v).reg q = s.reg q := by
  exact Store.get_set_ne _ _ _ _ _ _ h


/-- The two registers of a pair that is written. -/
theorem Blk.reg_setReg2_lo (s : Blk) (hi lo : Reg) (n : Nat) : (s.setReg2 hi lo n).reg lo = loOf n := Blk.reg_setReg _ _ _

/-- A register that is neither of a pair written. -/
theorem Blk.reg_setReg2_ne (s : Blk) (hi lo q : Reg) (n : Nat) (h : q.addr s.conf ≠ hi.addr s.conf)
    (l : q.addr s.conf ≠ lo.addr s.conf) : (s.setReg2 hi lo n).reg q = s.reg q :=
  (Blk.reg_setReg_ne _ _ _ _ (by simpa using l)).trans (Blk.reg_setReg_ne _ _ _ _ h)

/-- What is read of registers depends on the stored words alone. -/
theorem Blk.reg_congr {s t : Blk} (hr : t.regs = s.regs) (hc : t.conf = s.conf) (r : Reg) : t.reg r = s.reg r := by
  simp [Blk.reg, hr, hc]

@[simp] theorem Blk.count_reg (s : Blk) (r : Reg) (n : Nat) : (s.count r n).reg r = satAdd (s.reg r) n := by simp [Blk.count]
@[simp] theorem Blk.setBits_reg (s : Blk) (r : Reg) (m : Word) : (s.setBits r m).reg r = s.reg r ||| m := by simp [Blk.setBits]
@[simp] theorem Blk.emitAt_reg (s : Blk) (u i c a b : Nat) (r : Reg) : (s.emitAt u i c a b).reg r = s.reg r := rfl
@[simp] theorem Blk.emit_reg (s : Blk) (u c a b : Nat) (r : Reg) : (s.emit u c a b).reg r = s.reg r := rfl
@[simp] theorem Blk.modTime_reg (s : Blk) (f : TimeState → TimeState) (r : Reg) : (s.modTime f).reg r = s.reg r := rfl
@[simp] theorem Blk.modTrk_reg (s : Blk) (f : Store Tracker → Store Tracker) (r : Reg) : (s.modTrk f).reg r = s.reg r := rfl
@[simp] theorem Blk.setTracker_reg (s : Blk) (t : Nat) (v : Tracker) (r : Reg) : (s.setTracker t v).reg r = s.reg r := rfl
@[simp] theorem Blk.tracker_setTracker (s : Blk) (t : Nat) (v : Tracker) : (s.setTracker t v).tracker t = v := by
  simp [Blk.setTracker, Blk.tracker]
@[simp] theorem Blk.tracker_setReg (s : Blk) (r : Reg) (v : Word) (t : Nat) : (s.setReg r v).tracker t = s.tracker t := rfl
@[simp] theorem Blk.tracker_setBits (s : Blk) (r : Reg) (v : Word) (t : Nat) : (s.setBits r v).tracker t = s.tracker t := rfl
@[simp] theorem Blk.tracker_count (s : Blk) (r : Reg) (n : Nat) (t : Nat) : (s.count r n).tracker t = s.tracker t := rfl
@[simp] theorem Blk.tracker_emitAt (s : Blk) (u i c a b t : Nat) : (s.emitAt u i c a b).tracker t = s.tracker t := rfl

end Sys2Proof.Machine
end

