-- ==== Sys2Proof/WellFormed.lean ====
section
/-!
DEFINITION. Well-formed commands: every operand lies in the range that its signal or register array has. The meanings are total; an
ill-formed command names nothing the block has.
-/

namespace Sys2Proof

/-- An initiator number of 4 bits and a level of 2 (R466). -/
def Access.wf (a : Access) : Bool := decide (a.init < 16 ∧ a.lvl < 4)

/-- Whole beats, of 8 bytes in D and 64 in A64, on a pair the configuration has (R471). -/
def RxFrame.wf (cf : Conf) (f : RxFrame) : Bool :=
  decide (f.pair < cf.pairs ∧ 0 < f.bytes.length ∧ f.bytes.length % (match cf with | .d => 8 | .a64 => 64) = 0)

/-- An EtherType of 16 bits. -/
def MgmtFrame.wf (f : MgmtFrame) : Bool := decide (f.etype < 65536)

/-- A domain that the configuration has (Table 17-3). -/
def Domain.wf (cf : Conf) : Domain → Bool
  | .model n => cf == .a64 && decide (n < 256)
  | _ => true

/-- A syndrome of 7 bits (Table 12-10). -/
def EccOutcome.wf : EccOutcome → Bool
  | .clean => true
  | .corrected syn => decide (syn < 128)
  | .uncorrectable syn => decide (syn < 128)

/-- A place address: bits [31:28] are zero (R17). -/
def placeWf (p : Word) : Bool := decide (p.toNat < 2 ^ 28)

/-- A firmware core's number (Table 14-1). -/
def coreWf (cf : Conf) (x : Nat) : Bool := decide (x < 3 ∨ (0x40 ≤ x ∧ x < 0x40 + cf.clusters))

/-- Inputs of a sample, each at most once, below `n`. -/
def inputsWf (n : Nat) (l : List (Nat × BitVec 16)) : Bool := l.all (fun p => decide (p.1 < n)) && decide ((l.map Prod.fst).Nodup)

/-- Whether a command is well formed in a configuration. -/
def Instr.wf (cf : Conf) (i : Instr) : Bool :=
  match i with
  | .resetAssert => true
  | .resetRelease => true
  | .stageAdvance => true
  | .coreReportTimeout x => coreWf cf x
  | .bootGo a _ => a.wf
  | .versionCheck a _ => a.wf
  | .trainingDone k _ => decide (k < 6)
  | .trainingFail k => decide (k < 6)
  | .trainingTimeout k => decide (k < 6)
  | .bootRerun a _ => a.wf
  | .attachRequest f => f.wf cf
  | .attachReply f => f.wf cf
  | .attachRetry => true
  | .peerTable f => f.wf cf
  | .peerTableAck f => f.wf cf
  | .peerTableRepeat => true
  | .spanWaitExpire => true
  | .primaryFrame f => f.wf cf
  | .primaryRepeat => true
  | .registerWrite a addr _ => a.wf && decide (addr < 2 ^ 26)
  | .readClear a addr => a.wf && decide (addr < 2 ^ 26)
  | .bitAliasWrite a addr _ => a.wf && decide (addr < 0x10000)
  | .postedWriteApply d => d.wf cf
  | .trefLost => true
  | .trefReturn => true
  | .servoOffsetPost a _ => a.wf
  | .rateNomWrite a _ _ => a.wf
  | .holdEnter a _ => a.wf
  | .holdTimeout => true
  | .timeStep a _ => a.wf
  | .leapAtWrite a _ => a.wf
  | .leapKindWrite a _ => a.wf
  | .leapInstant => true
  | .ppsOutStart => true
  | .ppsOutEnd => true
  | .ppsIn => true
  | .stampCapture port _ fine _ => decide (port < 64) && decide (fine < 16)
  | .stampFifoPop a _ => a.wf
  | .triggerArm a n _ => a.wf && decide (n < cf.timeTriggers)
  | .timeTriggerFire n => decide (n < cf.timeTriggers)
  | .strobeEnd n => decide (n < 2)
  | .trnMark a t _ => a.wf && decide (t < cf.trackers)
  | .turnOverrun t => decide (t < cf.trackers)
  | .turnStall t => decide (t < cf.trackers)
  | .trackerEnable a t _ => a.wf && decide (t < cf.trackers)
  | .trackerDisable a t _ => a.wf && decide (t < cf.trackers)
  | .angleTriggerFire t n => decide (t < cf.trackers) && decide (n < 8)
  | .probeBegin lane _ => decide (lane < 8)
  | .probeEnd lane _ => decide (lane < 8)
  | .probeLoss lane _ => decide (lane < 8)
  | .probeBytes lane _ => decide (lane < 8)
  | .counterWrap g k n => decide (g < 64) && decide (k ≤ 32) && decide (n < 16)
  | .counterWrite a g k _ => a.wf && decide (g < 64) && decide (k ≤ 8)
  | .groupClear a g _ => a.wf && decide (g < 64)
  | .probeEnable a _ => a.wf
  | .probeDisable a _ => a.wf
  | .channelDisable a i _ => a.wf && decide (i < 16)
  | .digestStoreClear a _ => a.wf
  | .samplerEnable a _ => a.wf
  | .sampleDrain => true
  | .bwWindowClose => true
  | .sensorSample ts vs => inputsWf 64 ts && inputsWf 32 vs
  | .analogUpdate i _ => decide (i < 16)
  | .frameFlushTimeout m => decide (m < 129)
  | .recordFrameSend => true
  | .recordPathEnable a _ => a.wf
  | .htEnable a _ => a.wf
  | .localQueueWrite a c _ => a.wf && decide (c < cf.colls)
  | .recordFrameReceive f => f.wf cf
  | .fwFreeze a _ => a.wf
  | .fwFreezeEnd => true
  | .fwRelease a _ => a.wf
  | .historyWrite c => decide (c < cf.colls)
  | .traceEnable a b _ => a.wf && decide (b < cf.traceBufs)
  | .debugAuthGo a _ => a.wf
  | .debugAuthResult _ => true
  | .debugGrantExpire => true
  | .debugGrantRevoke a _ => a.wf
  | .add c => decide (c < cf.contexts)
  | .sub c => decide (c < cf.contexts)
  | .mul c => decide (c < cf.contexts)
  | .and c => decide (c < cf.contexts)
  | .or c => decide (c < cf.contexts)
  | .xor c => decide (c < cf.contexts)
  | .sll c => decide (c < cf.contexts)
  | .srl c => decide (c < cf.contexts)
  | .sra c => decide (c < cf.contexts)
  | .slt c => decide (c < cf.contexts)
  | .sltu c => decide (c < cf.contexts)
  | .vadd c => decide (c < cf.contexts)
  | .vsub c => decide (c < cf.contexts)
  | .vmul c => decide (c < cf.contexts)
  | .vand c => decide (c < cf.contexts)
  | .vor c => decide (c < cf.contexts)
  | .vxor c => decide (c < cf.contexts)
  | .vsll c => decide (c < cf.contexts)
  | .vsrl c => decide (c < cf.contexts)
  | .vsra c => decide (c < cf.contexts)
  | .vmin c => decide (c < cf.contexts)
  | .vmax c => decide (c < cf.contexts)
  | .vfadd c => decide (c < cf.contexts)
  | .vfsub c => decide (c < cf.contexts)
  | .vfmul c => decide (c < cf.contexts)
  | .vfma c => decide (c < cf.contexts)
  | .vfmin c => decide (c < cf.contexts)
  | .vfmax c => decide (c < cf.contexts)
  | .vcvtif c => decide (c < cf.contexts)
  | .vcvtfi c => decide (c < cf.contexts)
  | .vwidl c => decide (c < cf.contexts)
  | .vwidh c => decide (c < cf.contexts)
  | .vnarr c => decide (c < cf.contexts)
  | .vcmpeq c => decide (c < cf.contexts)
  | .vcmplt c => decide (c < cf.contexts)
  | .vfcmpeq c => decide (c < cf.contexts)
  | .vfcmplt c => decide (c < cf.contexts)
  | .vfcmple c => decide (c < cf.contexts)
  | .vfcmpun c => decide (c < cf.contexts)
  | .pand c => decide (c < cf.contexts)
  | .por c => decide (c < cf.contexts)
  | .pxor c => decide (c < cf.contexts)
  | .movsp c => decide (c < cf.contexts)
  | .movps c => decide (c < cf.contexts)
  | .vsplat c => decide (c < cf.contexts)
  | .vext c => decide (c < cf.contexts)
  | .vrsum c => decide (c < cf.contexts)
  | .jr c => decide (c < cf.contexts)
  | .fld c => decide (c < cf.contexts)
  | .fst c => decide (c < cf.contexts)
  | .addi c => decide (c < cf.contexts)
  | .andi c => decide (c < cf.contexts)
  | .ori c => decide (c < cf.contexts)
  | .slli c => decide (c < cf.contexts)
  | .srli c => decide (c < cf.contexts)
  | .srai c => decide (c < cf.contexts)
  | .movi c => decide (c < cf.contexts)
  | .shori c => decide (c < cf.contexts)
  | .lbu c => decide (c < cf.contexts)
  | .lhu c => decide (c < cf.contexts)
  | .lw c => decide (c < cf.contexts)
  | .lwu c => decide (c < cf.contexts)
  | .ld c => decide (c < cf.contexts)
  | .vld c => decide (c < cf.contexts)
  | .sb c => decide (c < cf.contexts)
  | .sh c => decide (c < cf.contexts)
  | .sw c => decide (c < cf.contexts)
  | .sd c => decide (c < cf.contexts)
  | .vst c => decide (c < cf.contexts)
  | .mfs c => decide (c < cf.contexts)
  | .mts c => decide (c < cf.contexts)
  | .evt c => decide (c < cf.contexts)
  | .recv c => decide (c < cf.contexts)
  | .send c => decide (c < cf.contexts)
  | .wsadd c => decide (c < cf.contexts)
  | .wsmrg c => decide (c < cf.contexts)
  | .wsz c => decide (c < cf.contexts)
  | .wsld c => decide (c < cf.contexts)
  | .wsst c => decide (c < cf.contexts)
  | .wspk c => decide (c < cf.contexts)
  | .wsupk c => decide (c < cf.contexts)
  | .wsrnd c => decide (c < cf.contexts)
  | .waita c => decide (c < cf.contexts)
  | .waitt c => decide (c < cf.contexts)
  | .waitb c => decide (c < cf.contexts)
  | .stamp c => decide (c < cf.contexts)
  | .skins c => decide (c < cf.contexts)
  | .skmrg c => decide (c < cf.contexts)
  | .skq c => decide (c < cf.contexts)
  | .topk c => decide (c < cf.contexts)
  | .tscore c => decide (c < cf.contexts)
  | .pack c => decide (c < cf.contexts)
  | .unpack c => decide (c < cf.contexts)
  | .fence c => decide (c < cf.contexts)
  | .snap c => decide (c < cf.contexts)
  | .bra c => decide (c < cf.contexts)
  | .jal c => decide (c < cf.contexts)
  | .beqz c => decide (c < cf.contexts)
  | .bnez c => decide (c < cf.contexts)
  | .bltz c => decide (c < cf.contexts)
  | .bgez c => decide (c < cf.contexts)
  | .bpany c => decide (c < cf.contexts)
  | .bpall c => decide (c < cf.contexts)
  | .recvTake c => decide (c < cf.contexts)
  | .recvDeadline c => decide (c < cf.contexts)
  | .sendEnqueue c => decide (c < cf.contexts)
  | .launchCredit c => decide (c < cf.contexts)
  | .fenceDone c => decide (c < cf.contexts)
  | .creditTimeout c => decide (c < cf.contexts)
  | .waitaRelease c => decide (c < cf.contexts)
  | .waittRelease c => decide (c < cf.contexts)
  | .contributionReceive f => f.wf cf
  | .dieCut c r => decide (c < cf.colls) && decide (r < 16)
  | .treeCut c r _ => decide (c < cf.colls) && decide (r < 16)
  | .halfPartialReceive f => f.wf cf
  | .siteHalfReceive f => f.wf cf
  | .leadWaitExpire c r _ => decide (c < cf.colls) && decide (r < 16)
  | .listReceive f => f.wf cf
  | .spanHoldExpire c r _ => decide (c < cf.colls) && decide (r < 16)
  | .fetchRequest f => f.wf cf
  | .fetchReply f => f.wf cf
  | .broadcastHalfReceive f => f.wf cf
  | .bcWaitExpire c r _ => decide (c < cf.colls) && decide (r < 16)
  | .bcHoldExpire c r _ => decide (c < cf.colls) && decide (r < 16)
  | .resultDeliver c r => decide (c < cf.colls) && decide (r < 16)
  | .latenessCut c => decide (c < cf.colls)
  | .sketchJobDone k => decide (k < cf.clusters)
  | .linkReport a _ => a.wf
  | .tscoreJobDone k => decide (k < cf.clusters)
  | .alarmEnqueue n => decide (n < cf.clusters)
  | .modelLoad a n _ => a.wf && decide (n < 256)
  | .modelLoadDone n => decide (n < 256)
  | .fullerJobStart => true
  | .fullerJobDone e => decide (e < 8)
  | .tokenFrameClose q => decide (q < cf.queues)
  | .schedulerPick p => decide (p < cf.pairs)
  | .shaperSlot => true
  | .queueSample q => decide (q < cf.queues)
  | .creditAdvertise i => decide (i < 65536)
  | .creditReceive f => f.wf cf
  | .tokenFrameReceive f => f.wf cf
  | .timeFrameReceive f => f.wf cf
  | .rekeyMaxt => true
  | .rekeyNow a _ => a.wf
  | .skewWindowEnd => true
  | .scrubRead u inst addr o => decide (u < 0x16) && decide (inst < 256) && decide (addr < 2 ^ 32) && o.wf
  | .unitReset a _ => a.wf
  | .xmReadResponse tag _ _ => decide (tag < (match cf with | .d => 256 | .a64 => 4096))
  | .xmWriteComplete tag _ => decide (tag < (match cf with | .d => 256 | .a64 => 4096))
  | .xmRequestTimeout tag => decide (tag < (match cf with | .d => 256 | .a64 => 4096))
  | .eventInject a _ => a.wf
  | .flushNow a _ => a.wf
  | .flushComplete => true
  | .powerWarning => true
  | .snapshotTrigger a _ => a.wf
  | .tlSnap => true
  | .snapshotRelease a _ => a.wf
  | .testDue place chan => placeWf place && decide (chan < 512)
  | .testPlace chan => decide (chan < 512)
  | .hotWaitExpire chan => decide (chan < 512)
  | .testGrant k => decide (k < 8)
  | .testDone k _ => decide (k < 8)
  | .testAbort k => decide (k < 8)
  | .grantTimeout k => decide (k < 8)
  | .runTimeout k => decide (k < 8)
  | .manualStress a _ => a.wf
  | .patternSetReceive f => f.wf cf
  | .engineTypesReceive f => f.wf cf
  | .watchAdd a _ => a.wf
  | .cleanDay => true
  | .ceReport a _ => a.wf
  | .ceDayEnd => true
  | .historyRecordReceive f => f.wf cf
  | .retireConfirm a _ => a.wf
  | .guardEpochEnd => true
  | .guardDeltaReceive f => f.wf cf
  | .guardAckReceive f => f.wf cf
  | .guardCommitReceive f => f.wf cf
  | .guardRebuild a _ => a.wf
  | .rebuildDone => true
  | .heartbeatSend => true
  | .heartbeatReceive n f => decide (n < 2) && f.wf
  | .peerSilent place => placeWf place
  | .fenceNoticeReceive n f => decide (n < 2) && f.wf
  | .fenceFrameReceive f => f.wf cf
  | .hostFence a _ => a.wf
  | .hostLift a _ => a.wf
  | .updateGo a _ => a.wf
  | .updateStaged _ => true
  | .svnRaise => true
  | .powerTick ts => inputsWf 64 ts
  | .clampSample ts => inputsWf 64 ts
  | .clampHoldEnd k => decide (k < cf.clusters)
  | .emergCalm => true
  | .supplyFault => true
  | .vreqAck => true
  | .vreqTimeout => true
  | .napEntry k => decide (k < cf.clusters)
  | .wakeGrant => true
  | .clusterDisable a _ => a.wf
  | .coreWatchdog x => coreWf cf x
  | .coreCrash x _ => coreWf cf x
  | .coreRestartDone x => coreWf cf x
  | .componentFault x comp => coreWf cf x && decide (comp < 65536)
  | .ccDeadline k => decide (k < cf.clusters)
  | .licenceInstall a _ => a.wf
  | .licenceResult _ => true
  | .collectionStartRequest a _ => a.wf
  | .collctlStart f => f.wf cf
  | .collctlAck f => f.wf cf
  | .collctlWait f => f.wf cf
  | .startWaitRepeat c => decide (c < cf.colls)
  | .rereachTimeout c child => decide (c < cf.colls) && placeWf child
  | .collctlRereach f => f.wf cf
  | .startTimeout c => decide (c < cf.colls)
  | .collctlCommit f => f.wf cf
  | .collctlAbort f => f.wf cf
  | .outcomeTimeout c => decide (c < cf.colls)
  | .collctlOutcome f => f.wf cf
  | .collctlEffective f => f.wf cf
  | .teardownRequest a _ => a.wf
  | .collctlTeardown f => f.wf cf
  | .collctlTdDone f => f.wf cf
  | .teardownForceClose c => decide (c < cf.colls)
  | .registerRead a addr => a.wf && decide (addr < 2 ^ 26)
  | .tlPwrWarnNHigh => true
  | .tlMnUpChange n _ => decide (n < 2)
  | .handoverComplete x => coreWf cf x
  | .memberDetach place => placeWf place
  | .spanPeerSilent place => placeWf place
  | .testResultReceive f => f.wf cf

end Sys2Proof
end

