-- ==== Sys2Proof/Tests/Slice0.lean ====
section
/-!
SUPPORT. Tests: an ill-formed term for each check of well-formedness; states that meet the hypotheses of the statements, a witness for
each clause; and single steps whose results are the spec's own examples or worked out by hand from its rules.
-/

namespace Sys2Proof.Tests
open Sys2Proof Sys2Proof.Machine

set_option maxRecDepth 20000
set_option Elab.async false

/-! ### Well-formedness: a term that each check refuses, beside the last one that it admits -/

theorem test_wf_level : Instr.wf .a64 (.bootGo ⟨15, 3⟩ 1) = true ∧ Instr.wf .a64 (.bootGo ⟨15, 4⟩ 1) = false := by decide
theorem test_wf_initiator : Instr.wf .a64 (.registerRead ⟨16, 1⟩ 0) = false := by decide
theorem test_wf_frame_beats :
    Instr.wf .a64 (.attachRequest ⟨1, false, List.replicate 64 0⟩) = true ∧
    Instr.wf .a64 (.attachRequest ⟨1, false, List.replicate 63 0⟩) = false ∧
    Instr.wf .d (.attachRequest ⟨0, false, List.replicate 8 0⟩) = true ∧
    Instr.wf .a64 (.attachRequest ⟨0, false, []⟩) = false := by decide +kernel
theorem test_wf_frame_pair : Instr.wf .a64 (.attachRequest ⟨2, false, List.replicate 64 0⟩) = false ∧
    Instr.wf .d (.attachRequest ⟨1, false, List.replicate 64 0⟩) = false := by decide +kernel
theorem test_wf_mgmt_frame : Instr.wf .a64 (.heartbeatReceive 1 ⟨65535, false, []⟩) = true ∧
    Instr.wf .a64 (.heartbeatReceive 1 ⟨65536, false, []⟩) = false ∧ Instr.wf .a64 (.heartbeatReceive 2 ⟨0, false, []⟩) = false := by decide
theorem test_wf_domain : Instr.wf .a64 (.postedWriteApply (.model 255)) = true ∧ Instr.wf .a64 (.postedWriteApply (.model 256)) = false ∧
    Instr.wf .d (.postedWriteApply (.model 0)) = false ∧ Instr.wf .d (.postedWriteApply .flash) = true := by decide
theorem test_wf_address : Instr.wf .a64 (.registerWrite ⟨0, 1⟩ 0x3FFFFFC 0) = true ∧
    Instr.wf .a64 (.registerWrite ⟨0, 1⟩ 0x4000000 0) = false ∧ Instr.wf .a64 (.bitAliasWrite ⟨0, 1⟩ 0xFFFC 0) = true ∧
    Instr.wf .a64 (.bitAliasWrite ⟨0, 1⟩ 0x10000 0) = false := by decide
theorem test_wf_core : Instr.wf .d (.coreCrash 0x40 0) = true ∧ Instr.wf .d (.coreCrash 0x41 0) = false ∧
    Instr.wf .a64 (.coreCrash 3 0) = false ∧ Instr.wf .a64 (.coreWatchdog 0x7F) = true := by decide
theorem test_wf_context : Instr.wf .d (.add 15) = true ∧ Instr.wf .d (.add 16) = false ∧ Instr.wf .a64 (.vadd 1024) = false ∧
    Instr.wf .a64 (.send 1023) = true := by decide
theorem test_wf_ports : Instr.wf .a64 (.trainingDone 5 0) = true ∧ Instr.wf .a64 (.trainingDone 6 0) = false ∧
    Instr.wf .a64 (.schedulerPick 2) = false ∧ Instr.wf .d (.schedulerPick 1) = false := by decide
theorem test_wf_time : Instr.wf .a64 (.stampCapture 63 false 15 0) = true ∧ Instr.wf .a64 (.stampCapture 64 false 15 0) = false ∧
    Instr.wf .a64 (.stampCapture 63 false 16 0) = false ∧ Instr.wf .a64 (.strobeEnd 2) = false ∧
    Instr.wf .a64 (.triggerArm ⟨0, 1⟩ Conf.a64.timeTriggers 0) = false := by decide
theorem test_wf_trackers : Instr.wf .d (.turnStall 3) = true ∧ Instr.wf .d (.turnStall 4) = false ∧
    Instr.wf .a64 (.angleTriggerFire 63 7) = true ∧ Instr.wf .a64 (.angleTriggerFire 63 8) = false := by decide
theorem test_wf_probes : Instr.wf .a64 (.probeBegin 7 0) = true ∧ Instr.wf .a64 (.probeBegin 8 0) = false ∧
    Instr.wf .d (.counterWrap 63 32 15) = true ∧ Instr.wf .d (.counterWrap 64 32 15) = false ∧
    Instr.wf .d (.counterWrap 63 33 15) = false ∧ Instr.wf .d (.counterWrap 63 32 16) = false ∧
    Instr.wf .d (.counterWrite ⟨0, 1⟩ 63 9 0) = false ∧ Instr.wf .d (.channelDisable ⟨0, 1⟩ 16 0) = false := by decide
theorem test_wf_inputs : Instr.wf .a64 (.sensorSample [(63, 0)] [(31, 0)]) = true ∧
    Instr.wf .a64 (.sensorSample [(64, 0)] []) = false ∧ Instr.wf .a64 (.sensorSample [] [(32, 0)]) = false ∧
    Instr.wf .a64 (.sensorSample [(1, 0), (1, 2)] []) = false ∧ Instr.wf .a64 (.analogUpdate 16 0) = false := by decide
theorem test_wf_records : Instr.wf .a64 (.frameFlushTimeout 128) = true ∧ Instr.wf .a64 (.frameFlushTimeout 129) = false ∧
    Instr.wf .a64 (.localQueueWrite ⟨0, 1⟩ Conf.a64.colls 0) = false ∧
    Instr.wf .a64 (.traceEnable ⟨0, 1⟩ Conf.a64.traceBufs 0) = false := by decide
theorem test_wf_reductions : Instr.wf .a64 (.dieCut 0 15) = true ∧ Instr.wf .a64 (.dieCut 0 16) = false ∧
    Instr.wf .a64 (.latenessCut Conf.a64.colls) = false := by decide
theorem test_wf_units : Instr.wf .a64 (.sketchJobDone 63) = true ∧ Instr.wf .a64 (.sketchJobDone 64) = false ∧
    Instr.wf .a64 (.modelLoadDone 256) = false ∧ Instr.wf .a64 (.fullerJobDone 8) = false ∧ Instr.wf .d (.napEntry 1) = false := by decide
theorem test_wf_queues : Instr.wf .d (.tokenFrameClose 255) = true ∧ Instr.wf .d (.tokenFrameClose 256) = false ∧
    Instr.wf .a64 (.creditAdvertise 65536) = false := by decide
theorem test_wf_scrub : Instr.wf .a64 (.scrubRead 0x15 255 0 (.corrected 127)) = true ∧
    Instr.wf .a64 (.scrubRead 0x16 255 0 .clean) = false ∧ Instr.wf .a64 (.scrubRead 0x15 256 0 .clean) = false ∧
    Instr.wf .a64 (.scrubRead 0x15 0 0x100000000 .clean) = false ∧ Instr.wf .a64 (.scrubRead 0 0 0 (.uncorrectable 128)) = false := by decide
theorem test_wf_tags : Instr.wf .d (.xmReadResponse 255 false false) = true ∧ Instr.wf .d (.xmReadResponse 256 false false) = false ∧
    Instr.wf .a64 (.xmWriteComplete 4096 false) = false := by decide
theorem test_wf_places : Instr.wf .a64 (.peerSilent 0x0FFFFFFF) = true ∧ Instr.wf .a64 (.peerSilent 0x10000000) = false ∧
    Instr.wf .a64 (.testDue 0 512) = false ∧ Instr.wf .a64 (.testGrant 8) = false ∧ Instr.wf .a64 (.componentFault 0 65536) = false := by decide

/-! ### Dexey: a context that issues each instruction -/

/-- A word of MAJOR, the fields of format A, and its low bits. -/
def word (m d a b low : Nat) : Word := BitVec.ofNat 32 (m * 2 ^ 26 + d * 2 ^ 21 + a * 2 ^ 16 + b * 2 ^ 11 + low)

/-- Context 0 of collection 3 with one word at its pc. -/
def ctx (w : Word) : Ctx :=
  { coll := 3, prog := 0, inst := 0, insts := 1, cluster := 0, engine := 0, im := [w, 0], dsLen := 1024, handler := none,
    ltmo := 0, units := 0, pc := 0, sreg := [], spoi := 0, vreg := [], vpoi := 0, preg := [], ppoi := 0, wreg := [], wpoi := 0,
    slots := [], credits := [], usedTree := 0, usedSketch := 0, usedFuller := 0, sbuf := [], fbuf := [], got := [], blocked := .no,
    blockAt := 0, inHandler := false, epc := 0, ecause := 0, retired := 0, start := 0, restart := false, imPoi := [], rel := none }

/-- An instance whose collection 3 runs with the context. -/
def dx (x : Ctx) : State := State.reset.modBlk fun b => { b with
  colls := [(3, { Coll.idle with st := .running, begun := true, gen := 7 })], ctxs := [(0, x)],
  lic := { b.lic with force := some Licence.fresh } }

theorem test_issue_scalar : ∀ row ∈ scalarForms, let w := word 1 31 31 31 row.2.1
    Issues (dx (ctx w)) 0 (ctx w) w (eScalar row.2.1) := by unfold Issues; decide +kernel
theorem test_issue_immediate : ∀ row ∈ immForms, let w := word row.2.1.maj 31 0 0 63
    Issues (dx (ctx w)) 0 (ctx w) w row.2.1 := by unfold Issues; decide +kernel

/-- The same context with one register poisoned, or with the sources of an instruction set. -/
def ctxP (w : Word) (n : Nat) : Ctx := { ctx w with spoi := BitVec.ofNat 32 (2 ^ n), ppoi := BitVec.ofNat 8 (2 ^ (n % 8)) }
def ctxS (w : Word) (a b : Dword) : Ctx := { ctx w with sreg := [(1, a), (2, b)] }

theorem test_issue_vector : ∀ row ∈ vintForms, let w := word 2 15 15 15 (row.2.1 + 0x700)
    Issues (dx (ctx w)) 0 (ctx w) w (eVint row.2.1) ∧ (ctx w).pp (fPm w) = false ∧ (ctxP w 7).pp (fPm w) = true ∧
    Issues (dx (ctxP w 7)) 0 (ctxP w 7) w (eVint row.2.1) := by unfold Issues; decide +kernel
theorem test_issue_float : ∀ row ∈ vflForms, ∀ T ∈ [0, 1, 2], let w := word 3 15 15 15 (row.2.1 + 0x40 * T + 0x700)
    Issues (dx (ctx w)) 0 (ctx w) w (eVfl row.2.1) ∧ (ctx w).pp (fPm w) = false := by unfold Issues; decide +kernel
theorem test_issue_fma_narrow : (let w := word 3 15 0 15 0x743; Issues (dx (ctx w)) 0 (ctx w) w (eVfl 3)) ∧
    (let w := word 3 15 0 15 0x48C; Issues (dx (ctx w)) 0 (ctx w) w eVnarr) := by unfold Issues; decide +kernel
theorem test_issue_convert : ∀ row ∈ cvtForms, let w := word 3 15 15 0 (row.2.1.sels.headD 0)
    Issues (dx (ctx w)) 0 (ctx w) w row.2.1 ∧ (ctx w).pp (fPm w) = false := by unfold Issues; decide +kernel
theorem test_issue_compare : ∀ row ∈ cmpForms, let w := word 4 7 15 15 (row.2.1 + 0x700)
    Issues (dx (ctx w)) 0 (ctx w) w (eCmp row.2.1) ∧ (ctx w).pp (fPm w) = false := by unfold Issues; decide +kernel
theorem test_issue_mask : ∀ row ∈ maskForms, let w := word 4 7 7 7 row.2.1
    Issues (dx (ctx w)) 0 (ctx w) w (ePlog row.2.1) := by unfold Issues; decide +kernel
theorem test_issue_moves : (let w := word 4 7 31 0 0x18; Issues (dx (ctx w)) 0 (ctx w) w eMovsp) ∧
    (let w := word 4 31 7 0 0x19; Issues (dx (ctx w)) 0 (ctx w) w eMovps) ∧
    (let w := word 5 15 31 0 0x700; Issues (dx (ctx w)) 0 (ctx w) w eVsplat ∧ (ctx w).pp (fPm w) = false) ∧
    (let w := word 5 31 15 15 1; Issues (dx (ctx w)) 0 (ctx w) w eVext) ∧
    (let w := word 5 31 15 0 0x702; Issues (dx (ctx w)) 0 (ctx w) w eVrsum ∧ (ctx w).pp (fPm w) = false) := by
  unfold Issues; decide +kernel
theorem test_issue_jumps : (let w := word 0x30 0 31 31 0x7FF; Issues (dx (ctx w)) 0 (ctx w) w eBra) ∧
    (let w := word 0x31 31 0 0 1; Issues (dx (ctx w)) 0 (ctx w) w (eBr 0x31)) ∧
    (let w := word 6 3 1 0 0; Issues (dx (ctxS w 4 0)) 0 (ctxS w 4 0) w eJr ∧ (ctxS w 4 0).sp (fRa w) = false ∧
      ((ctxS w 4 0).s (fRa w)).toNat % 4 = 0 ∧ Issues (dx (ctxS w 6 0)) 0 (ctxS w 6 0) w eJr ∧
      ((ctxS w 6 0).s (fRa w)).toNat % 4 ≠ 0 ∧ Issues (dx (ctxP w 1)) 0 (ctxP w 1) w eJr ∧ (ctxP w 1).sp (fRa w) = true) := by
  unfold Issues; decide +kernel
theorem test_issue_branches : ∀ row ∈ branchForms, let w := word row.2.1.maj 3 0 0 5
    Issues (dx (ctx w)) 0 (ctx w) w row.2.1 ∧ row.2.2.2 (ctx w) (fRd w) = false ∧
    Issues (dx (ctxP w 3)) 0 (ctxP w 3) w row.2.1 ∧ row.2.2.2 (ctxP w 3) (fRd w) = true := by unfold Issues; decide +kernel

/-- Whether a context reads, or may write, bytes at an address, and the subcode of the fault otherwise. -/
def reads (s : State) (x : Ctx) (a n : Nat) : Bool := match s.blk.dxRead 0 x a n with | .ok _ => true | _ => false
def denies (s : State) (x : Ctx) (a n : Nat) : Bool := match s.blk.dxRead 0 x a n with | .fault .. => true | _ => false
def writes (s : State) (x : Ctx) (a n : Nat) : Bool := match s.blk.dxWrite 0 x a n with | .ok _ => true | .error _ => false

theorem test_issue_loads : ∀ row ∈ loadForms, let w := word row.2.1 3 0 0 0; let v := word row.2.1 3 1 0 0
    (Issues (dx (ctx w)) 0 (ctx w) w (eLd row.2.1) ∧ (ctx w).sp (fRa w) = false ∧ (ctx w).ea w % row.2.2.1 = 0 ∧
      reads (dx (ctx w)) (ctx w) ((ctx w).ea w) row.2.2.1 = true) ∧
    (Issues (dx (ctxS v 1024 0)) 0 (ctxS v 1024 0) v (eLd row.2.1) ∧ (ctxS v 1024 0).ea v % row.2.2.1 = 0 ∧
      denies (dx (ctxS v 1024 0)) (ctxS v 1024 0) ((ctxS v 1024 0).ea v) row.2.2.1 = true) ∧
    (row.2.2.1 = 1 ∨ (Issues (dx (ctxS v 1 0)) 0 (ctxS v 1 0) v (eLd row.2.1) ∧ (ctxS v 1 0).ea v % row.2.2.1 ≠ 0)) ∧
    (Issues (dx (ctxP v 1)) 0 (ctxP v 1) v (eLd row.2.1) ∧ (ctxP v 1).sp (fRa v) = true) := by unfold Issues; decide +kernel
theorem test_issue_stores : ∀ row ∈ storeForms, let w := word row.2.1 3 0 0 0; let v := word row.2.1 3 1 0 0
    (Issues (dx (ctx w)) 0 (ctx w) w (eLd row.2.1) ∧ (ctx w).sp (fRa w) = false ∧ (ctx w).ea w % row.2.2 = 0 ∧
      writes (dx (ctx w)) (ctx w) ((ctx w).ea w) row.2.2 = true) ∧
    (Issues (dx (ctxS v 1024 0)) 0 (ctxS v 1024 0) v (eLd row.2.1) ∧ (ctxS v 1024 0).ea v % row.2.2 = 0 ∧
      writes (dx (ctxS v 1024 0)) (ctxS v 1024 0) ((ctxS v 1024 0).ea v) row.2.2 = false) ∧
    (row.2.2 = 1 ∨ (Issues (dx (ctxS v 1 0)) 0 (ctxS v 1 0) v (eLd row.2.1) ∧ (ctxS v 1 0).ea v % row.2.2 ≠ 0)) ∧
    (Issues (dx (ctxP v 1)) 0 (ctxP v 1) v (eLd row.2.1) ∧ (ctxP v 1).sp (fRa v) = true) := by unfold Issues; decide +kernel
theorem test_issue_vector_memory : (let w := word 0x15 15 1 0 0; let x := ctxS w 960 0
      Issues (dx x) 0 x w (eVmem 0x15) ∧ x.sp (fRa w) = false ∧ x.ea w % 4 = 0 ∧ reads (dx x) x (x.ea w) 64 = true) ∧
    (let w := word 0x1C 15 1 0 0; let x := ctxS w 960 0
      Issues (dx x) 0 x w (eVmem 0x1C) ∧ x.sp (fRa w) = false ∧ x.ea w % 4 = 0 ∧ writes (dx x) x (x.ea w) 64 = true) := by
  unfold Issues; decide +kernel
theorem test_issue_wide : (let w := word 0x24 7 31 0 2; Issues (dx (ctx w)) 0 (ctx w) w eWsaddS) ∧
    (let w := word 0x24 7 15 0 (4 + 64 * 7); Issues (dx (ctx w)) 0 (ctx w) w eWsaddV ∧ (ctx w).pp (if fSel w < 4 then 0 else fRc w) = false) ∧
    (let w := word 0x24 7 7 0 8; Issues (dx (ctx w)) 0 (ctx w) w eWsmrg) ∧
    (let w := word 0x24 7 0 0 9; Issues (dx (ctx w)) 0 (ctx w) w eWsz) ∧
    (let w := word 0x24 31 7 0 (0xE + 64 * 2); Issues (dx (ctx w)) 0 (ctx w) w eWsrnd) := by unfold Issues; decide +kernel
theorem test_issue_wide_memory :
    (let w := word 0x24 7 1 0 0xA; let x := ctxS w 976 0
      Issues (dx x) 0 x w (eWmem 0xA) ∧ (x.s (fRa w)).toNat % 8 = 0 ∧ reads (dx x) x (x.s (fRa w)).toNat 48 = true) ∧
    (let w := word 0x24 7 1 0 0xB; let x := ctxS w 976 0
      Issues (dx x) 0 x w (eWmem 0xB) ∧ (x.s (fRa w)).toNat % 8 = 0 ∧ writes (dx x) x (x.s (fRa w)).toNat 48 = true) ∧
    (let w := word 0x24 7 1 2 0xC; let x := ctxS w 980 0
      Issues (dx x) 0 x w eWspk ∧ (x.s (fRa w)).toNat % 4 = 0 ∧ writes (dx x) x (x.s (fRa w)).toNat 44 = true) ∧
    (let w := word 0x24 7 1 0 0xD; let x := ctxS w 980 0
      Issues (dx x) 0 x w (eWmem 0xD) ∧ (x.s (fRa w)).toNat % 4 = 0 ∧ reads (dx x) x (x.s (fRa w)).toNat 44 = true) := by
  unfold Issues; decide +kernel
theorem test_issue_features : (let w := word 7 15 1 2 0x700; let x := ctxS w 5 255
      Issues (dx x) 0 x w (eFeat 0) ∧ x.sp (fRa w) = false ∧ x.sp (fRb w) = false ∧ x.pp (fPm w) = false) ∧
    (let w := word 7 15 1 2 0x701; let x := ctxS w 5 0
      Issues (dx x) 0 x w (eFeat 1) ∧ x.sp (fRa w) = false ∧ x.pp (fPm w) = false) ∧
    (∀ f ∈ [0, 1], ∀ n ∈ [1, 2], let w := word 7 15 1 2 f
      Issues (dx (ctxP w n)) 0 (ctxP w n) w (eFeat f) ∧ ((ctxP w n).sp (fRa w) = true ∨ (ctxP w n).sp (fRb w) = true)) := by
  unfold Issues; decide +kernel
theorem test_issue_state_words : (let w := word 0x20 31 0 0 8; Issues (dx (ctx w)) 0 (ctx w) w eMfs) ∧
    (let w := word 0x21 0 1 0 8; let x := ctxS w 2 0; Issues (dx x) 0 x w eMts ∧ fImm w = 8 ∧ (x.s (fRa w)).getLsbD 0 = false) ∧
    (let w := word 0x21 0 1 0 7; Issues (dx (ctx w)) 0 (ctx w) w eMts ∧ fImm w ≠ 8) ∧
    (let w := word 0x25 30 0 0 3; Issues (dx (ctx w)) 0 (ctx w) w eStamp) ∧
    (let w := word 0x22 31 31 7 0x7FF; Issues (dx (ctx w)) 0 (ctx w) w eEvt) ∧
    (let w := word 0x27 0 31 0 1; Issues (dx (ctx w)) 0 (ctx w) w eSnap ∧ ((dx (ctx w)).blk.coll (ctx w).coll).snap = false) := by
  unfold Issues; decide +kernel
/-- The same with the collection granted the snapshot right and its tracker running in turn 5. -/
def dxRun (x : Ctx) : State := (dx x).modBlk fun b => { b with
  colls := [(3, { Coll.idle with st := .running, begun := true, gen := 7, snap := true })],
  regs := [(0x31000, 0x80000002)], trk := [(0, { Tracker.idle with running := true, turn := 5 })], tclk := 1000,
  time := { b.time with frc := 16000 } }
theorem test_issue_snap : let w := word 0x27 0 31 0 1
    Issues (dxRun (ctx w)) 0 (ctx w) w eSnap ∧ ((dxRun (ctx w)).blk.coll (ctx w).coll).snap = true := by unfold Issues; decide +kernel

/-! ### Waits, streams, launches, fences -/

/-- The same with the tree and sketch units enabled. -/
def dxOn (x : Ctx) : State := (dxRun x).modBlk fun b => (b.setReg (.tre .TRE_CTRL) 1).setReg (.sku .SKU_CTRL) 1
def isNext : Option DxRes → Bool | some (.next _) => true | _ => false

theorem test_issue_waita : ∀ n ∈ ([(4, true), (5, true), (6, false)] : List (Nat × Bool)), let w := word 0x25 3 1 2 0; let x := ctxS w (BitVec.ofNat 64 n.1) 0
    Issues (dxRun x) 0 x w eWaita ∧ x.sp (fRa w) = false ∧ x.sp (fRb w) = false ∧
      ((dxRun x).blk.waitaNow x.coll ((x.s (fRa w)).setWidth 32) ((x.s (fRb w)).toNat % 65536)).isSome = n.2 := by
  unfold Issues; decide +kernel
theorem test_issue_waitt : ∀ a ∈ ([256000, 256001] : List Nat), let w := word 0x25 3 1 0 1; let x := ctxS w (BitVec.ofNat 64 a) 0
    Issues (dxRun x) 0 x w (eWait1 1) ∧ x.sp (fRa w) = false ∧ (dxRun x).blk.t64 = 256000 := by unfold Issues; decide +kernel
theorem test_issue_waitb : ∀ n ∈ ([(4, true), (5, false)] : List (Nat × Bool)), let w := word 0x25 3 1 0 2; let x := ctxS w (BitVec.ofNat 64 n.1) 0
    Issues (dxRun x) 0 x w (eWait1 2) ∧ x.sp (fRa w) = false ∧
    decide (((dxRun x).blk.tracker ((dxRun x).blk.trkOf x)).running = true ∧
      turnLater ((dxRun x).blk.tracker ((dxRun x).blk.trkOf x)).turn ((x.s (fRa w)).setWidth 32) = true) = n.2 := by
  unfold Issues; decide +kernel
/-- A context blocked in an instruction whose condition holds. -/
def stopped (w : Word) (b : Blocked) : Ctx :=
  { ctxS w 0 0 with blocked := b, slots := [(0, ⟨false, 5, 0⟩), (1, ⟨true, 6, 10⟩)], handler := some 4 }
theorem test_wait_releases : (let x := stopped 0 (.waita 5 0 3); (dxRun x).blk.inReset = false ∧
      Store.look (dxRun x).blk.ctxs 0 = some x ∧ (dxRun x).blk.collLive x.coll = true ∧ ((dxRun x).blk.waitaNow x.coll 5 0).isSome = true) ∧
    (let x := stopped 0 (.waitt 256000 3); Store.look (dxRun x).blk.ctxs 0 = some x ∧ (dxRun x).blk.collLive x.coll = true ∧
      (256000 : Dword).toNat ≤ (dxRun x).blk.t64.toNat) := by decide +kernel

/-- A token of two words, and the same instance with one in queue 5. -/
def tok : Token := Token.mk' 0x10 [1, 2] 0 false .none
def dxTok (x : Ctx) : State := (dxRun x).modBlk fun b => b.modQ 5 (fun q => { q with toks := [tok] })
def ctxQ (w : Word) (a b : Dword) : Ctx := { ctxS w a b with slots := [(0, ⟨false, 5, 0⟩), (1, ⟨true, 6, 10⟩)], credits := [(1, 1)] }
theorem test_issue_recv : (let w := word 0x23 3 1 2 0; let x := ctxQ w 0 0
      Issues (dxTok x) 0 x w eRecv ∧ x.sp (fRa w) = false ∧ x.sp (fRb w) = false ∧ (x.s (fRa w)).toNat % 4 = 0 ∧
      Store.look x.slots (fRc w) = some ⟨false, 5, 0⟩ ∧ (dxTok x).blk.recvBefore 0 (dxTok x).blk.tclk 5 = false ∧
      isNext ((dxTok x).blk.recvGo 0 x w 5) = true) ∧
    (∀ d ∈ ([0, 256001, 256000] : List Nat), let w := word 0x23 3 1 2 0; let x := ctxQ w 0 (BitVec.ofNat 64 d)
      Issues (dxRun x) 0 x w eRecv ∧ ((dxRun x).blk.recvGo 0 x w 5).isNone = true ∧ (x.s (fRb w)).toNat = d ∧
        (dxRun x).blk.t64.toNat = 256000) := by unfold Issues; decide +kernel
theorem test_recv_blocked : (let x := stopped (word 0x23 3 1 2 0) (.recv 0 none)
      Store.look (dxTok x).blk.ctxs 0 = some x ∧ x.recvQueue = some 5 ∧ (dxTok x).blk.engLive x = true ∧
      (dxTok x).blk.recvBefore 0 x.blockAt 5 = false ∧ isNext ((dxTok x).blk.recvGo 0 x x.word 5) = true) ∧
    (let x := stopped (word 0x23 3 1 2 0) (.recv 0 (some 256000)); (dxRun x).blk.inReset = false ∧ x.recvQueue = some 5 ∧
      (dxRun x).blk.engLive x = true ∧ (256000 : Dword).toNat ≤ (dxRun x).blk.t64.toNat ∧
      ((dxRun x).blk.recvGo 0 x x.word 5).isNone = true) := by decide +kernel
/-- The header of a token of KIND 0x10 and two words. -/
def hdr : Dword := BitVec.ofNat 64 (0x10 * 2 ^ 56 + 2 * 2 ^ 49)
theorem test_issue_send : ∀ n ∈ [(1, true), (0, false)], let w := word 0x23 1 2 0 (64 + 1)
    let x := { ctxQ w hdr 0 with credits := [(1, n.1)] }
    Issues (dxRun x) 0 x w eSend ∧ x.sp (fRd w) = false ∧ x.sp (fRa w) = false ∧ (x.s (fRa w)).toNat % 4 = 0 ∧
    (x.s (fRa w)).toNat + 4 * hLen (x.s (fRd w)) ≤ x.dsLen ∧ Store.look x.slots (fRc w) = some ⟨true, 6, 10⟩ ∧
    0x10 ≤ hKind (x.s (fRd w)) ∧ hKind (x.s (fRd w)) ≤ 0x7F ∧ hLen (x.s (fRd w)) = 2 ∧
    (dxRun x).blk.slotReady x (fRc w) 6 = n.2 := by unfold Issues; decide +kernel
theorem test_send_blocked : (let x := { stopped (word 0x23 1 2 0 65) (.send 1 0) with credits := [(1, 1)] }
      (dxRun x).blk.inReset = false ∧ Store.look (dxRun x).blk.ctxs 0 = some x ∧ (dxRun x).blk.engUp x = true ∧
      (dxRun x).blk.slotReady x 1 6 = true) ∧
    (let x := stopped (word 0x23 1 2 0 65) (.send 1 0); let s := (dxRun x).modBlk fun b => { b with tclk := b.us 10 }
      Store.look s.blk.ctxs 0 = some x ∧ s.blk.engUp x = true ∧ Store.look x.slots 1 = some ⟨true, 6, 10⟩ ∧
      s.blk.passed 0 (s.blk.us 10) = true ∧ s.blk.slotReady x 1 6 = false ∧ x.handler = some 4 ∧ x.inHandler = false) := by
  decide +kernel
def bytesAt (s : State) (x : Ctx) (a n : Nat) : List (Byte × Bool) := match s.blk.dxRead 0 x a n with | .ok bs => bs | _ => []
theorem test_issue_launches : ∀ row ∈ launchForms, ∀ u ∈ [(0, true), (4, false)],
    let w := word 0x26 0 1 2 (if row.2.2 = .skins then 0 else row.2.1.sels.headD 0)
    let x := { ctxS w 0 0x200000 with usedTree := u.1, usedSketch := u.1, usedFuller := u.1 }; let bs := bytesAt (dxOn x) x 0 32
    let j := (dxOn x).blk.jobOf row.2.2 0 x w (wordsOf bs) (x.p (if row.2.2 = .skins then fRc w else 0))
    Issues (dxOn x) 0 x w row.2.1 ∧ x.pp (if row.2.2 = .skins then fRc w else 0) = false ∧ x.sp (fRa w) = false ∧
    x.sp (fRb w) = false ∧ (x.s (fRa w)).toNat % 8 = 0 ∧ reads (dxOn x) x 0 32 = true ∧ j.slot = none ∧
    (List.range 8).any (fun i => !dataWord row.2.2 i && ((wordsOf bs).getD i (0, false)).2) = false ∧
    (dxOn x).blk.launchReady x j = u.2 := by unfold Issues; decide +kernel
theorem test_launch_blocked : let w := word 0x26 0 1 2 1; let y := ctxS w 0 0x200000
    let j := (dxOn y).blk.jobOf .skmrg 0 y w (wordsOf (bytesAt (dxOn y) y 0 32)) 0xFFFF
    let x := { stopped w (.launch j 0) with sreg := y.sreg }
    (dxOn x).blk.inReset = false ∧ Store.look (dxOn x).blk.ctxs 0 = some x ∧ (dxOn x).blk.engUp x = true ∧
      (dxOn x).blk.launchReady x j = true := by decide +kernel
/-- The same with a write of the context's outstanding at the XM port. -/
def dxWr (x : Ctx) : State := (dxRun x).modBlk fun b => b.modMem (fun m => { m with
  reqs := [⟨0, 1, true, 0, false, some 0, 3, [], false⟩] })
theorem test_issue_fence : let w := word 0x27 0 0 0 0; let x := ctx w
    Issues (dxRun x) 0 x w eFence ∧ (dxRun x).blk.xmRoom x.xmLines.length = true ∧ x.blocked = .no ∧
    Store.look ((dxRun x).blk.drainAll 0).ctxs 0 = some x ∧ ((dxRun x).blk.drainAll 0).writing 0 = false ∧
    Issues (dxWr x) 0 x w eFence ∧ Store.look ((dxWr x).blk.drainAll 0).ctxs 0 = some x ∧
    ((dxWr x).blk.drainAll 0).writing 0 = true := by unfold Issues; decide +kernel
/-- Context 0 has stored a byte in the pool, beside a context 1 and a context 2. -/
def storedB : Blk := (dxRun { ctx 0 with sbuf := [⟨.pool, 3, [(5, false)]⟩] }).blk
/-- R153: a SEND shows the store to its own context alone, then to the taker of the token and to no third; a fence to all. -/
theorem test_store_seen : let b := storedB.drainStores 0; let c := b.seeStores 1 0 b.mem.sends
    (∃ x, Store.look storedB.ctxs 0 = some x) ∧ (b.mem.seen.map fun e => (e.ctx, e.n)) = [(0, 0)] ∧ b.mem.sends = 1 ∧
    ([0, 1, 2].map fun o => Mem.rd (b.seenBy o).mem.pool 3) = [5, 0, 0] ∧
    ([0, 1, 2].map fun o => Mem.rd (c.seenBy o).mem.pool 3) = [5, 5, 0] ∧
    (let d := c.drainAll 0; d.mem.seen = [] ∧ ([0, 1, 2].map fun o => Mem.rd (d.seenBy o).mem.pool 3) = [5, 5, 5]) := by
  refine ⟨⟨_, rfl⟩, ?_⟩; decide +kernel
theorem test_fence_blocked : let x := stopped (word 0x27 0 0 0 0) .fence
    (dxRun x).blk.inReset = false ∧ Store.look (dxRun x).blk.ctxs 0 = some x ∧ (dxRun x).blk.engUp x = true ∧
    (dxRun x).blk.xmRoom x.xmLines.length = true ∧ Store.look ((dxRun x).blk.drainAll 0).ctxs 0 = some x ∧
    ((dxRun x).blk.drainAll 0).writing 0 = false := by decide +kernel
theorem test_illegal : (let x := ctx 0; (dx x).blk.inReset = false ∧ Store.look (dx x).blk.ctxs 0 = some x ∧
      (dx x).blk.mayIssue 0 x = true ∧ undefWord x.word = true) ∧
    (∀ row ∈ launchForms, let w := word 0x26 (if row.2.2 = .skins then 16 else 1) 1 2 (row.2.1.sels.headD 0); let x := ctx w
      (dx x).blk.mayIssue 0 x = true ∧ undefWord x.word = false ∧ row.2.1.is x.word = true ∧
      (dx x).blk.encFault row.2.1 x.word = some (if row.2.2 = .skins then 5 else 2)) ∧
    (let w := word 1 1 1 1 0x100; w &&& (eScalar 0).zero ≠ 0) ∧
    (let w := word 2 16 0 0 0; w &&& (eVint 0).zero = 0 ∧ ∃ r ∈ (eVint 0).regs, r.2 ≤ fld w (r.1 + 4) r.1) ∧
    (let w := word 7 0 0 0 0; w &&& (eFeat 0).zero = 0 ∧ (∀ r ∈ (eFeat 0).regs, fld w (r.1 + 4) r.1 < r.2) ∧
      ¬ (eStamp.is w = true ∧ fRd w = 31) ∧ (eFeat 0).unit = some 4 ∧ { State.reset.blk with conf := .d }.unitHere 4 = false) := by
  decide +kernel

/-! ### Time, trackers -/

/-- A tray instance after reset, an instance of a Toltus D, a span instance, each with some of its units changed. -/
def tray (f : Blk → Blk) : State := State.reset.modBlk f
def dieI (f : Blk → Blk) : State := State.reset.modBlk fun b =>
  f { b with conf := .d, role := .die, inst := { b.inst with lanes := 8, channels := 256, analogs := 16 } }
def spanI (f : Blk → Blk) : State := State.reset.modBlk fun b => f { b with role := .span }
/-- A number of tclk passed and a number of microseconds of T64. -/
def later (b : Blk) (n u : Nat) : Blk := { b with tclk := n, time := { b.time with offset := BitVec.ofNat 96 (u * 16000 * 2 ^ 32) } }

theorem test_time_lost : State.reset.blk.inReset = false ∧ State.reset.blk.time.trefLost = false ∧ State.reset.blk.time.hold = false ∧
    (tray fun b => b.modTime fun t => { t with trefLost := true }).blk.time.trefLost = true := by decide +kernel
theorem test_time_hold : let s := tray fun b => later (b.setReg (.tim .TIM_CTRL) 1) (b.ms (b.reg (.tim .TIM_HOLD_TMO)).toNat) 0;
    s.blk.timCtl 0 = true ∧ s.blk.time.hold = false ∧
    s.blk.passed s.blk.time.measAt (s.blk.ms (s.blk.reg (.tim .TIM_HOLD_TMO)).toNat) = true := by decide +kernel
theorem test_time_leap : ∀ k ∈ [1, 2], let s := tray fun b => (later b 0 5).setReg (.tim .TIM_LEAP_CTRL) (w32 k) |>.modTime fun t => { t with
    leapAt := 80000 };
    s.blk.time.leapDone = false ∧ s.blk.time.leapErr = false ∧ s.blk.time.leapAt.toNat ≤ s.blk.t64.toNat ∧
    fld (s.blk.reg (.tim .TIM_LEAP_CTRL)) 1 0 = k := by decide +kernel
theorem test_pps : (let s := tray fun b => (b.setReg (.tim .TIM_CTRL) 4).setReg (.tim .TIM_PPS_W) 1;
      s.blk.timCtl 2 = true ∧ s.blk.time.ppsSec ≠ some (s.blk.t64.toNat / tkSec) ∧ s.blk.secondNow = true ∧
      { later s.blk 0 5 with regs := s.blk.regs }.secondNow = false ∧ fld (s.blk.reg (.tim .TIM_PPS_W)) 19 0 ≠ 0) ∧
    (let s := tray fun b => (later b 7 0).modTime fun t => { t with ppsFall := some 7, ppsInAt := some 7 };
      s.blk.time.ppsFall = some 7 ∧ 7 ≤ s.blk.tclk) ∧
    (let s := tray fun b => (later b (b.ms 500) 0).modTime fun t => { t with ppsInAt := some 0 };
      s.blk.time.ppsInAt = some 0 ∧ s.blk.passed 0 (s.blk.ms 500) = true ∧ s.blk.time.fifo.length < s.blk.stampMax) := by decide +kernel
/-- A stamp FIFO with 255 and with 256 entries. -/
def stamps (n : Nat) : State := tray fun b => b.modTime fun t => { t with fifo := List.replicate n ⟨0, false, 0, 0⟩ }
theorem test_stamps : (stamps 255).blk.stampPort 62 = true ∧ (stamps 255).blk.time.fifo.length < (stamps 255).blk.stampMax ∧
    (stamps 256).blk.stampMax ≤ (stamps 256).blk.time.fifo.length ∧ (stamps 0).blk.stampPort 63 = false := by decide +kernel
theorem test_strobes : let s := tray fun b => (later b 9 0).modTime fun t => { t with strobe0 := some 9, strobe1 := some 8 };
    s.blk.time.strobe0 = some 9 ∧ s.blk.time.strobe1 = some 8 ∧ 9 ≤ s.blk.tclk := by decide +kernel
/-- Tracker 0 in turn 5, its boundary 10 µs ago. -/
def trk (p : Nat) (f : Blk → Blk) : State := tray fun b => f ((later b 0 10).setReg (.trn (.TRN_CTRL 0)) 0x80000002#32 |>.modTrk fun _ =>
  [(0, { Tracker.idle with running := true, turn := 5, pred := p })])
theorem test_tracker_events : (let s := trk 160000 id; (s.blk.tracker 0).running = true ∧ (s.blk.tracker 0).pred ≠ 0 ∧
      (s.blk.tracker 0).overrun = false ∧ (s.blk.tracker 0).pred ≤ (s.blk.t64 - (s.blk.tracker 0).mstamp).toInt) ∧
    (let s := trk 0 fun b => later (b.setReg (.trn (.TRN_STALL 0)) 1) 0 1000; (s.blk.tracker 0).stall = false ∧
      ((fld (s.blk.reg (.trn (.TRN_STALL 0))) 23 0 * 1000 * tkUs : Nat) : Int) ≤ (s.blk.t64 - (s.blk.tracker 0).mstamp).toInt) ∧
    (let s := trk 0 fun b => (b.setReg (.tim (.TIM_TTn_CTRL 3)) 0x80000000#32).modTime fun t => { t with ttNext := [(3, 160000)] };
      3 < s.blk.conf.timeTriggers ∧ s.blk.ttDue 3 = true ∧ (∀ m, m < 3 → s.blk.ttDue m = false) ∧ s.blk.conf.timeTriggers ≤ 64) ∧
    (let s := trk 320000 fun b => b.setReg (.trn (.TRN_ATn 0 7)) 0x80010000#32;
      s.blk.trkEn 0 = true ∧ s.blk.atArmed 0 7 = true ∧ s.blk.atAngle 0 7 ≤ s.blk.angle 0 ∧ (∀ m, m < s.blk.conf.timeTriggers → s.blk.ttDue m = false) ∧
      (∀ m, m < 7 → s.blk.atDue 0 m = false)) := by
  decide +kernel

/-! ### Bring-up -/

/-- An instance at a stage of bring-up. -/
def at_ (st : Nat) (f : BootState → BootState) : Blk → Blk := fun b => b.modBoot fun m => f { m with stage := st }
theorem test_reset_lines : (tray fun b => { b with inReset := true }).blk.inReset = true := by decide +kernel
theorem test_stage_0 : State.reset.blk.boot.stage = 0 ∧ State.reset.blk.boot.result = 0 ∧ State.reset.blk.time.trefLost = false := by
  decide +kernel
theorem test_stage_4 : (let s := tray (at_ 4 id); s.blk.boot.stage = 4 ∧ s.blk.boot.result = 0 ∧ s.blk.boot.epochSeen = false) ∧
    (let s := tray (at_ 4 fun m => { m with epochSeen := true });
      s.blk.boot.epochSeen = true ∧ s.blk.defers = false ∧ s.blk.time.lock = false) ∧
    (let s := tray fun b => (at_ 4 (fun m => { m with epochSeen := true }) b).modTime fun t => { t with lock := true };
      s.blk.boot.epochSeen = true ∧ s.blk.defers = false ∧ s.blk.time.lock = true) ∧
    (let s := dieI fun b => { at_ 4 (fun m => { m with epochSeen := true }) b with inst := { b.inst with port60 := true } };
      s.blk.boot.epochSeen = true ∧ s.blk.defers = true) := by decide +kernel
theorem test_stage_8 : (let s := tray (at_ 8 id); s.blk.boot.stage = 8 ∧ s.blk.boot.result = 0 ∧ s.blk.role ≠ .span) ∧
    (tray (at_ 8 fun m => { m with result := 2 })).blk.boot.result = 2 ∧
    (let s := tray fun b => { at_ 2 id b with tclk := b.ms 100, fwc := { b.fwc with cores := [(0x40, { FCore.fresh with st := .boot })] } };
      s.blk.boot.stage = 2 ∧ s.blk.boot.result ≠ 2 ∧ (s.blk.fcore 0x40).st = .boot ∧
      s.blk.passed s.blk.boot.stageAt (s.blk.ms 100) = true) := by decide +kernel
/-- Port `k` asks for training, and `n` ms have passed. -/
def asks (k n : Nat) (full : Bool) : State := tray fun b => { at_ 5 (fun m => { m with trains := [(k, ⟨true, full, false, 0⟩)] }) b with
  tclk := b.ms n }
theorem test_training : (let s := asks 0 4 false; s.blk.boot.stage = 5 ∧ s.blk.stageOver = false ∧ (s.blk.train 0).req = true ∧
      5 ∈ s.blk.trainPorts ∧ (s.blk.train 5).done = false ∧ (s.blk.train 0).full = false ∧
      s.blk.passed (s.blk.train 0).at_ (s.blk.ms (if (s.blk.train 0).full then 250 else 5)) = false) ∧
    (let s := asks 3 250 true; (s.blk.train 3).full = true ∧ s.blk.stageOver = false ∧
      s.blk.passed (s.blk.train 3).at_ (s.blk.ms (if (s.blk.train 3).full then 250 else 5)) = true) ∧
    (let s := asks 4 249 true; (s.blk.train 4).full = true ∧
      s.blk.passed (s.blk.train 4).at_ (s.blk.ms (if (s.blk.train 4).full then 250 else 5)) = false) := by decide +kernel
theorem test_attach_retry : ∀ n ∈ [true, false], let s := dieI fun b => { at_ 7 (fun m => { m with attAns := n }) b with tclk := b.ms 100, regs := [(0x12001C, 0)] };
    s.blk.boot.stage = 7 ∧ s.blk.role ≠ .span ∧ s.blk.parentPlace ≠ none ∧ s.blk.boot.attached = false ∧ s.blk.placeValid = true ∧
    s.blk.passed s.blk.boot.attAt (s.blk.ms 100) = true ∧ s.blk.boot.attAns = n ∧ s.blk.boot.result ≠ 2 := by decide +kernel
theorem test_span_wait : (∀ n ∈ [true, false], let s := spanI fun b => { at_ 7 (fun m => { m with spans := [(0x20, ⟨true, false, n, 0⟩)] }) b with
      tclk := b.ms (fld (b.reg (.boot .BOOT_SPAN_WAIT)) 15 0) }
      s.blk.role = .span ∧ s.blk.boot.stage = 7 ∧ s.blk.boot.result = 0 ∧
      s.blk.passed s.blk.boot.stageAt (s.blk.ms (fld (s.blk.reg (.boot .BOOT_SPAN_WAIT)) 15 0)) = true ∧
      s.blk.unanswered = (if n then 0 else 1)) ∧
    (let s := spanI (at_ 7 id); s.blk.passed s.blk.boot.stageAt (s.blk.ms (fld (s.blk.reg (.boot .BOOT_SPAN_WAIT)) 15 0)) = false) := by
  decide +kernel
theorem test_span_silent : let s := spanI fun b => { at_ 8 (fun m => { m with spans := [(0x20, ⟨true, false, false, 0⟩)] }) b with
      tclk := b.ms 10, hlt := { b.hlt with peers := [(0x20, { Peer.fresh with m0 := some 0 })] } }
    siteOf 0x20 = siteOf s.blk.place ∧ (Store.look s.blk.boot.spans 0x20).isSome = true ∧
    Store.look s.blk.hlt.peers 0x20 = some { Peer.fresh with m0 := some 0 } ∧ s.blk.quiet (some 0) (s.blk.ms 10) = true ∧
    s.blk.quiet Peer.fresh.m1 (s.blk.ms 10) = true ∧ s.blk.boot.stage ≠ 7 := by decide +kernel
theorem test_primary : (let b := (spanI (at_ 8 fun m => { m with primary := some (0x20, 5) })).blk
      b.role = .span ∧ b.boot.primary = some (0x20, 5) ∧ ((5 : Word).toNat < (6 : Word).toNat) ∧ (0 : Word).toNat < (0x20 : Word).toNat ∧
      ¬ ((5 : Word).toNat < (5 : Word).toNat ∨ (5 : Word) = 5 ∧ (0x40 : Word).toNat < (0x20 : Word).toNat)) ∧
    (let s := spanI fun b => { at_ 8 (fun m => { m with isPrimary := true }) b with tclk := b.ms 100 };
      s.blk.boot.isPrimary = true ∧ s.blk.passed s.blk.boot.primAt (s.blk.ms 100) = true) := by decide +kernel

/-! ### The probe array, records, debug -/

def rec0 : Record := mkRec tCmd false 0 0 []
/-- A probe word of a kind on channel 255, tag 1, with its AGE. -/
def pword (k : Nat) : BitVec 128 := BitVec.ofNat 128 (k * 2 ^ 125 + 255 * 2 ^ 116 + 1 * 2 ^ 108 + 2 * 2 ^ 98 + 7 * 2 ^ 32 + 9)
/-- The probe array enabled, with channel 255. -/
def probes (f : Blk → Blk) : State := dieI fun b => f ({ (b.setReg (.prb .PRB_CTRL) 7).setReg (.prb (.PRB_CH_EN 7)) 0x80000000#32 with
  boot := { b.boot with ready := true } })
theorem test_probe_words : ∀ k ∈ [1, 2, 3, 4],
    ((dieI id).blk.acceptWord 7 (pword k) k).1 = false ∧ ((probes id).blk.acceptWord 7 (pword k) k).1 = true ∧
    pw (pword k) 107 107 = 0 ∧ (probes id).blk.conf = .d ∧ 7 < (probes id).blk.inst.lanes ∧ (probes id).blk.prb.rdyLow = false ∧
    (probes id).blk.unitUp 0 3 = true ∧ pwKind (pword k) = k ∧ (dieI id).blk.prbCtl 0 = false ∧ (probes id).blk.prbCtl 0 = true ∧ (probes id).blk.boot.ready = true ∧
    ((probes fun b => { b with boot := { b.boot with ready := false } }).blk.acceptWord 7 (pword k) k).1 = false ∧
    Store.look (probes id).blk.prb.pairs (pairKey (pwChan (pword k)) (pwTag (pword k))) = none ∧
    (probes id).blk.prb.pairs.length < 4096 := by decide +kernel
theorem test_counters : (let s := probes fun b => b.setReg (.prb (.PRB_Gg_CTRL 63)) 0x8000FF00#32
      bit (s.blk.reg (.prb (.PRB_Gg_CTRL 63))) 31 = true ∧ s.blk.ownerOf (s.blk.gOwner 63) ≠ .none) ∧
    bit ((probes id).blk.reg (.prb (.PRB_Gg_CTRL 63))) 31 = false := by decide +kernel
theorem test_sample_drain : ∀ n ∈ [false, true], let s := probes fun b => { b with
      colls := if n then [(3, { Coll.idle with st := .running })] else [], prb := { b.prb with smpBuf := [(3, rec0)] } }
    s.blk.prb.smpBuf = [(3, rec0)] ∧ s.blk.collRuns 3 = n := by decide +kernel
theorem test_windows : (∀ u ∈ [(10, true), (9, false)], let s := probes fun b => later (b.setReg (.prb .PRB_BW_WIN) 10) 0 u.1;
      s.blk.conf = .d ∧ s.blk.prbCtl 1 = true ∧ s.blk.bwLen ≠ 0 ∧
      decide ((s.blk.prb.bwWin + 1) * s.blk.bwLen * tkUs ≤ s.blk.t64.toNat) = u.2) ∧
    (∀ n ∈ [0, 1], let s := probes fun b => { later b 0 10 with prb := { b.prb with snsAt := some n } };
      s.blk.prbCtl 2 = true ∧ decide (s.blk.prb.snsAt = some (s.blk.t64.toNat / 160000)) = decide (n = 1)) ∧
    (let s := probes fun b => b.setReg (.prb (.PRB_AN_CFG 15)) 0x80000000#32;
      15 < s.blk.inst.analogs ∧ bit (s.blk.reg (.prb (.PRB_AN_CFG 15))) 31 = true ∧ s.blk.prbCtl 2 = true ∧
      bit (s.blk.reg (.prb (.PRB_AN_CFG 14))) 31 = false) := by decide +kernel
theorem test_record_flush : ∀ n ∈ [(2000, true), (1999, false)], let s := tray fun b => { b with tclk := b.ns n.1, rcp := { b.rcp with
      streams := [(128, { Stream.fresh with nrec := 1 })] } }
    (s.blk.stream 128).nrec ≠ 0 ∧
    s.blk.passed (s.blk.stream 128).openAt (s.blk.ns (fld (s.blk.reg (.rcp .RCP_FLUSH)) 15 0)) = n.2 := by decide +kernel
theorem test_record_send : State.reset.blk.rcpEn = false ∧ (tray fun b => b.setReg (.rcp .RCP_CTRL) 1).blk.rcpEn = true := by
  decide +kernel
theorem test_freeze_end : ∀ u ∈ [(4000000, true), (3999999, false)], let s := tray fun b => { later b 0 u.1 with
      rcp := { b.rcp with fwClosing := true } }
    s.blk.rcp.fwClosing = true ∧ decide (0 ≤ (s.blk.t64 - (s.blk.fwAlm + BitVec.ofNat 64 (4 * tkSec))).toInt) = u.2 := by decide +kernel
/-- The turns before the collection's history is on: one part, the result of reduction 0, stands ready for turn 4. -/
theorem test_history : let s := (dxRun (ctx 0)).modBlk fun b => { (b.setReg (.rcp .RCP_HIST_SIZE) 1).setReg (.rcp (.RCP_HIST_QUOTA 3)) 1 with
      rcp := { b.rcp with histPend := [(3, [(1024, [])])] },
      colls := [(3, { b.coll 3 with histTo := some 3 })] }
    s.blk.collRuns 3 = true ∧ s.blk.histOn 3 = true ∧ s.blk.hasFuller = true ∧ s.blk.turnOf 3 = 5 ∧ s.blk.histTurn 3 = 4 ∧
    s.blk.histBusy 3 = false ∧ sdiff (s.blk.histTurn 3) (s.blk.turnOf 3) < 0 ∧ s.blk.histParts 3 = [0] ∧
    (∀ p ∈ s.blk.histParts 3, (Store.look (Store.get [] s.blk.rcp.histPend 3) (256 * (s.blk.histTurn 3).toNat + p)).isSome = true) := by
  decide +kernel
/-- An authorisation of 5 µs to 6 µs, being checked at 5 µs. -/
def auth (bad : Nat) : State := tray fun b => { at_ 8 (fun m => { m with lockSeen := true }) (later b 0 5) with
  trace := { b.trace with checking := some ⟨bad, 7, 1, 80000, 96000⟩, endT := 80001 } }
theorem test_authorisation : (auth 0).blk.trace.checking = some ⟨0, 7, 1, 80000, 96000⟩ ∧
    (auth 0).blk.authReason ⟨0, 7, 1, 80000, 96000⟩ (decide (Verdict.ok = .ok)) = 0 ∧
    (auth 3).blk.authReason ⟨3, 7, 1, 80000, 96000⟩ (decide (Verdict.ok = .ok)) ≠ 0 ∧
    State.reset.blk.trace.endT.toNat ≤ State.reset.blk.t64.toNat ∧ (auth 0).blk.t64.toNat < (auth 0).blk.trace.endT.toNat := by
  decide +kernel

/-! ### Frames: bring-up, records, reductions -/

theorem heard_sub {s : State} {f : RxFrame} {ty sub : Nat} {p : Blk → Taken → Prop} [∀ b t, Decidable (p b t)]
    (h : (match s.blk.takeSub f ty sub with | (b, some t) => decide (s.blk.inReset = false ∧ p b t) | _ => false) = true) :
    ∃ b t, HearsSub s f ty sub b t ∧ p b t := by
  split at h
  · rename_i b t e
    exact ⟨b, t, ⟨(of_decide_eq_true h).1, e⟩, (of_decide_eq_true h).2⟩
  · cases h
theorem heard_if {s : State} {f : RxFrame} {ty : Nat} {g : Frame → Bool} {p : Blk → Taken → Prop} [∀ b t, Decidable (p b t)]
    (h : (match s.blk.takeIf f ty g with | (b, some t) => decide (s.blk.inReset = false ∧ p b t) | _ => false) = true) :
    ∃ b t, HearsIf s f ty g b t ∧ p b t := by
  split at h
  · rename_i b t e
    exact ⟨b, t, ⟨(of_decide_eq_true h).1, e⟩, (of_decide_eq_true h).2⟩
  · cases h
theorem heard {s : State} {f : RxFrame} {ty : Nat} {p : Blk → Taken → Prop} [∀ b t, Decidable (p b t)]
    (h : (match s.blk.takeFrame f ty with | (b, some t) => decide (s.blk.inReset = false ∧ p b t) | _ => false) = true) :
    ∃ b t, Hears s f ty b t ∧ p b t := by
  split at h
  · rename_i b t e
    exact ⟨b, t, ⟨(of_decide_eq_true h).1, e⟩, (of_decide_eq_true h).2⟩
  · cases h

/-- A frame on pair 0 from a place and role to place `dst` and role `drole`: of the block's own streams, or of collection 3. -/
def msg (src srole dst drole cls ty : Nat) (own : Bool) (p : List Byte) : RxFrame :=
  let f : Frame := { dst := w32 dst, src := w32 src, drole := drole, srole := srole, cls := cls, lh := false, ftype := ty, own := own,
                     part := 0, coll := 3, gen := 7, dq := 0, sent := 0, limit := 0, lv := false, poim := 0, payload := p,
                     credits := [], turn := none, at_ := 0, spilled := none, banks := [] }
  ⟨0, false, f.wire 0 0 false⟩
/-- The bytes of words. -/
def ws (l : List Nat) : List Byte := l.flatMap (leBytes 4)
/-- A ready instance at place `p` that holds a credit of its port and a receive context for class, source and role. -/
def net (p cls src role : Nat) (b : Blk) : Blk :=
  { b.setReg (.boot .BOOT_PLACE) (w32 p) with boot := { b.boot with ready := true }, qsc := { b.qsc with
      fiCrd := [(0, 64)], flows := [(0, { Flow.fresh with recv := true, cls := cls, peer := w32 src, peerRole := role, grant := 100 })] } }
/-- Collection 3 running at trays 40 and 60 (hex), with one reduction whose turn 5 is open. -/
def red (f : RTurn → RTurn) : Reduction :=
  { scope := 2, dies := true, nel := 1, split := 1, dline := 10, hop := 1, dlv := 0, rq := 0, sq := 0, els := [0x20], exp := 2,
    turns := [(5, f { RTurn.fresh with base := some 0 })], bases := [], results := [], last := [], closed := none, lastTurn := 0, lastA := 0, lastB := 0,
    lastMiss := 0, lastTrunc := false }
def runs (f : RTurn → RTurn) (b : Blk) : Blk := { b with
  colls := [(3, { Coll.idle with st := .running, begun := true, gen := 7, parts := [0x40, 0x60], dies := [0x41] })]
  red := { b.red with reds := [(48, red f)] } }

theorem test_attach_ready : ∃ b t, HearsSub (tray fun b => net 0x40 2 0x41 1 (at_ 8 (fun m => { m with ready := true }) b))
    (msg 0x41 1 0x40 2 2 ftAttach true (ws [1, 0])) ftAttach 1 b t ∧ (b.frameDone t).boot.ready = true := heard_sub (by decide +kernel)
theorem test_attach_not_ready : ∃ b t, HearsSub (tray fun b => at_ 7 (fun m => { m with ready := false }) (net 0x40 2 0x41 1 b)) (msg 0x41 1 0x40 2 2 ftAttach true (ws [1, 0])) ftAttach 1 b t ∧
    (b.frameDone t).boot.ready = false := heard_sub (by decide +kernel)
/-- A frame as a receiver reads it, with source, role and word 1. -/
def attachF (src role w1 : Nat) : Frame := frameOf (msg src role 0x40 2 2 ftAttach true (ws [1, w1])).bytes
theorem test_attach_code : let b := fun (l : List Word) => (tray fun b => net 0x40 2 0 0 (at_ 8 (fun m => { m with members := l }) b)).blk
    (b []).role = .tray ∧ trayOf (attachF 0x81 1 0).src ≠ (b []).place ∧ trayOf (attachF 0x41 1 0).src = (b []).place ∧
    (attachF 0x41 1 0).srole = 1 ∧ (attachF 0x41 1 0).src ∈ (b [0x41]).boot.members ∧ (attachF 0x41 1 0).src ∉ (b []).boot.members ∧
    (attachF 0x41 1 0).src ∉ (b (List.replicate 32 0x42)).boot.members ∧ 32 ≤ (b (List.replicate 32 0x42)).boot.members.length ∧
    fld (wordAt (attachF 0x41 1 0).payload 1) 11 0 = (b []).part ∧ fld (wordAt (attachF 0x41 1 1).payload 1) 11 0 ≠ (b []).part := by
  decide +kernel
/-- A die at S7. -/
def die7 : State := dieI fun b => net 0x41 2 0x40 2 (at_ 7 id b)
theorem test_attach_reply : ∃ b t, HearsSub die7 (msg 0x40 2 0x41 1 2 ftAttach true (ws [2, 0])) ftAttach 2 b t ∧
    ((b.frameDone t).boot.stage = 7 ∧ (b.frameDone t).boot.result ≠ 2 ∧ (b.frameDone t).boot.attached = false ∧
    (b.frameDone t).parentPlace = some t.f.src ∧ fld (wordAt t.f.payload 1) 7 0 = 0 ∧
    ((b.frameDone t |>.modBoot (fun m => { m with attAns := true })).attachFlows t.f.src t.f.srole).isSome = true) :=
  heard_sub (by decide +kernel)
theorem test_attach_refusal : ∀ n ∈ [2, 4], ∃ b t, HearsSub die7 (msg 0x40 2 0x41 1 2 ftAttach true (ws [2, n])) ftAttach 2 b t ∧
    ((b.frameDone t).boot.stage = 7 ∧ (b.frameDone t).parentPlace = some t.f.src ∧ fld (wordAt t.f.payload 1) 7 0 = n) := by
  intro n hn
  simp only [List.mem_cons, List.not_mem_nil, or_false] at hn
  rcases hn with rfl | rfl <;> exact heard_sub (by decide +kernel)
/-- A span instance at place 20 (hex) whose table holds 80 (hex). -/
def span8 : State := spanI fun b => net 0x20 2 0x80 3 (at_ 8 (fun m => { m with spans := [(0x80, ⟨true, false, false, 0⟩)] }) b)
theorem test_peer_table : ∃ b t, HearsSub span8 (msg 0x80 3 0x20 3 2 ftPeer true (ws [1, 0, 1, 0x80, 3])) ftPeer 1 b t ∧
    (b.role = .span ∧ 7 ≤ b.boot.stage ∧ fld (wordAt t.f.payload 1) 2 0 = siteOf b.place ∧
    (List.range (min (wordAt t.f.payload 2).toNat (t.f.payload.length / 8))).find?
      (fun i => wordAt t.f.payload (3 + 2 * i) == t.f.src) = some 0) := heard_sub (by decide +kernel)
theorem test_peer_ack : ∃ b t, HearsSub span8 (msg 0x80 3 0x20 3 2 ftPeer true (ws [2, 1])) ftPeer 2 b t ∧
    (b.role = .span ∧ Store.look b.boot.spans t.f.src.toNat = some ⟨true, false, false, 0⟩ ∧ b.boot.stage ≠ 7) :=
  heard_sub (by decide +kernel)
theorem test_primary_frame : ∃ b t, HearsSub (tray (net 0x40 1 0x20 3)) (msg 0x20 3 0x40 2 1 ftPeer true (ws [3, 0x20, 1])) ftPeer 3 b t ∧
    ((b.frameDone t).role ≠ .die ∧ t.f.srole = 3 ∧ siteOf t.f.src = siteOf (b.frameDone t).place ∧ t.f.src ≠ (b.frameDone t).place) :=
  heard_sub (by decide +kernel)
theorem test_time_frame : ∃ b t, Hears die7 (msg 0x40 2 0x41 1 0 ftTime true (ws [9])) ftTime b t ∧ b.inReset = false :=
  heard (by decide +kernel)
theorem test_record_frame : ∀ n ∈ [0, 1], ∃ b t, Hears (tray fun b => (net 0x40 4 0x41 1 b).setReg (.rcp .RCP_CTRL) (w32 n))
    (msg 0x41 1 0x40 2 4 ftRecord true (ws [0, 0, 0, 0])) ftRecord b t ∧ (b.role = .tray ∧ b.rcpEn = decide (n = 1)) := by
  intro n hn
  simp only [List.mem_cons, List.not_mem_nil, or_false] at hn
  rcases hn with rfl | rfl <;> exact heard (by decide +kernel)
theorem test_record_frame_at_die : ∃ b t, Hears (dieI (net 0x41 4 0x40 2)) (msg 0x40 2 0x41 1 4 ftRecord true (ws [0, 0, 0, 0])) ftRecord b t ∧
    b.role ≠ .tray := heard (by decide +kernel)

theorem test_contribution : ∀ n ∈ [1, 0], ∃ b t,
    HearsIf (tray fun b => (runs id (net 0x40 3 0x41 1 b)).setReg (.wsr .WSR_CTRL) (w32 n))
      (msg 0x41 1 0x40 2 3 ftReduce false (ws [0, 5, 1, 0, 0])) ftReduce (fun g => decide (g.srole = 1)) b t ∧
    (b.red.wait.any (fun e => e.1.src == t.f.src && decide (e.1.coll = t.f.coll)) = false ∧
      (b.takeContribution t.f t.fc).1 = decide (n = 1)) := by
  intro n hn
  simp only [List.mem_cons, List.not_mem_nil, or_false] at hn
  rcases hn with rfl | rfl <;> exact heard_if (by decide +kernel)
theorem test_contribution_waits : ∃ b t,
    HearsIf (tray fun b => (runs id (net 0x40 3 0x41 1 b)).modRed fun m => { m with wait := [({ attachF 0x41 1 0 with coll := 3 }, none)] })
      (msg 0x41 1 0x40 2 3 ftReduce false (ws [0, 5, 1, 0, 0])) ftReduce (fun g => decide (g.srole = 1)) b t ∧
    b.red.wait.any (fun e => e.1.src == t.f.src && decide (e.1.coll = t.f.coll)) = true := heard_if (by decide +kernel)
/-- Tray 40 or 60 (hex) with turn 5 open for some µs. -/
def turn (p u : Nat) (f : RTurn → RTurn) : State := tray fun b => later (runs f (net p 3 0 0 b)) 0 u
theorem test_cuts : ∀ u ∈ [(10, [(5, 0)]), (7, [])], let s := turn 0x40 u.1 id
    s.blk.reduction 3 0 = some (red id) ∧ (red id).scope ≠ 1 ∧
    (s.blk.withBase 3 0 (fun _ t => t.tray.isNone)).filter (fun p =>
      decide ((s.blk.cuts 3 (red id) p.1 p.2).1 ≤ (s.blk.t64.toNat : Int))) = u.2 ∧
    (∀ b ∈ [true, false], (s.blk.withBase 3 0 (fun n t => s.blk.inTree 3 n && (if b then t.halfB else t.halfA).isNone)).filter (fun p =>
      decide ((if b then (s.blk.cuts 3 (red id) p.1 p.2).2.2 else (s.blk.cuts 3 (red id) p.1 p.2).2.1) ≤ (s.blk.t64.toNat : Int))) = u.2) := by
  decide +kernel
/-- The words of a half: level, half (1 A, 2 B), turn 5 and, for half A, one element. -/
def half (l h : Nat) : List Nat := [l * 2 ^ 30 + h * 2 ^ 28, 5, 2, 1, 1, 0, 0] ++ if h = 1 then [3, 7, 0, 0] else [0]
def whole (b : Blk) (t : Taken) (fetch : Bool) (p : Blk → HalfIn → Bool) : Bool :=
  match b.gather t fetch with
  | (some ws, c) => (match c.readHalf t.f.coll (if fetch then ws.drop 2 else ws) with | some x => p c x | none => false)
  | _ => false
theorem test_half_partial : ∃ b t, HearsIf (tray fun b => runs id (net 0x40 3 0x60 2 b)) (msg 0x60 2 0x40 2 3 ftReduce false (ws (half 0 2)))
      ftReduce (fun g => decide (g.srole ≠ 1) && decide ((tray fun b => runs id (net 0x40 3 0x60 2 b)).blk.headLevel g = 0)) b t ∧
    whole b t false (fun _ _ => true) = true := heard_if (by decide +kernel)
/-- An enabled tray with a half-partial of tray 60 (hex): of half B, or of a half that does not exist. -/
def halfAt (l : List Nat) : Blk × Frame := ((tray fun b => (runs id (net 0x40 3 0x60 2 b)).setReg (.wsr .WSR_CTRL) 1).blk,
  frameOf (msg 0x60 2 0x40 2 3 ftReduce false (ws l)).bytes)
theorem test_half_frame : ∀ l ∈ [(half 0 2, true), (half 0 3, false)], (halfAt l.1).1.redEn = true ∧
    (match (halfAt l.1).1.gather ⟨(halfAt l.1).2, none⟩ false with
      | (some ws, _) => (match (halfAt l.1).1.readHalf (halfAt l.1).2.coll ws with
        | some x => l.2 && !(halfAt l.1).1.mustWait (halfAt l.1).2.coll x.rid x.turn
        | none => !l.2)
      | _ => false) = true := by decide +kernel
theorem test_site_half : ∀ n ∈ [1, 2], ∃ b t, Hears (spanI fun b => runs id (net 0x20 3 0x60 2 b))
      (msg 0x60 2 0x20 3 3 ftReduce false (ws (half 2 n))) ftReduce b t ∧
    (b.role = .span ∧ t.f.srole = 2 ∧ whole b t false (fun c x => decide (x.level = 2) &&
      decide (crownIn (c.treeOf t.f.coll x.turn) x.b = some t.f.src) == decide (n = 1)) = true) := by
  intro n hn
  simp only [List.mem_cons, List.not_mem_nil, or_false] at hn
  rcases hn with rfl | rfl <;> exact heard (by decide +kernel)
theorem test_other_site_half : ∃ b t, Hears (spanI fun b => runs id (net 0x20 3 0x2000020 3 (b.setReg (.boot (.BOOT_SITE_SPAN 1)) 0x2000020)))
      (msg 0x2000020 3 0x20 3 3 ftReduce false (ws (half 2 1))) ftReduce b t ∧
    (t.f.srole ≠ 2 ∧ whole b t false (fun c x => decide (x.level = 2) && decide (siteOf t.f.src ≠ siteOf c.place)) = true) :=
  heard (by decide +kernel)
theorem test_broadcast_die : ∃ b t, HearsIf (dieI fun b => runs id (net 0x41 3 0x40 2 b)) (msg 0x40 2 0x41 1 3 ftReduce false (ws (half 2 1)))
      ftReduce (fun g => decide ((dieI fun b => runs id (net 0x41 3 0x40 2 b)).blk.role = .die) || (decide (g.srole ≠ 1) &&
        decide ((dieI fun b => runs id (net 0x41 3 0x40 2 b)).blk.headLevel g ≠ 0))) b t ∧
    ((b.gather t false).1.isSome = true ∧ (b.gather t false).2.role = .die) := heard_if (by decide +kernel)
theorem test_broadcast_tray : ∃ b t, HearsIf (turn 0x40 0 id |>.modBlk fun b => runs id (net 0x40 3 0x60 2 b))
      (msg 0x60 2 0x40 2 3 ftReduce false (ws (half 2 1))) ftReduce (fun g =>
        decide ((turn 0x40 0 id |>.modBlk fun b => runs id (net 0x40 3 0x60 2 b)).blk.role = .die) || (decide (g.srole ≠ 1) &&
        decide ((turn 0x40 0 id |>.modBlk fun b => runs id (net 0x40 3 0x60 2 b)).blk.headLevel g ≠ 0))) b t ∧
    whole b t false (fun c x => decide (c.role ≠ .die) && decide (2 ≤ x.level) && decide (c.reduction t.f.coll x.rid = some (red id)) &&
      (red id).closed.isNone && decide (0 ≤ sdiff x.turn (c.coll t.f.coll).start) &&
      c.fromAboveTree t.f.coll x t.f.src t.f.srole) = true := heard_if (by decide +kernel)

/-! ### Span combine, results, jobs -/

/-- The primary of site 0, lead of collection 3, some µs after the first half, with turn 5 as `f` says. -/
def lead (prim : Bool) (u : Nat) (f : RTurn → RTurn) : State := spanI fun b =>
  let b := net 0x20 3 0x60 2 { runs f b with tclk := b.us u }
  { at_ 8 (fun m => { m with isPrimary := prim, primary := some (0x20, 1) }) b with red := { b.red with leadOf := [(3, 0)] } }
/-- Whether the primary may form lists: one that leads from the start at once, one that took the role after WSR_SPAN_WAIT. -/
theorem test_lead_wait : ∀ n ∈ [(true, 20000, true, true), (false, 20000, false, true), (true, 19999, true, false)],
    let s := lead n.1 n.2.1 fun t => { t with siteAt := some 0 };
    (s.blk.rturn 3 0 5).bind RTurn.siteAt = some 0 ∧ Store.look s.blk.red.leadOf 3 = some 0 ∧ s.blk.isLead 3 = n.2.2.1 ∧
    (s.blk.coll 3).firstLead = false ∧ s.blk.passed 0 (s.blk.us (s.blk.reg (.wsr .WSR_SPAN_WAIT)).toNat) = n.2.2.2 ∧
    s.blk.leadReady 3 = (n.2.2.1 && n.2.2.2) ∧
    (s.blk.modColl 3 (fun v => { v with firstLead := true })).leadReady 3 = n.2.2.1 ∧
    s.blk.sitesFull 3 ((s.blk.rturn 3 0 5).getD .fresh) = false := by decide +kernel
theorem test_span_hold : ∀ n ∈ [true, false], let s := lead false 0 fun t => { t with list := some (1, 0) }
    let s := s.modBlk fun b => { b with tclk := if n then b.us (b.reg (.wsr .WSR_SPAN_HOLD)).toNat else 0 };
    (s.blk.rturn 3 0 5).bind RTurn.list = some (1, 0) ∧ ((s.blk.rturn 3 0 5).getD .fresh).handed = false ∧
    ((s.blk.rturn 3 0 5).getD .fresh).askedSpan = false ∧ ((s.blk.rturn 3 0 5).getD .fresh).listHeld (1, 0) = false ∧
    s.blk.passed 0 (s.blk.us (s.blk.reg (.wsr .WSR_SPAN_HOLD)).toNat) = n := by decide +kernel
theorem test_list : ∃ b t, Hears (spanI fun b => runs id (net 0x20 3 0x60 3 b)) (msg 0x60 3 0x20 3 3 ftList false (ws [0, 5, 1, 1])) ftList b t ∧
    ((b.frameDone t).role = .span ∧ 16 ≤ t.f.payload.length) := heard (by decide +kernel)
theorem test_fetch_request : ∃ b t, HearsSub (tray fun b => runs id (net 0x40 3 0x60 2 b))
      (msg 0x60 2 0x40 2 3 ftFetch false (ws [2 * 2 ^ 30 + 1 * 2 ^ 8 + 1, 5])) ftFetch 1 b t ∧
    (8 ≤ t.f.payload.length ∧ fld (wordAt t.f.payload 0) 9 8 = 1 ∧ (b.frameDone t).role = .tray ∧ 2 ≤ fld (wordAt t.f.payload 0) 31 30) :=
  heard_sub (by decide +kernel)
theorem test_fetch_request_span : ∃ b t, HearsSub (spanI fun b => runs id (net 0x20 3 0x80 3 b))
      (msg 0x80 3 0x20 3 3 ftFetch false (ws [2 * 2 ^ 30 + 2 * 2 ^ 8 + 1, 5])) ftFetch 1 b t ∧
    (8 ≤ t.f.payload.length ∧ fld (wordAt t.f.payload 0) 9 8 = 2 ∧ (b.frameDone t).role = .span) := heard_sub (by decide +kernel)
def fetchT : State := tray fun b => runs id (net 0x40 3 0x60 2 b)
def fetchS : State := spanI fun b => runs id (net 0x20 3 0x80 3 b)
theorem test_fetch_reply : ∃ b t, HearsIf fetchT (msg 0x60 2 0x40 2 3 ftFetch false (ws ([2 * 2 ^ 30 + 1 * 2 ^ 8 + 2, 5] ++ half 2 1))) ftFetch
      (fun g => decide (fld (wordAt g.payload 0) 7 0 = 2) || !(fetchT.blk.chain (chainKey g.coll g.src g.srole true)).isEmpty) b t ∧
    whole b t true (fun c x => decide (c.role = .tray) && decide (2 ≤ x.level) &&
      (match c.rturn t.f.coll x.rid x.turn with | some k => !(k.bcast x.level).done | none => false)) = true := heard_if (by decide +kernel)
theorem test_fetch_reply_span : ∃ b t, HearsIf fetchS (msg 0x80 3 0x20 3 3 ftFetch false (ws ([2 * 2 ^ 30 + 1 * 2 ^ 8 + 2, 5] ++ half 2 1))) ftFetch
      (fun g => decide (fld (wordAt g.payload 0) 7 0 = 2) || !(fetchS.blk.chain (chainKey g.coll g.src g.srole true)).isEmpty) b t ∧
    whole b t true (fun c _ => decide (c.role = .span)) = true := heard_if (by decide +kernel)
/-- A half of a result held for n µs. -/
def heldHalf (n : Nat) : Blk := (turn 0x40 0 (fun t => t.setBcast 2 { t.site with a := some ⟨[], 1, [], false⟩ }) |>.modBlk fun b => { b with
  tclk := b.us n }).blk
theorem test_bc : ((heldHalf 0).rturn 3 0 5).isSome = true ∧ (((heldHalf 0).rturn 3 0 5).getD .fresh).site.wants = some true ∧
    (((heldHalf 0).rturn 3 0 5).getD .fresh).fleet.wants = none ∧
    (heldHalf ((heldHalf 0).reg (.wsr .WSR_BC_WAIT)).toNat).passed 0 ((heldHalf 0).us ((heldHalf 0).reg (.wsr .WSR_BC_WAIT)).toNat) = true ∧
    (heldHalf ((heldHalf 0).reg (.wsr .WSR_BC_HOLD)).toNat).passed 0 ((heldHalf 0).us ((heldHalf 0).reg (.wsr .WSR_BC_HOLD)).toNat) = true ∧
    (heldHalf 0).passed 0 ((heldHalf 0).us ((heldHalf 0).reg (.wsr .WSR_BC_WAIT)).toNat) = false ∧
    (heldHalf 0).passed 0 ((heldHalf 0).us ((heldHalf 0).reg (.wsr .WSR_BC_HOLD)).toNat) = false := by decide +kernel
/-- A whole result of turn 5 that waits, of a collection that began at turn 5. -/
def ready (n : Nat) : State := tray fun b => { runs id (net 0x40 3 0 0 b) with
  colls := [(3, { (runs id b).coll 3 with start := w32 n })]
  red := { b.red with reds := [(48, { red id with rq := 0xFFF, results := [⟨1, 5, [0, 5, 0, 0, 0, 0, 0, 0], [], 1, 1, 0, false, 0, false⟩] })] } }
theorem test_deliver : (ready 5).blk.collRuns 3 = true ∧ ((ready 5).blk.deliverResult 3 0).1.isSome = true ∧
    ((ready 4).blk.deliverResult 3 0).1.isNone = true := by decide +kernel
/-- The lateness stage of turn 5 open, 9 µs after the tray's marker. -/
def lateCfg : LateCfg := ⟨0, 0, 0, 0, 0, 0, 0, 0, 0, 0, 0, 0, 0, 0, 9⟩
def lateS : State := tray fun b => { later b 0 9 with colls := [(3, { Coll.idle with st := .running, late := some lateCfg })], sk := { b.sk with
  late := [(3 * 2 ^ 32 + 5, { LateTurn.fresh with mx := some 0 })] } }
theorem test_late_cut : (lateS.blk.coll 3).late = some lateCfg ∧ (lateS.blk.coll 2).late = none ∧
    lateS.blk.sk.late.filter (fun p => p.1 / 2 ^ 32 = 3) = [(3 * 2 ^ 32 + 5, { LateTurn.fresh with mx := some 0 })] ∧
    0 ≤ (lateS.blk.t64 - lateCfg.cutAt 0).toInt := by decide +kernel
/-- A job of context 0 with a zero descriptor, in the queue of each unit. -/
def job (op : JobOp) : Job := (dxRun (ctx 0)).blk.jobOf op 0 (ctx 0) 0 (List.replicate 8 (0, false)) 0xFFFF
def jobS : State := (dxRun (ctx 0)).modBlk fun b => { b with
  sk := { b.sk with jobs := [(0, [job .skq])] }
  tre := { b.tre with jobs := [(0, [job .tscore])], alarms := [(0, [⟨3, 0, 5, 0, 0, 0, false, false, 0, 0⟩])], slots := [(255, { EnsSlot.empty with loading := true })] }
  ful := { b.ful with queue := [job .pack] } }
theorem test_jobs : Store.get [] jobS.blk.sk.jobs 0 = [job .skq] ∧ Store.get [] jobS.blk.tre.jobs 0 ≠ [] ∧ Store.get [] jobS.blk.tre.alarms 0 ≠ [] ∧
    jobS.blk.ful.queue = [job .pack] ∧ jobS.blk.hasFuller = true ∧ bit (jobS.blk.reg (.ful .FUL_CTRL)) 0 = true ∧
    (List.range 8).find? (fun e => (jobS.blk.fulEngine e).job.isNone) = some 0 ∧ (jobS.blk.slot 255).loading = true := by decide +kernel
/-- A job whose collection is torn down, and one of the history writer, in the queues and on an engine. -/
def deadS : State := jobS.modBlk fun b => { b.setReg (.ful .FUL_CTRL) 1 with
  sk := { b.sk with jobs := [(0, [{ job .skq with dead := true }])] }
  ful := { b.ful with queue := [b.histJob 3 5 [], job .pack], engines := [(1, ⟨some (job .pack), 0, 0, false⟩),
    (2, ⟨some (b.histJob 3 4 []), 0, 1, false⟩)] } }
theorem test_dead_job : Store.get [] deadS.blk.sk.jobs 0 = [{ job .skq with dead := true }] ∧
    deadS.blk.ful.queue = [deadS.blk.histJob 3 5 []] ++ job .pack :: [] ∧ (deadS.blk.histJob 3 5 []).hist = some (5, []) ∧
    fld (deadS.blk.reg (.ful .FUL_CTRL)) 11 8 ≤ deadS.blk.histHeld ∧ (job .pack).hist = none ∧ (job .skq).dead = false ∧
    (deadS.blk.fulEngine 1).job = some (job .pack) ∧ (deadS.blk.fulEngine 2).job = some (deadS.blk.histJob 3 4 []) ∧
    bit (deadS.blk.reg (.ful .FUL_CTRL)) 0 = true ∧ (List.range 8).find? (fun e => (deadS.blk.fulEngine e).job.isNone) = some 0 := by
  decide +kernel
theorem test_job_fault : (match (jobS.blk.modSk (fun m => { m with jobs := Store.set [] m.jobs 0 [] })).skRun { job .skq with
    desc := 0xFFFFFFF8#32 :: List.replicate 7 0 } with | .error _ => true | _ => false) = true := by
  decide +kernel

/-! ### Collections -/

/-- A start of collection 3, generation 7, under way at tray 40 (hex), with the child 41. -/
def start0 : CStart :=
  { coord := false, init := (0x41, 1), up := some (0x60, 2), ofs := 0, check := 0,
    kids := [⟨0x41, 1, 0, false, false, [], none⟩], relay := [], own := none, acked := none, at_ := 0, waitAt := some 0, commitIn := [] }
def startB (cs : CStart) (b : Blk) : Blk := { b with colls := [(3, { Coll.idle with st := .starting, gen := 7, parts := [0x40, 0x60], cs := some cs })] }
def ctlF (src role dst drole : Nat) (l : List Nat) : RxFrame := msg src role dst drole 2 ftCollctl false (ws l)
/-- The bytes of a small valid descriptor of collection 3: two trays, one program, one input queue. -/
def desc : List Byte :=
  let tabs := ws [0x40, 0x60] ++ ws [0x400, 0, 0, 0] ++ ws [0x103, 0x100001, 0, 0]
  let h := ws [0x43440001, 0x70003, 0x10000, 1, 2, 0, 0, 0, 0x100, 0, 0x108, 0, 0x118, 0, 0x128, 0, 0x128, 0, 0x128, 0] ++ ws (List.replicate 43 0)
  h ++ leBytes 4 (crc32c (h ++ tabs)).toNat ++ tabs
theorem ctl {s : State} {f : RxFrame} {sub : Nat} {p : Blk → Taken → Prop} [∀ b t, Decidable (p b t)]
    (h : (match s.blk.takeSub f ftCollctl sub with
      | (b, some t) => decide (s.blk.inReset = false ∧ b.boot.ready = true ∧ p (b.frameDone t) t) | _ => false) = true) :
    ∃ b t c, HearsSub s f ftCollctl sub b t ∧ c = b.frameDone t ∧ b.boot.ready = true ∧ p c t := by
  split at h
  · rename_i b t e
    exact ⟨b, t, b.frameDone t, ⟨(of_decide_eq_true h).1, e⟩, rfl, (of_decide_eq_true h).2.1, (of_decide_eq_true h).2.2⟩
  · cases h
/-- Tray 40 (hex) with the descriptor in its memory, without a start, and with one as `f` says. -/
def idleT (src role : Nat) (f : Blk → Blk) : State := tray fun b => f (net 0x40 2 src role { b with
  regs := [(Reg.addr .a64 (.boot (.BOOT_Cc_CA_SIZE 3)), 1)] })
def startT (src role : Nat) (cs : CStart) : State := idleT src role (startB cs)
def runT (src role : Nat) (f : Coll → Coll) : State := idleT src role fun b => { b with
  colls := [(3, f { Coll.idle with st := .running, gen := 7, parts := [0x40, 0x60] })] }
def withDesc (b : Blk) : Blk := b.xmWrite 0 desc false
/-- A START of collection 16, which a Toltus D has not. -/
def ctlF16 : RxFrame :=
  ⟨0, false, ({ frameOf (ctlF 0x40 2 0x41 1 [1]).bytes with coll := 16 } : Frame).wire 0 0 false⟩
theorem test_start_coll : ∃ b t c, HearsSub (dieI fun b => net 0x41 2 0x40 2 b)
      ctlF16 ftCollctl 1 b t ∧ c = b.frameDone t ∧ b.boot.ready = true ∧
    c.conf.colls ≤ t.f.coll := ctl (by decide +kernel)
theorem test_start_below : ∃ b t c, HearsSub (idleT 0x41 1 withDesc) (ctlF 0x41 1 0x40 2 [1, 1, 0, 0, 0, 0]) ftCollctl 1 b t ∧ c = b.frameDone t ∧ b.boot.ready = true ∧
    (t.f.coll < c.conf.colls ∧ (c.readDesc t.f.coll (hiLo (t.f.word 3) (t.f.word 2))).1 = 0 ∧ (c.coll t.f.coll).st = .idle ∧
      c.fromAbove (c.readDesc t.f.coll (hiLo (t.f.word 3) (t.f.word 2))).2.1.places t.f.node = false) := ctl (by decide +kernel)
theorem test_start_above : ∃ b t c, HearsSub (idleT 0x60 2 withDesc) (ctlF 0x60 2 0x40 2 [1, 1, 0, 0, 0, 0]) ftCollctl 1 b t ∧ c = b.frameDone t ∧ b.boot.ready = true ∧
    (t.f.coll < c.conf.colls ∧ (c.readDesc t.f.coll (hiLo (t.f.word 3) (t.f.word 2))).1 = 0 ∧
      c.fromAbove (c.readDesc t.f.coll (hiLo (t.f.word 3) (t.f.word 2))).2.1.places t.f.node = true) := ctl (by decide +kernel)
theorem test_ack_stale : ∃ b t c, HearsSub (idleT 0x41 1 id) (ctlF 0x41 1 0x40 2 [2, 0, 0]) ftCollctl 2 b t ∧ c = b.frameDone t ∧ b.boot.ready = true ∧
    (c.starting t.f.coll t.f.gen = false ∧ c.isInit t.f.coll t.f.gen = false) := ctl (by decide +kernel)
theorem test_ack_initiator : ∃ b t c, HearsSub (idleT 0x60 2 fun b => b.modBoot fun m => { m with csInit := some (3, 7, 0) })
      (ctlF 0x60 2 0x40 2 [2, 5, 0, 0x60]) ftCollctl 2 b t ∧ c = b.frameDone t ∧ b.boot.ready = true ∧
    (c.starting t.f.coll t.f.gen = false ∧ c.isInit t.f.coll t.f.gen = true ∧ fld (t.f.word 1) 7 0 ≠ 0) := ctl (by decide +kernel)
theorem test_ack_child : ∀ n ∈ [0, 5], ∃ b t c, HearsSub (startT 0x41 1 start0) (ctlF 0x41 1 0x40 2 [2, n, 0]) ftCollctl 2 b t ∧ c = b.frameDone t ∧ b.boot.ready = true ∧
    (c.starting t.f.coll t.f.gen = true ∧ (c.coll t.f.coll).cs = some start0 ∧ start0.relay.contains t.f.src = false ∧
      fld (t.f.word 1) 7 0 = n) := by
  intro n hn
  simp only [List.mem_cons, List.not_mem_nil, or_false] at hn
  rcases hn with rfl | rfl <;> exact ctl (by decide +kernel)
theorem test_wait_stale : ∃ b t c, HearsSub (idleT 0x41 1 id) (ctlF 0x41 1 0x40 2 [3]) ftCollctl 3 b t ∧ c = b.frameDone t ∧ b.boot.ready = true ∧
    c.starting t.f.coll t.f.gen = false := ctl (by decide +kernel)
theorem test_wait_child : ∃ b t c, HearsSub (spanI fun b => startB start0 (net 0x20 2 0x60 2 b)) (ctlF 0x60 2 0x20 3 [3]) ftCollctl 3 b t ∧
    c = b.frameDone t ∧ b.boot.ready = true ∧ (c.starting t.f.coll t.f.gen = true ∧ c.role ≠ .tray ∧ (c.coll t.f.coll).cs = some start0 ∧ start0.relay = []) :=
  ctl (by decide +kernel)
theorem test_rereach : ∀ n ∈ [true, false], ∃ b t c, HearsSub (if n then startT 0x60 2 start0 else idleT 0x60 2 id)
      (ctlF 0x60 2 0x40 2 [8, 0x41]) ftCollctl 8 b t ∧ c = b.frameDone t ∧ b.boot.ready = true ∧
    (c.starting t.f.coll t.f.gen = n ∧ (n = false ∨ crownIn (atSite (c.coll t.f.coll).parts (siteOf c.place)) false ≠ some c.place)) := by
  intro n hn
  simp only [List.mem_cons, List.not_mem_nil, or_false] at hn
  rcases hn with rfl | rfl <;> exact ctl (by decide +kernel)
theorem test_commit : ∀ n ∈ [0, 1], ∃ b t c, HearsSub (startT 0x60 2 start0) (ctlF 0x60 2 0x40 2 [4, 0, n]) ftCollctl 4 b t ∧ c = b.frameDone t ∧ b.boot.ready = true ∧
    (c.starting t.f.coll t.f.gen = true ∧ (t.f.word 2).toNat = n ∧ ((c.modCs t.f.coll (fun cs => { cs with
      commitIn := addPlaces cs.commitIn (t.f.placeList.take (t.f.word 2).toNat) })).coll t.f.coll).cs = some start0) := by
  intro n hn
  simp only [List.mem_cons, List.not_mem_nil, or_false] at hn
  rcases hn with rfl | rfl <;> exact ctl (by decide +kernel)
theorem test_abort : ∀ n ∈ [true, false], ∃ b t c, HearsSub (if n then startT 0x60 2 start0 else idleT 0x60 2 id)
      (ctlF 0x60 2 0x40 2 [5, 1, 0x60]) ftCollctl 5 b t ∧ c = b.frameDone t ∧ b.boot.ready = true ∧
    (c.starting t.f.coll t.f.gen = n ∧ c.isInit t.f.coll t.f.gen = false) := by
  intro n hn
  simp only [List.mem_cons, List.not_mem_nil, or_false] at hn
  rcases hn with rfl | rfl <;> exact ctl (by decide +kernel)
theorem test_outcome : ∀ n ∈ [true, false], ∃ b t c, HearsSub (if n then startT 0x41 1 start0 else
        runT 0x41 1 fun v => { v with outcome := some (7, [4]) }) (ctlF 0x41 1 0x40 2 [9]) ftCollctl 9 b t ∧ c = b.frameDone t ∧ b.boot.ready = true ∧
    (c.starting t.f.coll t.f.gen = n ∧ (n = true ∨ (c.coll t.f.coll).outcome = some (t.f.gen16, [4]))) := by
  intro n hn
  simp only [List.mem_cons, List.not_mem_nil, or_false] at hn
  rcases hn with rfl | rfl <;> exact ctl (by decide +kernel)
theorem test_effective_stale : ∃ b t c, HearsSub (idleT 0x60 2 id) (ctlF 0x60 2 0x40 2 [0xA, 0x60, 5]) ftCollctl 0xA b t ∧ c = b.frameDone t ∧ b.boot.ready = true ∧
    (c.coll t.f.coll).gen ≠ t.f.gen16 := ctl (by decide +kernel)
theorem test_effective : ∃ b t c, HearsSub (spanI fun b => runs id (net 0x20 2 0x40 2 b)) (ctlF 0x40 2 0x20 3 [0xA, 0x60, 5]) ftCollctl 0xA b t ∧
    c = b.frameDone t ∧ b.boot.ready = true ∧ (c.role = .span ∧ (c.coll t.f.coll).gen = t.f.gen16 ∧ (c.coll t.f.coll).st = .running ∧
      (c.coll t.f.coll).gone.any (fun p => p.1 == t.f.word 1) = false ∧ (c.coll t.f.coll).parts.contains (t.f.word 1) = true) :=
  ctl (by decide +kernel)
/-- The same start n µs later. -/
def startLater (n : Nat) (cs : CStart) : Blk := (startT 0 0 cs |>.modBlk fun b => { b with tclk := b.us n }).blk
theorem test_ctl_not_ready : ∀ sub ∈ [1, 2, 3, 4, 5, 6, 7, 8, 9, 0xA], ∃ b t,
    HearsSub (runT 0x60 2 id |>.modBlk fun b => { b with boot := { b.boot with ready := false } }) (ctlF 0x60 2 0x40 2 [sub]) ftCollctl sub b t ∧
    b.boot.ready = false := by
  intro n hn
  simp only [List.mem_cons, List.not_mem_nil, or_false] at hn
  rcases hn with rfl | rfl | rfl | rfl | rfl | rfl | rfl | rfl | rfl | rfl <;> exact heard_sub (by decide +kernel)
theorem test_start_timers : ((startLater 0 start0).coll 3).cs = some start0 ∧ start0.waitAt = some 0 ∧ start0.own = none ∧
    (startLater 1000 start0).passed 0 ((startLater 0 start0).ms 1) = true ∧ (startLater 999 start0).passed 0 ((startLater 0 start0).ms 1) = false := by
  decide +kernel
theorem test_rereach_timer : ∀ r ∈ [1, 2, 3], let k : CKid := ⟨0x41, r, 0, false, false, [], none⟩; let cs := { start0 with kids := [k] }
    let b := startLater 0 cs; let n := fld (b.reg (.boot .BOOT_RR)) 15 0;
    cs.kids.find? (fun k => k.place == 0x41 && !k.done) = some k ∧ b.passed k.heard (b.us n) = false ∧
    (startLater n cs).passed k.heard (b.us n) = true := by decide +kernel
theorem test_start_timeout : ∀ n ∈ [true, false], let cs := { start0 with coord := true, kids := [⟨0x41, 1, 0, false, true, [], if n then some (5, 0x41) else none⟩] }
    let b := startLater 0 cs; let m := (b.reg (.boot .BOOT_CS_TMO)).toNat;
    cs.coord = true ∧ (startLater (1000 * m) cs).passed cs.at_ (b.ms m) = true ∧ b.passed cs.at_ (b.ms m) = false ∧
    ((startLater (1000 * m) cs).firstRefusal cs).isSome = n := by decide +kernel
theorem test_outcome_timeout : let cs := { start0 with acked := some 0 }
    let s := dieI fun b => startB cs { b with tclk := b.us (fld (b.reg (.boot .BOOT_RR)) 15 0) };
    (s.blk.coll 3).cs = some cs ∧ s.blk.passed 0 (s.blk.us (fld (s.blk.reg (.boot .BOOT_RR)) 15 0)) = true ∧ s.blk.role = .die ∧
    cs.up = some (0x60, 2) ∧ (dieI (startB cs)).blk.passed 0 (s.blk.us (fld (s.blk.reg (.boot .BOOT_RR)) 15 0)) = false := by decide +kernel
/-- A teardown under way. -/
def tear0 : CTear := ⟨0, [(0x41, 1)], none, 0, false⟩
def tearC (v : Coll) : Coll := { v with st := .tearing, td := some tear0 }
theorem test_teardown_stale : ∃ b t c, HearsSub (idleT 0x60 2 id) (ctlF 0x60 2 0x40 2 [6]) ftCollctl 6 b t ∧ c = b.frameDone t ∧ b.boot.ready = true ∧
    (c.coll t.f.coll).gen ≠ t.f.gen16 := ctl (by decide +kernel)
theorem test_teardown_again : ∃ b t c, HearsSub (runT 0x60 2 tearC) (ctlF 0x60 2 0x40 2 [6]) ftCollctl 6 b t ∧ c = b.frameDone t ∧ b.boot.ready = true ∧
    ((c.coll t.f.coll).gen = t.f.gen16 ∧ (c.coll t.f.coll).st = .tearing) := ctl (by decide +kernel)
theorem test_teardown : ∀ n ∈ [2, 1], ∃ b t c, HearsSub (runT 0x60 n id) (ctlF 0x60 n 0x40 2 [6]) ftCollctl 6 b t ∧ c = b.frameDone t ∧ b.boot.ready = true ∧
    ((c.coll t.f.coll).gen = t.f.gen16 ∧ (c.coll t.f.coll).st = .running ∧ c.fromAbove (c.coll t.f.coll).parts t.f.node = decide (n = 2)) := by
  intro n hn
  simp only [List.mem_cons, List.not_mem_nil, or_false] at hn
  rcases hn with rfl | rfl <;> exact ctl (by decide +kernel)
theorem test_td_done : ∃ b t c, HearsSub (runT 0x41 1 tearC) (ctlF 0x41 1 0x40 2 [7]) ftCollctl 7 b t ∧ c = b.frameDone t ∧ b.boot.ready = true ∧
    ((c.coll t.f.coll).gen = t.f.gen16 ∧ (c.coll t.f.coll).st = .tearing ∧ (c.coll t.f.coll).td = some tear0 ∧ tear0.own = false) :=
  ctl (by decide +kernel)
theorem test_force_close : ∀ n ∈ [true, false], let s := runT 0 0 tearC |>.modBlk fun b => { b with
      tclk := if n then b.ms (b.reg (.boot .BOOT_TD_TMO)).toNat else 0 };
    (s.blk.coll 3).td = some tear0 ∧ tear0.own = false ∧ s.blk.passed tear0.at_ (s.blk.ms (s.blk.reg (.boot .BOOT_TD_TMO)).toNat) = n := by
  decide +kernel

/-! ### Queues and frames -/

/-- Egress queue 7 of class c on pair 0, with a token in its open frame or a closed frame, n ns after. -/
def egress (c n : Nat) (f : Queue → Queue) : State := tray fun b =>
  { ((net 0x40 3 0 0 (at_ 8 (fun m => { m with ready := true }) { b with tclk := b.ns n })).setReg (.qsc .QSC_CTRL) 1).setReg
      (.qsc (.QSC_Qq_CFG 7)) (w32 (0xC0FE0000 + c * 2 ^ 25)) with
    qsc := { b.qsc with
      queues := [(7, f Queue.fresh)], fiCrd := [(0, 64)]
      flows := [(0, { Flow.fresh with cls := c, peer := 0x20, peerRole := 3, limit := 100, own := true })] } }
def sendF (c : Nat) : Frame := { frameOf (msg 0x40 2 0x20 3 c ftToken true (ws [0, 0])).bytes with own := true }
theorem test_frame_close : ∀ n ∈ [true, false],
    let s := egress 3 (if n then fld (State.reset.blk.reg (.qsc .QSC_PACK_NS)) 15 0 else 0) fun q => { q with openToks := [tok] };
    s.blk.qEn 7 = true ∧ s.blk.qEgress 7 = true ∧ (s.blk.q 7).openToks ≠ [] ∧
    s.blk.passed (s.blk.q 7).openAt (s.blk.ns (fld (s.blk.reg (.qsc .QSC_PACK_NS)) 15 0)) = n := by decide +kernel
theorem test_pick : State.reset.blk.conf.pairs = 2 ∧ (∀ k ∈ [0, 2], let s := egress k 0 fun q => { q with frames := [sendF k] }
    let c := [0, 1, 2].foldl (fun s k => s.refresh 0 k) s.blk;
    (∀ j, j < k → Store.get [] c.qsc.active (8 * 0 + j) = []) ∧ Store.get [] c.qsc.active (8 * 0 + k) ≠ [] ∧
    (Blk.roundHead (roundFuel (Store.get [] c.qsc.active (8 * 0 + k)).length) c (8 * 0 + k)).1 = some 7) := by decide +kernel
/-- A queue of RATE 1 on the coarse or the fine wheel, E in coarse slot 1, some µs after the origin. -/
def wheelS (e : Int) (coarse : Bool) (u : Nat) : Blk := (egress 3 0 (fun q => { q with elig := some e, wheel := some (coarse, 1) }) |>.modBlk fun b =>
  (later b 0 u).setReg (.qsc (.QSC_Qq_RATE 7)) 1).blk
theorem test_wheels : (∀ n ∈ [(4194304, true, 0, false), (4194304, false, 0, false), (4210000, true, 263, false), (4194304, true, 263, true)],
      ((wheelS n.1 n.2.1 n.2.2.1).q 7).elig = some n.1 ∧ ((wheelS n.1 n.2.1 n.2.2.1).q 7).wheel = some (n.2.1, 1) ∧
      (wheelS n.1 n.2.1 n.2.2.1).calOk 7 = n.2.2.2) ∧ (4210000 : Int) / 4194304 ≤ (wheelS 4210000 true 263).cal / 4194304 ∧
    (wheelS 4194304 true 0).cal / 4194304 < (4194304 : Int) / 4194304 := by decide +kernel
theorem test_queue_sample : ∀ n ∈ [(10000, true), (9999, false)], let s := egress 3 n.1 id;
    s.blk.qEn 7 = true ∧ 3 ≤ s.blk.qCls 7 ∧ s.blk.passed (s.blk.q 7).sampAt (s.blk.us 10) = n.2 := by decide +kernel
/-- A receive context whose LIMIT has advanced by n since it was advertised, t ns ago. -/
def recvFlow (n t : Nat) : State := tray fun b => { b with
  tclk := b.ns t
  qsc := { b.qsc with flows := [(0, { Flow.fresh with recv := true, cls := 3, grant := 100, advLimit := w32 (100 - n) })] } }
def flow0 (s : State) : Flow := Store.get Flow.fresh s.blk.qsc.flows 0
theorem test_credit : let d := fld (State.reset.blk.reg (.qsc .QSC_CRED_NS)) 15 0
    (flow0 (recvFlow 25 d)).recv = true ∧ (flow0 (recvFlow 25 d)).grant ≤ 4 * ((flow0 (recvFlow 25 d)).limitNow - (flow0 (recvFlow 25 d)).advLimit).toNat ∧
    0 ≤ sdiff (flow0 (recvFlow 25 d)).limitNow (flow0 (recvFlow 25 d)).advLimit ∧ (recvFlow 25 d).blk.passed 0 ((recvFlow 25 d).blk.ns d) = true ∧
    (recvFlow 0 100000).blk.passed 0 ((recvFlow 0 0).blk.us 100) = true ∧ (recvFlow 25 0).blk.passed 0 ((recvFlow 0 0).blk.us 100) = false ∧
    (recvFlow 25 0).blk.passed 0 ((recvFlow 0 0).blk.ns d) = false := by decide +kernel
theorem test_token_frame : ∃ b t, Hears (tray fun b => (net 0x40 3 0x41 1 b).modQsc (fun m => { m with queues := [(7, Queue.fresh)] })
      |>.setReg (.qsc (.QSC_Qq_CFG 7)) 0x86FF0000#32) (msg 0x41 1 0x40 2 3 ftToken true (ws [0, 0x10000000])) ftToken b t ∧ b.role = .tray :=
  heard (by decide +kernel)
theorem test_credit_frame : ∃ b t, Hears (tray (net 0x40 3 0x41 1)) (msg 0x41 1 0x40 2 3 ftCredit true (ws [])) ftCredit b t ∧ b.role = .tray :=
  heard (by decide +kernel)
/-- A tray of a fenced place, and a frame in error, misaddressed, and from that place. -/
def fencedT : State := tray fun b => { net 0x40 3 0x41 1 b with hlt := { b.hlt with fenced := [0x41] } }
theorem test_not_taken : 0 < fencedT.blk.conf.pairs ∧ Store.get 0 fencedT.blk.qsc.fiCrd 0 ≠ 0 ∧
    parseFrame { msg 0x41 1 0x40 2 3 ftToken true (ws [0, 0]) with err := true } = .bad 1 0xFFFFFFFF#32 ∧
    (∀ d ∈ [0x40, 0x60], (fencedT.blk.takeFrame (msg 0x41 1 d 2 3 ftToken true (ws [0, 0])) ftToken).2.isNone = true ∧
      parseFrame (msg 0x41 1 d 2 3 ftToken true (ws [0, 0])) = .ok (frameOf (msg 0x41 1 d 2 3 ftToken true (ws [0, 0])).bytes) ∧
      (frameOf (msg 0x41 1 d 2 3 ftToken true (ws [0, 0])).bytes).ftype = ftToken ∧
      decide ((frameOf (msg 0x41 1 d 2 3 ftToken true (ws [0, 0])).bytes).dst ≠ fencedT.blk.place) = decide (d = 0x60)) ∧
    fencedT.blk.hlt.fenced.contains (frameOf (msg 0x41 1 0x40 2 3 ftToken true (ws [0, 0])).bytes).src = true ∧
    (fencedT.blk.takeSub (msg 0x41 1 0x40 2 2 ftAttach true (ws [1, 0])) ftAttach 1).2.isNone = true := by decide +kernel
/-- A frame whose payload carries a place with bits [31:28] set; and, at a die, one of a die, and collection control and time of a tray
that is not its parent. -/
theorem test_barred : (let g := frameOf (msg 0x60 2 0x40 2 0 ftFence true (ws [1, 0x10000080, 0])).bytes
      g.dst = fencedT.blk.place ∧ g.drole = roleCode fencedT.blk.role ∧ g.placesOk = false ∧ g.ftype = ftFence ∧
      parseFrame (msg 0x60 2 0x40 2 0 ftFence true (ws [1, 0x10000080, 0])) = .ok g) ∧
    (∀ n ∈ [(0x42, 1, ftToken), (0x60, 2, ftCollctl), (0x60, 2, ftTime), (0x40, 3, ftTime)], let m := msg n.1 n.2.1 0x41 1 2 n.2.2 true (ws [0, 0])
      let g := frameOf m.bytes
      parseFrame m = .ok g ∧ g.ftype = n.2.2 ∧ die7.blk.role = .die ∧ g.dst = die7.blk.place ∧ g.drole = roleCode die7.blk.role ∧
      Store.get 0 die7.blk.qsc.fiCrd m.pair ≠ 0 ∧
      (g.srole = 1 ∨ ((g.ftype = ftCollctl ∨ g.ftype = ftTime) ∧ (g.src ≠ trayOf die7.blk.place ∨ g.srole ≠ 2)))) := by decide +kernel
theorem test_rekey : ∀ n ∈ [.run, .restart], let s := tray fun b => { at_ 3 id b with
      tclk := b.sec (b.reg (.qsc .QSC_REKEY_MAXT)).toNat
      fwc := { b.fwc with cores := [(0, { FCore.fresh with st := n })] } };
    3 ≤ s.blk.boot.stage ∧ s.blk.passed s.blk.qsc.rekeyAt (s.blk.sec (s.blk.reg (.qsc .QSC_REKEY_MAXT)).toNat) = true ∧
    s.blk.secLost = decide (n = .restart) ∧
    (tray (at_ 3 id)).blk.passed 0 ((tray (at_ 3 id)).blk.sec ((tray (at_ 3 id)).blk.reg (.qsc .QSC_REKEY_MAXT)).toNat) = false := by decide +kernel
theorem test_skew : ∀ n ∈ [(1, false), (3, true)], let s := tray fun b => { (later b 0 1000000).setReg (.qsc .QSC_CTRL) 0 with qsc := { b.qsc with
      banks := (List.range 256).map (fun i => (i, if i = 255 then n.1 else 1)) } };
    s.blk.qsc.skewWin < s.blk.cal / (tkSec : Nat) ∧ bit (s.blk.reg (.qsc .QSC_CTRL)) 1 = false ∧
    decide (2 * (s.blk.qsc.banks.map Prod.snd).sum < (topBank s.blk.qsc.banks).2 * 256) = n.2 := by decide +kernel

/-! ### Memories, recorder, firmware, power -/

theorem test_scrub : bit ((tray fun b => b.setReg (.err .ERR_CTRL) 0).blk.reg (.err .ERR_CTRL)) 0 = false ∧
    bit ((tray fun b => b.setReg (.err .ERR_CTRL) 1).blk.reg (.err .ERR_CTRL)) 0 = true ∧ 15 / 2 ^ 18 < State.reset.blk.ctxPerClu := by decide +kernel
/-- A read of line 1 and a write of line 2 outstanding for n ms; the read is late or not. -/
def xmS (n : Nat) (late : Bool) : State := tray fun b => { b with tclk := b.ms n, mem := { b.mem with
  reqs := [⟨0, 1, false, 0, late, some 0, 3, [], false⟩, ⟨1, 2, true, 0, false, some 0, 3, [], false⟩] } }
theorem test_xm : ((xmS 0 false).blk.xmTake 2 false).1 = none ∧ ((xmS 0 true).blk.xmTake 0 false).1.map XmReq.late = some true ∧
    ((xmS 0 false).blk.xmTake 0 false).1.map XmReq.late = some false ∧
    ((xmS 1 false).blk.mem.reqs.find? (fun r => r.tag == 0)).map XmReq.write = some false ∧
    ((xmS 1 false).blk.mem.reqs.find? (fun r => r.tag == 1)).map XmReq.write = some true ∧
    (xmS 1 false).blk.passed 0 ((xmS 1 false).blk.ms 1) = true ∧ (xmS 0 false).blk.passed 0 ((xmS 0 false).blk.ms 1) = false := by decide +kernel
/-- A flush under way, or one held. -/
def flushS (f : Bool) : State := { State.reset with evr := { State.reset.evr with
  flush := if f then some ⟨1, 0, 0, 0, 0, false, 0, false⟩ else none, held := if f then none else some ⟨1, 0, 0⟩ } }
theorem test_flush : (flushS true).blk.inReset = false ∧ (flushS true).evr.flush.isSome = true ∧ (flushS false).evr.flush = none ∧
    (flushS false).evr.held.isSome = true ∧ State.reset.blk.raised = [] ∧ State.reset.blk.flushEn = true ∧ State.reset.evr.flushedPw = false := by
  decide +kernel
theorem test_snap : (∀ n ∈ [1, 3], let s := tray fun b => b.setReg (.snp .SNP_CTRL) (w32 n);
      s.blk.raised = [] ∧ bit (s.blk.reg (.snp .SNP_CTRL)) 0 = true ∧ bit (s.blk.reg (.snp .SNP_CTRL)) 1 = decide (n = 3) ∧ s.snap.frozen = false) ∧
    ({ State.reset with snap := { State.reset.snap with frozen := true } } : State).snap.frozen = true := by decide +kernel
/-- A bundle under check against SVN_MIN 2 and host version 1.0. -/
def checkB (o : Option Bundle) : State := tray fun b => { b with
  fwc := { b.fwc with checking := some o, svnMin := 2 }
  regs := [(Reg.addr .a64 (.fwc .FWC_HOST_VER), 0x10000)] }
theorem test_bundle : State.reset.blk.fwc.checking = none ∧ (checkB none).blk.fwc.checking = some none ∧
    (∀ n ∈ [(1, 0x10000, true, true), (2, 0x20000, false, false), (2, 0x10001, false, true)], let b : Bundle := ⟨0xF, w32 n.2.1, 2, w32 n.1⟩
      (checkB (some b)).blk.fwc.checking = some (some b) ∧ decide (b.svn.toNat < (checkB none).blk.fwc.svnMin.toNat) = n.2.2.1 ∧
      verOk b.ifver ((checkB none).blk.reg (.fwc .FWC_HOST_VER)) = n.2.2.2) := by decide +kernel
theorem test_svn : (let s := tray fun b => { b with tclk := b.sec 86400, fwc := { b.fwc with running := { b.fwc.running with svn := 1 } } };
      s.blk.passed s.blk.fwc.since (s.blk.sec 86400) = true ∧ s.blk.fwc.upd ≠ 9 ∧ s.blk.fwc.svnMin.toNat < s.blk.fwc.running.svn.toNat) ∧
    State.reset.blk.passed State.reset.blk.fwc.since (State.reset.blk.sec 86400) = false := by decide +kernel
/-- Core x in a state, with an activation in progress. -/
def coreS (x : Nat) (st : CoreSt) : State := tray fun b => { b with fwc := { b.fwc with
  cores := [(x, { FCore.fresh with st := st, deadline := [(3, 0), (4, 1)] })], active := some ⟨0xF, 0x10000, 2, 0⟩ } }
theorem test_cores : (coreS 2 .handover).blk.fwc.active = some ⟨0xF, 0x10000, 2, 0⟩ ∧ ((coreS 2 .handover).blk.fcore 2).st = .handover ∧
    State.reset.blk.fwc.active = none ∧ State.reset.blk.hasCore 0x7F = true ∧ State.reset.blk.hasCore 0x80 = false ∧
    (coreS 0x7F .restart).blk.coreLost 0x7F = true ∧ State.reset.blk.coreLost 0x7F = false ∧ (State.reset.blk.fcore 1).st = .off ∧
    ((coreS 0x7F .run).blk.fcore 0x7F).st = .run ∧ ((coreS 0x7F .run).blk.fcore 0x7F).crashes = [] ∧
    1 < fld ((coreS 0x7F .run).blk.reg (.fwc .FWC_CRASH_LIM)) 23 16 := by decide +kernel
/-- A handover block of one record, of tag 5 and state version 3 with a word of state, as log 78 lays it out; its header may be spoilt. -/
def hoBytes (magic : Nat) (body : List Byte) : List Byte :=
  ws [magic, 0x10000, 0x20000, 0, 1, body.length, (crc32c (ws [0x30005, 4, 9])).toNat] ++ List.replicate 36 0 ++ body
def hoS (magic : Nat) (body : List Byte) : Blk := (tray fun b => (b.modFwc (fun m => { m with hoTags := [(2, [5])] })).xmWrite 0
  (hoBytes magic body) false).blk
theorem test_handover_block : (∀ n ∈ [(0x48420001, ws [0x30005, 4, 9], [(5, 3)]), (0x48420001, ws [0x30005, 4, 8], []), (1, ws [0x30005, 4, 9], [])],
      (hoS n.1 n.2.1).hoBlock.1 = n.2.2) ∧
    5 ∈ Store.get [] (hoS 0x48420001 (ws [0x30005, 4, 9])).fwc.hoTags 2 ∧ [(5, 3)].find? (fun r => r.1 = 5) = some (5, 3) := by decide +kernel
theorem test_core_back : ∀ x ∈ [0, 1, 2, 0x40], ((coreS x .restart).blk.fcore x).st = .restart := by decide +kernel
theorem test_licence : State.reset.blk.lic.checking = none ∧ (∀ w ∈ [0, 4], (tray fun b => { b with lic := { b.lic with
    checking := some (w, some Licence.fresh) } }).blk.lic.checking = some (w, some Licence.fresh)) := by decide +kernel
theorem test_power_tick : (∀ n ∈ [0, 1], bit ((tray fun b => b.setReg (.pwr .PWR_CTRL) (w32 n)).blk.reg (.pwr .PWR_CTRL)) 0 = decide (n = 1)) ∧
    State.reset.blk.pwr.pcLost = false ∧ State.reset.blk.watched 71 = true ∧ State.reset.blk.watched 72 = false ∧
    s16 (fld (State.reset.blk.reg (.pwr .PWR_TEMP_LIM)) 31 16) < (0x4000 : BitVec 16).toInt := by decide +kernel
/-- Ten samples of sensor 0, the first of them o. -/
def hist (o : BitVec 16) : State := tray fun b => { b with pwr := { b.pwr with hist := [(0, List.replicate 9 0 ++ [o])] } }
theorem test_clamp : (Store.get [] State.reset.blk.pwr.hist 0)[9]? = none ∧ (Store.get [] (hist 0).blk.pwr.hist 0)[9]? = some 0 ∧
    (640 : BitVec 16).toInt - (0 : BitVec 16).toInt ≤ 640 ∧ 640 < (641 : BitVec 16).toInt - (0 : BitVec 16).toInt ∧
    (tray fun b => { b with lic := { b.lic with logical := 2 } }).blk.clustersOf 0 = [0] := by decide +kernel
theorem test_clamp_hold : ∀ n ∈ [true, false], let s := tray fun b => { b with
      tclk := if n then b.us (b.reg (.pwr .PWR_CLAMP_HOLD)).toNat else 0
      pwr := { b.pwr with clus := [(0, { Clu.fresh with clampAt := some 0 })] } };
    (s.blk.clu 0).clampAt = some 0 ∧ s.blk.passed 0 (s.blk.us (s.blk.reg (.pwr .PWR_CLAMP_HOLD)).toNat) = n := by decide +kernel
theorem test_calm : (∀ n ∈ [true, false], let s := tray fun b => { b with
      tclk := if n then b.ms (fld (b.reg (.pwr .PWR_CALM)) 15 0) else 0
      pwr := { b.pwr with emerg := true } };
      s.blk.pwr.emerg = true ∧ s.blk.pwr.pcLost = false ∧ s.blk.clamped = false ∧ s.blk.pwr.warnLow = false ∧ s.blk.pwr.supply = false ∧
      s.blk.pwr.limit = false ∧ s.blk.passed s.blk.pwr.lastCond (s.blk.ms (fld (s.blk.reg (.pwr .PWR_CALM)) 15 0)) = n) ∧
    State.reset.blk.pwr.emerg = false := by decide +kernel
/-- A supply request of cluster 0 for point 1, which has more slots, at a stage of bring-up. -/
def vreqS (st n : Nat) : State := tray fun b => { (at_ st id b).setReg (.pwr (.PWR_OPP 1)) 0x7000400#32 with tclk := b.ms n, pwr := { b.pwr with
  vreqs := [⟨0, 0x400, 1, 0⟩] } }
theorem test_vreq : (vreqS 7 1).blk.pwr.vreqs = [⟨0, 0x400, 1, 0⟩] ∧ (vreqS 7 1).blk.oppSlots ((vreqS 7 1).blk.clu 0).opp < (vreqS 7 1).blk.oppSlots 1 ∧
    ((vreqS 7 1).blk.clu 0).clampAt = none ∧ (vreqS 7 1).blk.pwr.pcLost = false ∧ ((vreqS 7 1).blk.clu 0).disabled = false ∧
    6 < (vreqS 7 1).blk.boot.stage ∧ (vreqS 6 1).blk.boot.stage = 6 ∧ (vreqS 7 1).blk.passed 0 ((vreqS 7 1).blk.ms 1) = true ∧
    (vreqS 7 0).blk.passed 0 ((vreqS 7 0).blk.ms 1) = false ∧ State.reset.blk.pwr.vreqs = [] := by decide +kernel
theorem test_nap : (let s := tray fun b => { b.setReg (.pwr .PWR_CTRL) 3 with
        tclk := b.us (fld (b.reg (.pwr .PWR_NAP_IDLE)) 15 0), lic := { b.lic with logical := 1 } };
      s.blk.mayNap 0 = true) ∧ State.reset.blk.mayNap 0 = false := by decide +kernel
theorem test_wake : (let s := tray fun b => { b with pwr := { b.pwr with wakeQ := [63] } };
      s.blk.pwr.wakeQ = [63] ∧ s.blk.grantsNow.length < fld (s.blk.reg (.pwr .PWR_WAKE)) 23 16) ∧ State.reset.blk.pwr.wakeQ = [] := by decide +kernel

/-! ### Health -/

/-- Bytes from an address on, as memory. -/
def memAt (a : Nat) (bs : List Byte) : Mem := ((List.range bs.length).zip bs).filterMap fun p => if p.2 = 0 then none else some (a + p.1, p.2)
/-- A pattern set 9 of engine type 5 with four bytes of pattern, and its directory at 0. -/
def setBytes (fmt : Nat) : List Byte :=
  ws [fmt, 9 + 5 * 2 ^ 16, 4, (crc32c (ws [0x04030201])).toNat, 0x11223344, 0] ++ List.replicate 40 0 ++ ws [0x04030201]
def due0 : DueT := ⟨0, true, false, false⟩
/-- A tray whose die 41 (hex) has an engine of type e at channel 511 that is due, with the directory in flash. -/
def testT (e fmt : Nat) : State := tray fun b => { net 0x40 6 0x41 1 (at_ 8 (fun m => { m with members := [0x41] }) b) with
  regs := (((b.setReg (.boot .BOOT_PLACE) 0x40).setReg (.hlt .HLT_CTRL) 1).setReg (.hlt .HLT_MAXPAR) 1).regs
  mem := { b.mem with flash := memAt 0 (ws [256, 9 + 5 * 2 ^ 16]) ++ memAt 256 (setBytes fmt) }
  hlt := { b.hlt with types := [(512 * 0x41 + 511, e)], due := [(entity 0x41 2 511, due0)] } }
theorem test_due : ∀ n ∈ [(5, 0x50530001), (5, 0x50530002), (6, 0x50530001)], let s := testT n.1 n.2;
    Store.get 0 s.blk.hlt.types (512 * (0x41 : Word).toNat + 511) = n.1 ∧ s.blk.role = .tray ∧ s.blk.hltCtl 0 = true ∧
    s.blk.firstDue = some (entity 0x41 2 511) ∧
    s.blk.patEntry n.1 256 (s.blk.reg (.hlt .HLT_PAT_DIR)).toNat = (if n.1 = 5 then some (256, 9) else none) ∧
    (n.1 = 6 ∨ decide (leAt (Mem.rdN s.blk.mem.flash 256 64) 0 4 = 0x50530001) = decide (n.2 = 0x50530001)) ∧
    crc32c (Mem.rdN s.blk.mem.flash (256 + 64) (leAt (Mem.rdN s.blk.mem.flash 256 64) 8 4)) =
      w32 (leAt (Mem.rdN s.blk.mem.flash 256 64) 12 4) ∧ State.reset.blk.firstDue ≠ some (entity 0x41 2 511) := by decide +kernel
/-- A die that holds a set, with a hot engine at channel 511, and a test in slot 7 placed n ms ago, granted or not. -/
def testD (hot : Int) (tests : List (Nat × DieTest)) (n : Nat) : State := dieI fun b =>
  { (((b.setReg (.hlt .HLT_CTRL) 1).setReg (.hlt (.HLT_TEMP_MAP_LO 511)) 1).setReg (.hlt (.HLT_ETYPE 511)) 5) with
    tclk := b.ms n
    prb := { b.prb with sensors := [(0, ⟨BitVec.ofInt 16 hot, true, false, 0⟩)] }
    hlt := { b.hlt with patSet := some ⟨9, 5, 4, 0, 1⟩, tests := tests } }
theorem test_place : (∀ h ∈ [0x2A80, 0x2A7F], let s := testD h [] 0;
      s.blk.hotOf 511 = some h ∧ s.blk.mayPlace 511 = true ∧ decide (s16 (fld (s.blk.reg (.hlt .HLT_HOT)) 15 0) ≤ h) = decide (h = 0x2A80)) ∧
    (dieI id).blk.hotOf 511 = none ∧ (dieI id).blk.mayPlace 511 = false ∧ (testD 0 [] 0).blk.hlt.patSet = some ⟨9, 5, 4, 0, 1⟩ ∧
    freeKey (testD 0 [] 0).blk.hlt.tests 8 0 = some 0 := by decide +kernel
def dtest (g : Option Nat) : DieTest := ⟨511, true, true, 9, 1, 68, false, 0, g⟩
theorem test_slot : (Store.look (testD 0 [(7, dtest none)] 0).blk.hlt.tests 7 = some (dtest none)) ∧
    (∀ g ∈ [true, false], let m := if g then (State.reset.blk.reg (.hlt .HLT_RUN_TMO)).toNat else (State.reset.blk.reg (.hlt .HLT_GNT_TMO)).toNat
      let s := testD 0 [(7, dtest (if g then some 0 else none))] m;
      Store.look s.blk.hlt.tests 7 = some (dtest (if g then some 0 else none)) ∧
      s.blk.passed 0 (s.blk.ms (if g then s.blk.reg (.hlt .HLT_RUN_TMO) else s.blk.reg (.hlt .HLT_GNT_TMO)).toNat) = true ∧
      (testD 0 [] 0).blk.passed 0 (s.blk.ms (if g then s.blk.reg (.hlt .HLT_RUN_TMO) else s.blk.reg (.hlt .HLT_GNT_TMO)).toNat) = false) := by
  decide +kernel
/-- A die that may keep sets of 1 KiB, and a frame that brings part of a set to it. -/
def setD (buf : List Byte) : State := dieI fun b => { (net 0x41 6 0x40 2 b).setReg (.hlt .HLT_PAT_SIZE) 1 with hlt := { b.hlt with patBuf := buf } }
def setF (p : List Byte) : RxFrame := msg 0x40 2 0x41 1 6 ftHealth true (ws [5] ++ p)
theorem test_set_short : ∃ b t, HearsSub (setD []) (setF (ws [0x50530001])) ftHealth 5 b t ∧
    (leAt t.f.payload 0 1 = 5 ∧ (b.frameDone t).role = .die ∧ ((b.frameDone t).hlt.patBuf ++ t.f.payload.drop 4).length < 64) :=
  heard_sub (by decide +kernel)
def setPart (c : Blk) (t : Taken) : List Byte := c.hlt.patBuf ++ t.f.payload.drop 4
theorem test_set_whole : ∀ n ∈ [0, 1], ∃ b t, HearsSub (setD ((setBytes 0x50530001).take 60))
      (setF (((setBytes 0x50530001).drop 60).take (if n = 0 then 4 else 8))) ftHealth 5 b t ∧
    (64 ≤ (setPart (b.frameDone t) t).length ∧ leAt (setPart (b.frameDone t) t) 0 4 = 0x50530001 ∧
      64 + leAt (setPart (b.frameDone t) t) 8 4 ≤ fld ((b.frameDone t).reg (.hlt .HLT_PAT_SIZE)) 15 0 * 1024 ∧
      decide (64 + leAt (setPart (b.frameDone t) t) 8 4 ≤ (setPart (b.frameDone t) t).length) = decide (n ≠ 0) ∧
      (n = 0 ∨ crc32c (slice (setPart (b.frameDone t) t) 64 (leAt (setPart (b.frameDone t) t) 8 4)) =
        w32 (leAt (setPart (b.frameDone t) t) 12 4))) := by
  intro n hn
  simp only [List.mem_cons, List.not_mem_nil, or_false] at hn
  rcases hn with rfl | rfl <;> exact heard_sub (by decide +kernel)
theorem test_set_bad : ∀ n ∈ [true, false], ∃ b t, HearsSub (setD []) (setF (if n then (setBytes 0x50530001).take 64 ++ ws [5] else setBytes 1)) ftHealth 5 b t ∧
    (64 ≤ (setPart (b.frameDone t) t).length ∧ (n = false ∨ (64 + leAt (setPart (b.frameDone t) t) 8 4 ≤ (setPart (b.frameDone t) t).length ∧
      crc32c (slice (setPart (b.frameDone t) t) 64 (leAt (setPart (b.frameDone t) t) 8 4)) ≠ w32 (leAt (setPart (b.frameDone t) t) 12 4))) ∧
      (n = true ∨ leAt (setPart (b.frameDone t) t) 0 4 ≠ 0x50530001)) := by
  intro n hn
  simp only [List.mem_cons, List.not_mem_nil, or_false] at hn
  rcases hn with rfl | rfl <;> exact heard_sub (by decide +kernel)
/-- A HEALTH frame of SUB k from die 41 (hex) at the tray, and from the tray at a span instance. -/
theorem test_health_tray : ∀ k ∈ [1, 2, 3, 4, 5, 6], ∃ b t, HearsSub (tray (net 0x40 6 0x41 1)) (msg 0x41 1 0x40 2 6 ftHealth true (ws [k, 0, 0, 0]))
      ftHealth k b t ∧ (leAt t.f.payload 0 1 = k ∧ (b.frameDone t).role = .tray ∧ (b.frameDone t).grdRank t.f.src = none) := by
  intro k hk
  simp only [List.mem_cons, List.not_mem_nil, or_false] at hk
  rcases hk with rfl | rfl | rfl | rfl | rfl | rfl <;> exact heard_sub (by decide +kernel)
theorem test_health_span : ∀ k ∈ [1, 6], ∃ b t, HearsSub (spanI (net 0x20 6 0x40 2)) (msg 0x40 2 0x20 3 6 ftHealth true (ws [k, 0, 0, 0]))
      ftHealth k b t ∧ (leAt t.f.payload 0 1 = k ∧ (b.frameDone t).role = .span) := by
  intro k hk
  simp only [List.mem_cons, List.not_mem_nil, or_false] at hk
  rcases hk with rfl | rfl <;> exact heard_sub (by decide +kernel)
theorem test_history_old : let b := (spanI fun b => { b with hlt := { b.hlt with rseqOf := [(0x40, 7)] } }).blk
    Store.look b.hlt.rseqOf (0x40 : Word).toNat = some 7 ∧ (recRseq (List.replicate 64 0)).toNat ≤ (7 : Word).toNat := by decide +kernel
def watch0 : Watch := ⟨true, 3, 0, true, false⟩
theorem test_clean_day : ∀ n ∈ [(86400000000, true), (86399999999, false)], let b := (tray fun b => { later b 0 n.1 with hlt := { b.hlt with watch := [(1, watch0)] } }).blk
    Store.look b.hlt.watch 1 = some watch0 ∧ watch0.perm = true ∧ decide (watch0.since + (tkDay : Nat) ≤ b.cal) = n.2 := by decide +kernel
theorem test_ce_day : (let s := tray fun b => later b 0 86400000000;
      s.blk.hlt.ceDay < (s.blk.utc s.blk.t64).1.toNat / 86400) ∧
    (State.reset.blk.utc State.reset.blk.t64).1.toNat / 86400 ≤ State.reset.blk.hlt.ceDay := by decide +kernel
theorem test_members : (tray (at_ 8 fun m => { m with members := [0x41] })).blk.boot.members.contains 0x41 = true ∧
    State.reset.blk.boot.members.contains 0x41 = false ∧ State.reset.blk.hlt.rebuild = none ∧ State.reset.blk.role = .tray ∧
    (tray fun b => { b with hlt := { b.hlt with rebuild := some ⟨0, none, false⟩ } }).blk.hlt.rebuild = some ⟨0, none, false⟩ ∧
    (spanI id).blk.role ≠ .tray := by decide +kernel
/-- Tray 40 (hex) of a guard group with 60, with what it awaits of 60. -/
def group (l : List (Word × Nat)) : State := tray fun b => { (net 0x40 6 0x60 2 b).setReg (.hlt (.HLT_GRD_MEM 11)) 0x60 with
  hlt := { b.hlt with awaited := l } }
theorem test_guard_delta : ∃ b t, HearsSub (group []) (msg 0x60 2 0x40 2 6 ftHealth true (ws [2, 1, 0, 0])) ftHealth 2 b t ∧
    (leAt t.f.payload 0 1 = 2 ∧ (b.frameDone t).role = .tray ∧ ((b.frameDone t).grdRank t.f.src).isSome = true) := heard_sub (by decide +kernel)
theorem test_guard_ack : ∀ n ∈ [0, 1, 2], ∃ b t, HearsSub (group ([(0x60, 2), (0x60, 4)].take n)) (msg 0x60 2 0x40 2 6 ftHealth true (ws [3, 1, 0, 0]))
      ftHealth 3 b t ∧ (leAt t.f.payload 0 1 = 3 ∧ w32 (leAt t.f.payload 12 4) = (b.frameDone t).hlt.epoch ∧
        (b.frameDone t).hlt.awaited.contains (t.f.src, 2 * leAt t.f.payload 4 4 + leAt t.f.payload 8 4 / 256 % 2) = decide (n ≠ 0) ∧
        ((b.frameDone t).hlt.awaited.filter (· ≠ (t.f.src, 2 * leAt t.f.payload 4 4 + leAt t.f.payload 8 4 / 256 % 2))).length = n - 1) := by
  intro n hn
  simp only [List.mem_cons, List.not_mem_nil, or_false] at hn
  rcases hn with rfl | rfl | rfl <;> exact heard_sub (by decide +kernel)
theorem test_guard_commit : ∃ b t, HearsSub (group []) (msg 0x60 2 0x40 2 6 ftHealth true (ws [4, 0, 0, 0])) ftHealth 4 b t ∧
    (leAt t.f.payload 0 1 = 4 ∧ ((b.frameDone t).grdRank t.f.src).isSome = true) := heard_sub (by decide +kernel)
/-- A management frame of a format with a role and flags byte, a place and a word at 24. -/
def mgmt (fmt l p w : Nat) : MgmtFrame := ⟨0x88B5, false, leBytes 2 fmt ++ leBytes 2 l ++ ws [p, 0, 0, 0, 0, w] ++ List.replicate 36 0⟩
/-- A tray with heartbeats and fencing on, in the group with 60 (hex), n ms after it heard 60 on M0. -/
def hb (n : Nat) (ctl : Word) (own : List Word) : State := tray fun b => { ((net 0x40 6 0x60 2 b).setReg (.hlt (.HLT_GRD_MEM 11)) 0x60).setReg (.hlt .HLT_CTRL) ctl with
  tclk := b.ms n
  hlt := { b.hlt with own := own, peers := [(0x60, { Peer.fresh with m0 := some 0, role := 2 })] } }
theorem test_heartbeat : State.reset.blk.hltCtl 1 = false ∧ (hb 0 6 []).blk.hltCtl 1 = true ∧ (hb 0 6 []).blk.role ≠ .die ∧
    mgmtFmt (mgmt 0x4842 0x12 0x60 0x80) (fld ((hb 0 6 []).blk.reg (.hlt .HLT_HB_ETYPE)) 15 0) = some 0x4842 ∧
    mgmtFmt (mgmt 0x464E 3 0x60 0x80) (fld ((hb 0 6 []).blk.reg (.hlt .HLT_HB_ETYPE)) 15 0) = some 0x464E ∧
    w32 (leAt (mgmt 0x4842 0x12 0x60 0x80).bytes 4 4) ≠ (hb 0 6 []).blk.place ∧
    (w32 (leAt (mgmt 0x4842 2 0x40 0).bytes 4 4) = (hb 0 6 []).blk.place ∧ leAt (mgmt 0x4842 2 0x40 0).bytes 2 1 % 4 = roleCode (hb 0 6 []).blk.role) ∧
    leAt (mgmt 0x4842 0x12 0x60 0x80).bytes 2 1 / 8 % 2 ≠ 1 ∧ leAt (mgmt 0x4842 0xA 0x60 0).bytes 2 1 / 8 % 2 = 1 ∧
    (hb 0 6 []).blk.isFenced 0x60 = false ∧ (hb 0 6 []).blk.grdMem.contains 0x60 = true ∧ (hb 0 6 []).blk.grdMem.contains 0x80 = false ∧
    leAt (mgmt 0x464E 3 0x60 0x80).bytes 8 2 % 4096 = (hb 0 6 []).blk.part := by decide +kernel
theorem test_peer_silent : (let n := fld (State.reset.blk.reg (.hlt .HLT_HB_SILENT)) 7 0
      (∀ o ∈ [0, 2], let s := hb n 6 (List.replicate o 0x80); let p := { Peer.fresh with m0 := some 0, role := 2 }
        let b := (s.blk.modHlt (fun h => { h with peers := Store.put h.peers 0x60 { p with silent := true } })).leadCheck;
        Store.look s.blk.hlt.peers (0x60 : Word).toNat = some p ∧ s.blk.hltCtl 1 = true ∧ p.silent = false ∧
        s.blk.quiet p.m0 s.blk.silentTime = true ∧ s.blk.quiet p.m1 s.blk.silentTime = true ∧ b.hltCtl 2 = true ∧ b.role = .tray ∧
        b.grdMem.contains 0x60 = true ∧ b.hlt.fencedSelf = false ∧ b.hlt.own.contains 0x60 = false ∧ b.isFenced 0x60 = false ∧
        decide (b.hlt.own.length < 2) = decide (o = 0))) ∧
    (hb 0 6 []).blk.quiet (some 0) (hb 0 6 []).blk.silentTime = false ∧ Store.look State.reset.blk.hlt.peers (0x60 : Word).toNat = none := by
  decide +kernel
theorem test_fence_frame : ∃ b t, Hears (tray (net 0x40 0 0x60 2)) (msg 0x60 2 0x40 2 0 ftFence true (ws [1, 0x80, 0])) ftFence b t ∧ b.role = .tray :=
  heard (by decide +kernel)

/-! ### The control port -/

/-- The registers of the rows that are direct writes, at the last index of their kind. -/
def portRegs : List Reg :=
  [.boot .BOOT_GO, .fwc .FWC_HOST_VER, .tim .TIM_SERVO_OFS_LO, .tim .TIM_RATE_NOM_HI, .tim .TIM_RATE_NOM_LO,
   .tim .TIM_CTRL, .tim .TIM_LEAP_AT_LO, .tim .TIM_LEAP_CTRL, .tim .TIM_TSF_POP, .tim (.TIM_TTn_TIME_LO 0), .trn (.TRN_MARK 0),
   .trn (.TRN_CTRL 0), .prb (.PRB_Gg_CNTc_LO 63 7), .prb (.PRB_Gg_FIX_LO 63), .prb (.PRB_Gg_CTRL 63), .prb .PRB_CTRL,
   .prb (.PRB_CH_EN 15), .prb .PRB_SMP_CTRL, .rcp .RCP_CTRL, .rcp (.RCP_LQ 15), .rcp .RCP_FW_FREEZE, .rcp .RCP_FW_RELEASE,
   .ctr (.CTR_CTRL 0), .ctr .CTR_AUTH_GO, .ctr .CTR_AUTH_REVOKE, .sku .SKU_LINK_REPORT, .tre (.TRE_En_LOAD 255), .qsc .QSC_REKEY_NOW,
   .evr .EVR_INJ_CODE, .evr .EVR_FLUSH_NOW, .snp .SNP_TRIG, .hlt .HLT_WL_ADD_LO, .hlt .HLT_CE_REPORT, .hlt .HLT_RETIRE_LO,
   .hlt .HLT_GRD_REBUILD, .fwc .FWC_UPD_GO, .boot .BOOT_CS_GO, .boot .BOOT_TD]
def pairRegs : List Reg := [.boot .BOOT_RERUN, .tim .TIM_STEP_LO, .err .ERR_UNIT_RESET, .snp .SNP_RELEASE, .hlt .HLT_STRESS,
  .hlt .HLT_FENCE, .pwr .PWR_CL_DISABLE, .lic .LIC_INSTALL]
theorem test_port_rows : ∀ r ∈ portRegs, Accepts (tray id) ⟨0, 1⟩ r 0xC000 ∨ Accepts (dieI id) ⟨0, 1⟩ r 0xC000 ∨ Accepts (spanI id) ⟨0, 1⟩ r 0xC000 := by
  simp only [Accepts, Lies]; decide +kernel
/-- A machine where initiator 0 holds the first write of the pair of `r`. -/
def first (r : Reg) (v : Word) (b : Blk) : Blk := { b with cp := { b.cp with first := [(0, ⟨r.addr b.conf, v⟩)] } }
theorem test_pair_rows : ∀ r ∈ pairRegs, ∀ v ∈ [0, 1, 0x80000000, 0x7FFFFFFF, 0xFFFFFFFF],
    Pairs (tray (first r (w32 v))) ⟨0, 1⟩ r (w32 v) ∨ Pairs (dieI (first r (w32 v))) ⟨0, 1⟩ r (w32 v) := by
  simp only [Pairs, Lies]; decide +kernel
theorem test_first_write : ∀ r ∈ pairRegs, let s := if r = .hlt .HLT_STRESS then dieI id else tray id;
    s.blk.inReset = false ∧ Lies s r ∧ s.held ⟨0, 1⟩ = none ∧ s.blk.badValue r 1 = false ∧ s.blk.allows ⟨0, 1⟩ true r = true ∧
      (r.info s.blk.conf).acc = .wg := by
  simp only [Lies]; decide +kernel
/-- Initiator 2 with its alias window at the 2 KiB of a register; and the alias address of a bit of it. -/
def aliasS (r : Reg) (f : Blk → Blk) : State := tray fun b => f (b.setReg (.cpi (.CPI_BA_BASE 2)) (w32 (r.addr b.conf / 2048 * 2048)))
def aliasX (r : Reg) (n : Nat) : Nat := r.addr .a64 % 2048 * 32 + 4 * n
theorem test_alias : ∀ p ∈ ([(.boot .BOOT_STAT, 0, .ro), (.evr .EVR_SUPP_TOT, 31, .rc), (.err .ERR_STAT, 1, .w1c), (.err .ERR_CTRL, 0, .rw),
      (.trn (.TRN_CTRL 0), 31, .rwb), (.tim .TIM_CTRL, 0, .rwp), (.boot .BOOT_PLACE, 31, .rw), (.snp .SNP_RELEASE, 0, .wg)] : List (Reg × Nat × Acc)),
    let s := aliasS p.1 id; let x := aliasX p.1 p.2.1;
    s.blk.inReset = false ∧ s.badAddr x = false ∧ x < 0x10000 ∧ s.held ⟨2, 1⟩ = none ∧ s.aliasOf ⟨2, 1⟩ x = (p.1.addr .a64, p.2.1) ∧
      s.target (p.1.addr .a64) = .reg p.1 ∧ s.blk.allows ⟨2, 1⟩ true p.1 = true ∧ s.admits ⟨2, 1⟩ true (s.target (p.1.addr .a64)) = true ∧
      (p.1.info s.blk.conf).acc = p.2.2 ∧ s.blk.busyFor p.1 = false := by decide +kernel
theorem test_alias_values : (State.reset.blk.badValue (.boot .BOOT_PLACE) 0x80000000#32 = true ∧ State.reset.blk.badValue (.boot .BOOT_PLACE) 1 = false) ∧
    (State.reset.blk.refusesVal ⟨2, 1⟩ (.trn (.TRN_CTRL 0)) 3 = true ∧ State.reset.blk.refusesVal ⟨2, 1⟩ (.trn (.TRN_CTRL 0)) 0x80000002#32 = false) := by
  decide +kernel
/-- The example of section 17: a write of 1 to 7C (hex) sets EN of tracker 0. -/
theorem test_alias_example : (Reg.cpi (.CPI_BA_BASE 2)).addr .a64 = 0x10048 ∧ ((aliasS (.trn (.TRN_CTRL 0)) id).blk.reg (.cpi (.CPI_BA_BASE 2))) = 0x31000 ∧
    aliasX (.trn (.TRN_CTRL 0)) 31 = 0x7C ∧
    ((aliasS (.trn (.TRN_CTRL 0)) id).cpWrite ⟨2, 1⟩ 0x7C 1).blk.reg (.trn (.TRN_CTRL 0)) = 0x80000002 := by decide +kernel
/-- An address past the registers of the control port interface, and one of the event ring. -/
theorem test_no_register : ∀ x ∈ [0x1FFFC, 0x300000], State.reset.badAddr x = false ∧ 0x10000 ≤ x ∧ State.reset.held ⟨0, 1⟩ = none ∧
    (match State.reset.target x with | .reg _ => false | _ => true) = true ∧ State.reset.admits ⟨0, 1⟩ true (State.reset.target x) = true ∧
    State.reset.guardedAt x = none ∧ State.reset.admits ⟨0, 3⟩ true (State.reset.target x) = decide (x = 0x1FFFC) := by decide +kernel
/-- A row's index may reach past the registers of its kind, to the address of another register, of none, or of its own. -/
theorem test_row_index : Reg.at .a64 ((Reg.trn (.TRN_CTRL 0)).addr .a64) = some (.trn (.TRN_CTRL 0)) ∧
    Reg.at .a64 ((Reg.rcp (.RCP_LQ 128)).addr .a64) = some (.rcp .RCP_HT_BASE_HI) ∧
    Reg.at .a64 ((Reg.tre (.TRE_En_LOAD 60000)).addr .a64) = none := by decide +kernel
/-- What an access is refused for, at states of initiator 3 at L3, or of initiator 0 at L1 with a first write to SNP_RELEASE. -/
theorem test_refused : (∀ x ∈ [0x4000000, 0x10001], State.reset.badAddr x = true) ∧
    (∀ r ∈ [Reg.err .ERR_CTRL, .snp .SNP_RELEASE, .tim .TIM_CTRL], let s := tray id; let x := r.addr .a64;
      s.target x = .reg r ∧ s.blk.badValue r 1 = false ∧ s.admits ⟨3, 3⟩ true (s.target x) = false ∧ s.admits ⟨3, 3⟩ false (.win (.upTo 1) 0) = false) ∧
    (let s := tray (first (.snp .SNP_RELEASE) 1); let r := Reg.err .ERR_CTRL; let x := r.addr .a64;
      (∀ h ∈ s.held ⟨0, 1⟩, x ≠ h.addr + 0x800) ∧ s.target x = .reg r ∧ s.blk.badValue r 1 = false ∧ s.admits ⟨0, 1⟩ true (s.target x) = true ∧
      (s.held ⟨0, 1⟩).isSome = true ∧ s.blk.badValue (.boot .BOOT_PLACE) 0x10000000 = true ∧ s.admits ⟨0, 1⟩ false (s.target x) = true) ∧
    (let s := tray id; let x := (Reg.snp .SNP_RELEASE).addr .a64 + 0x800;
      s.held ⟨0, 1⟩ = none ∧ s.target x = .none ∧ (s.guardedAt x).isSome = true ∧ s.badAddr x = false ∧ 0x10000 ≤ x) ∧
    (let s := tray fun b => b.setBusy .time; let r := Reg.tim .TIM_CTRL;
      s.blk.badValue r 1 = false ∧ s.admits ⟨0, 1⟩ true (s.target (r.addr .a64)) = true ∧ s.held ⟨0, 1⟩ = none ∧ s.target (r.addr .a64) = .reg r ∧
      (r.info s.blk.conf).acc ≠ .wg ∧ s.blk.busyFor r = true) := by decide +kernel
theorem test_pair_refused : (let r := Reg.snp .SNP_RELEASE; let s := tray (first r 1);
    Lies s r ∧ s.badAddr (r.addr .a64 + 0x800) = false ∧ s.held ⟨0, 1⟩ = some ⟨r.addr s.blk.conf, 1⟩ ∧
    s.blk.allows ⟨0, 3⟩ true r = false ∧ s.blk.allows ⟨0, 1⟩ true r = true) ∧ (2 : Word) ≠ ~~~1 := by
  simp only [Lies]; decide +kernel
theorem test_alias_refused : (let s := aliasS (.snp .SNP_RELEASE) fun b => { b with cp := { b.cp with first := [(2, ⟨0, 1⟩)] } };
    s.admits ⟨2, 3⟩ true (s.target ((Reg.snp .SNP_RELEASE).addr .a64)) = false ∧ (s.held ⟨2, 1⟩).isSome = true ∧
    s.admits ⟨2, 1⟩ true (s.target ((Reg.snp .SNP_RELEASE).addr .a64)) = true ∧ s.badAddr (aliasX (.snp .SNP_RELEASE) 0) = false) ∧
    (let s := aliasS (.tim .TIM_CTRL) fun b => b.setBusy .time; s.blk.busyFor (.tim .TIM_CTRL) = true ∧ s.held ⟨2, 1⟩ = none ∧
      s.target ((Reg.tim .TIM_CTRL).addr .a64) = .reg (.tim .TIM_CTRL) ∧ s.admits ⟨2, 1⟩ true (.reg (.tim .TIM_CTRL)) = true) := by decide +kernel
theorem test_reads : (∀ x ∈ [0x1FFFC, 0x300000, (Reg.evr .EVR_SUPP_TOT).addr .a64], State.reset.badAddr x = false ∧ 0x10000 ≤ x ∧
      State.reset.held ⟨0, 1⟩ = none ∧ State.reset.admits ⟨0, 1⟩ false (State.reset.target x) = true) ∧
    State.reset.admits ⟨3, 3⟩ false (State.reset.target 0x300000) = false ∧
    (tray fun b => { b with regPoi := [(0x10048, true)] }).blk.regPoi = [(0x10048, true)] ∧
    Store.get false [(0x10048, true)] 0x10048 = true ∧ Store.get false [(0x10048, true)] 0x1004C = false := by decide +kernel

/-! ### What accepted writes do -/

theorem test_write_effects :
    ((Reg.boot .BOOT_STAT).info .a64).acc = .ro ∧ ((Reg.evr .EVR_SUPP_TOT).info .a64).acc = .rc ∧ ((Reg.err .ERR_STAT).info .a64).acc = .w1c ∧
    ((Reg.err .ERR_CTRL).info .a64).acc = .rw ∧ bit (7 : Word) 3 = false ∧ bit (1 : Word) 0 = true ∧
    (tray fun b => { b with rcp := { b.rcp with fwFrozen := true } }).blk.rcp.fwFrozen = true ∧ (dieI id).blk.role = .die ∧
    (let b := (tray (at_ 2 fun m => { m with waitGo := true })).blk; b.boot.waitGo = true ∧ b.boot.stage = 2) ∧
    State.reset.blk.secLost = false ∧ (coreS 0 .restart).blk.secLost = true := by decide +kernel
theorem test_ce_report : ∀ n ∈ [(1, true), (2, true)], let b := (tray fun b => (b.setReg (.hlt .HLT_CE_THR) 2).setReg (.hlt .HLT_CE_REPORT) (w32 n.1)).blk;
    decide (Store.get 0 State.reset.blk.hlt.ceTot (b.pairVal (.hlt .HLT_CE_ENT_HI) (.hlt .HLT_CE_ENT_LO) % 2 ^ 48) + (w32 n.1).toNat ≤
      (b.reg (.hlt .HLT_CE_THR)).toNat) = n.2 := by decide +kernel
theorem test_queue : State.reset.pending = [] ∧ State.reset.blk.inReset = false ∧ (tray fun b => { b with inReset := true }).blk.inReset = true ∧
    step State.reset = .next (settle { State.reset with blk := State.reset.blk.tick }) ∧
    step { State.reset with pending := [.registerWrite ⟨0, 1⟩ 0x10048 0x31000] } = exec (.registerWrite ⟨0, 1⟩ 0x10048 0x31000) State.reset := by
  refine ⟨rfl, rfl, rfl, ?_, rfl⟩; rfl
theorem test_recorder_inv : RecorderInv State.reset := by
  refine ⟨rfl, ⟨rfl, ?_, rfl, ?_⟩, ?_, ?_⟩
  · intro k; exact (decide_eq_false (fun h => Nat.not_lt_zero _ h.2)).symm
  · intro f h; cases h
  · intro h; cases h
  · intro l h; cases h

/-! ### Sums and trees: the premises, and the examples of sections 1, 6 and 7 -/

theorem test_finite : f32.val 0x3F800000 = .fin false 8388608 (-23) ∧ f32.val 0x80000001 = .fin true 1 (-149) := by decide +kernel
theorem test_narrow : pack2 (bf16.narrow 0x3F808000) (bf16.narrow 0x3F818000) = 0x3F823F80 := by decide +kernel
/-- A sum of binary32 values. -/
def sumOf (l : List Nat) : W320 := l.foldl (fun a v => a.add (W320.ofVal (f32.val v))) W320.zero
theorem test_sum_exact : (sumOf [0x4B800000, 0x3F800000, 1, 0xCB800000]) = { W320.zero with val := BitVec.ofNat 320 (2 ^ 160 + 2 ^ 11) } := by decide +kernel
theorem test_sum_rounds : let w := sumOf [0x4B800000, 0x3F800000, 1, 0xCB800000]; let v := w.add (sumOf [0x7F800000]);
    w.toFmt f32 = 0x3F800000 ∧ w.toFmt f64 = 0x3FF0000000000000 ∧ v.pinf = true ∧ v.toFmt f32 = 0x7F800000 := by decide +kernel
/-- −5.0; and 5.25 + 3 × 2^-149 with PINF. -/
theorem test_sparse : (sumOf [0xC0A00000]).pack = [0x3E0, 0xFFFFFFFB, 0xFFFFFFFF, 0xFFFFFFFF, 0xFFFFFFFF, 0xFFFFFFFF] ∧
    (sumOf [0x40A80000, 3, 0x7F800000]).pack = [0x431, 0x1800, 0x40000000, 5] ∧ (sumOf [0x40A80000, 3]).toFmt f64 = 0x4015000000000000 ∧
    (sumOf [0x40A80000, 3, 0x7F800000, 0xFF800000]).toFmt f32 = 0x7FC00000 := by decide +kernel
theorem test_tree : let ps : List Word := [0, 1, 2, 3, 4, 5]; ps.Nodup ∧ crownIn ps false = some 3 ∧ crownIn ps true = some 4 ∧
    ps.map (kidsIn ps false) = [[], [0, 2], [], [1, 5], [], [4]] ∧ ps.map (kidsIn ps true) = [[5], [], [1, 3], [], [0, 2], []] ∧
    ps.map (depthIn ps false) = [2, 1, 2, 0, 2, 1] := by decide +kernel
theorem test_entity : entity 0x064642B3 6 35 = 0x64642B318023 := by decide
/-- The words of R217's program. -/
theorem test_words : (∀ p ∈ ([(0x80200005, eMfs), (0x38404000, eMovi), (0x2D290030, eShi 0xB), (0x94611000, eWaita), (0x8CA40040, eRecv),
      (0x40E4001C, eLd 0x10), (0x24E70080, eImm 9), (0xCCFFFFFD, eBr 0x33), (0x8D260081, eSend), (0x20210001, eImm 8), (0xC01FFFF1, eBra)] :
      List (Nat × Enc)), p.2.is (w32 p.1) = true) ∧
    { ctx 0 with pc := 0x28 }.target (0xCCFFFFFD : Word) = 0x1C ∧ { ctx 0 with pc := 0x54 }.target (0xC01FFFF1 : Word) = 0x18 := by decide +kernel

end Sys2Proof.Tests
end

section
/-!
PROOFS. The reset line (R3, R465, R487): what its fall and its rise leave of the units, each said once and tied to `exec`, and the
obligation put together from that.
-/

namespace Sys2Proof.Machine

/-! ### While reset is asserted -/

/-- The units from the fall of tl_rst_n on (R465, R487): outputs and requests in flight go, all else stands until the release. -/
def Blk.underReset (b : Blk) : Blk :=
  { b with
    inReset := true
    boot := { b.boot with ready := false, trains := [] }
    port := { PortState.reset with ppReady := false }
    time := { b.time with strobe0 := none, strobe1 := none, ppsFall := none }
    pwr := { b.pwr with vreqs := [] }
    hlt := { b.hlt with tests := [], manual := none }
    mem := { b.mem with reqs := [] }
    cp := .reset }

theorem exec_resetAssert (s : State) : exec .resetAssert s = .next (s.modBlk Blk.underReset) := rfl

@[simp] theorem Blk.underReset_inReset (b : Blk) : b.underReset.inReset = true := rfl
@[simp] theorem Blk.underReset_boot (b : Blk) : b.underReset.boot = { b.boot with ready := false, trains := [] } := rfl
@[simp] theorem Blk.underReset_port (b : Blk) : b.underReset.port = { PortState.reset with ppReady := false } := rfl
@[simp] theorem Blk.underReset_time (b : Blk) :
    b.underReset.time = { b.time with strobe0 := none, strobe1 := none, ppsFall := none } := rfl
@[simp] theorem Blk.underReset_pwr (b : Blk) : b.underReset.pwr = { b.pwr with vreqs := [] } := rfl
@[simp] theorem Blk.underReset_mem (b : Blk) : b.underReset.mem = { b.mem with reqs := [] } := rfl
@[simp] theorem Blk.underReset_cp (b : Blk) : b.underReset.cp = .reset := rfl
@[simp] theorem Blk.underReset_regs (b : Blk) : b.underReset.regs = b.regs := rfl

/-! ### At the release -/

/-- The role that an instance takes at the release of reset: a die in D, in A64 that of the stored licence, if there is one (R3). -/
def Blk.roleAtRelease (b : Blk) : Role :=
  match b.conf, b.lic.stored with
  | .d, _ => .die
  | .a64, some l => l.role
  | .a64, none => b.role

/-- The units at the release of tl_rst_n: fresh, with what the host chip, its store and its memories hold (log 2). -/
def Blk.released (b : Blk) : Blk :=
  Blk.fresh b.conf b.roleAtRelease b.inst b.lic.stored b.fwc.svnMin b.draws b.mem.xm b.mem.xmPoi b.mem.flash b.mem.areas

/-- The rise of tl_rst_n makes the units, the recorder and the snapshot network anew. -/
theorem exec_resetRelease_of_inReset (s : State) (h : s.blk.inReset = true) :
    exec .resetRelease s = .next { s with blk := s.blk.released, evr := .reset, snap := .reset } := by
  change execResetRelease s = _
  simp only [execResetRelease, h, Bool.not_true, Bool.false_eq_true, if_false]
  rfl

/-- A release without an assertion before it changes nothing. -/
theorem exec_resetRelease_of_running (s : State) (h : s.blk.inReset = false) : exec .resetRelease s = .next s := by
  change execResetRelease s = _
  simp [execResetRelease, h]

/-- A block whose table of stored registers is empty reads the reset value of each. -/
theorem Blk.reg_of_regs_nil (b : Blk) (h : b.regs = []) (r : Reg) : b.reg r = (r.info b.conf).rst := by
  simp [Blk.reg, h, Store.get, Store.look]

@[simp] theorem Blk.released_conf (b : Blk) : b.released.conf = b.conf := rfl
@[simp] theorem Blk.released_inst (b : Blk) : b.released.inst = b.inst := rfl
@[simp] theorem Blk.released_inReset (b : Blk) : b.released.inReset = false := rfl
@[simp] theorem Blk.released_regs (b : Blk) : b.released.regs = [] := rfl
@[simp] theorem Blk.released_cp (b : Blk) : b.released.cp = .reset := rfl
@[simp] theorem Blk.released_time (b : Blk) : b.released.time = .reset := rfl
@[simp] theorem Blk.released_prb (b : Blk) : b.released.prb = .reset := rfl
@[simp] theorem Blk.released_qsc (b : Blk) : b.released.qsc = .reset := rfl
@[simp] theorem Blk.released_ctxs (b : Blk) : b.released.ctxs = [] := rfl
@[simp] theorem Blk.released_boot (b : Blk) : b.released.boot = .reset := rfl
@[simp] theorem Blk.released_colls (b : Blk) : b.released.colls = [] := rfl
@[simp] theorem Blk.released_lic (b : Blk) : b.released.lic = { LicState.reset with stored := b.lic.stored } := rfl
@[simp] theorem Blk.released_mem (b : Blk) : b.released.mem =
    { MemState.reset with xm := b.mem.xm, xmPoi := b.mem.xmPoi, flash := b.mem.flash, areas := b.mem.areas } := rfl

@[simp] theorem Blk.released_reg (b : Blk) (r : Reg) : b.released.reg r = (r.info b.conf).rst :=
  b.released.reg_of_regs_nil b.released_regs r

/-! ### The obligation -/

/-- Settles O21: the fall, the rise, and a release that no assertion went before. -/
theorem resetLines : Obligations.ResetLines := by
  refine ⟨fun s => ?fall, fun s h => ?rise, exec_resetRelease_of_running⟩
  case fall => exact ⟨_, exec_resetAssert s, by simp [State.modBlk]⟩
  case rise => exact ⟨_, exec_resetRelease_of_inReset s h, by simp⟩

end Sys2Proof.Machine
end

section
/-!
PROOFS. The double tree (R27, R28, R231): what up(x) does to a position, from it that a parent is a participant at an even position,
then the same over places, and the obligation put together from that.
-/

namespace Sys2Proof.Machine

/-! ### Positions: a position is 2^h times an odd number, and each up(x) raises h by one -/

theorem tzc_two_pow_mul_odd (fuel h m : Nat) (hf : h ≤ fuel) : tzc fuel (2 ^ h * (2 * m + 1)) = h := by
  induction h generalizing fuel with
  | zero => cases fuel <;> simp [tzc]
  | succ h ih =>
    obtain ⟨fuel, rfl⟩ : ∃ f, fuel = f + 1 := ⟨fuel - 1, by omega⟩
    have hx : 2 ^ (h + 1) * (2 * m + 1) = 2 * (2 ^ h * (2 * m + 1)) := by ring
    rw [tzc, hx, if_neg (by omega), Nat.mul_div_cancel_left _ two_pos, ih fuel (by omega), Nat.add_comm]

theorem treeUp_two_pow_mul_odd (h m : Nat) (hh : h ≤ 16) :
    treeUp (2 ^ h * (2 * m + 1)) = 2 ^ (h + 1) * (2 * (m / 2) + 1) := by
  have hbit : (2 ^ h * (2 * m + 1)) >>> (h + 1) = m := by
    rw [Nat.shiftRight_eq_div_pow, pow_succ, Nat.mul_div_mul_left _ _ (by positivity)]
    omega
  simp only [treeUp, tzc_two_pow_mul_odd 16 h m hh, hbit]
  obtain ⟨k, rfl | rfl⟩ := Nat.even_or_odd' m
  · rw [if_neg (by omega), Nat.mul_div_cancel_left _ two_pos]
    ring
  · rw [if_pos (by omega), show (2 * k + 1) / 2 = k by omega, Nat.sub_eq_iff_eq_add (Nat.le_mul_of_pos_right _ (by omega))]
    ring

/-- Below the root's level, the first up(x), up(up(x)), ... inside the tree is found before the fuel ends: `d` more levels lead to the
root, which is inside. -/
theorem treeUpTo_spec (n d fuel h m : Nat) (hf : d < fuel) (hh : h + 1 + d ≤ 16) (hroot : 2 ^ (h + 1 + d) ≤ n)
    (hm : m < 2 * 2 ^ d) :
    2 ^ (h + 1) ∣ treeUpTo n fuel (2 ^ h * (2 * m + 1)) ∧ 0 < treeUpTo n fuel (2 ^ h * (2 * m + 1)) ∧
      treeUpTo n fuel (2 ^ h * (2 * m + 1)) ≤ n := by
  induction d generalizing fuel h m with
  | zero =>
    obtain ⟨fuel, rfl⟩ : ∃ f, fuel = f + 1 := ⟨fuel - 1, by omega⟩
    have hup : treeUp (2 ^ h * (2 * m + 1)) = 2 ^ (h + 1) := by
      rw [treeUp_two_pow_mul_odd h m (by omega), Nat.div_eq_of_lt (by simpa using hm)]
      ring
    simp only [treeUpTo, hup]
    rw [if_pos hroot]
    exact ⟨dvd_rfl, by positivity, hroot⟩
  | succ d ih =>
    obtain ⟨fuel, rfl⟩ : ∃ f, fuel = f + 1 := ⟨fuel - 1, by omega⟩
    have hup := treeUp_two_pow_mul_odd h m (by omega)
    simp only [treeUpTo, hup]
    split
    · exact ⟨dvd_mul_right _ _, by positivity, by assumption⟩
    · obtain ⟨hdvd, hpos, hle⟩ := ih fuel (h + 1) (m / 2) (by omega) (by omega)
        (by rwa [show h + 1 + 1 + d = h + 1 + (d + 1) by omega]) (by rw [pow_succ] at hm; omega)
      exact ⟨(pow_dvd_pow 2 (by omega)).trans hdvd, hpos, hle⟩

/-- Among the positions below 2^(L + 1) only 2^L has a level of L or more. -/
theorem level_lt (L e m : Nat) (hlt : 2 ^ e * (2 * m + 1) < 2 ^ (L + 1)) (hne : 2 ^ e * (2 * m + 1) ≠ 2 ^ L) : e < L := by
  by_contra hc
  cases m with
  | zero =>
    have : e < L + 1 := (Nat.pow_lt_pow_iff_right one_lt_two).1 (by simpa using hlt)
    exact hne (by simp [show e = L by omega])
  | succ m =>
    have hge : 2 ^ (L + 1) ≤ 2 ^ e * (2 * (m + 1) + 1) :=
      Nat.mul_le_mul (Nat.pow_le_pow_right two_pos (by omega)) (by omega)
    omega

/-- The parent of a position of the tree is another position of it, and an even one. -/
theorem treeParent_some (n x y : Nat) (hn : n ≤ 16384) (hx : 0 < x) (hxn : x ≤ n) (h : treeParent n x = some y) :
    0 < y ∧ y ≤ n ∧ y ≠ x ∧ y % 2 = 0 := by
  unfold treeParent at h
  split at h
  · cases h
  next hne =>
  cases h
  obtain ⟨e, _, ⟨m, rfl⟩, rfl⟩ := Nat.exists_eq_two_pow_mul_odd hx.ne'
  have hlow : 2 ^ n.log2 ≤ n := Nat.log2_self_le (by omega)
  have htop : n < 2 ^ (n.log2 + 1) := Nat.lt_log2_self
  have hroot : n.log2 ≤ 14 := by
    by_contra hc
    have : 2 ^ 15 ≤ 2 ^ n.log2 := Nat.pow_le_pow_right two_pos (by omega)
    omega
  have hlevel : e < n.log2 := level_lt n.log2 e m (by omega) hne
  obtain ⟨d, hd⟩ : ∃ d, n.log2 = e + 1 + d := ⟨n.log2 - (e + 1), by omega⟩
  have hm : m < 2 * 2 ^ d := by
    have : 2 ^ e * (2 * m + 1) < 2 ^ e * (2 * (2 * 2 ^ d)) := by
      calc 2 ^ e * (2 * m + 1) < 2 ^ (n.log2 + 1) := by omega
        _ = 2 ^ e * (2 * (2 * 2 ^ d)) := by rw [hd]; ring
    have := Nat.lt_of_mul_lt_mul_left this
    omega
  obtain ⟨hdvd, hpos, hle⟩ := treeUpTo_spec n d 16 e m (by omega) (by omega) (hd ▸ hlow) hm
  refine ⟨hpos, hle, fun heq => ?_, ?_⟩
  · rw [heq, pow_succ, Nat.mul_dvd_mul_iff_left (by positivity)] at hdvd
    omega
  · exact Nat.mod_eq_zero_of_dvd ((dvd_pow_self 2 (by omega)).trans hdvd)

/-! ### Participants and their positions -/

theorem treeAt_treePos (n i : Nat) (b : Bool) (hi : i < n) : treeAt n b (treePos n b i) = i := by
  unfold treeAt treePos
  split_ifs <;> omega

theorem treePos_treeAt (n x : Nat) (b : Bool) (hx : 0 < x) : treePos n b (treeAt n b x) = x := by
  unfold treeAt treePos
  split_ifs <;> omega

theorem treePos_pos (n i : Nat) (b : Bool) (hi : i < n) : 0 < treePos n b i := by
  unfold treePos
  split_ifs <;> omega

theorem treePos_le (n i : Nat) (b : Bool) (hi : i < n) : treePos n b i ≤ n := by
  unfold treePos
  split_ifs <;> omega

theorem treeAt_lt (n x : Nat) (b : Bool) (hx : 0 < x) (hxn : x ≤ n) : treeAt n b x < n := by
  unfold treeAt
  split_ifs <;> omega

/-- A participant stands at an odd position of one of the trees (R231). -/
theorem treePos_odd (n i : Nat) : treePos n false i % 2 = 1 ∨ treePos n true i % 2 = 1 := by
  simp only [treePos, Bool.false_eq_true, if_false, if_true]
  split_ifs <;> omega

theorem treeRoot_pos (n : Nat) : 0 < treeRoot n := Nat.two_pow_pos _

theorem treeRoot_le (n : Nat) (hn : n ≠ 0) : treeRoot n ≤ n := Nat.log2_self_le hn

/-! ### Trees over places -/

theorem placeIx_getElem (ps : List Word) (hnd : ps.Nodup) (i : Nat) (hi : i < ps.length) : placeIx ps ps[i] = some i := by
  rw [placeIx, List.find?_range_eq_some]
  refine ⟨by simp [hi], by simpa using hi, fun j hj => ?_⟩
  have hne : ps[j] ≠ ps[i] := fun h => hj.ne ((hnd.getElem_inj_iff).1 h)
  simpa [hj.trans hi] using hne

theorem parentIn_getElem (ps : List Word) (hnd : ps.Nodup) (b : Bool) (i : Nat) (hi : i < ps.length) :
    parentIn ps b ps[i] =
      (treeParent ps.length (treePos ps.length b i)).map (fun x => ps.getD (treeAt ps.length b x) 0) := by
  simp only [parentIn, placeIx_getElem ps hnd i hi]

/-- The crown is the participant at the root. -/
theorem crownIn_eq_some_getElem_iff (ps : List Word) (hnd : ps.Nodup) (b : Bool) (i : Nat) (hi : i < ps.length) :
    crownIn ps b = some ps[i] ↔ treePos ps.length b i = treeRoot ps.length := by
  have hpos := treeRoot_pos ps.length
  have hle := treeRoot_le ps.length (by omega)
  have hlt := treeAt_lt ps.length _ b hpos hle
  have hne : ps.isEmpty = false := by cases ps <;> simp_all
  simp only [crownIn, hne, Bool.false_eq_true, if_false, Option.some.injEq, List.getD_eq_getElem ps _ hlt,
    hnd.getElem_inj_iff]
  constructor
  · rintro rfl
    exact treePos_treeAt _ _ _ hpos
  · intro h
    rw [← h, treeAt_treePos _ _ _ hi]

/-- A parent is another participant, and it stands at an even position. -/
theorem parentIn_eq_some (ps : List Word) (hnd : ps.Nodup) (hlen : ps.length ≤ 16384) (b : Bool) (j : Nat) (hj : j < ps.length)
    (q : Word) (h : parentIn ps b ps[j] = some q) :
    ∃ (i : Nat) (hi : i < ps.length), q = ps[i] ∧ i ≠ j ∧ treePos ps.length b i % 2 = 0 := by
  rw [parentIn_getElem ps hnd b j hj] at h
  obtain ⟨y, hy, rfl⟩ := Option.map_eq_some_iff.1 h
  obtain ⟨hpos, hle, hne, heven⟩ :=
    treeParent_some _ _ _ hlen (treePos_pos _ j b hj) (treePos_le _ j b hj) hy
  have hlt := treeAt_lt ps.length y b hpos hle
  have hat := treePos_treeAt ps.length y b hpos
  refine ⟨treeAt ps.length b y, hlt, List.getD_eq_getElem ps 0 hlt, ?_, by rwa [hat]⟩
  rintro rfl
  exact hne hat.symm

theorem parentIn_eq_none_iff (ps : List Word) (hnd : ps.Nodup) (b : Bool) (i : Nat) (hi : i < ps.length) :
    parentIn ps b ps[i] = none ↔ crownIn ps b = some ps[i] := by
  rw [parentIn_getElem ps hnd b i hi, crownIn_eq_some_getElem_iff ps hnd b i hi, Option.map_eq_none_iff, treeParent]
  simp

/-- A participant at an odd position is nobody's parent. -/
theorem kidsIn_eq_nil_of_odd (ps : List Word) (hnd : ps.Nodup) (hlen : ps.length ≤ 16384) (b : Bool) (i : Nat)
    (hi : i < ps.length) (hodd : treePos ps.length b i % 2 = 1) : kidsIn ps b ps[i] = [] := by
  rw [kidsIn, List.filter_eq_nil_iff]
  intro c hc hkid
  obtain ⟨j, hj, rfl⟩ := List.getElem_of_mem hc
  obtain ⟨k, hk, hik, -, heven⟩ := parentIn_eq_some ps hnd hlen b j hj _ (beq_iff_eq.1 hkid)
  have : i = k := (hnd.getElem_inj_iff).1 hik
  subst this
  omega

/-- Settles O34: the crown is at the root, a parent is another participant at an even position, and everyone has an odd position. -/
theorem doubleTree : Obligations.DoubleTree := by
  intro ps hnd hlen
  refine ⟨fun b p hp => ?crown, fun b p q hp hq => ?parent, fun p hp => ?leaf, fun h1 => ?single⟩
  case crown =>
    obtain ⟨i, hi, rfl⟩ := List.getElem_of_mem hp
    exact parentIn_eq_none_iff ps hnd b i hi
  case parent =>
    obtain ⟨j, hj, rfl⟩ := List.getElem_of_mem hp
    obtain ⟨i, hi, rfl, hne, -⟩ := parentIn_eq_some ps hnd hlen b j hj q hq
    exact ⟨List.getElem_mem hi, fun h => hne ((hnd.getElem_inj_iff).1 h)⟩
  case leaf =>
    obtain ⟨i, hi, rfl⟩ := List.getElem_of_mem hp
    exact (treePos_odd ps.length i).imp (kidsIn_eq_nil_of_odd ps hnd hlen false i hi)
      (kidsIn_eq_nil_of_odd ps hnd hlen true i hi)
  case single =>
    obtain ⟨p, rfl⟩ := List.length_eq_one_iff.1 h1
    rfl

end Sys2Proof.Machine
end

section
/-!
PROOFS. Commands that act on the units alone, and the stage reports of bring-up (R441, R442): what a report leaves, said once.
-/

namespace Sys2Proof.Machine

/-! ### Commands on the units -/

/-- A command whose meaning is a function of the units leaves them as that function gives. -/
theorem Becomes.of_lift {i : Instr} {s : State} {b : Blk} (f : Blk → Blk) (hexec : exec i s = lift f s)
    (hrun : s.blk.inReset = false) (hf : f s.blk = b) : Becomes i s b := by
  rw [Becomes, hexec, lift_next f s hrun, hf]

/-- What holds of the units that a command leaves, once what they raise is acted on, is what the command gives. -/
theorem Becomes.gives {i : Instr} {s : State} {b : Blk} {P : State → Prop} (h : Becomes i s b)
    (hP : P (settle { s with blk := b })) : Gives i s P := ⟨_, h, hP⟩

/-- Sending a frame leaves every unit but the queue scheduler. -/
theorem QueueOnly.hlt_eq {s t : Blk} (h : QueueOnly s t) : t.hlt = s.hlt := by
  unfold QueueOnly at h
  exact (congrArg Blk.hlt h).trans rfl

theorem QueueOnly.boot_eq {s t : Blk} (h : QueueOnly s t) : t.boot = s.boot := by
  unfold QueueOnly at h
  exact (congrArg Blk.boot h).trans rfl

/-! ### Reports -/

theorem Blk.report_conf (s : Blk) (r c : Nat) (d : Word) : (s.report r c d).conf = s.conf := by
  unfold Blk.report
  dsimp only
  split_ifs <;> simp [Blk.stageEv]

/-- A report sets the result, the code and the detail of the stage; in bring-up nothing else changes but the list of early reports. -/
theorem Blk.report_boot (s : Blk) (r c : Nat) (d : Word) : ∃ e, (s.report r c d).boot =
    { s.boot with result := r, code := BitVec.ofNat 16 c, detail := d, early := e } := by
  unfold Blk.report
  dsimp only
  split_ifs with hsame hearly
  · obtain ⟨rfl, rfl, rfl⟩ := hsame
    exact ⟨s.boot.early, by simp⟩
  · exact ⟨s.boot.early ++ [(reportWord s.boot.stage r c, d)], by simp⟩
  · exact ⟨s.boot.early, by simp [Blk.stageEv]⟩

/-- A result that the stage does not yet have is reported (R442). -/
theorem Blk.reported_report (s : Blk) (r c : Nat) (d : Word) (h : s.boot.result ≠ r) :
    Reported (s.report r c d) s.boot.stage r c d := by
  have hne : (Reg.boot .BOOT_REPORT).addr s.conf ≠ (Reg.boot .BOOT_DETAIL).addr s.conf := by cases s.conf <;> decide
  obtain ⟨w, hw⟩ : ∃ w, w = ((s.modBoot (fun b => { b with result := r, code := BitVec.ofNat 16 c, detail := d })).setReg
    (.boot .BOOT_REPORT) (reportWord s.boot.stage r c)).setReg (.boot .BOOT_DETAIL) d := ⟨_, rfl⟩
  have hregs : (s.report r c d).regs = w.regs := by
    unfold Blk.report
    dsimp only
    rw [if_neg (fun hsame => h hsame.1), hw]
    split_ifs
    · rw [Blk.modBoot_regs]
    · rw [Blk.stageEv, Blk.emit_regs]
  have hconf : (s.report r c d).conf = w.conf := by rw [Blk.report_conf, hw]; simp
  refine ⟨?_, ?_⟩ <;> rw [Blk.reg_congr hregs hconf, hw]
  · rw [Blk.reg_setReg_ne _ _ _ _ (by simpa using hne), Blk.reg_setReg]
  · rw [Blk.reg_setReg]

/-- A report stands where the registers are as they were. -/
theorem Reported.congr {b c : Blk} {n r k : Nat} {d : Word} (h : Reported b n r k d) (hregs : c.regs = b.regs)
    (hconf : c.conf = b.conf) : Reported c n r k d := by
  obtain ⟨hrep, hdet⟩ := h
  exact ⟨(Blk.reg_congr hregs hconf _).trans hrep, (Blk.reg_congr hregs hconf _).trans hdet⟩

/-- The end of a command leaves a report. -/
theorem Reported.settle {s : State} {b : Blk} {n r k : Nat} {d : Word} (h : Reported b n r k d) :
    Reported (settle { s with blk := b }).blk n r k d := h.congr (by simp) (by simp)

/-- S7 passes: S8 begins, and the attachment stands. -/
theorem Blk.pass7_boot (s : Blk) : s.pass7.boot.stage = 8 ∧ s.pass7.boot.attached = s.boot.attached := by
  obtain ⟨e, he⟩ := s.report_boot pass 0x700 0
  refine ⟨rfl, ?_⟩
  change (s.report pass 0x700 0).boot.attached = _
  rw [he]

theorem Blk.reported_pass7 (s : Blk) (h : s.boot.result ≠ 1) : Reported s.pass7 s.boot.stage 1 0x700 0 :=
  (s.reported_report 1 0x700 0 h).congr rfl rfl

end Sys2Proof.Machine
end

section
/-!
PROOFS. Attachment (R19, R447): what each of its commands comes to, and the obligation put together from that.
-/

namespace Sys2Proof.Machine

/-- A parent answers once it has passed S8 (R447). -/
theorem becomes_attachRequest {s : State} {f : RxFrame} {b : Blk} {tk : Taken} (h : HearsSub s f ftAttach 1 b tk) :
    Becomes (.attachRequest f) s
      (if (b.frameDone tk).boot.ready = true then (b.frameDone tk).attachAnswer tk.f else b.frameDone tk) := by
  obtain ⟨hrun, htake⟩ := h
  refine .of_lift _ (show execAttachRequest f s = lift _ s from rfl) hrun ?_
  simp only [htake]
  cases (b.frameDone tk).boot.ready <;> rfl

/-- What a tray answers (R17, R19, R24, R35): the place first, then a duplicate, the limit, the partition. -/
theorem Blk.attachCode_tray (b : Blk) (f : Frame) (h : b.role = .tray) : b.attachCode f =
    if f.srole ≠ 1 ∨ trayOf f.src ≠ b.place then 4
    else if f.src ∈ b.boot.members then 2
    else if 32 ≤ b.boot.members.length then 3
    else if fld (wordAt f.payload 1) 11 0 ≠ b.part then 4 else 0 := by
  simp [Blk.attachCode, h]

/-- The instance has had an answer of its parent. -/
def Blk.answered (s : Blk) : Blk := s.modBoot (fun m => { m with attAns := true })

/-- What the code of a reply does at the instance that waits in S7 for its parent (R343, R447). -/
def Blk.takeReply (s : Blk) (f : Frame) : Nat → Blk
  | 0 => match s.attachFlows f.src f.srole with
    | none => s.report wait 0x703 0
    | some c => (c.modBoot (fun m => { m with attached := true })).pass7
  | 2 => s.report wait 0x702 0
  | 3 => s.report wait 0x703 0
  | _ => s.report fail 0x704 0

theorem becomes_attachReply {s : State} {f : RxFrame} {b c : Blk} {tk : Taken} (h : HearsSub s f ftAttach 2 b tk)
    (hc : c = b.frameDone tk) (hstage : c.boot.stage = 7) (hres : c.boot.result ≠ 2) (hatt : c.boot.attached = false)
    (hpar : c.parentPlace = some tk.f.src) : Becomes (.attachReply f) s
      (c.answered.takeReply tk.f (fld (wordAt tk.f.payload 1) 7 0)) := by
  obtain ⟨hrun, htake⟩ := h
  refine .of_lift _ (show execAttachReply f s = lift _ s from rfl) hrun ?_
  simp only [htake, ← hc]
  rw [if_neg (by simp [hstage, hatt, hpar, fail, hres])]
  rfl

theorem becomes_attachRetry {s : State} (hrun : s.blk.inReset = false) (hstage : s.blk.boot.stage = 7) (hrole : s.blk.role ≠ .span)
    (hpar : s.blk.parentPlace ≠ none) (hatt : s.blk.boot.attached = false) (hplace : s.blk.placeValid = true)
    (hpass : s.blk.passed s.blk.boot.attAt (s.blk.ms 100) = true) : Becomes .attachRetry s
      (if s.blk.boot.attAns = true ∨ s.blk.boot.result = fail then s.blk else s.blk.report wait 0x701 0).attachSend := by
  refine .of_lift _ (show execAttachRetry s = lift _ s from rfl) hrun ?_
  rw [if_neg (by simp [hstage, hrole, hpar, hatt, hplace, hpass])]

/-- Settles O24: the answer, the code of a tray, the reply by its code, the retry. -/
theorem attachment : Obligations.Attachment := by
  refine ⟨fun s f b tk h => ?request, fun b f hrole => ?code, fun s f b tk h hstage hres hatt hpar => ?reply,
    fun s hrun hstage hrole hpar hatt hplace hpass => ?retry⟩
  case request =>
    have hb := becomes_attachRequest h
    exact ⟨fun hr => by rwa [if_pos hr] at hb, fun hr => by rwa [if_neg (by simp [hr])] at hb⟩
  case code =>
    rw [b.attachCode_tray f hrole]
    refine ⟨fun hplace => if_pos hplace, fun hsrole htray => ?_⟩
    rw [if_neg (by simp [hsrole, htray])]
    refine ⟨fun hdup => if_pos hdup, fun hnew hfull => ?_, fun hnew hroom hpart => ?_, fun hnew hroom hpart => ?_⟩ <;>
      rw [if_neg hnew]
    · exact if_pos hfull
    · rw [if_neg (by omega), if_pos hpart]
    · rw [if_neg (by omega), if_neg (by simp [hpart])]
  case reply =>
    have hb := becomes_attachReply h rfl hstage hres hatt hpar
    refine ⟨fun c hflows hcode => ?accept, fun hcode => ?duplicate, fun hcode => ?place⟩
    case accept =>
      rw [hcode] at hb
      refine hb.gives ?_
      have hflows : (b.frameDone tk).answered.attachFlows tk.f.src tk.f.srole = some c := hflows
      simp only [Blk.takeReply, hflows, settle_boot]
      obtain ⟨hst, hat⟩ := (c.modBoot (fun m => { m with attached := true })).pass7_boot
      exact ⟨hat, hst⟩
    case duplicate =>
      rw [hcode] at hb
      refine hb.gives ?_
      simp only [Blk.takeReply, settle_boot]
      obtain ⟨e, he⟩ := (b.frameDone tk).answered.report_boot wait 0x702 0
      rw [he]
      exact ⟨hstage, rfl, rfl⟩
    case place =>
      obtain ⟨n, hn⟩ : ∃ n, fld (wordAt tk.f.payload 1) 7 0 = n + 4 := ⟨_, (Nat.sub_add_cancel hcode).symm⟩
      rw [hn] at hb
      refine hb.gives ?_
      have hrep := (b.frameDone tk).answered.reported_report fail 0x704 0 hres
      obtain ⟨e, he⟩ := (b.frameDone tk).answered.report_boot fail 0x704 0
      have hseven : (b.frameDone tk).answered.boot.stage = 7 := hstage
      rw [hseven] at hrep
      refine ⟨?_, hrep.settle⟩
      simp only [Blk.takeReply, settle_boot, he]
      rfl
  case retry =>
    have hb := becomes_attachRetry hrun hstage hrole hpar hatt hplace hpass
    refine ⟨fun hans => by rwa [if_pos (Or.inl hans)] at hb, fun hans hres => ?_⟩
    rwa [if_neg (by simp [hans, fail, hres])] at hb

end Sys2Proof.Machine
end

section
/-!
PROOFS. The tables of the span instances (R24, R29, R448): what each of their commands comes to, and the obligation put together from
that.
-/

namespace Sys2Proof.Machine

/-- An answer of a peer in the table counts where it takes an entry; at S7 the instance looks whether the stage has ended (R448). -/
theorem becomes_peerTableAck {s : State} {f : RxFrame} {b : Blk} {tk : Taken} {o : SpanPeer} (h : HearsSub s f ftPeer 2 b tk)
    (hrole : b.role = .span) (hpeer : Store.look b.boot.spans tk.f.src.toNat = some o) (hstage : b.boot.stage ≠ 7) :
    Becomes (.peerTableAck f) s (b.modBoot (fun m => { m with
      spans := Store.put m.spans tk.f.src.toNat { o with acked := o.acked || decide (wordAt tk.f.payload 1 ≠ 0) } })) := by
  obtain ⟨hrun, htake⟩ := h
  refine .of_lift _ (show execPeerTableAck f s = lift _ s from rfl) hrun ?_
  simp only [htake, hpeer]
  rw [if_neg (by simp [hrole]), if_neg (by simpa using hstage)]

/-- The time that S7 waits for other span instances. -/
def Blk.spanWaitOver (s : Blk) : Bool := s.passed s.boot.stageAt (s.ms (fld (s.reg (.boot .BOOT_SPAN_WAIT)) 15 0))

theorem becomes_spanWaitExpire {s : State} (hrun : s.blk.inReset = false) (hrole : s.blk.role = .span)
    (hstage : s.blk.boot.stage = 7) :
    Becomes .spanWaitExpire s (if s.blk.spanWaitOver = true then s.blk.spanS7 else s.blk) := by
  refine .of_lift _ (show execSpanWaitExpire s = lift _ s from rfl) hrun ?_
  simp only [hrole, hstage, true_and]
  rfl

/-- S7 of a span instance passes once the wait is over and nobody is left unanswered, and else it reports the number (R448). -/
theorem Blk.spanS7_of_over (s : Blk) (h : s.spanWaitOver = true) :
    s.spanS7 = if s.unanswered = 0 then s.pass7 else s.report wait 0x705 (w32 s.unanswered) := by
  unfold Blk.spanWaitOver at h
  simp only [Blk.spanS7, h, true_and]

/-- Settles O25: the table, the acknowledgement, the repeat, the wait at S7, silence. -/
theorem spanTables : Obligations.SpanTables := by
  refine ⟨fun s f b tk i r h hrole hstage hsite hown henter => ?table, fun s f b tk o h hrole hpeer hstage => ?ack,
    fun s hrun hrole hstage => ?again, fun s hrun hrole hstage => ?wait,
    fun s p v hrun hrole hsite hspan hpeer hq0 hq1 hstage => ?silent⟩
  case table =>
    obtain ⟨hrun, htake⟩ := h
    refine .of_lift _ (show execPeerTable f s = lift _ s from rfl) hrun ?_
    simp only [htake]
    rw [if_neg (by simp [hrole, hstage]), if_pos hsite]
    simp only [hown, henter]
  case ack =>
    refine (becomes_peerTableAck h hrole hpeer hstage).gives ?_
    simp
  case again =>
    refine .of_lift _ (show execPeerTableRepeat s = lift _ s from rfl) hrun ?_
    rw [if_neg (by simp [hrole, hstage])]
  case wait =>
    have hb := becomes_spanWaitExpire hrun hrole hstage
    refine ⟨fun hover => ?_, fun hnot => ?_⟩
    · have hover : s.blk.spanWaitOver = true := hover
      rw [if_pos hover, Blk.spanS7_of_over _ hover] at hb
      refine ⟨fun hall hres => ?_, fun hsome hres => ?_⟩
      · rw [if_pos hall] at hb
        refine hb.gives ⟨?_, ?_⟩
        · rw [settle_boot]
          exact s.blk.pass7_boot.1
        · have hrep := s.blk.reported_pass7 (by omega)
          rw [hstage] at hrep
          exact hrep.settle
      · rw [if_neg hsome] at hb
        have hrep := s.blk.reported_report wait 0x705 (w32 s.blk.unanswered) (by rw [hres]; decide)
        rw [hstage] at hrep
        obtain ⟨e, he⟩ := s.blk.report_boot wait 0x705 (w32 s.blk.unanswered)
        refine hb.gives ⟨?_, hrep.settle⟩
        rw [settle_boot, he]
        exact hstage
    · have hnot : s.blk.spanWaitOver = false := hnot
      rw [if_neg (by simp [hnot])] at hb
      exact hb
  case silent =>
    refine .of_lift _ (show execSpanPeerSilent p s = lift _ s from rfl) hrun ?_
    have hin : (Store.look s.blk.boot.spans p.toNat).isNone = false := Option.isNone_eq_false_iff.2 hspan
    simp only [hpeer]
    rw [if_neg (by simp [hrole, hsite, hin, hq0, hq1]), if_neg (by simpa using hstage)]

end Sys2Proof.Machine
end

section
/-!
PROOFS. PRIMARY frames (R32): whom an instance takes as primary, and the obligation put together from that.
-/

namespace Sys2Proof.Machine

/-- Whether a PRIMARY frame of place `p` with epoch `e` is ahead of the primary in force (R32). -/
def Blk.outranks (b : Blk) (p e : Word) : Prop :=
  ∀ q g, b.boot.primary = some (q, g) → g.toNat < e.toNat ∨ g = e ∧ p.toNat < q.toNat

/-- At a span instance the sender of a frame that is ahead becomes the primary, and this instance is none. -/
theorem Blk.adopt_boot_of_outranks (b : Blk) (p e : Word) (hrole : b.role = .span) (h : b.outranks p e) :
    (b.adopt p e).boot.primary = some (p, e) ∧ (b.adopt p e).boot.isPrimary = false := by
  unfold Blk.outranks at h
  unfold Blk.adopt
  rcases hp : b.boot.primary with _ | ⟨q, g⟩
  · simp [hp, hrole]
  · simp [hp, hrole, h q g hp]

/-- A frame that is not ahead leaves the primary as it is. -/
theorem Blk.adopt_boot_of_behind (b : Blk) (p e q g : Word) (hp : b.boot.primary = some (q, g))
    (h : ¬ (g.toNat < e.toNat ∨ g = e ∧ p.toNat < q.toNat)) :
    (b.adopt p e).boot.primary = b.boot.primary ∧ (b.adopt p e).boot.isPrimary = b.boot.isPrimary := by
  simp [Blk.adopt, hp, h]

/-- Settles O26: a frame of the own site is looked at; whom it makes primary; the repeat. -/
theorem primaryFrames : Obligations.PrimaryFrames := by
  refine ⟨fun s f b tk h hrole hspan hsite hself => ?frame, Blk.adopt_boot_of_outranks, Blk.adopt_boot_of_behind,
    fun s hrun hprim hpass => ?again⟩
  case frame =>
    obtain ⟨hrun, htake⟩ := h
    refine .of_lift _ (show execPrimaryFrame f s = lift _ s from rfl) hrun ?_
    simp only [htake]
    rw [if_neg (by simp [hrole, hspan, hsite, hself])]
  case again =>
    refine .of_lift _ (show execPrimaryRepeat s = lift _ s from rfl) hrun ?_
    rw [if_pos ⟨hprim, hpass⟩]

end Sys2Proof.Machine
end

section
/-!
PROOFS. Unit history and the guard group (R26, R394, R396, R399 to R402): what each of their commands comes to, and the obligation put
together from that.
-/

namespace Sys2Proof.Machine

/-! ### Clean days (R394) -/

/-- A period of 24 h that has not ended changes nothing. -/
theorem Blk.cleanDay1_of_early (b : Blk) (e : Nat) (w : Watch) (hw : Store.look b.hlt.watch e = some w)
    (h : b.cal < w.since + (tkDay : Nat)) : b.cleanDay1 e = b := by
  simp only [Blk.cleanDay1, hw]
  exact if_pos h

/-- A full period of a permanent entry counts a clean day or begins the count again; such an entry never leaves for clean days. -/
theorem Blk.cleanDay1_of_perm (b : Blk) (e : Nat) (w : Watch) (hw : Store.look b.hlt.watch e = some w)
    (h : w.since + (tkDay : Nat) ≤ b.cal) (hperm : w.perm = true) : Store.look (b.cleanDay1 e).hlt.watch e =
      some ⟨true, if w.pass = true ∧ w.bad = false then w.clean + 1 else 0, w.since + (tkDay : Nat), false, false⟩ := by
  simp only [Blk.cleanDay1, hw]
  rw [if_neg (not_lt.2 h), if_neg (by simp [hperm])]
  simp [hperm]

/-! ### The guard group (R401) -/

/-- Telling places in turn leaves the health unit as it is. -/
theorem Blk.sendAll_hlt (l : List Word) (g : Blk → List Byte) (b : Blk) :
    (l.foldl (fun s h => s.sendMsg 6 h 2 ftHealth none (g s) 0 none) b).hlt = b.hlt :=
  (queueOnly_foldl _ (fun _ _ => queueOnly_sendMsg _ _ _ _ _ _ _ _ _) l b).hlt_eq

/-- A delta as the holder stages it. -/
def deltaOf (src : Word) (p : List Byte) : Delta :=
  { place := src, epoch := w32 (leAt p 12 4), chunk := leAt p 4 4, k := leAt p 8 4 % 16,
    q := decide (leAt p 8 4 / 16 % 2 = 1), half := leAt p 8 4 / 256 % 2, data := slice p 16 2048 }

theorem becomes_guardDeltaReceive {s : State} {f : RxFrame} {b c : Blk} {tk : Taken} (h : HearsSub s f ftHealth 2 b tk)
    (hc : c = b.frameDone tk) (hkind : leAt tk.f.payload 0 1 = 2) : Becomes (.guardDeltaReceive f) s
      (if c.role ≠ .tray ∨ c.grdRank tk.f.src = none then c
       else (c.modHlt (fun m => { m with staged := m.staged ++ [deltaOf tk.f.src tk.f.payload] })).sendMsg 6 tk.f.src 2 ftHealth none
         (leBytes 4 3 ++ slice tk.f.payload 4 12) 0 none) := by
  obtain ⟨hrun, htake⟩ := h
  refine .of_lift _ (show execGuardDeltaReceive f s = lift _ s from rfl) hrun ?_
  simp only [htake, ← hc, hkind, ne_eq, not_true_eq_false, false_or, Option.isNone_iff_eq_none]
  rfl

/-- The member's epoch is committed: its holders are told, and what it has sent is what it has (R401). -/
def Blk.guardCommit (s : Blk) : Blk :=
  let s := s.hlt.holders.foldl (fun s h => s.sendMsg 6 h 2 ftHealth none
    (leBytes 4 4 ++ leBytes 4 0 ++ leBytes 4 0 ++ leBytes 4 s.hlt.epoch.toNat) 0 none) s
  s.modHlt (fun h => { h with shadow := h.flight.foldl (fun m e => Store.set zeros4k m e.1 e.2) h.shadow,
                              flight := [], holders := [], cepoch := h.epoch })

theorem Blk.guardCommit_hlt (s : Blk) : s.guardCommit.hlt = { s.hlt with
    shadow := s.hlt.flight.foldl (fun m e => Store.set zeros4k m e.1 e.2) s.hlt.shadow,
    flight := [], holders := [], cepoch := s.hlt.epoch } := by
  simp only [Blk.guardCommit, Blk.modHlt_hlt]
  rw [Blk.sendAll_hlt _ (fun s => leBytes 4 4 ++ leBytes 4 0 ++ leBytes 4 0 ++ leBytes 4 s.hlt.epoch.toNat)]

theorem becomes_guardAckReceive {s : State} {f : RxFrame} {b c : Blk} {tk : Taken} {k : Word × Nat}
    (h : HearsSub s f ftHealth 3 b tk) (hc : c = b.frameDone tk) (hkind : leAt tk.f.payload 0 1 = 3)
    (hk : k = (tk.f.src, 2 * leAt tk.f.payload 4 4 + leAt tk.f.payload 8 4 / 256 % 2)) : Becomes (.guardAckReceive f) s
      (if w32 (leAt tk.f.payload 12 4) ≠ c.hlt.epoch ∨ c.hlt.awaited.contains k = false then c
       else if c.hlt.awaited.filter (· ≠ k) ≠ [] then c.modHlt (fun m => { m with awaited := m.awaited.filter (· ≠ k) })
       else (c.modHlt (fun m => { m with awaited := m.awaited.filter (· ≠ k) })).guardCommit) := by
  obtain ⟨hrun, htake⟩ := h
  refine .of_lift _ (show execGuardAckReceive f s = lift _ s from rfl) hrun ?_
  simp only [htake, ← hc, ← hk, hkind, ne_eq, not_true_eq_false, false_or, Bool.not_eq_true', Blk.modHlt_hlt,
    List.isEmpty_eq_false_iff]
  rfl

/-- A holder applies deltas to its parity chunks: only XM changes (R400). -/
def Blk.applyDeltas (s : Blk) (r : Nat) (ds : List Delta) : Blk :=
  ds.foldl (fun s d =>
    let a := s.grdParity (grdStripe r d.chunk) d.q + 2048 * d.half
    let old := Mem.rdN s.mem.xm a 2048
    let x := if d.q then d.data.map (gfMulG d.k) else d.data
    s.xmWrite a (List.zipWith (· ^^^ ·) old x) false) s

theorem Blk.applyDeltas_hlt (s : Blk) (r : Nat) (ds : List Delta) : (s.applyDeltas r ds).hlt = s.hlt :=
  (queueOnly_foldl _ (fun _ _ => queueOnly_xmWrite _ _ _ _) ds s).hlt_eq

/-- Whether a staged delta is one of place `p` in epoch `e`. -/
def Delta.isOf (p e : Word) (d : Delta) : Bool := d.place == p && d.epoch == e

theorem becomes_guardCommitReceive {s : State} {f : RxFrame} {b c : Blk} {tk : Taken} (h : HearsSub s f ftHealth 4 b tk)
    (hc : c = b.frameDone tk) (hkind : leAt tk.f.payload 0 1 = 4) : Becomes (.guardCommitReceive f) s
      (match c.grdRank tk.f.src with
       | none => c
       | some r =>
         (c.applyDeltas r (c.hlt.staged.filter (Delta.isOf tk.f.src (w32 (leAt tk.f.payload 12 4))))).modHlt (fun m =>
           { m with staged := m.staged.filter (fun d => !d.isOf tk.f.src (w32 (leAt tk.f.payload 12 4))) })) := by
  obtain ⟨hrun, htake⟩ := h
  refine .of_lift _ (show execGuardCommitReceive f s = lift _ s from rfl) hrun ?_
  simp only [htake, ← hc]
  cases c.grdRank tk.f.src with
  | none => rfl
  | some r =>
    simp only [hkind]
    rfl

/-! ### The obligation -/

/-- Settles O53: clean days, the day's totals, a member that detaches, a rebuild's end, and the guard group's four commands. -/
theorem historyAndGuard : Obligations.HistoryAndGuard := by
  refine ⟨fun s hrun => ?cleanDay, fun b e w hw => ⟨b.cleanDay1_of_early e w hw, b.cleanDay1_of_perm e w hw⟩,
    fun s hrun => ?ceDay, fun s p hrun => ?detach, fun s hrun => ?rebuild, fun s hrun => ?epoch,
    fun s f b c tk h hc hkind => ?delta, fun s f b c tk k h hc hkind hk => ?ack, fun s f b c tk h hc hkind => ?commit⟩
  case cleanDay => exact .of_lift _ (show execCleanDay s = lift _ s from rfl) hrun rfl
  case ceDay =>
    refine ⟨fun hsame => ?_, fun hnew => ?_⟩
    · exact Becomes.of_lift _ (show execCeDayEnd s = lift _ s from rfl) hrun (if_pos hsame)
    · refine (Becomes.of_lift (i := .ceDayEnd) _ (show execCeDayEnd s = lift _ s from rfl) hrun
        (if_neg (not_le.2 hnew))).gives ?_
      simp only [settle_hlt, Blk.modHlt_hlt, and_self]
  case detach =>
    refine ⟨fun hrole _ => .of_lift _ (show execMemberDetach p s = lift _ s from rfl) hrun (if_pos hrole), fun hnot => ?_⟩
    refine Becomes.of_lift _ (show execMemberDetach p s = lift _ s from rfl) hrun ?_
    rcases hnot with hrole | hmem
    · exact if_neg hrole
    · simp only [Blk.memberGone, hmem, Bool.not_false, if_true, ite_self]
  case rebuild =>
    refine ⟨fun hnone => ?_, fun r hr => ?_⟩
    · refine Becomes.of_lift _ (show execRebuildDone s = lift _ s from rfl) hrun ?_
      simp only [hnone]
    · refine (Becomes.of_lift (i := .rebuildDone) _ (show execRebuildDone s = lift _ s from rfl) hrun rfl).gives ?_
      simp only [hr, settle_hlt, Blk.setReg_hlt, Blk.modHlt_hlt]
  case epoch =>
    exact ⟨fun hrole => .of_lift _ (show execGuardEpochEnd s = lift _ s from rfl) hrun (if_pos hrole),
      fun hrole => Becomes.of_lift _ (show execGuardEpochEnd s = lift _ s from rfl) hrun (if_neg hrole)⟩
  case delta =>
    have hb := becomes_guardDeltaReceive h hc hkind
    refine ⟨fun hno => by rwa [if_pos hno] at hb, fun hrole hrank => ?_⟩
    rw [if_neg (by simp [hrole, Option.isSome_iff_ne_none.1 hrank])] at hb
    refine hb.gives ⟨deltaOf tk.f.src tk.f.payload, ?_, rfl, rfl, rfl, rfl⟩
    rw [settle_hlt, (queueOnly_sendMsg _ _ _ _ _ _ _ _ _).hlt_eq, Blk.modHlt_hlt]
  case ack =>
    have hb := becomes_guardAckReceive h hc hkind hk
    refine ⟨fun hno => by rwa [if_pos hno] at hb, fun hepoch hawaited => ?_⟩
    rw [if_neg (by rw [hawaited]; simp [hepoch])] at hb
    refine ⟨fun hmore => by rwa [if_pos hmore] at hb, fun hlast => ?_⟩
    rw [if_neg (not_not.2 hlast)] at hb
    refine hb.gives ?_
    rw [settle_hlt, Blk.guardCommit_hlt, Blk.modHlt_hlt]
    exact ⟨rfl, hlast, rfl, rfl⟩
  case commit =>
    have hb := becomes_guardCommitReceive h hc hkind
    refine ⟨fun hnone => by rwa [hnone] at hb, fun r hr => ?_⟩
    rw [hr] at hb
    refine hb.gives ?_
    rw [settle_hlt, Blk.modHlt_hlt, Blk.applyDeltas_hlt]
    rfl

end Sys2Proof.Machine
end

section
/-!
PROOFS. The time base (R44 to R46, R50, R57, R62): what holdover, a change of rate and a measurement leave of the time unit, and the
obligation put together from that.
-/

namespace Sys2Proof.Machine

/-- What the end of a command leaves of the registers. -/
@[simp] theorem settle_reg (s : State) (r : Reg) : (settle s).blk.reg r = s.blk.reg r := Blk.reg_congr (by simp) (by simp) r

/-! ### Rate, lock, holdover -/

@[simp] theorem Blk.applyRate_time (s : Blk) :
    s.applyRate.time = s.time.setRate ((s.rateNom : Int) + s.rateNom * s.time.servoY / 2 ^ 40) := rfl

@[simp] theorem TimeState.setRate_hold (t : TimeState) (r : Int) : (t.setRate r).hold = t.hold := rfl
@[simp] theorem TimeState.setRate_servoY (t : TimeState) (r : Int) : (t.setRate r).servoY = t.servoY := rfl
@[simp] theorem TimeState.setRate_lock (t : TimeState) (r : Int) : (t.setRate r).lock = t.lock := rfl
@[simp] theorem TimeState.setRate_within (t : TimeState) (r : Int) : (t.setRate r).within = t.within := rfl
@[simp] theorem TimeState.setRate_trefLost (t : TimeState) (r : Int) : (t.setRate r).trefLost = t.trefLost := rfl

/-- Whatever the cause, and whether or not there was lock before, only lock and the two counts change (R59). -/
@[simp] theorem Blk.loseLock_time (s : Blk) (cause : Nat) :
    (s.loseLock cause).time = { s.time with lock := false, within := 0, above := 0 } := by
  unfold Blk.loseLock
  dsimp only
  split_ifs <;> rfl

/-- A holdover that has begun is not entered again. -/
theorem Blk.enterHold_of_hold (s : Blk) (cause : Nat) (h : s.time.hold = true) : s.enterHold cause = s := if_pos h

/-- Holdover begins: y is the integral term, and lock is lost (R62). -/
theorem Blk.enterHold_time_of_not_hold (s : Blk) (cause : Nat) (h : s.time.hold = false) :
    (s.enterHold cause).time.hold = true ∧ (s.enterHold cause).time.servoY = s.time.servoI ∧
    (s.enterHold cause).time.lock = false ∧ (s.enterHold cause).time.within = 0 ∧
    (s.enterHold cause).time.trefLost = s.time.trefLost := by
  simp [Blk.enterHold, h]

/-! ### Meanings -/

theorem becomes_trefLost {s : State} (hrun : s.blk.inReset = false) (hlost : s.blk.time.trefLost = false) :
    Becomes .trefLost s (((s.blk.modTime (fun t => { t with trefLost := true })).emit 1 0x0101 1
      (s.blk.time.frc.toNat % 2 ^ 48)).enterHold 3) :=
  .of_lift _ (show execTrefLost s = lift _ s from rfl) hrun (if_neg (by simp [hlost]))

theorem becomes_trefReturn {s : State} (hrun : s.blk.inReset = false) (hlost : s.blk.time.trefLost = true) :
    Becomes .trefReturn s ((s.blk.modTime (fun t => { t with trefLost := false, frcFrac := 0 })).emit 1 0x0101 0
      (s.blk.time.frc.toNat % 2 ^ 48)) :=
  .of_lift _ (show execTrefReturn s = lift _ s from rfl) hrun (if_pos hlost)

theorem becomes_holdTimeout {s : State} (hrun : s.blk.inReset = false) (hservo : s.blk.timCtl 0 = true)
    (hhold : s.blk.time.hold = false)
    (hpass : s.blk.passed s.blk.time.measAt (s.blk.ms (s.blk.reg (.tim .TIM_HOLD_TMO)).toNat) = true) :
    Becomes .holdTimeout s (s.blk.enterHold 1) :=
  .of_lift _ (show execHoldTimeout s = lift _ s from rfl) hrun (if_pos ⟨hservo, by simp [hhold], hpass⟩)

/-- TAI − UTC as a leap of the kind leaves it: an inserted second (kind 1) adds one, a deleted one takes one away (R50). -/
def taiAfterLeap (kind : Nat) (o : Word) : Word := if kind = 1 then o + 1 else o - 1

/-- At the instant of a leap that is asked for, well placed and not yet done, TAI − UTC changes once (R50). -/
theorem becomes_leapInstant {s : State} {kind : Nat} (hrun : s.blk.inReset = false) (hdone : s.blk.time.leapDone = false)
    (herr : s.blk.time.leapErr = false) (hat : s.blk.time.leapAt.toNat ≤ s.blk.t64.toNat)
    (hk : fld (s.blk.reg (.tim .TIM_LEAP_CTRL)) 1 0 = kind) (hkind : kind = 1 ∨ kind = 2) :
    Becomes .leapInstant s (((s.blk.setReg (.tim .TIM_TAI_OFFSET)
      (taiAfterLeap kind (s.blk.reg (.tim .TIM_TAI_OFFSET)))).modTime (fun t => { t with leapDone := true })).emit 1 0x0104
        s.blk.time.leapAt.toNat (kind + 1 <<< 8)) := by
  subst hk
  refine .of_lift _ (show execLeapInstant s = lift _ s from rfl) hrun (if_neg ?_)
  simp only [hdone, herr, Bool.false_eq_true, false_or, not_or, not_lt]
  exact ⟨by omega, hat⟩

/-! ### The obligation -/

/-- Settles O18: the loss of tref, its return, the holdover timeout, and both kinds of leap. -/
theorem timebaseEvents : Obligations.TimebaseEvents := by
  refine ⟨fun s hrun hlost => ?lost, fun s hrun hlost => ?back, fun s hrun hservo hhold hpass => ?timeout,
    fun s hrun hdone herr hat => ?leap⟩
  case lost =>
    refine (becomes_trefLost hrun hlost).gives ?_
    rw [settle_time]
    cases hhold : s.blk.time.hold with
    | true =>
      rw [Blk.enterHold_of_hold _ _ (by simpa using hhold)]
      simp [hhold]
    | false =>
      obtain ⟨hin, hy, hlock, hwithin, htref⟩ := Blk.enterHold_time_of_not_hold
        ((s.blk.modTime (fun t => { t with trefLost := true })).emit 1 0x0101 1 (s.blk.time.frc.toNat % 2 ^ 48)) 3
        (by simpa using hhold)
      exact ⟨htref, hin, fun _ => ⟨hy, hlock, hwithin⟩⟩
  case back => exact (becomes_trefReturn hrun hlost).gives (by simp)
  case timeout =>
    obtain ⟨hin, hy, hlock, -, -⟩ := s.blk.enterHold_time_of_not_hold 1 hhold
    exact (becomes_holdTimeout hrun hservo hhold hpass).gives (by simp [hin, hy, hlock])
  case leap =>
    exact ⟨fun hk => (becomes_leapInstant hrun hdone herr hat hk (.inl rfl)).gives (by simp [taiAfterLeap]),
      fun hk => (becomes_leapInstant hrun hdone herr hat hk (.inr rfl)).gives (by simp [taiAfterLeap])⟩

end Sys2Proof.Machine
end

section
/-!
PROOFS. Pulses, stamps and strobes (R51 to R53, R56, R80): what a measurement leaves of the stamps, what the capture of a stamp comes
to in each case, and the obligation put together from that.
-/

namespace Sys2Proof.Machine

/-! ### What a measurement leaves of the stamps -/

/-- What captures have left in the time unit: the stamp FIFO and the last edge of tl_pps_in. -/
def TimeState.captured (t : TimeState) : List Stamp × Option Nat := (t.fifo, t.ppsInAt)

theorem Blk.loseLock_captured (s : Blk) (cause : Nat) : (s.loseLock cause).time.captured = s.time.captured := by
  rw [Blk.loseLock_time]
  rfl

theorem Blk.exitHold_captured (s : Blk) : s.exitHold.time.captured = s.time.captured := by
  unfold Blk.exitHold
  split_ifs <;> rfl

/-- The count for lock ends in lock, in its loss, or in neither; none of these touches a stamp (R59). -/
theorem Blk.lockCount_captured (s : Blk) (a : Nat) : (s.lockCount a).time.captured = s.time.captured := by
  unfold Blk.lockCount
  dsimp only
  generalize hc : s.modTime _ = c
  have hcount : c.time.captured = s.time.captured := by rw [← hc]; rfl
  split_ifs
  · rw [Blk.exitHold_captured]; exact hcount
  · rw [Blk.loseLock_captured]; exact hcount
  · exact hcount

/-- A measurement steers the rate and counts for lock; it touches no stamp (R56 to R59). -/
theorem Blk.measure_captured (s : Blk) (e : Int) : (s.measure e).time.captured = s.time.captured := by
  unfold Blk.measure
  dsimp only
  split_ifs
  · rfl
  · rw [Blk.loseLock_captured]; rfl
  · rw [Blk.lockCount_captured]; rfl

/-! ### The capture of a stamp (R52, R53) -/

theorem Blk.stampIn_of_room (s : Blk) (p : Nat) (egr : Bool) (fine : Nat) (tag : BitVec 16) (hport : s.stampPort p = true)
    (hroom : s.time.fifo.length < s.stampMax) : s.stampIn p egr fine tag =
      s.modTime (fun t => { t with fifo := t.fifo ++ [⟨p, egr, tag, s.corrected p egr fine⟩] }) := by
  rw [Blk.stampIn, if_neg (by simp [hport]), if_pos hroom]

theorem Blk.stampIn_of_no_port (s : Blk) (p : Nat) (egr : Bool) (fine : Nat) (tag : BitVec 16) (hport : s.stampPort p = false) :
    s.stampIn p egr fine tag = s.modTime (fun t => { t with tsfBad := min (t.tsfBad + 1) 255 }) := by
  rw [Blk.stampIn, if_pos (by simp [hport])]

/-- A stamp that finds the FIFO full is counted; whether its event is due changes nothing of that. -/
theorem Blk.stampIn_time_of_full (s : Blk) (p : Nat) (egr : Bool) (fine : Nat) (tag : BitVec 16) (hport : s.stampPort p = true)
    (hfull : s.stampMax ≤ s.time.fifo.length) : (s.stampIn p egr fine tag).time.fifo = s.time.fifo ∧
      (s.stampIn p egr fine tag).time.tsfDrop = min (s.time.tsfDrop + 1) 255 := by
  rw [Blk.stampIn, if_neg (by simp [hport]), if_neg (not_lt.2 hfull)]
  dsimp only
  split_ifs <;> exact ⟨rfl, rfl⟩

/-- Port 62, of tl_pps_in, exists in both configurations (Table 2-1). -/
theorem Blk.stampPort_pps (s : Blk) : s.stampPort 62 = true := by
  unfold Blk.stampPort
  cases s.conf <;> rfl

/-! ### Meanings -/

theorem becomes_ppsOutStart {s : State} (hrun : s.blk.inReset = false) (hen : s.blk.timCtl 2 = true)
    (hnew : s.blk.time.ppsSec ≠ some (s.blk.t64.toNat / tkSec)) : Becomes .ppsOutStart s
      (if s.blk.secondNow = true then s.blk.modTime (fun t => { t with
        ppsSec := some (s.blk.t64.toNat / tkSec)
        ppsFall := if fld (s.blk.reg (.tim .TIM_PPS_W)) 19 0 = 0 then t.ppsFall
          else some (s.blk.tclk + s.blk.us (fld (s.blk.reg (.tim .TIM_PPS_W)) 19 0)) }) else s.blk) := by
  refine .of_lift _ (show execPpsOutStart s = lift _ s from rfl) hrun ?_
  cases hsec : s.blk.secondNow
  · exact if_pos (by simp)
  · exact if_neg (by simp [hen, hnew])

theorem becomes_ppsOutEnd {s : State} {a : Nat} (hrun : s.blk.inReset = false) (hfall : s.blk.time.ppsFall = some a)
    (ha : a ≤ s.blk.tclk) : Becomes .ppsOutEnd s (s.blk.modTime (fun t => { t with ppsFall := none })) := by
  refine .of_lift _ (show execPpsOutEnd s = lift _ s from rfl) hrun ?_
  simp only [hfall]
  exact if_pos ha

/-- An edge of tl_pps_in noted, before its stamp is captured (R52). -/
def Blk.edgeNoted (s : Blk) : Blk := s.modTime (fun t => { t with ppsInAt := some s.tclk })

/-- With tl_pps_in as the servo's source, its stamp is a measurement (R56). -/
def Blk.ppsMeasured (s : Blk) : Blk := if s.timCtl 1 = true then s.measure (ppsOffset (s.corrected 62 false 0)) else s

theorem Blk.ppsMeasured_captured (s : Blk) : s.ppsMeasured.time.captured = s.time.captured := by
  unfold Blk.ppsMeasured
  split_ifs
  · exact s.measure_captured _
  · rfl

/-- An edge 500 ms after the last is stamped as port 62, and is a measurement where the servo takes it (R52, R56). -/
theorem becomes_ppsIn {s : State} {c : Blk} (hrun : s.blk.inReset = false)
    (hlate : ∀ a, s.blk.time.ppsInAt = some a → s.blk.passed a (s.blk.ms 500) = true)
    (hc : s.blk.edgeNoted.stampIn 62 false 0 0 = c) :
    Becomes .ppsIn s c.ppsMeasured := by
  refine .of_lift _ (show execPpsIn s = lift _ s from rfl) hrun ?_
  subst hc
  cases hin : s.blk.time.ppsInAt with
  | none => exact if_neg Bool.false_ne_true
  | some a => exact if_neg (by simp [hlate a hin])

theorem becomes_stampCapture {s : State} (p : Nat) (egr : Bool) (fine : Nat) (tag : BitVec 16) (hrun : s.blk.inReset = false) :
    Becomes (.stampCapture p egr fine tag) s (s.blk.stampIn p egr (fine % 16) tag) :=
  .of_lift _ (show execStampCapture p egr fine tag s = lift _ s from rfl) hrun rfl

/-- The end of a strobe's pulse that is still to come at `now` (R80). -/
def pulseLeft (now : Nat) (o : Option Nat) : Option Nat :=
  match o with
  | some a => if a ≤ now then none else o
  | none => none

theorem pulseLeft_of_le {now a : Nat} (h : a ≤ now) : pulseLeft now (some a) = none := if_pos h

theorem becomes_strobeEnd {s : State} (n : Nat) (hrun : s.blk.inReset = false) :
    Becomes (.strobeEnd n) s (s.blk.modTime (fun t => if n = 0 then { t with strobe0 := pulseLeft s.blk.tclk t.strobe0 }
      else if n = 1 then { t with strobe1 := pulseLeft s.blk.tclk t.strobe1 } else t)) :=
  .of_lift _ (show execStrobeEnd n s = lift _ s from rfl) hrun rfl

theorem becomes_timeFrameReceive {s : State} {f : RxFrame} {b : Blk} {tk : Taken} (h : Hears s f ftTime b tk) :
    Becomes (.timeFrameReceive f) s
      ((b.frameDone tk).stampIn (60 + f.pair) false 0 (BitVec.ofNat 16 (leAt tk.f.payload 0 2))) := by
  obtain ⟨hrun, htake⟩ := h
  refine .of_lift _ (show execTimeFrameReceive f s = lift _ s from rfl) hrun ?_
  simp only [htake]

/-! ### The obligation -/

/-- Settles O19: the pulse's two ends, the edge of tl_pps_in, a stamp by the room it finds, the two strobes, the time frame. -/
theorem pulsesAndStamps : Obligations.PulsesAndStamps := by
  refine ⟨fun s hrun hen hnew => ?pulse, fun s a hrun hfall ha => ?pulseEnd, fun s hrun hlate hroom => ?edge,
    fun s p fine egr tag hrun => ?stamp, fun s a hrun ha => ?strobes,
    fun s f b tk hrun htake => becomes_timeFrameReceive ⟨hrun, htake⟩⟩
  case pulse =>
    have hb := becomes_ppsOutStart hrun hen hnew
    refine ⟨fun hsec hwidth => ?_, fun hsec => ?_⟩
    · rw [if_pos hsec] at hb
      exact hb.gives (by simp [hwidth])
    · rwa [if_neg (by simp [hsec])] at hb
  case pulseEnd => exact (becomes_ppsOutEnd hrun hfall ha).gives (by simp)
  case edge =>
    have hstamp := s.blk.edgeNoted.stampIn_of_room 62 false 0 0 s.blk.edgeNoted.stampPort_pps hroom
    refine (becomes_ppsIn hrun hlate hstamp).gives ?_
    obtain ⟨hfifo, hedge⟩ := Prod.ext_iff.1 (Blk.ppsMeasured_captured _)
    rw [settle_time]
    exact ⟨hedge, hfifo⟩
  case stamp =>
    have hb := becomes_stampCapture p egr fine tag hrun
    refine ⟨fun hport hroom => ?_, fun hport hfull => ?_, fun hport => ?_⟩
    · rw [Blk.stampIn_of_room _ _ _ _ _ hport hroom] at hb
      exact hb.gives (by simp)
    · refine hb.gives ?_
      rw [settle_time]
      exact s.blk.stampIn_time_of_full p egr (fine % 16) tag hport hfull
    · rw [Blk.stampIn_of_no_port _ _ _ _ _ hport] at hb
      exact hb.gives (by simp)
  case strobes =>
    refine ⟨fun hstrobe => (becomes_strobeEnd 0 hrun).gives ?_, fun hstrobe => (becomes_strobeEnd 1 hrun).gives ?_⟩ <;>
      simp [hstrobe, pulseLeft_of_le ha]

end Sys2Proof.Machine
end

section
/-!
PROOFS. The turn trackers' overrun, stall and triggers (R71, R73, R77, R79): what a run of triggers comes to when none of those before
the last is due, and the obligation put together from that.
-/

namespace Sys2Proof.Machine

/-! ### Registers and runs of triggers -/

/-- Another register reads as before. -/
theorem Blk.reg_setBits_ne (s : Blk) (r q : Reg) (m : Word) (h : q.addr s.conf ≠ r.addr s.conf) :
    (s.setBits r m).reg q = s.reg q := s.reg_putReg_ne r q _ h

/-- Another register reads as before. -/
theorem Blk.reg_count_ne (s : Blk) (r q : Reg) (n : Nat) (h : q.addr s.conf ≠ r.addr s.conf) :
    (s.count r n).reg q = s.reg q := s.reg_putReg_ne r q _ h

/-- The event register of a tracker is not its overrun counter. -/
theorem trnEvt_addr_ne_trnOvrCnt_addr (cf : Conf) (n : Nat) :
    (Reg.trn (.TRN_EVT n)).addr cf ≠ (Reg.trn (.TRN_OVR_CNT n)).addr cf := by
  simp [Reg.addr, Reg.info, TrnReg.info]

/-- A bit that has been set reads as set. -/
theorem bit_or_of_bit (v m : Word) (i : Nat) (h : bit m i = true) : bit (v ||| m) i = true := by
  unfold bit at h ⊢
  rw [BitVec.getLsbD_or, h, Bool.or_true]

section
variable {σ α : Type} (due : σ → α → Bool) (fire : σ → α → σ)

/-- A run over items none of which is due does nothing. -/
theorem foldl_due_of_none (l : List α) (s : σ) (h : ∀ a ∈ l, due s a = false) :
    l.foldl (fun s a => if due s a = true then fire s a else s) s = s := by
  induction l with
  | nil => rfl
  | cons a l ih =>
    rw [List.foldl_cons, if_neg (by simp [h a (by simp)])]
    exact ih (fun b hb => h b (List.mem_cons_of_mem a hb))

/-- A run whose last item alone is due fires that. -/
theorem foldl_due_of_last (l : List α) (a : α) (s : σ) (h : ∀ b ∈ l, due s b = false) (ha : due s a = true) :
    (l ++ [a]).foldl (fun s a => if due s a = true then fire s a else s) s = fire s a := by
  rw [List.foldl_append, foldl_due_of_none due fire l s h, List.foldl_cons, List.foldl_nil, if_pos ha]

end

/-- Time triggers none of which is due leave the units as they are. -/
theorem Blk.ttRun_of_none (s : Blk) (ns : List Nat) (h : ∀ m ∈ ns, s.ttDue m = false) : s.ttRun ns = s :=
  foldl_due_of_none Blk.ttDue (fun s n => s.ttFire n false) ns s h

/-- A due time trigger fires alone when no lower one is due (R79). -/
theorem Blk.ttRun_of_last (s : Blk) (n : Nat) (h : ∀ m, m < n → s.ttDue m = false) (hn : s.ttDue n = true) :
    s.ttRun (List.range (n + 1)) = s.ttFire n false := by
  rw [List.range_succ]
  exact foldl_due_of_last Blk.ttDue (fun s n => s.ttFire n false) _ n s (fun m hm => h m (List.mem_range.1 hm)) hn

/-- The slots that go before slot `n` of tracker `k` in one tclk (R79). -/
def slotsBefore (k n : Nat) : List (Nat × Nat) :=
  (List.range k).flatMap (fun u => (List.range 8).map (fun m => (u, m))) ++ (List.range n).map (fun m => (k, m))

theorem slotsBefore_append (k n : Nat) :
    (List.range k).flatMap (fun u => (List.range 8).map (fun m => (u, m))) ++ (List.range (n + 1)).map (fun m => (k, m)) =
      slotsBefore k n ++ [(k, n)] := by
  rw [List.range_succ (n := n), List.map_append, ← List.append_assoc]
  rfl

/-- They are all slots of lower trackers, and the lower ones of its own. -/
theorem mem_slotsBefore {k n : Nat} {x : Nat × Nat} (h : x ∈ slotsBefore k n) : x.1 < k ∧ x.2 < 8 ∨ x.1 = k ∧ x.2 < n := by
  simp only [slotsBefore, List.mem_append, List.mem_flatMap, List.mem_map, List.mem_range] at h
  obtain ⟨u, hu, m, hm, rfl⟩ | ⟨m, hm, rfl⟩ := h
  · exact .inl ⟨hu, hm⟩
  · exact .inr ⟨rfl, hm⟩

/-- A due slot fires alone when none before it is due (R79). -/
theorem Blk.atRun_of_last (s : Blk) (k n : Nat) (h : ∀ x ∈ slotsBefore k n, s.atDue x.1 x.2 = false) (hn : s.atDue k n = true) :
    s.atRun (slotsBefore k n ++ [(k, n)]) = (s.atFire k n false).slotLatch 1 k n :=
  foldl_due_of_last (fun (s : Blk) (x : Nat × Nat) => s.atDue x.1 x.2)
    (fun s x => (s.atFire x.1 x.2 false).slotLatch 1 x.1 x.2) _ (k, n) s h hn

/-! ### Meanings -/

theorem becomes_turnOverrun {s : State} {n : Nat} {k : Tracker} (hrun : s.blk.inReset = false) (hk : s.blk.tracker n = k)
    (hturn : k.running = true) (hpred : k.pred ≠ 0) (hfirst : k.overrun = false)
    (hpast : k.pred ≤ (s.blk.t64 - k.mstamp).toInt) : Becomes (.turnOverrun n) s
      ((((s.blk.setTracker n { k with overrun := true }).setBits (.trn (.TRN_EVT n)) 1).count (.trn (.TRN_OVR_CNT n)) 1).emitAt
        2 n 0x0203 n k.turn.toNat) := by
  subst hk
  exact .of_lift _ (show execTurnOverrun n s = lift _ s from rfl) hrun 
    (if_neg (by rw [hturn, hfirst]; simpa [hpred] using hpast))

theorem becomes_turnStall {s : State} {n : Nat} {k : Tracker} (hrun : s.blk.inReset = false) (hk : s.blk.tracker n = k)
    (hturn : k.running = true) (hfirst : k.stall = false)
    (hpast : (fld (s.blk.reg (.trn (.TRN_STALL n))) 23 0 * 1000 * tkUs : Nat) ≤ (s.blk.t64 - k.mstamp).toInt) :
    Becomes (.turnStall n) s (((s.blk.setTracker n { k with stall := true }).setBits (.trn (.TRN_EVT n)) 8).emitAt
      2 n 0x0202 n k.turn.toNat) := by
  subst hk
  exact .of_lift _ (show execTurnStall n s = lift _ s from rfl) hrun
    (if_neg (by rw [hturn, hfirst]; simpa using hpast))

theorem becomes_timeTriggerFire {s : State} (n : Nat) (hrun : s.blk.inReset = false) : Becomes (.timeTriggerFire n) s
    (if n < s.blk.conf.timeTriggers ∧ s.blk.ttDue n = true then s.blk.ttRun (List.range (n + 1)) else s.blk) :=
  .of_lift _ (show execTimeTriggerFire n s = lift _ s from rfl) hrun rfl

theorem becomes_angleTriggerFire {s : State} (k n : Nat) (hrun : s.blk.inReset = false) : Becomes (.angleTriggerFire k n) s
    (if n < 8 ∧ s.blk.atDue k n = true then
      (s.blk.ttRun (List.range s.blk.conf.timeTriggers)).atRun (slotsBefore k n ++ [(k, n)]) else s.blk) := by
  rw [← slotsBefore_append]
  exact .of_lift _ (show execAngleTriggerFire k n s = lift _ s from rfl) hrun rfl

/-! ### The obligation -/

/-- What the end of a command leaves of the trackers. -/
@[simp] theorem settle_tracker (s : State) (t : Nat) : (settle s).blk.tracker t = s.blk.tracker t := by simp [Blk.tracker]

/-- Settles O20: overrun, stall, a time trigger, an angle trigger, and what is not due. -/
theorem trackerEvents : Obligations.TrackerEvents := by
  refine ⟨fun s n hrun hturn hpred hfirst hpast => ?overrun, fun s n hrun hturn hfirst hpast => ?stall,
    fun s n hrun hn hdue => ?time, fun s k n hrun hn hen hturn harmed hangle => ?angle, fun s k n hrun => ?notDue⟩
  case overrun =>
    refine (becomes_turnOverrun hrun rfl hturn hpred hfirst hpast).gives ⟨by simp, ?_, ?_⟩
    · rw [settle_reg, Blk.emitAt_reg, Blk.reg_count_ne _ _ _ _ (trnEvt_addr_ne_trnOvrCnt_addr _ n), Blk.setBits_reg]
      exact bit_or_of_bit _ _ _ (by decide)
    · rw [settle_reg, Blk.emitAt_reg, Blk.count_reg, Blk.reg_setBits_ne _ _ _ _ (trnEvt_addr_ne_trnOvrCnt_addr _ n).symm,
        Blk.setTracker_reg]
  case stall =>
    refine (becomes_turnStall hrun rfl hturn hfirst hpast).gives ⟨by simp, ?_⟩
    rw [settle_reg, Blk.emitAt_reg, Blk.setBits_reg]
    exact bit_or_of_bit _ _ _ (by decide)
  case time =>
    have hb := becomes_timeTriggerFire n hrun
    rw [if_pos ⟨hn, hdue⟩] at hb
    exact ⟨hb, fun hlower => s.blk.ttRun_of_last n hlower hdue⟩
  case angle =>
    have hdue : s.blk.atDue k n = true := by simp [Blk.atDue, hen, hturn, harmed, hangle]
    have hb := becomes_angleTriggerFire k n hrun
    rw [if_pos ⟨hn, hdue⟩] at hb
    refine ⟨by rwa [slotsBefore_append], fun htimes hslots => ?_⟩
    rw [s.blk.ttRun_of_none _ (fun m hm => htimes m (List.mem_range.1 hm)), s.blk.atRun_of_last k n (fun x hx => ?_) hdue] at hb
    · exact hb
    · obtain ⟨hlow, hx8⟩ | ⟨hsame, hxn⟩ := mem_slotsBefore hx
      · exact hslots _ _ hx8 (.inl hlow)
      · exact hslots _ _ (by omega) (.inr ⟨hsame, hxn⟩)
  case notDue =>
    refine ⟨fun hnot => ?_, fun hnot => ?_⟩
    · have hb := becomes_timeTriggerFire n hrun
      rwa [if_neg (by rcases hnot with h | h <;> simp [h])] at hb
    · have hb := becomes_angleTriggerFire k n hrun
      rwa [if_neg (by rcases hnot with h | h <;> simp [h])] at hb

end Sys2Proof.Machine
end

section
/-!
PROOFS. The event counters and the sample buffer (R96, R103): what one tclk adds to a counter of a group, said once on the group alone,
and the obligation put together from that.
-/

namespace Sys2Proof.Machine

/-! ### What a tclk adds to the counters of a group -/

/-- A counter at `c` that holds `a` of this tclk's additions, once the tclk adds `n` (R96). -/
def counted (c a n : Nat) : Nat := if n ≤ a then c else (c + (n - a)) % 2 ^ 48

/-- A group whose counter `k` has `n` to add in this tclk. -/
def Group.tick (v : Group) (k n : Nat) : Group :=
  if n ≤ Store.get 0 v.added k then v else
    { v with
      cnt := Store.set 0 v.cnt k ((Store.get 0 v.cnt k + (n - Store.get 0 v.added k)) % 2 ^ 48)
      added := Store.set 0 v.added k n }

theorem Group.tick_cnt_same (v : Group) (k n : Nat) :
    Store.get 0 (v.tick k n).cnt k = counted (Store.get 0 v.cnt k) (Store.get 0 v.added k) n := by
  unfold Group.tick counted
  split <;> simp

theorem Group.tick_cnt_ne (v : Group) (k n j : Nat) (h : j ≠ k) : Store.get 0 (v.tick k n).cnt j = Store.get 0 v.cnt j := by
  unfold Group.tick
  split <;> simp [h]

theorem Group.tick_added_ne (v : Group) (k n j : Nat) (h : j ≠ k) : Store.get 0 (v.tick k n).added j = Store.get 0 v.added j := by
  unfold Group.tick
  split <;> simp [h]

/-- A group to which the tclk adds each of a list of numbers, with the counter that each goes to. -/
def Group.ticks (v : Group) (l : List (Nat × Nat)) : Group := l.foldl (fun v p => v.tick p.1 p.2) v

/-- A counter that is not listed keeps its value. -/
theorem Group.ticks_cnt_of_not_mem (l : List (Nat × Nat)) (v : Group) (j : Nat) (h : j ∉ l.map Prod.fst) :
    Store.get 0 (v.ticks l).cnt j = Store.get 0 v.cnt j := by
  induction l generalizing v with
  | nil => rfl
  | cons p l ih =>
    rw [List.map_cons, List.mem_cons, not_or] at h
    exact (ih (v.tick p.1 p.2) h.2).trans (v.tick_cnt_ne _ _ _ h.1)

/-- A counter that is listed once gets its number. -/
theorem Group.ticks_cnt_of_mem (l : List (Nat × Nat)) (v : Group) (j n : Nat) (hl : (l.map Prod.fst).Nodup) (h : (j, n) ∈ l) :
    Store.get 0 (v.ticks l).cnt j = counted (Store.get 0 v.cnt j) (Store.get 0 v.added j) n := by
  induction l generalizing v with
  | nil => cases h
  | cons p l ih =>
    obtain ⟨hp, hnd⟩ := List.nodup_cons.1 hl
    rcases List.mem_cons.1 h with rfl | h
    · exact (ticks_cnt_of_not_mem l (v.tick j n) j hp).trans (v.tick_cnt_same j n)
    · have hne : j ≠ p.1 := fun e => hp (e ▸ List.mem_map_of_mem h)
      rw [← v.tick_cnt_ne p.1 p.2 j hne, ← v.tick_added_ne p.1 p.2 j hne]
      exact ih (v.tick p.1 p.2) hnd h

/-! ### The same on the units -/

@[simp] theorem Blk.group_setGroup (s : Blk) (g : Nat) (v : Group) : (s.setGroup g v).group g = v := by
  simp [Blk.setGroup, Blk.group]

/-- Groups are part of the probe array. -/
theorem Blk.group_congr {s t : Blk} (h : t.prb.groups = s.prb.groups) (g : Nat) : t.group g = s.group g :=
  congrArg (Store.get Group.fresh · g) h

/-- A wrap reaches the group's registers, not its counters. -/
theorem Blk.addCounter_group (s : Blk) (g k n : Nat) : (s.addCounter g k n).group g =
    { s.group g with cnt := Store.set 0 (s.group g).cnt k ((s.counter g k + n) % 2 ^ 48) } := by
  unfold Blk.addCounter
  dsimp only
  split
  · exact s.group_setGroup g _
  · exact s.group_setGroup g _

/-- The sampler's down-count is no part of a group. -/
theorem Blk.smpCount_group (s : Blk) (g k n h : Nat) : (s.smpCount g k n).group h = s.group h := by
  unfold Blk.smpCount
  dsimp only
  split <;> rfl

theorem Blk.addTick_group (s : Blk) (g k n : Nat) : (s.addTick g k n).group g = (s.group g).tick k n := by
  unfold Blk.addTick Group.tick
  dsimp only
  split
  · rfl
  · rw [Blk.group_setGroup, Blk.smpCount_group, Blk.addCounter_group]
    rfl

/-- What a tclk adds to the nine counters of a group that counts (Table 3-3). -/
def Blk.additions (s : Blk) (g : Nat) : List (Nat × Nat) :=
  (List.range 8).map (fun k => (k, s.addition g k)) ++ [(8, Store.get 0 s.prb.pins (2048 + g))]

/-- Each counter is listed once. -/
theorem Blk.additions_nodup (s : Blk) (g : Nat) : ((s.additions g).map Prod.fst).Nodup := by
  have h : (s.additions g).map Prod.fst = List.range 9 := rfl
  exact h ▸ List.nodup_range

theorem Blk.mem_additions (s : Blk) (g j : Nat) (h : j < 8) : (j, s.addition g j) ∈ s.additions g :=
  List.mem_append_left _ (List.mem_map.2 ⟨j, List.mem_range.2 h, rfl⟩)

theorem Blk.mem_additions_cycles (s : Blk) (g : Nat) : (8, Store.get 0 s.prb.pins (2048 + g)) ∈ s.additions g :=
  List.mem_append_right _ (List.mem_singleton_self _)

/-- An assigned group with EN counts (R96, R98). -/
theorem Blk.groupAdd_group (s : Blk) (g : Nat) (hen : bit (s.reg (.prb (.PRB_Gg_CTRL g))) 31 = true)
    (hown : s.ownerOf (s.gOwner g) ≠ .none) : (s.groupAdd g).group g = (s.group g).ticks (s.additions g) := by
  have hadd : s.groupAdd g = (s.additions g).foldl (fun s p => s.addTick g p.1 p.2) s := by
    simp [Blk.groupAdd, Blk.additions, hen, hown]
  rw [hadd]
  exact (List.foldl_hom (fun t : Blk => t.group g) (fun t p => (t.addTick_group g p.1 p.2).symm)).symm

/-- A group whose EN is 0 adds nothing. -/
theorem Blk.groupAdd_of_off (s : Blk) (g : Nat) (hen : bit (s.reg (.prb (.PRB_Gg_CTRL g))) 31 = false) : s.groupAdd g = s := by
  simp [Blk.groupAdd, hen]

/-- A counter of a group that counts, after the additions of the tclk. -/
theorem Blk.counter_groupAdd (s : Blk) (g j n : Nat) (hen : bit (s.reg (.prb (.PRB_Gg_CTRL g))) 31 = true)
    (hown : s.ownerOf (s.gOwner g) ≠ .none) (h : (j, n) ∈ s.additions g) :
    (s.groupAdd g).counter g j = counted (s.counter g j) (Store.get 0 (s.group g).added j) n := by
  rw [Blk.counter, s.groupAdd_group g hen hown]
  exact Group.ticks_cnt_of_mem _ _ _ _ (s.additions_nodup g) h

/-! ### Meanings -/

/-- The host presents `n` on event input `k` of group `g`, or on its cycle input for k = 32 (R96). -/
def Blk.present (s : Blk) (g k n : Nat) : Blk :=
  s.modPrb (fun m => { m with
    pins := Store.set 0 m.pins (if k = 32 then 2048 + g else 32 * g + k) (if k = 32 then n % 4 else n % 16) })

theorem becomes_counterWrap {s : State} {g k : Nat} (n : Nat) (hrun : s.blk.inReset = false) (hconf : s.blk.conf = .d)
    (hg : g < 64) (hk : k < 33) : Becomes (.counterWrap g k n) s ((s.blk.present g k n).groupAdd g) :=
  .of_lift _ (show execCounterWrap g k n s = lift _ s from rfl) hrun (if_neg (by simp [hconf]; omega))

theorem becomes_sampleDrain {s : State} {c : Nat} {r : Record} {l : List (Nat × Record)} (hrun : s.blk.inReset = false)
    (hbuf : s.blk.prb.smpBuf = (c, r) :: l) : Becomes .sampleDrain s
      (if s.blk.collRuns c = true then (s.blk.modPrb (fun m => { m with smpBuf := l })).collRec c r
        else s.blk.modPrb (fun m => { m with smpBuf := l })) :=
  .of_lift _ (show execSampleDrain s = lift _ s from rfl) hrun (by rw [hbuf]; rfl)

/-! ### The obligation -/

/-- What the end of a command leaves of the counters. -/
@[simp] theorem settle_counter (s : State) (g j : Nat) : (settle s).blk.counter g j = s.blk.counter g j := by
  simp [Blk.counter, Blk.group]

/-- Settles O28: a group that counts, one that does not, and the oldest sample of a collection that runs or does not. -/
theorem eventCounters : Obligations.EventCounters := by
  refine ⟨fun s g k n hrun hconf hg hk => ⟨fun hen hown => ?counts, fun hen => ?off⟩, fun s c r l hrun hbuf => ?drain⟩
  case counts =>
    refine ⟨s.blk.present g k n, rfl, (becomes_counterWrap n hrun hconf hg hk).gives ⟨fun j hj => ?_, ?_⟩⟩
    · rw [settle_counter]
      exact Blk.counter_groupAdd _ g j _ hen hown (Blk.mem_additions _ g j hj)
    · rw [settle_counter]
      exact Blk.counter_groupAdd _ g 8 _ hen hown (Blk.mem_additions_cycles _ g)
  case off =>
    have hb := becomes_counterWrap n hrun hconf hg hk
    rw [Blk.groupAdd_of_off (s.blk.present g k n) g hen] at hb
    exact hb.gives (fun j _ => settle_counter _ g j)
  case drain =>
    have hb := becomes_sampleDrain hrun hbuf
    exact ⟨fun hidle => by rwa [if_neg (by simp [hidle])] at hb, fun hruns => by rwa [if_pos hruns] at hb⟩

end Sys2Proof.Machine
end

section
/-!
PROOFS. The words of the probe port (R89 to R95, R104): what the port does with a word presented to it, the entry that a BEGIN takes,
and the obligation put together from that.
-/

namespace Sys2Proof.Machine

/-! ### A word presented to the port -/

@[simp] theorem Blk.modPrb_reg (s : Blk) (f : ProbeState → ProbeState) (r : Reg) : (s.modPrb f).reg r = s.reg r := rfl

/-- What the port makes of a word of kind `want` on a lane of a probe array that is up, while ready is high (R89, R91). -/
theorem Blk.acceptWord_of_presented (s : Blk) (n want : Nat) (w : BitVec 128) (hconf : s.conf = .d) (hlane : n < s.inst.lanes)
    (hrdy : s.prb.rdyLow = false) (hup : s.unitUp 0 3 = true) (hpos : 1 ≤ want) (hlt : want < 5) (hkind : pwKind w = want) :
    s.acceptWord n w want =
      if s.prbCtl 0 = false ∨ s.boot.ready = false then (false, s.count (.prb .PRB_DISC_CNT) 1) else
      let t := s.modPrb (fun m => { m with fifo := min 2048 (m.fifo + 1) })
      if want ≠ 4 ∧ s.inst.channels ≤ pwChan w then (false, t.count (.prb .PRB_BADWORD_CNT) 1) else
      if want ≠ 4 ∧ bit (s.reg (.prb (.PRB_CH_EN (pwChan w / 32)))) (pwChan w % 32) = false then
        (false, t.count (.prb .PRB_DISC_CNT) 1)
      else (true, t) := by
  have hseen : ¬ (s.conf = .a64 ∨ s.inst.lanes ≤ n ∨ s.prb.rdyLow ∨ !s.unitUp 0 3 ∨ want = 0 ∨ (want < 5 ∧ want ≠ want)) := by
    simp [hconf, hrdy, hup]
    omega
  have hgood : ¬ 5 ≤ want := by omega
  unfold Blk.acceptWord
  dsimp only
  rw [hkind, if_neg hseen]
  exact if_congr (by simp) rfl (if_congr (by simp [hgood]) rfl (if_congr (by simp) rfl rfl))

/-- A command that presents a word has no effect but the port's where the word is not accepted, and else acts on it. -/
def Blk.onWord (s : Blk) (n : Nat) (w : BitVec 128) (want : Nat) (act : Blk → Blk) : Blk :=
  match s.acceptWord n w want with
  | (false, b) => b
  | (true, b) => act b

theorem Blk.onWord_of_refused {s b : Blk} {n want : Nat} {w : BitVec 128} (act : Blk → Blk)
    (h : s.acceptWord n w want = (false, b)) :
    s.onWord n w want act = b := by
  simp [Blk.onWord, h]

theorem Blk.onWord_of_accepted {s b : Blk} {n want : Nat} {w : BitVec 128} (act : Blk → Blk)
    (h : s.acceptWord n w want = (true, b)) :
    s.onWord n w want act = act b := by
  simp [Blk.onWord, h]

/-- An accepted word is given its stamp (R90) and acted on with it by `take`. -/
def Blk.stamped (take : Blk → BitVec 128 → Dword → Blk) (w : BitVec 128) (b : Blk) : Blk :=
  take (b.wordStamp w).2 w (b.wordStamp w).1

theorem Blk.stamped_eq {b c : Blk} {w : BitVec 128} {at_ : Dword} (take : Blk → BitVec 128 → Dword → Blk)
    (h : b.wordStamp w = (at_, c)) : Blk.stamped take w b = take c w at_ := by
  simp [Blk.stamped, h]

/-! ### Meanings -/

/-- A BEGIN without MARK is no marker (R95). -/
theorem becomes_probeBegin {s : State} (n : Nat) (w : BitVec 128) (hrun : s.blk.inReset = false) :
    ∃ act, Becomes (.probeBegin n w) s (s.blk.onWord n w 1 act) ∧ (pw w 107 107 = 0 → act = Blk.stamped Blk.takeBegin w) := by
  refine ⟨_, .of_lift _ (show execProbeBegin n w s = lift _ s from rfl) hrun rfl, fun hmark => ?_⟩
  funext b
  exact congrArg (Blk.takeBegin · w _) (if_pos hmark)

theorem becomes_probeEnd {s : State} (n : Nat) (w : BitVec 128) (hrun : s.blk.inReset = false) :
    Becomes (.probeEnd n w) s (s.blk.onWord n w 2 (Blk.stamped Blk.takeEnd w)) :=
  .of_lift _ (show execProbeEnd n w s = lift _ s from rfl) hrun rfl

theorem becomes_probeLoss {s : State} (n : Nat) (w : BitVec 128) (hrun : s.blk.inReset = false) :
    Becomes (.probeLoss n w) s (s.blk.onWord n w 3 (Blk.stamped Blk.takeLoss w)) :=
  .of_lift _ (show execProbeLoss n w s = lift _ s from rfl) hrun rfl

theorem becomes_probeBytes {s : State} (n : Nat) (w : BitVec 128) (hrun : s.blk.inReset = false) :
    Becomes (.probeBytes n w) s (s.blk.onWord n w 4 (Blk.takeBytes · w)) :=
  .of_lift _ (show execProbeBytes n w s = lift _ s from rfl) hrun rfl

/-! ### The entry of a BEGIN -/

/-- The entry that an accepted BEGIN takes, with the counters of its channel's group (R92, R94). -/
def Blk.beginPair (s : Blk) (w : BitVec 128) (at_ : Dword) : Pair :=
  { stamp := at_, tclk := s.tclk, opc := BitVec.ofNat 16 (pw w 47 32), mark := decide (pw w 107 107 = 1),
    rpl := decide (pw w 106 106 = 1), qaddr := BitVec.ofNat 48 (pw w 95 48), cseq := w32 (pw w 31 0), group := s.chGroup (pwChan w),
    vals := s.counters (s.chGroup (pwChan w)), poi := s.countersPoi (s.chGroup (pwChan w)) }

theorem Blk.takeBegin_of_room (s : Blk) (w : BitVec 128) (at_ : Dword)
    (hnew : Store.look s.prb.pairs (pairKey (pwChan w) (pwTag w)) = none) (hroom : s.prb.pairs.length < 4096) :
    s.takeBegin w at_ =
      s.modPrb (fun m => { m with pairs := Store.put m.pairs (pairKey (pwChan w) (pwTag w)) (s.beginPair w at_) }) := by
  simp only [Blk.takeBegin, hnew]
  exact if_neg (Nat.not_le.2 hroom)

/-! ### The obligation -/

/-- Settles O27: a word not accepted, one accepted, what decides between the two, and the entry of a BEGIN. -/
theorem probeWords : Obligations.ProbeWords := by
  refine ⟨fun s n w b hrun => ?refused, fun s n w b c at_ hrun => ?accepted,
    fun b n want w hconf hlane hrdy hup hpos hlt hkind => ?port, fun b w at_ hnew hroom => ?entry⟩
  case refused =>
    obtain ⟨act, hbegin, -⟩ := becomes_probeBegin n w hrun
    refine ⟨fun h => ?_, fun h => ?_, fun h => ?_, fun h => ?_⟩
    · exact Blk.onWord_of_refused act h ▸ hbegin
    · exact Blk.onWord_of_refused _ h ▸ becomes_probeEnd n w hrun
    · exact Blk.onWord_of_refused _ h ▸ becomes_probeLoss n w hrun
    · exact Blk.onWord_of_refused _ h ▸ becomes_probeBytes n w hrun
  case accepted =>
    obtain ⟨act, hbegin, hact⟩ := becomes_probeBegin n w hrun
    refine ⟨fun h hst hmark => ?_, fun h hst => ?_, fun h hst => ?_, fun h => ?_⟩
    · rwa [hact hmark, Blk.onWord_of_accepted _ h, Blk.stamped_eq _ hst] at hbegin
    · have hb := becomes_probeEnd n w hrun
      rwa [Blk.onWord_of_accepted _ h, Blk.stamped_eq _ hst] at hb
    · have hb := becomes_probeLoss n w hrun
      rwa [Blk.onWord_of_accepted _ h, Blk.stamped_eq _ hst] at hb
    · have hb := becomes_probeBytes n w hrun
      rwa [Blk.onWord_of_accepted _ h] at hb
  case port =>
    rw [b.acceptWord_of_presented n want w hconf hlane hrdy hup hpos hlt hkind]
    refine ⟨fun hoff => if_pos hoff, fun hen hready => ?_⟩
    rw [if_neg (by simp [hen, hready])]
    by_cases hbytes : want = 4
    · simp [hbytes]
    · rcases Nat.lt_or_ge (pwChan w) b.inst.channels with hchan | hchan
      · cases hbit : bit (b.reg (.prb (.PRB_CH_EN (pwChan w / 32)))) (pwChan w % 32) <;>
          simp [hbytes, hchan, Nat.not_le.2 hchan]
      · simp [hbytes, hchan, Nat.not_lt.2 hchan]
  case entry =>
    exact ⟨b.beginPair w at_, rfl, rfl, rfl, rfl, rfl, rfl, b.takeBegin_of_room w at_ hnew hroom⟩

end Sys2Proof.Machine
end

section
/-!
PROOFS. Bandwidth windows, sensor samples and analog values (R104 to R108): what each of their commands comes to, and the obligation
put together from that.
-/

namespace Sys2Proof.Machine

/-! ### Meanings -/

theorem becomes_bwWindowClose {s : State} (hrun : s.blk.inReset = false) (hconf : s.blk.conf = .d) (hen : s.blk.prbCtl 1 = true)
    (hlen : s.blk.bwLen ≠ 0) : Becomes .bwWindowClose s
      (if s.blk.t64.toNat < (s.blk.prb.bwWin + 1) * s.blk.bwLen * tkUs then s.blk else s.blk.bwClose) :=
  .of_lift _ (show execBwWindowClose s = lift _ s from rfl) hrun
    (if_congr (by simp [hconf, hen, hlen]) rfl rfl)

/-- One sample of every input, thermal inputs first, for the multiple `k` of 10 µs (R105). -/
def Blk.sampleAll (s : Blk) (ts vs : List (Nat × BitVec 16)) (k : Nat) : Blk :=
  (List.range 32).foldl (fun b i => b.snsSample 1 i (pinOf vs i) (BitVec.ofNat 64 (160000 * k)))
    ((List.range 64).foldl (fun b i => b.snsSample 0 i (pinOf ts i) (BitVec.ofNat 64 (160000 * k)))
      (s.modPrb (fun m => { m with snsAt := some k })))

theorem becomes_sensorSample {s : State} (ts vs : List (Nat × BitVec 16)) (hrun : s.blk.inReset = false) (hconf : s.blk.conf = .d)
    (hen : s.blk.prbCtl 2 = true) : Becomes (.sensorSample ts vs) s
      (if s.blk.prb.snsAt = some (s.blk.t64.toNat / 160000) then s.blk
        else s.blk.sampleAll ts vs (s.blk.t64.toNat / 160000)) :=
  .of_lift _ (show execSensorSample ts vs s = lift _ s from rfl) hrun
    (if_congr (by simp [hconf, hen]) rfl rfl)

/-- The register of an analog value is not that of its configuration. -/
theorem Blk.anCfg_setReg_anVal (s : Blk) (i : Nat) (v : Word) :
    (s.setReg (.prb (.PRB_AN_VAL i)) v).reg (.prb (.PRB_AN_CFG i)) = s.reg (.prb (.PRB_AN_CFG i)) :=
  s.reg_setReg_ne _ _ v (by simp [Reg.addr, Reg.info, PrbReg.info])

/-- Nor is it PRB_CTRL. -/
theorem Blk.prbCtl_setReg_anVal (s : Blk) (i : Nat) (v : Word) (b : Nat) :
    (s.setReg (.prb (.PRB_AN_VAL i)) v).prbCtl b = s.prbCtl b :=
  congrArg (bit · b) (s.reg_setReg_ne _ _ v (by simp [Reg.addr, Reg.info, PrbReg.info]; omega))

theorem becomes_analogUpdate {s : State} {i : Nat} (v : Word) (hrun : s.blk.inReset = false) (hconf : s.blk.conf = .d)
    (hi : i < 16) (hin : i < s.blk.inst.analogs) : Becomes (.analogUpdate i v) s
      (if bit (s.blk.reg (.prb (.PRB_AN_CFG i))) 31 = false ∨ s.blk.prbCtl 2 = false then s.blk.setReg (.prb (.PRB_AN_VAL i)) v
      else (s.blk.setReg (.prb (.PRB_AN_VAL i)) v).globRec ((s.blk.setReg (.prb (.PRB_AN_VAL i)) v).analogRec i v) true) := by
  refine .of_lift _ (show execAnalogUpdate i v s = lift _ s from rfl) hrun ?_
  have hhas : ¬ (s.blk.conf = .a64 ∨ s.blk.inst.analogs ≤ i ∨ 16 ≤ i) := by simp [hconf]; omega
  refine (if_neg hhas).trans ?_
  exact if_congr (by simp [Blk.anCfg_setReg_anVal, Blk.prbCtl_setReg_anVal]) rfl rfl

/-! ### The obligation -/

/-- Settles O29: a window at its end and before it, a multiple of 10 µs sampled or new, an analog input recorded or not. -/
theorem windowsAndSensors : Obligations.WindowsAndSensors := by
  refine ⟨fun s hrun hconf hen hlen => ?window, fun s ts vs hrun hconf hen => ?sample, fun s i v hrun hconf hi hin => ?analog⟩
  case window =>
    have hb := becomes_bwWindowClose hrun hconf hen hlen
    exact ⟨fun hend => by rwa [if_neg (Nat.not_lt.2 hend)] at hb, fun hbefore => by rwa [if_pos hbefore] at hb⟩
  case sample =>
    have hb := becomes_sensorSample ts vs hrun hconf hen
    exact ⟨fun hdone => by rwa [if_pos hdone] at hb, fun hnew => by rwa [if_neg hnew] at hb⟩
  case analog =>
    have hb := becomes_analogUpdate v hrun hconf hi hin
    refine ⟨fun hoff => ?_, fun hcfg hctl => by rwa [if_neg (by simp [hcfg, hctl])] at hb⟩
    rw [if_pos hoff] at hb
    refine hb.gives ⟨?_, fun r hr => ?_⟩
    · rw [settle_reg, Blk.reg_setReg]
    · rw [settle_reg]
      exact Blk.reg_setReg_ne _ _ _ _ (by rwa [hconf])

end Sys2Proof.Machine
end

section
/-!
PROOFS. The path of records (R122, R128, R132, R134, R137): what its operations come to at their guards, what each of its commands
comes to, and the obligation put together from that.
-/

namespace Sys2Proof.Machine

/-! ### The operations at their guards -/

/-- While RCP_CTRL.EN is 0 nothing leaves the output buffer (R128). -/
theorem Blk.drainOut_of_disabled (s : Blk) (hen : s.rcpEn = false) : s.drainOut = s := if_pos (by simp [hen])

/-- No record stream ends at a span: the frame gives its units back (R126). -/
theorem Blk.recordFrame_of_not_tray (s : Blk) (tk : Taken) (h : s.role ≠ .tray) : s.recordFrame tk.f tk.fc = s.frameDone tk :=
  if_pos h

@[simp] theorem Blk.modRcp_reg (s : Blk) (f : RecState → RecState) (r : Reg) : (s.modRcp f).reg r = s.reg r := rfl

@[simp] theorem Blk.fwStop_rcp (s : Blk) (early : Bool) :
    (s.fwStop early).rcp = { s.rcp with fwClosing := false, fwFrozen := true, fwFrzShort := early } := rfl

/-- The end of a frozen window is where the next entry would have gone (R134). -/
theorem Blk.fwStop_reg_frzEnd (s : Blk) (early : Bool) :
    (s.fwStop early).reg (.rcp .RCP_FW_FRZ_END_LO) = w32 s.rcp.fwNext := by
  rw [Blk.fwStop]
  exact (Blk.modRcp_reg _ _ _).trans (Blk.reg_setReg2_lo _ _ _ _)

/-- What waits for part `p` of the next turn of a collection's history. -/
def Blk.histPart (s : Blk) (c p : Nat) : Option (List (Byte × Bool)) :=
  Store.look (Store.get [] s.rcp.histPend c) (256 * (s.histTurn c).toNat + p)

/-- The bytes of that turn: its parts one behind another. -/
def Blk.histData (s : Blk) (c : Nat) : List (Byte × Bool) := (s.histParts c).flatMap (fun p => (s.histPart c p).getD [])

/-- A turn whose parts are there and that has ended is submitted, once no job of the collection's history is under way (R137). -/
theorem Blk.histSubmit_queue (s : Blk) (c : Nat) (hidle : s.histBusy c = false)
    (hparts : ∀ p ∈ s.histParts c, (s.histPart c p).isSome = true) (hended : sdiff (s.histTurn c) (s.turnOf c) < 0) :
    (s.histSubmit c).ful.queue = s.ful.queue ++ [s.histJob c (s.histTurn c) (s.histData c)] := by
  have hall : (s.histParts c).all (fun p => (s.histPart c p).isSome) = true := List.all_eq_true.2 hparts
  have hdue : ¬ (s.histBusy c = true ∨ (!(s.histParts c).all (fun p => (s.histPart c p).isSome)) = true ∨
      0 ≤ sdiff (s.histTurn c) (s.turnOf c)) := by
    simpa [hidle, hall] using hended
  exact congrArg (fun b : Blk => b.ful.queue) (if_neg hdue)

/-! ### Meanings -/

theorem becomes_frameFlushTimeout {s : State} {m : Nat} (hrun : s.blk.inReset = false) (hopen : (s.blk.stream m).nrec ≠ 0) :
    Becomes (.frameFlushTimeout m) s
      (if s.blk.passed (s.blk.stream m).openAt (s.blk.ns (fld (s.blk.reg (.rcp .RCP_FLUSH)) 15 0)) = true then s.blk.closeRec m
        else s.blk) :=
  .of_lift _ (show execFrameFlushTimeout m s = lift _ s from rfl) hrun (if_congr (by simp [hopen]) rfl rfl)

theorem becomes_recordFrameSend {s : State} (hrun : s.blk.inReset = false) : Becomes .recordFrameSend s s.blk.drainRec :=
  .of_lift _ (show execRecordFrameSend s = lift _ s from rfl) hrun rfl

theorem becomes_recordFrameReceive {s : State} {f : RxFrame} {b : Blk} {tk : Taken} (h : Hears s f ftRecord b tk) :
    Becomes (.recordFrameReceive f) s
      (if b.role = .die then b.frameDone tk
        else if b.rcpEn = false then b.modRcp (fun r => { r with ingress := r.ingress ++ [(tk.f, tk.fc)] })
        else b.recordFrame tk.f tk.fc) := by
  obtain ⟨hrun, htake⟩ := h
  refine .of_lift _ (show execRecordFrameReceive f s = lift _ s from rfl) hrun ?_
  simp only [htake]
  exact if_congr Iff.rfl rfl (if_congr (by simp) rfl rfl)

theorem becomes_fwFreezeEnd {s : State} (hrun : s.blk.inReset = false) (hclosing : s.blk.rcp.fwClosing = true) :
    Becomes .fwFreezeEnd s
      (if 0 ≤ (s.blk.t64 - (s.blk.fwAlm + BitVec.ofNat 64 (4 * tkSec))).toInt then s.blk.fwStop false else s.blk) :=
  .of_lift _ (show execFwFreezeEnd s = lift _ s from rfl) hrun (if_congr (and_iff_right hclosing) rfl rfl)

theorem becomes_historyWrite {s : State} {c : Nat} (hrun : s.blk.inReset = false) (hcoll : s.blk.collRuns c = true)
    (hon : s.blk.histOn c = true) (hful : s.blk.hasFuller = true) : Becomes (.historyWrite c) s (s.blk.histSubmit c) :=
  .of_lift _ (show execHistoryWrite c s = lift _ s from rfl) hrun (if_pos ⟨hcoll, hon, hful⟩)

/-! ### The obligation -/

/-- Settles O30: an open frame by its age, what may leave, a frame by the role and EN, the freeze by its instant, and a turn of the
history that is ready. -/
theorem recordPath : Obligations.RecordPath := by
  refine ⟨fun s m hrun hopen => ?flush, fun s hrun => becomes_recordFrameSend hrun,
    fun b hen => congrArg Blk.gapsOut (b.drainOut_of_disabled hen), fun s f b tk h => ?receive, fun s hrun hclosing => ?freeze,
    fun s c hrun hcoll hon hful hended hidle hparts => ?history⟩
  case flush =>
    have hb := becomes_frameFlushTimeout hrun hopen
    exact ⟨fun hpast => by rwa [if_pos hpast] at hb, fun hbefore => by rwa [if_neg (by simp [hbefore])] at hb⟩
  case receive =>
    have hb := becomes_recordFrameReceive h
    refine ⟨fun hdie => by rwa [if_pos hdie] at hb, fun hspan hen => ?_, fun hdie hen => by rwa [if_neg hdie, if_pos hen] at hb,
      fun htray hen => by rwa [if_neg (by simp [htray]), if_neg (by simp [hen])] at hb⟩
    rwa [if_neg (by simp [hspan]), if_neg (by simp [hen]), b.recordFrame_of_not_tray tk (by simp [hspan])] at hb
  case freeze =>
    have hb := becomes_fwFreezeEnd hrun hclosing
    refine ⟨fun hreached => ?_, fun hbefore => by rwa [if_neg (not_le.2 hbefore)] at hb⟩
    rw [if_pos hreached] at hb
    exact hb.gives ⟨by simp, by rw [settle_reg, Blk.fwStop_reg_frzEnd]⟩
  case history =>
    refine (becomes_historyWrite hrun hcoll hon hful).gives ⟨s.blk.histData c, ?_, rfl⟩
    rw [settle_ful]
    exact s.blk.histSubmit_queue c hidle hparts hended

end Sys2Proof.Machine
end

section
/-!
PROOFS. Firmware cores and naps (R144, R169, R427, R429, R430, Table 14-4): what the updates of a core and of a cluster leave, what a
crash below the limit comes to at a control core, what each command comes to, and the obligation put together from that.
-/

namespace Sys2Proof.Machine

/-! ### Cores and clusters under updates -/

@[simp] theorem Blk.fcore_setCore (s : Blk) (x : Nat) (v : FCore) : (s.setCore x v).fcore x = v := by simp [Blk.setCore, Blk.fcore]
@[simp] theorem Blk.clu_setClu (s : Blk) (k : Nat) (v : Clu) : (s.setClu k v).clu k = v := by simp [Blk.setClu, Blk.clu]

@[simp] theorem Blk.setCore_reg (s : Blk) (x : Nat) (v : FCore) (r : Reg) : (s.setCore x v).reg r = s.reg r := rfl
@[simp] theorem Blk.flushReq_fwc (s : Blk) (c k : Nat) : (s.flushReq c k).fwc = s.fwc := rfl
@[simp] theorem Blk.setClu_reg (s : Blk) (k : Nat) (v : Clu) (r : Reg) : (s.setClu k v).reg r = s.reg r := rfl

/-- What the end of a command leaves of the clusters. -/
@[simp] theorem settle_clu (s : State) (k : Nat) : (settle s).blk.clu k = s.blk.clu k := by simp [Blk.clu]

/-! ### Crashes (R429) -/

/-- A core that is not there, that is off or that is held does not crash. -/
theorem Blk.crash_of_absent (s : Blk) (x n : Nat)
    (h : s.hasCore x = false ∨ (s.fcore x).st = .off ∨ (s.fcore x).st = .held) : s.crash x n = s :=
  if_pos (by simpa using h)

/-- A crash as it is noted first: the core restarts, with its cause, its count, its event and a flush of the recorder. -/
def Blk.crashNoted (s : Blk) (x n : Nat) : Blk :=
  ((((s.setCore x { s.fcore x with st := .restart, crashes := (s.fcore x).crashes ++ [s.tclk] }).setReg
    (.fwc (.FWC_COREx_CAUSE x)) (w32 (n % 16))).count (.fwc (.FWC_COREx_CRASHES x)) 1).emitCore x 0x1101 x (n % 16)).flushReq 1 0x1101

theorem Blk.crashNoted_fcore (s : Blk) (x n : Nat) : (s.crashNoted x n).fcore x =
    { s.fcore x with st := .restart, crashes := (s.fcore x).crashes ++ [s.tclk] } := by
  simp [Blk.crashNoted, Blk.fcore, Blk.setCore]

/-- The registers of a noted crash are those of its cause and count, written one after the other. -/
theorem Blk.crashNoted_reg (s : Blk) (x n : Nat) (r : Reg) : (s.crashNoted x n).reg r =
    ((s.setReg (.fwc (.FWC_COREx_CAUSE x)) (w32 (n % 16))).count (.fwc (.FWC_COREx_CRASHES x)) 1).reg r := rfl

theorem coreCause_addr_ne_coreCrashes_addr (cf : Conf) (x : Nat) :
    (Reg.fwc (.FWC_COREx_CAUSE x)).addr cf ≠ (Reg.fwc (.FWC_COREx_CRASHES x)).addr cf := by
  simp [Reg.addr, Reg.info, FwcReg.info]

theorem Blk.crashNoted_reg_cause (s : Blk) (x n : Nat) :
    (s.crashNoted x n).reg (.fwc (.FWC_COREx_CAUSE x)) = w32 (n % 16) := by
  rw [Blk.crashNoted_reg, Blk.reg_count_ne _ _ _ _ (coreCause_addr_ne_coreCrashes_addr _ x), Blk.reg_setReg]

theorem Blk.crashNoted_reg_crashes (s : Blk) (x n : Nat) :
    (s.crashNoted x n).reg (.fwc (.FWC_COREx_CRASHES x)) = satAdd (s.reg (.fwc (.FWC_COREx_CRASHES x))) 1 := by
  rw [Blk.crashNoted_reg, Blk.count_reg, Blk.reg_setReg_ne _ _ _ _ (coreCause_addr_ne_coreCrashes_addr _ x).symm]

/-- The limit of crashes lies below the registers of the cores. -/
theorem Blk.crashNoted_reg_limit (s : Blk) (x n : Nat) :
    (s.crashNoted x n).reg (.fwc .FWC_CRASH_LIM) = s.reg (.fwc .FWC_CRASH_LIM) := by
  rw [Blk.crashNoted_reg, Blk.reg_count_ne _ _ _ _ (by simp [Reg.addr, Reg.info, FwcReg.info]; omega),
    Blk.reg_setReg_ne _ _ _ _ (by simp [Reg.addr, Reg.info, FwcReg.info]; omega)]

/-- The first crash of a core is the only one that can lie in the window. -/
theorem Blk.crashNoted_crashesIn_le (s : Blk) (x n : Nat) (hfirst : (s.fcore x).crashes = []) :
    (s.crashNoted x n).crashesIn x ≤ 1 := by
  refine (List.length_filter_le _ _).trans ?_
  rw [Blk.crashNoted_fcore]
  simp [hfirst]

/-- The turn deadlines of the running collections on the cluster of control core `x` (R430). -/
def Blk.deadlinesOn (s : Blk) (x : Nat) : List (Nat × Dword) :=
  (s.colls.filter (fun p => decide (p.2.st = .running) && p.2.clusters.contains (x - 0x40))).map (fun p => (p.1, s.turnDeadline p.1))

/-- A running control core that crashes below the limit, and not by its watchdog: the crash is noted and the turn deadlines of its
collections are set (R430). -/
theorem Blk.crash_of_controlCore (s : Blk) (x n : Nat) (hhas : s.hasCore x = true) (hctl : 0x40 ≤ x) (hst : (s.fcore x).st = .run)
    (hn : n ≠ 1) (hbelow : (s.crashNoted x n).crashesIn x < fld ((s.crashNoted x n).reg (.fwc .FWC_CRASH_LIM)) 23 16) :
    s.crash x n = (s.crashNoted x n).setCore x
      { (s.crashNoted x n).fcore x with deadline := (s.crashNoted x n).deadlinesOn x } := by
  have hcrashes : ¬ ((!s.hasCore x) = true ∨ (s.fcore x).st = .off ∨ (s.fcore x).st = .held) := by simp [hhas, hst]
  have hx0 : x ≠ 0 := by omega
  have hx1 : x ≠ 1 := by omega
  have hx2 : x ≠ 2 := by omega
  generalize ht : s.crashNoted x n = t at hbelow ⊢
  have hnotHeld : ¬ fld (t.reg (.fwc .FWC_CRASH_LIM)) 23 16 ≤ t.crashesIn x := Nat.not_le.2 hbelow
  rw [Blk.crashNoted] at ht
  unfold Blk.crash
  dsimp only
  rw [if_neg hcrashes]
  simp only [hn, hx0, hx1, hx2, hctl, decide_false, Bool.false_and, Bool.false_eq_true, if_false, if_true, ht, hnotHeld]
  rfl

/-! ### Naps and wakes (R144) -/

theorem traceOnly_traceNap (s : Blk) (k : Nat) : TraceOnly s (s.traceNap k) := by
  unfold Blk.traceNap
  dsimp only
  refine TraceOnly.trans ?_ (traceOnly_modTbuf _ _ _)
  split
  · exact (traceOnly_tbPrep _ _).trans (traceOnly_tbPut _ _ _)
  · exact .refl s

theorem traceOnly_traceWake (s : Blk) (k : Nat) : TraceOnly s (s.traceWake k) := by
  unfold Blk.traceWake
  dsimp only
  split
  · exact .refl s
  · split
    · exact traceOnly_modTbuf _ _ _
    · refine (((traceOnly_modTbuf _ _ _).trans (traceOnly_tbPut _ _ _)).trans (traceOnly_tbAlign _ _)).trans
        (traceOnly_foldl _ (fun s i => ?_) _ _)
      split
      · exact (traceOnly_tbSend _ _ _ _).trans (traceOnly_modTsrc _ _ _ _)
      · exact .refl s

/-- Trace touches neither the power unit nor a register. -/
theorem TraceOnly.pwr_eq {s t : Blk} (h : TraceOnly s t) : t.pwr = s.pwr := (congrArg Blk.pwr (traceOnly_eq h)).trans rfl
theorem TraceOnly.clu_eq {s t : Blk} (h : TraceOnly s t) (k : Nat) : t.clu k = s.clu k := by simp [Blk.clu, h.pwr_eq]
theorem TraceOnly.reg_eq {s t : Blk} (h : TraceOnly s t) (r : Reg) : t.reg r = s.reg r :=
  Blk.reg_congr ((congrArg Blk.regs (traceOnly_eq h)).trans rfl) ((congrArg Blk.conf (traceOnly_eq h)).trans rfl) r

/-- A nap of cluster `k` begins (R169). -/
def Blk.napBegun (s : Blk) (k : Nat) : Blk :=
  ((s.traceNap k).count (.pwr (.PWR_CLk_NAPS k)) 1).setClu k
    { ((s.traceNap k).count (.pwr (.PWR_CLk_NAPS k)) 1).clu k with nap := true, waking := false }

/-- The oldest wake request `q` is granted, and `l` are those left (R427). -/
def Blk.wakeGranted (s : Blk) (q : Nat) (l : List Nat) : Blk :=
  let t := s.modPwr (fun m => { m with wakeQ := l, grants := s.grantsNow ++ [s.tclk] })
  (t.setClu (q % 64) { t.clu (q % 64) with nap := false, waking := false, idleAt := s.tclk }).count (.pwr .PWR_WAKE_CNT) 1

/-! ### Meanings -/

theorem becomes_coreWatchdog {s : State} (x : Nat) (hrun : s.blk.inReset = false) : Becomes (.coreWatchdog x) s (s.blk.crash x 1) :=
  .of_lift _ (show execCoreWatchdog x s = lift _ s from rfl) hrun rfl

theorem becomes_coreCrash {s : State} (x : Nat) (w : Word) (hrun : s.blk.inReset = false) :
    Becomes (.coreCrash x w) s (s.blk.crash x (fld w 3 0)) :=
  .of_lift _ (show execCoreCrash x w s = lift _ s from rfl) hrun rfl

/-- What was held for a core that is back is carried out (Table 14-4). -/
def Blk.heldDone (s : Blk) (x : Nat) : Blk :=
  if x = 0 then s.secBack else if x = 1 then s.modPwr (fun m => { m with pcLost := false })
  else if x = 2 then s.schedBack else s.ccBack x

theorem becomes_coreRestartDone {s : State} (x : Nat) (hrun : s.blk.inReset = false) : Becomes (.coreRestartDone x) s
    (if (s.blk.fcore x).st ≠ .restart then s.blk
      else ((s.blk.setCore x { s.blk.fcore x with st := .run }).heldDone x).updCheck) :=
  .of_lift _ (show execCoreRestartDone x s = lift _ s from rfl) hrun rfl

theorem becomes_napEntry {s : State} (k : Nat) (hrun : s.blk.inReset = false) :
    Becomes (.napEntry k) s (if s.blk.mayNap k = false then s.blk else s.blk.napBegun k) :=
  .of_lift _ (show execNapEntry k s = lift _ s from rfl) hrun (if_congr (by simp) rfl rfl)

theorem becomes_wakeGrant_of_none {s : State} (hrun : s.blk.inReset = false) (hq : s.blk.pwr.wakeQ = []) :
    Becomes .wakeGrant s s.blk :=
  .of_lift _ (show execWakeGrant s = lift _ s from rfl) hrun (by rw [hq])

theorem becomes_wakeGrant_of_request {s : State} {q : Nat} {l : List Nat} (hrun : s.blk.inReset = false)
    (hq : s.blk.pwr.wakeQ = q :: l) : Becomes .wakeGrant s
      (if fld (s.blk.reg (.pwr .PWR_WAKE)) 23 16 ≤ s.blk.grantsNow.length then s.blk
        else (s.blk.wakeGranted q l).traceWake (q % 64)) :=
  .of_lift _ (show execWakeGrant s = lift _ s from rfl) hrun (by rw [hq]; rfl)

/-! ### The obligation -/

/-- Settles O50: a core that cannot crash and one that does, a control core below the limit, each core that is back, a nap, and the
wake requests. -/
theorem coresAndNaps : Obligations.CoresAndNaps := by
  refine ⟨fun s x w hrun => ⟨fun habsent => ?absent, becomes_coreWatchdog x hrun, becomes_coreCrash x w hrun⟩,
    fun b x n hhas hctl hst hn hfirst hlim => ?control, fun s x b hrun => ?back, fun s k hrun => ?nap,
    fun s hrun hno => ?refused, fun s q l hrun hq hfew => ?granted⟩
  case absent =>
    have hw := becomes_coreWatchdog x hrun
    have hc := becomes_coreCrash x w hrun
    rw [Blk.crash_of_absent _ _ _ habsent] at hw hc
    exact ⟨hw, hc⟩
  case control =>
    have hbelow : (b.crashNoted x n).crashesIn x < fld ((b.crashNoted x n).reg (.fwc .FWC_CRASH_LIM)) 23 16 := by
      rw [b.crashNoted_reg_limit]
      exact (b.crashNoted_crashesIn_le x n hfirst).trans_lt hlim
    rw [b.crash_of_controlCore x n hhas hctl hst hn hbelow, Blk.fcore_setCore, Blk.setCore_reg, Blk.setCore_reg, Blk.crashNoted_fcore]
    exact ⟨rfl, by simp [hfirst], b.crashNoted_reg_cause x n, b.crashNoted_reg_crashes x n⟩
  case back =>
    have hb := becomes_coreRestartDone x hrun
    refine ⟨fun hst => by rwa [if_pos hst] at hb, fun hst hdef => ?_⟩
    rw [if_neg (by simp [hst]), ← hdef] at hb
    refine ⟨?_, ?_, ?_, fun hx => ?_⟩
    · rintro rfl; exact hb
    · rintro rfl; exact hb
    · rintro rfl; exact hb
    · rwa [Blk.heldDone, if_neg (by omega), if_neg (by omega), if_neg (by omega)] at hb
  case nap =>
    have hb := becomes_napEntry k hrun
    refine ⟨fun hmay => by rwa [if_pos hmay] at hb, fun hmay => ?_⟩
    rw [if_neg (by simp [hmay])] at hb
    exact hb.gives ⟨by simp [Blk.napBegun], by simp [Blk.napBegun, (traceOnly_traceNap s.blk k).reg_eq]⟩
  case refused =>
    rcases hq : s.blk.pwr.wakeQ with _ | ⟨q, l⟩
    · exact becomes_wakeGrant_of_none hrun hq
    · have hb := becomes_wakeGrant_of_request hrun hq
      rwa [if_pos (hno.resolve_left (by simp [hq]))] at hb
  case granted =>
    have hb := becomes_wakeGrant_of_request hrun hq
    rw [if_neg (Nat.not_le.2 hfew)] at hb
    have htrace := traceOnly_traceWake (s.blk.wakeGranted q l) (q % 64)
    refine hb.gives ⟨?_, ?_, ?_, ?_⟩
    · rw [settle_clu, htrace.clu_eq]
      exact congrArg Clu.nap (Blk.clu_setClu _ _ _)
    · rw [settle_pwr, htrace.pwr_eq]
      rfl
    · rw [settle_pwr, htrace.pwr_eq]
      rfl
    · rw [settle_reg, htrace.reg_eq]
      exact Blk.count_reg _ _ _

end Sys2Proof.Machine
end

section
/-!
PROOFS. An issued instruction, from its effect to what its command gives (R149, R153, R185): an exception, a next state, a context that
goes on or one that blocks, each said once; and what a release leaves of a context's entry.
-/

namespace Sys2Proof.Machine

/-! ### A context that an instruction changes -/

/-- From `x` to `y` an instruction has moved nothing of the context's standing: its engine, its pc and what it waits for. -/
def Ctx.Stands (x y : Ctx) : Prop := y.blocked = x.blocked ∧ y.pc = x.pc ∧ y.cluster = x.cluster ∧ y.engine = x.engine

theorem Ctx.stands_refl (x : Ctx) : x.Stands x := ⟨rfl, rfl, rfl, rfl⟩

theorem Ctx.stands_setS (x : Ctx) (r : Nat) (v : Dword) (p : Bool) : x.Stands (x.setS r v p) := by
  unfold Ctx.setS
  split <;> exact ⟨rfl, rfl, rfl, rfl⟩

theorem Ctx.stands_store (x : Ctx) (sp : Space) (o : Nat) (bs : List (Byte × Bool)) : x.Stands (x.store sp o bs) := by
  unfold Ctx.store
  split <;> exact ⟨rfl, rfl, rfl, rfl⟩

theorem Ctx.stands_setLanes (x : Ctx) (r : Nat) (m : BitVec 16) (f : Nat → Word × Bool) : x.Stands (x.setLanes r m f) := by
  unfold Ctx.setLanes
  generalize lanesOf m = l
  induction l generalizing x with
  | nil => exact x.stands_refl
  | cons a t ih => exact ih (x.setV r a (f a).1 (f a).2)

/-- The trace buffer of a context is that of its engine. -/
theorem Ctx.Stands.tbOf {x y : Ctx} (h : x.Stands y) (b : Blk) : b.tbOf y = b.tbOf x := by
  obtain ⟨_, _, hcluster, hengine⟩ := h
  rw [Blk.tbOf, Blk.tbOf, hcluster, hengine]

/-! ### From the effect to the command -/

section
variable {s : State} {k : Nat} {x : Ctx} {w : Word} {e : Enc} {i : Instr} {act : Act}

theorem Issues.major (h : Issues s k x w e) : fMaj w = e.maj := by
  obtain ⟨_, _, _, _, _, his, _⟩ := h
  simp only [Enc.is, Bool.and_eq_true, decide_eq_true_eq] at his
  exact his.1

theorem Issues.exec_next (h : Issues s k x w e) (hexec : exec i s = lift (fun b => b.dxStep k [e] act) s) {b : Blk}
    (hact : act s.blk k x w = .next b) : exec i s = .next (settle { s with blk := b }) :=
  hexec.trans (gives_next h act [e] h.find b hact)

theorem Issues.exec_fault (h : Issues s k x w e) (hexec : exec i s = lift (fun b => b.dxStep k [e] act) s) {code sub addr slot : Nat}
    (hact : act s.blk k x w = .fault code sub addr slot) :
    exec i s = .next (settle { s with blk := s.blk.dxFault k x code sub addr slot }) :=
  hexec.trans (gives_fault h act [e] h.find hact)

/-- The instruction is complete, after the trace of an access or none. -/
theorem Issues.gives_traced (h : Issues s k x w e) (hexec : exec i s = lift (fun b => b.dxStep k [e] act) s) {y : Ctx} (hy : x.Stands y)
    {b : Blk} (htrace : TraceOnly s.blk b) (hoff : s.blk.tbOff (s.blk.tbOf x).1 = true → b = s.blk)
    (hact : act s.blk k x w = .next (b.dxDone k y)) : Gives i s (fun t => Retired s t k y (x.pc + 4)) := by
  rw [← hy.tbOf] at hoff
  obtain ⟨hblocked, hpc, -, -⟩ := hy
  rw [Blk.dxDone, hpc] at hact
  rw [Gives, hexec]
  exact gives_retired h act [e] h.find y hblocked (x.pc + 4) false b htrace hoff hact

theorem Issues.gives_done (h : Issues s k x w e) (hexec : exec i s = lift (fun b => b.dxStep k [e] act) s) {y : Ctx} (hy : x.Stands y)
    (hact : act s.blk k x w = .next (s.blk.dxDone k y)) : Gives i s (fun t => Retired s t k y (x.pc + 4)) :=
  h.gives_traced hexec hy (.refl s.blk) (fun _ => rfl) hact

/-- The instruction has accessed memory and is complete. -/
theorem Issues.gives_accessed (h : Issues s k x w e) (hexec : exec i s = lift (fun b => b.dxStep k [e] act) s) {y : Ctx} (hy : x.Stands y)
    {store : Bool} {n a v : Nat} (hact : act s.blk k x w = .next ((s.blk.traceAccess x store n a v).dxDone k y)) :
    Gives i s (fun t => Retired s t k y (x.pc + 4)) :=
  h.gives_traced hexec hy (traceOnly_traceAccess s.blk x store n a v) (traceAccess_off s.blk x store n a v) hact

theorem look_settle_ctxs (t : State) (k : Nat) : Store.look (settle t).blk.ctxs k = Store.look t.blk.ctxs k := by rw [settle_ctxs]

theorem Blk.look_dxBlock (b : Blk) (k : Nat) (x : Ctx) (bl : Blocked) :
    Store.look (b.dxBlock k x bl).ctxs k = some (x.block bl b.tclk) := by simp [Blk.dxBlock]

theorem Issues.gives_blocked (h : Issues s k x w e) (hexec : exec i s = lift (fun b => b.dxStep k [e] act) s) {bl : Blocked}
    (hact : act s.blk k x w = .next (s.blk.dxBlock k x bl)) :
    Gives i s (fun t => Store.look t.blk.ctxs k = some (x.block bl s.blk.tclk)) :=
  ⟨_, h.exec_next hexec hact, (look_settle_ctxs _ k).trans (s.blk.look_dxBlock k x bl)⟩

end

/-! ### The entry of a context that goes on -/

@[simp] theorem Blk.wakeReq_ctxs (b : Blk) (k : Nat) : (b.wakeReq k).ctxs = b.ctxs := by
  unfold Blk.wakeReq
  dsimp only
  split <;> rfl

theorem TraceOnly.ctxs_eq {s t : Blk} (h : TraceOnly s t) : t.ctxs = s.ctxs := (congrArg Blk.ctxs (traceOnly_eq h)).trans rfl

/-- Whether it was blocked or not, a context that retires an instruction goes on. -/
theorem Blk.look_retire {b : Blk} {k : Nat} {y : Ctx} (h : Store.look b.ctxs k = some y) (npc : Nat) (taken : Bool) :
    Store.look (b.retire k npc taken).ctxs k = some (y.goOn npc) := by
  simp [Blk.retire, h]

theorem Blk.look_dxDone (b : Blk) (k : Nat) (y : Ctx) : Store.look (b.dxDone k y).ctxs k = some (y.usedUp.goOn (y.pc + 4)) :=
  Blk.look_retire (by simp) _ _

end Sys2Proof.Machine
end

section
/-!
PROOFS. Scalar and vector loads (R152, R192, R193): the effect by what the address and the read come to, and the obligation put
together from that.
-/

namespace Sys2Proof.Machine

/-! ### Addresses (R188, R193) -/

theorem addrFault_of_aligned {poi : Bool} {a n : Nat} (hpoi : poi = false) (ha : a % n = 0) : addrFault poi a n = none := by
  simp [addrFault, hpoi, ha]

theorem addrFault_of_misaligned {poi : Bool} {a n : Nat} (hpoi : poi = false) (ha : a % n ≠ 0) :
    addrFault poi a n = some (.fault 3 4 a 0) := by simp [addrFault, hpoi, ha]

theorem addrFault_of_poisoned {poi : Bool} (a n : Nat) (hpoi : poi = true) : addrFault poi a n = some (.fault 1 2 a 0) := by
  simp [addrFault, hpoi]

/-! ### Effects -/

section
variable {b : Blk} {k : Nat} {x : Ctx} {w : Word} {f : Nat → Dword} {n : Nat}

theorem actLoad_of_addrFault {r : DxRes} (hn : ldSize (fMaj w) = n) (hf : addrFault (x.sp (fRa w)) (x.ea w) n = some r) :
    actLoad f b k x w = r := by simp only [actLoad, hn, hf]

theorem actLoad_of_denied {sub a : Nat} (hn : ldSize (fMaj w) = n) (hpoi : x.sp (fRa w) = false) (ha : x.ea w % n = 0)
    (hread : b.dxRead k x (x.ea w) n = .fault sub a) : actLoad f b k x w = .fault 2 sub a 0 := by
  simp only [actLoad, hn, addrFault_of_aligned hpoi ha, hread]

theorem actLoad_of_read {bs : List (Byte × Bool)} (hn : ldSize (fMaj w) = n) (hpoi : x.sp (fRa w) = false) (ha : x.ea w % n = 0)
    (hread : b.dxRead k x (x.ea w) n = .ok bs) : actLoad f b k x w =
      .next ((b.traceAccess x false n (x.ea w) (valOf bs).1).dxDone k (x.setS (fRd w) (f (valOf bs).1) (valOf bs).2)) := by
  simp only [actLoad, hn, addrFault_of_aligned hpoi ha, hread]

theorem actVld_of_read {bs : List (Byte × Bool)} (hpoi : x.sp (fRa w) = false) (ha : x.ea w % 4 = 0)
    (hread : b.dxRead k x (x.ea w) 64 = .ok bs) : actVld b k x w =
      .next ((b.traceAccess x false 64 (x.ea w) (valOf bs).1).dxDone k (x.setLanes (fRd w) 0xFFFF (lanesIn bs))) := by
  simp only [actVld, addrFault_of_aligned hpoi ha, hread]

end

/-- The command of a scalar load and its size. -/
theorem exec_loadForm {row : (Nat → Instr) × Nat × Nat × (Nat → Dword)} (hrow : row ∈ loadForms) (k : Nat) (s : State) :
    exec (row.1 k) s = lift (fun b => b.dxStep k [eLd row.2.1] (actLoad row.2.2.2)) s ∧ ldSize row.2.1 = row.2.2.1 := by
  simp only [loadForms, List.mem_cons, List.not_mem_nil, or_false] at hrow
  rcases hrow with rfl | rfl | rfl | rfl | rfl <;> exact ⟨rfl, rfl⟩

/-! ### The obligation -/

/-- Settles O7: a scalar load that reads, one that is denied, the two faults of its address, and a vector load. -/
theorem loadInstructions : Obligations.LoadInstructions := by
  refine ⟨fun row hrow s k x w h => ?scalar, fun s k x w bs h hpoi ha hread => ?vector⟩
  case scalar =>
    obtain ⟨hexec, hsize⟩ := exec_loadForm hrow k s
    have hn : ldSize (fMaj w) = row.2.2.1 := by rw [h.major]; exact hsize
    refine ⟨fun bs hpoi ha hread => ?_, fun sub a hpoi ha hread => ?_, fun hpoi ha => ?_, fun hpoi => ?_⟩
    · exact h.gives_accessed hexec (x.stands_setS _ _ _) (actLoad_of_read hn hpoi ha hread)
    · exact h.exec_fault hexec (actLoad_of_denied hn hpoi ha hread)
    · exact h.exec_fault hexec (actLoad_of_addrFault hn (addrFault_of_misaligned hpoi ha))
    · exact h.exec_fault hexec (actLoad_of_addrFault hn (addrFault_of_poisoned _ _ hpoi))
  case vector =>
    exact h.gives_accessed (show exec (.vld k) s = lift _ s from rfl) (x.stands_setLanes _ _ _) (actVld_of_read hpoi ha hread)

end Sys2Proof.Machine
end

section
/-!
PROOFS. Scalar and vector stores (R153, R192, R193): the effect by what the address and the right come to, and the obligation put
together from that.
-/

namespace Sys2Proof.Machine

/-! ### Effects -/

section
variable {b : Blk} {k : Nat} {x : Ctx} {w : Word} {n : Nat}

theorem actStore_of_addrFault {r : DxRes} (hn : ldSize (fMaj w) = n) (hf : addrFault (x.sp (fRa w)) (x.ea w) n = some r) :
    actStore b k x w = r := by simp only [actStore, hn, hf]

theorem actStore_of_denied {sub : Nat} (hn : ldSize (fMaj w) = n) (hpoi : x.sp (fRa w) = false) (ha : x.ea w % n = 0)
    (hwrite : b.dxWrite k x (x.ea w) n = .error sub) : actStore b k x w = .fault 2 sub (x.ea w) 0 := by
  simp only [actStore, hn, addrFault_of_aligned hpoi ha, hwrite]

theorem actStore_of_write {sp : Space} {o : Nat} (hn : ldSize (fMaj w) = n) (hpoi : x.sp (fRa w) = false) (ha : x.ea w % n = 0)
    (hwrite : b.dxWrite k x (x.ea w) n = .ok (sp, o)) : actStore b k x w =
      .next ((b.traceAccess x true n (x.ea w) ((x.s (fRd w)).toNat % 2 ^ (8 * n))).dxDone k
        (x.store sp o (bytesPoi (leBytes n (x.s (fRd w)).toNat) (x.sp (fRd w))))) := by
  simp only [actStore, hn, addrFault_of_aligned hpoi ha, hwrite]

theorem actVst_of_write {sp : Space} {o : Nat} (hpoi : x.sp (fRa w) = false) (ha : x.ea w % 4 = 0)
    (hwrite : b.dxWrite k x (x.ea w) 64 = .ok (sp, o)) : ∃ v, actVst b k x w = .next ((b.traceAccess x true 64 (x.ea w) v).dxDone k
      (x.store sp o (bytesOf ((List.range 16).map (fun i => (x.v (fRd w) i, x.vp (fRd w) i)))))) := by
  simp only [actVst, addrFault_of_aligned hpoi ha, hwrite]
  exact ⟨_, rfl⟩

end

/-- The command of a scalar store and its size, which is not 0. -/
theorem exec_storeForm {row : (Nat → Instr) × Nat × Nat} (hrow : row ∈ storeForms) (k : Nat) (s : State) :
    exec (row.1 k) s = lift (fun b => b.dxStep k [eLd row.2.1] actStore) s ∧ ldSize row.2.1 = row.2.2 ∧ row.2.2 ≠ 0 := by
  simp only [storeForms, List.mem_cons, List.not_mem_nil, or_false] at hrow
  rcases hrow with rfl | rfl | rfl | rfl <;> exact ⟨rfl, rfl, by decide⟩

/-- A store of at least one byte enters the buffer. -/
theorem Ctx.store_bytesPoi (x : Ctx) (sp : Space) (o v : Nat) (p : Bool) {n : Nat} (hn : n ≠ 0) :
    x.store sp o (bytesPoi (leBytes n v) p) = { x with sbuf := x.sbuf ++ [⟨sp, o, bytesPoi (leBytes n v) p⟩] } := by
  obtain ⟨m, rfl⟩ := Nat.exists_eq_succ_of_ne_zero hn
  rfl

/-! ### The obligation -/

/-- Settles O8: a scalar store that enters the buffer, one that is denied, the two faults of its address, and a vector store. -/
theorem storeInstructions : Obligations.StoreInstructions := by
  refine ⟨fun row hrow s k x w h => ?scalar, fun s k x w sp o h hpoi ha hwrite => ?vector⟩
  case scalar =>
    obtain ⟨hexec, hsize, hpos⟩ := exec_storeForm hrow k s
    have hn : ldSize (fMaj w) = row.2.2 := by rw [h.major]; exact hsize
    refine ⟨fun sp o hpoi ha hwrite => ?_, fun sub hpoi ha hwrite => ?_, fun hpoi ha => ?_, fun hpoi => ?_⟩
    · rw [← x.store_bytesPoi sp o _ _ hpos]
      exact h.gives_accessed hexec (x.stands_store _ _ _) (actStore_of_write hn hpoi ha hwrite)
    · exact h.exec_fault hexec (actStore_of_denied hn hpoi ha hwrite)
    · exact h.exec_fault hexec (actStore_of_addrFault hn (addrFault_of_misaligned hpoi ha))
    · exact h.exec_fault hexec (actStore_of_addrFault hn (addrFault_of_poisoned _ _ hpoi))
  case vector =>
    obtain ⟨v, hact⟩ := actVst_of_write hpoi ha hwrite
    exact h.gives_accessed (show exec (.vst k) s = lift _ s from rfl) (x.stands_store _ _ _) hact

end Sys2Proof.Machine
end

section
/-!
PROOFS. Waits on angle, time and boundary (R164 to R167, R200): the effect of each by whether its condition holds, what a release leaves
of the context, and the obligation put together from that.
-/

namespace Sys2Proof.Machine

/-! ### Effects -/

section
variable {b : Blk} {k : Nat} {x : Ctx} {w : Word}

theorem actWaita_of_some {v : Dword} (hturn : x.sp (fRa w) = false) (hangle : x.sp (fRb w) = false)
    (hv : b.waitaNow x.coll ((x.s (fRa w)).setWidth 32) ((x.s (fRb w)).toNat % 65536) = some v) :
    actWaita b k x w = .next (b.dxDone k (x.setS (fRd w) v false)) := by simp [actWaita, hturn, hangle, hv]

theorem actWaita_of_none (hturn : x.sp (fRa w) = false) (hangle : x.sp (fRb w) = false)
    (hv : b.waitaNow x.coll ((x.s (fRa w)).setWidth 32) ((x.s (fRb w)).toNat % 65536) = none) :
    actWaita b k x w = .next (b.dxBlock k x (.waita ((x.s (fRa w)).setWidth 32) ((x.s (fRb w)).toNat % 65536) (fRd w))) := by
  simp [actWaita, hturn, hangle, hv]

theorem actWaitt_of_le (hpoi : x.sp (fRa w) = false) (hle : (x.s (fRa w)).toNat ≤ b.t64.toNat) :
    actWaitt b k x w = .next (b.dxDone k (x.setS (fRd w) (if x.s (fRa w) = b.t64 then 0 else 1) false)) := by
  simp [actWaitt, hpoi, hle]

theorem actWaitt_of_lt (hpoi : x.sp (fRa w) = false) (hlt : b.t64.toNat < (x.s (fRa w)).toNat) :
    actWaitt b k x w = .next (b.dxBlock k x (.waitt (x.s (fRa w)) (fRd w))) := by
  simp [actWaitt, hpoi, Nat.not_le.2 hlt]

theorem actWaitb_of_passed (hpoi : x.sp (fRa w) = false) (hpassed : (b.tracker (b.trkOf x)).running = true ∧
      turnLater (b.tracker (b.trkOf x)).turn ((x.s (fRa w)).setWidth 32) = true) :
    actWaitb b k x w = .next (b.dxDone k (x.setS (fRd w) (waitWord (b.tracker (b.trkOf x)).turn 0 false true) false)) := by
  simp [actWaitb, hpoi, hpassed]

theorem actWaitb_of_not_passed (hpoi : x.sp (fRa w) = false) (hpassed : ¬ ((b.tracker (b.trkOf x)).running = true ∧
      turnLater (b.tracker (b.trkOf x)).turn ((x.s (fRa w)).setWidth 32) = true)) :
    actWaitb b k x w = .next (b.dxBlock k x (.waitb ((x.s (fRa w)).setWidth 32) (fRd w))) := by
  simp only [actWaitb, hpoi, hpassed, Bool.false_eq_true, if_false]

end

/-! ### Releases -/

/-- A context released with `v` goes on at its next word, and what it was is kept for a fault of this tclk. -/
theorem Blk.look_release {b : Blk} {k : Nat} {x : Ctx} (hlook : Store.look b.ctxs k = some x) (rd : Nat) (v : Dword) :
    Store.look (b.release k rd v).ctxs k = some ({ x.setS rd v false with rel := some (x.released rd b.tclk) }.goOn (x.pc + 4)) := by
  simp only [Blk.release, hlook, Blk.wakeReq_ctxs]
  exact Blk.look_retire (by simp) _ _

theorem becomes_waitaRelease {s : State} {k : Nat} {x : Ctx} {n : Word} {a rd : Nat} {v : Dword} (hrun : s.blk.inReset = false)
    (hlook : Store.look s.blk.ctxs k = some x) (hblocked : x.blocked = .waita n a rd) (hlive : s.blk.collLive x.coll = true)
    (hv : s.blk.waitaNow x.coll n a = some v) : Becomes (.waitaRelease k) s (s.blk.release k rd v) :=
  .of_lift _ (show execWaitaRelease k s = lift _ s from rfl) hrun (by simp [hlook, hblocked, hlive, hv])

theorem becomes_waittRelease {s : State} {k : Nat} {x : Ctx} {at_ : Dword} {rd : Nat} (hrun : s.blk.inReset = false)
    (hlook : Store.look s.blk.ctxs k = some x) (hblocked : x.blocked = .waitt at_ rd) (hlive : s.blk.collLive x.coll = true)
    (hle : at_.toNat ≤ s.blk.t64.toNat) : Becomes (.waittRelease k) s (s.blk.release k rd 0) :=
  .of_lift _ (show execWaittRelease k s = lift _ s from rfl) hrun (by simp [hlook, hblocked, hlive, hle])

/-! ### The obligation -/

/-- Settles O12: WAITA, WAITT and WAITB by whether the condition holds, and the two releases. -/
theorem waitInstructions : Obligations.WaitInstructions := by
  refine ⟨fun s k x w h hturn hangle => ?angle, fun s k x w h hpoi => ?time, fun s k x w h hpoi => ?boundary,
    fun s k x n a rd v hrun hlook hblocked hlive hv => ?releaseAngle, fun s k x at_ rd hrun hlook hblocked hlive hle => ?releaseTime⟩
  case angle =>
    have hexec : exec (.waita k) s = lift (fun b => b.dxStep k [eWaita] actWaita) s := rfl
    exact ⟨fun v hv => h.gives_done hexec (x.stands_setS _ _ _) (actWaita_of_some hturn hangle hv),
      fun hv => h.gives_blocked hexec (actWaita_of_none hturn hangle hv)⟩
  case time =>
    have hexec : exec (.waitt k) s = lift (fun b => b.dxStep k [eWait1 1] actWaitt) s := rfl
    exact ⟨fun hle => h.gives_done hexec (x.stands_setS _ _ _) (actWaitt_of_le hpoi hle),
      fun hlt => h.gives_blocked hexec (actWaitt_of_lt hpoi hlt)⟩
  case boundary =>
    have hexec : exec (.waitb k) s = lift (fun b => b.dxStep k [eWait1 2] actWaitb) s := rfl
    exact ⟨fun hrunning hlater => h.gives_done hexec (x.stands_setS _ _ _) (actWaitb_of_passed hpoi ⟨hrunning, hlater⟩),
      fun hpassed => h.gives_blocked hexec (actWaitb_of_not_passed hpoi hpassed)⟩
  case releaseAngle =>
    exact (becomes_waitaRelease hrun hlook hblocked hlive hv).gives ((look_settle_ctxs _ k).trans (Blk.look_release hlook rd v))
  case releaseTime =>
    exact (becomes_waittRelease hrun hlook hblocked hlive hle).gives ((look_settle_ctxs _ k).trans (Blk.look_release hlook rd 0))

end Sys2Proof.Machine
end

section
/-!
PROOFS. Streams (R160 to R162, R198, R199): the effect of RECV by the queue and the deadline, that of SEND by the credit, what each later
command comes to, and the obligation put together from that.
-/

namespace Sys2Proof.Machine

/-! ### RECV -/

/-- The operands of a RECV pass its checks, and its slot is the input slot `sl` (R198). -/
def RecvReady (x : Ctx) (w : Word) (sl : Slot) : Prop :=
  x.sp (fRa w) = false ∧ x.sp (fRb w) = false ∧ (x.s (fRa w)).toNat % 4 = 0 ∧ Store.look x.slots (fRc w) = some sl ∧ sl.out = false

/-- What the RECV of context `k`, which reached queue `q` in tclk `at_`, takes now: nothing where another RECV was there before (R162). -/
def Blk.recvTaken (b : Blk) (k at_ : Nat) (x : Ctx) (w : Word) (q : Nat) : Option DxRes :=
  if b.recvBefore k at_ q then none else b.recvGo k x w q

section
variable {b : Blk} {k : Nat} {x : Ctx} {w : Word}

theorem Blk.recvTaken_of_first {at_ q : Nat} (hfirst : b.recvBefore k at_ q = false) :
    b.recvTaken k at_ x w q = b.recvGo k x w q := if_neg (by simp [hfirst])

theorem Blk.recvTaken_eq_none {at_ q : Nat} (h : b.recvBefore k at_ q = true ∨ b.recvGo k x w q = none) :
    b.recvTaken k at_ x w q = none := by
  rcases h with hbefore | hempty
  · exact if_pos hbefore
  · rw [Blk.recvTaken, hempty, ite_self]

theorem actRecv_of_taken {sl : Slot} {r : DxRes} (h : RecvReady x w sl) (htaken : b.recvTaken k b.tclk x w sl.q = some r) :
    actRecv b k x w = r := by
  obtain ⟨haddr, hlimit, halign, hslot, hin⟩ := h
  rw [Blk.recvTaken] at htaken
  simp [actRecv, haddr, hlimit, halign, hslot, hin, htaken]

/-- Without a token a RECV with deadline 0 waits for ever (log 25). -/
theorem actRecv_of_no_limit {sl : Slot} (h : RecvReady x w sl) (htaken : b.recvTaken k b.tclk x w sl.q = none) (hzero : x.s (fRb w) = 0) :
    actRecv b k x w = .next (b.dxBlock k x (.recv (fRc w) none)) := by
  obtain ⟨haddr, hlimit, halign, hslot, hin⟩ := h
  have hnever : recvLimit x w = none := if_pos hzero
  rw [Blk.recvTaken] at htaken
  simp [actRecv, haddr, hlimit, halign, hslot, hin, htaken, hnever]

/-- Without a token a RECV with a deadline waits for it, or gives an empty header where it has passed. -/
theorem actRecv_of_limit {sl : Slot} (h : RecvReady x w sl) (htaken : b.recvTaken k b.tclk x w sl.q = none) (hne : x.s (fRb w) ≠ 0) :
    actRecv b k x w = .next (if (x.s (fRb w)).toNat ≤ b.t64.toNat then b.recvNone k x w
      else b.dxBlock k x (.recv (fRc w) (some (x.s (fRb w))))) := by
  obtain ⟨haddr, hlimit, halign, hslot, hin⟩ := h
  have hsome : recvLimit x w = some (x.s (fRb w)) := if_neg hne
  rw [Blk.recvTaken] at htaken
  simp [actRecv, haddr, hlimit, halign, hslot, hin, htaken, hsome]

end

theorem becomes_recvTake {s : State} {k q : Nat} {x : Ctx} {b : Blk} (hrun : s.blk.inReset = false)
    (hlook : Store.look s.blk.ctxs k = some x) (hq : x.recvQueue = some q) (hlive : s.blk.engLive x = true)
    (hfirst : s.blk.recvBefore k x.blockAt q = false) (hgo : s.blk.recvGo k x x.word q = some (.next b)) :
    Becomes (.recvTake k) s (b.wakeReq x.cluster) :=
  .of_lift _ (show execRecvTake k s = lift _ s from rfl) hrun (by simp [hlook, hq, hlive, hfirst, hgo, Blk.dxResume])

theorem becomes_recvDeadline {s : State} {k i q : Nat} {d : Dword} {x : Ctx} (hrun : s.blk.inReset = false)
    (hlook : Store.look s.blk.ctxs k = some x) (hblocked : x.blocked = .recv i (some d)) (hq : x.recvQueue = some q)
    (hlive : s.blk.engLive x = true) (hpassed : d.toNat ≤ s.blk.t64.toNat) (htaken : s.blk.recvTaken k x.blockAt x x.word q = none) :
    Becomes (.recvDeadline k) s ((s.blk.recvNone k x x.word).wakeReq x.cluster) := by
  rw [Blk.recvTaken] at htaken
  exact .of_lift _ (show execRecvDeadline k s = lift _ s from rfl) hrun
    (by simp [hlook, hblocked, hq, hlive, Nat.not_lt.2 hpassed, htaken, Blk.dxResume])

/-! ### SEND -/

/-- The operands of a SEND pass its checks, its slot is the output slot `sl`, and its header may be sent (R199). -/
def SendReady (x : Ctx) (w : Word) (sl : Slot) : Prop :=
  x.sp (fRd w) = false ∧ x.sp (fRa w) = false ∧ (x.s (fRa w)).toNat % 4 = 0 ∧
  (hLen (x.s (fRd w)) = 0 ∨ (x.s (fRa w)).toNat + 4 * hLen (x.s (fRd w)) ≤ x.dsLen) ∧
  Store.look x.slots (fRc w) = some sl ∧ sl.out = true ∧
  0x10 ≤ hKind (x.s (fRd w)) ∧ hKind (x.s (fRd w)) ≤ 0x7F ∧ hLen (x.s (fRd w)) ≤ 64

theorem actSend_of_ready {b : Blk} {k : Nat} {x : Ctx} {w : Word} {sl : Slot} (h : SendReady x w sl) : actSend b k x w =
    .next (if b.slotReady x (fRc w) sl.q = true then b.sendGo k x w sl.q else b.dxBlock k x (.send (fRc w) b.tclk)) := by
  obtain ⟨hheader, haddr, halign, hrange, hslot, hout, hlow, hhigh, hlen⟩ := h
  have hin : ¬ (0 < hLen (x.s (fRd w)) ∧ x.dsLen < (x.s (fRa w)).toNat + 4 * hLen (x.s (fRd w))) := by omega
  have hmay : ¬ (hKind (x.s (fRd w)) < 0x10 ∨ 0x7F < hKind (x.s (fRd w)) ∨ 64 < hLen (x.s (fRd w))) := by omega
  simp only [actSend, hheader, haddr, halign, hin, hslot, hout, hmay, Bool.false_eq_true, Bool.not_true, ne_eq, not_true_eq_false, if_false,
    apply_ite DxRes.next]

theorem becomes_sendEnqueue {s : State} {k i since : Nat} {x : Ctx} {sl : Slot} (hrun : s.blk.inReset = false)
    (hlook : Store.look s.blk.ctxs k = some x) (hblocked : x.blocked = .send i since) (hslot : Store.look x.slots i = some sl)
    (hup : s.blk.engUp x = true) (hready : s.blk.slotReady x i sl.q = true) :
    Becomes (.sendEnqueue k) s (s.blk.sendGo k x x.word sl.q) :=
  .of_lift _ (show execSendEnqueue k s = lift _ s from rfl) hrun (by simp [hlook, hblocked, hslot, hup, hready])

/-! ### The obligation -/

/-- Settles O13: RECV with a token, without one by its deadline, the two ways in which a blocked RECV ends, and SEND with a credit,
without one, and with one that has come. -/
theorem streamInstructions : Obligations.StreamInstructions := by
  refine ⟨fun s k x w sl h haddr hlimit halign hslot hin => ?recv, fun s k q x b hrun hlook hq hlive hfirst hgo => ?take,
    fun s k i q d x hrun hlook hblocked hq hlive hpassed hnone => ?deadline,
    fun s k x w sl h hheader haddr halign hrange hslot hout hlow hhigh hlen => ?send,
    fun s k i since x sl hrun hlook hblocked hslot hup hready => ?enqueue⟩
  case recv =>
    have hexec : exec (.recv k) s = lift (fun b => b.dxStep k [eRecv] actRecv) s := rfl
    have hr : RecvReady x w sl := ⟨haddr, hlimit, halign, hslot, hin⟩
    refine ⟨fun b hfirst hgo => ?_, fun hnone hzero => ?_, fun hnone hne hlt => ?_, fun hnone hne hle => ?_⟩
    · exact h.exec_next hexec (actRecv_of_taken hr ((Blk.recvTaken_of_first hfirst).trans hgo))
    · exact h.gives_blocked hexec (actRecv_of_no_limit hr (Blk.recvTaken_eq_none hnone) hzero)
    · have hact := actRecv_of_limit hr (Blk.recvTaken_eq_none hnone) hne
      rw [if_neg (Nat.not_le.2 hlt)] at hact
      exact h.gives_blocked hexec hact
    · have hact := actRecv_of_limit hr (Blk.recvTaken_eq_none hnone) hne
      rw [if_pos hle] at hact
      exact h.gives_done hexec (x.stands_setS _ _ _) hact
  case take => exact becomes_recvTake hrun hlook hq hlive hfirst hgo
  case deadline =>
    refine (becomes_recvDeadline hrun hlook hblocked hq hlive hpassed (Blk.recvTaken_eq_none hnone)).gives ?_
    rw [look_settle_ctxs, Blk.wakeReq_ctxs, Blk.recvNone, Blk.look_dxDone, Ctx.setS_pc]
  case send =>
    have hexec : exec (.send k) s = lift (fun b => b.dxStep k [eSend] actSend) s := rfl
    have hact := actSend_of_ready (b := s.blk) (k := k) ⟨hheader, haddr, halign, hrange, hslot, hout, hlow, hhigh, hlen⟩
    refine ⟨fun hready => ?_, fun hready => ?_⟩
    · rw [if_pos hready] at hact
      exact h.exec_next hexec hact
    · rw [if_neg (by simp [hready])] at hact
      exact h.gives_blocked hexec hact
  case enqueue => exact becomes_sendEnqueue hrun hlook hblocked hslot hup hready

end Sys2Proof.Machine
end

section
/-!
PROOFS. Launches (R171, R172, R206 to R210): the effect of one whose operands, descriptor and completion slot pass, what a credit that
comes later brings, and the obligation put together from that.
-/

namespace Sys2Proof.Machine

/-- The mask register of a launch: rc of SKINS, else p0 (R208). -/
def JobOp.maskReg (op : JobOp) (w : Word) : Nat := if op = .skins then fRc w else 0

/-- The operands of a launch pass its checks, its descriptor is read as `bs` with no poisoned control word, and its job `j` names an
output slot or none (R188, R206). -/
def LaunchOk (b : Blk) (op : JobOp) (k : Nat) (x : Ctx) (w : Word) (bs : List (Byte × Bool)) (j : Job) : Prop :=
  x.pp (op.maskReg w) = false ∧ x.sp (fRa w) = false ∧ x.sp (fRb w) = false ∧ (x.s (fRa w)).toNat % 8 = 0 ∧
  b.dxRead k x (x.s (fRa w)).toNat 32 = .ok bs ∧ b.jobOf op k x w (wordsOf bs) (x.p (op.maskReg w)) = j ∧
  (List.range 8).any (fun i => !dataWord op i && ((wordsOf bs).getD i (0, false)).2) = false ∧
  (∀ i, j.slot = some i → ∃ sl, Store.look x.slots i = some sl ∧ sl.out = true)

theorem actLaunch_of_ok {b : Blk} {op : JobOp} {k : Nat} {x : Ctx} {w : Word} {bs : List (Byte × Bool)} {j : Job}
    (h : LaunchOk b op k x w bs j) : actLaunch op b k x w =
      .next (if b.launchReady x j = true then b.launchGo k x j else b.dxBlock k x (.launch j b.tclk)) := by
  obtain ⟨hmask, haddr, hctl, halign, hread, hj, hwords, hslot⟩ := h
  rw [JobOp.maskReg] at hmask hj
  simp only [actLaunch, withMask, hmask, haddr, hctl, halign, hread, hj, hwords, Bool.false_eq_true, ne_eq, not_true_eq_false, if_false]
  rcases hs : j.slot with _ | i
  · rfl
  · obtain ⟨sl, hlook, hout⟩ := hslot i hs
    simp only [hlook, hout, if_true]

/-- The command of a launch. -/
theorem exec_launchForm {row : (Nat → Instr) × Enc × JobOp} (hrow : row ∈ launchForms) (k : Nat) (s : State) :
    exec (row.1 k) s = lift (fun b => b.dxStep k [row.2.1] (actLaunch row.2.2)) s := by
  simp only [launchForms, List.mem_cons, List.not_mem_nil, or_false] at hrow
  rcases hrow with rfl | rfl | rfl | rfl | rfl | rfl | rfl <;> rfl

theorem becomes_launchCredit {s : State} {k since : Nat} {x : Ctx} {j : Job} (hrun : s.blk.inReset = false)
    (hlook : Store.look s.blk.ctxs k = some x) (hblocked : x.blocked = .launch j since) (hup : s.blk.engUp x = true)
    (hready : s.blk.launchReady x j = true) : Becomes (.launchCredit k) s (s.blk.launchGo k x j) :=
  .of_lift _ (show execLaunchCredit k s = lift _ s from rfl) hrun (by simp [hlook, hblocked, hup, hready])

/-- Settles O14: a launch with both credits, one that blocks, and one whose credits have come. -/
theorem launchInstructions : Obligations.LaunchInstructions := by
  refine ⟨fun row hrow s k x w bs j h hmask haddr hctl halign hread hj hwords hslot => ?launch,
    fun s k since x j hrun hlook hblocked hup hready => ?credit⟩
  case launch =>
    have hexec := exec_launchForm hrow k s
    have hok : LaunchOk s.blk row.2.2 k x w bs j := ⟨hmask, haddr, hctl, halign, hread, hj.symm, hwords, hslot⟩
    have hact := actLaunch_of_ok hok
    refine ⟨fun hready => ?_, fun hready => ?_⟩
    · rw [if_pos hready] at hact
      exact h.exec_next hexec hact
    · rw [if_neg (by simp [hready])] at hact
      exact h.gives_blocked hexec hact
  case credit => exact becomes_launchCredit hrun hlook hblocked hup hready

end Sys2Proof.Machine
end

section
/-!
PROOFS. What observers see of stores, FENCE and the credit timeout (R153, R175, R215): what sending stores out and taking them leaves of
every observer's memories, the effect of a fence, what its end and a timeout come to, and the obligation put together from that.
-/

namespace Sys2Proof.Machine

/-! ### Stores sent out -/

theorem SameMemory.refl (b : Blk) : SameMemory b b := ⟨rfl, rfl, rfl, rfl, rfl, rfl⟩

theorem SameMemory.trans {a b c : Blk} (h : SameMemory a b) (k : SameMemory b c) : SameMemory a c := by
  obtain ⟨h1, h2, h3, h4, h5, h6⟩ := h
  obtain ⟨k1, k2, k3, k4, k5, k6⟩ := k
  exact ⟨h1.trans k1, h2.trans k2, h3.trans k3, h4.trans k4, h5.trans k5, h6.trans k6⟩

/-- What a SEND or a launch of context `k` sends out leaves the pool, CSM and XM as they are; the stores sent are seen by `k` alone. -/
theorem Blk.drainStores_same (b : Blk) (k : Nat) : SameMemory (b.drainStores k) b ∧
    ∃ l : List SeenStore, (b.drainStores k).mem.seen = b.mem.seen ++ l ∧ ∀ e ∈ l, e.seen = [k] := by
  rcases hlook : Store.look b.ctxs k with _ | x
  · rw [Blk.drainStores, hlook]
    exact ⟨.refl b, [], by simp, by simp⟩
  · have hown := dsPuts_same k (x.sbuf.filter (fun s => s.sp == .ds k)) (fun s hs => by simpa using (List.mem_filter.1 hs).2) b
    rw [Blk.drainStores, hlook]
    dsimp only
    generalize (x.sbuf.filter (fun s => s.sp == .ds k)).foldl (fun (s : Blk) b => s.spPut b.sp b.addr b.data) b = c at hown ⊢
    obtain ⟨hmem, hseen⟩ := hown
    rw [← hseen]
    generalize hl : (x.sbuf.filter (fun b => b.sp != .ds k)).map
      (fun b => (⟨k, x.coll, c.mem.sends, b.sp, b.addr, b.data, [k]⟩ : SeenStore)) = l
    obtain ⟨hreq, hreqSeen⟩ := xmReqs_same k x.coll true x.xmLines
      (c.modMem (fun m => { m with seen := m.seen ++ l, sends := m.sends + 1 }))
    refine ⟨SameMemory.trans hreq hmem, l, hreqSeen, fun e he => ?_⟩
    rw [← hl] at he
    obtain ⟨s, -, rfl⟩ := List.mem_map.1 he
    rfl

/-- Another observer sees nothing of what a context sends out. -/
theorem Blk.seenBy_drainStores (b : Blk) {k o : Nat} (ho : o ≠ k) : SameMemory ((b.drainStores k).seenBy o) (b.seenBy o) := by
  obtain ⟨hmem, l, hseen, hl⟩ := b.drainStores_same k
  exact Blk.seenBy_same hmem o l (fun e he => by simp [hl e he, ho]) hseen

/-! ### Stores taken -/

/-- A store that observer `o` sees once it has taken what context `k` sent it with a number below `n` (R153). -/
def SeenStore.takenBy (o k n : Nat) (e : SeenStore) : SeenStore :=
  if e.ctx = k ∧ e.n < n ∧ !e.seen.contains o then { e with seen := o :: e.seen } else e

theorem SeenStore.takenBy_eq (o k n : Nat) (e : SeenStore) : e.takenBy o k n = { e with seen := (e.takenBy o k n).seen } := by
  unfold SeenStore.takenBy
  split <;> rfl

theorem SeenStore.mem_seen_takenBy {o k n : Nat} {e : SeenStore} (hctx : e.ctx = k) (hn : e.n < n) : o ∈ (e.takenBy o k n).seen := by
  by_cases ho : o ∈ e.seen <;> simp [SeenStore.takenBy, hctx, hn, ho]

/-- A third observer sees a store exactly where it saw it before. -/
theorem SeenStore.contains_seen_takenBy {o p : Nat} (hp : p ≠ o) (k n : Nat) (e : SeenStore) :
    (e.takenBy o k n).seen.contains p = e.seen.contains p := by
  unfold SeenStore.takenBy
  split <;> simp [hp]

theorem Blk.seeStores_seen (b : Blk) (o k n : Nat) : (b.seeStores o k n).mem.seen = b.mem.seen.map (SeenStore.takenBy o k n) := rfl

/-- One store performed for observer `p` where it sees it. -/
def Blk.putSeen (p : Nat) (b : Blk) (e : SeenStore) : Blk := if e.seen.contains p then b.spPut e.sp e.addr e.data else b

theorem Blk.putSeen_takenBy {o p : Nat} (hp : p ≠ o) (k n : Nat) (b : Blk) (e : SeenStore) :
    b.putSeen p (e.takenBy o k n) = b.putSeen p e := by
  rw [Blk.putSeen, SeenStore.contains_seen_takenBy hp, SeenStore.takenBy_eq]
  rfl

/-- The list of the stores that only some see has no part in performing one. -/
theorem Blk.spPut_setSeen (b : Blk) (l : List SeenStore) (sp : Space) (o : Nat) (bs : List (Byte × Bool)) :
    (b.modMem (fun m => { m with seen := l })).spPut sp o bs = (b.spPut sp o bs).modMem (fun m => { m with seen := l }) := by
  cases sp <;> rfl

theorem Blk.putSeen_setSeen (p : Nat) (b : Blk) (l : List SeenStore) (e : SeenStore) :
    (b.modMem (fun m => { m with seen := l })).putSeen p e = (b.putSeen p e).modMem (fun m => { m with seen := l }) := by
  unfold Blk.putSeen
  split
  · exact b.spPut_setSeen l _ _ _
  · rfl

theorem Blk.putSeen_foldl_setSeen (p : Nat) (l t : List SeenStore) (b : Blk) :
    t.foldl (Blk.putSeen p) (b.modMem (fun m => { m with seen := l })) =
      (t.foldl (Blk.putSeen p) b).modMem (fun m => { m with seen := l }) := by
  induction t generalizing b with
  | nil => rfl
  | cons e t ih => rw [List.foldl_cons, Blk.putSeen_setSeen, ih, List.foldl_cons]

/-- What observer `o` takes changes nothing that another observer sees. -/
theorem Blk.seenBy_seeStores (b : Blk) {o p : Nat} (hp : p ≠ o) (k n : Nat) : ((b.seeStores o k n).seenBy p).mem =
    { (b.seenBy p).mem with seen := (b.seeStores o k n).mem.seen } := by
  change ((b.seeStores o k n).mem.seen.foldl (Blk.putSeen p) (b.seeStores o k n)).mem =
    { (b.mem.seen.foldl (Blk.putSeen p) b).mem with seen := (b.seeStores o k n).mem.seen }
  have hset : b.seeStores o k n = b.modMem (fun m => { m with seen := (b.seeStores o k n).mem.seen }) := rfl
  have hfold : ∀ c : Blk, (b.seeStores o k n).mem.seen.foldl (Blk.putSeen p) c = b.mem.seen.foldl (Blk.putSeen p) c := fun c => by
    rw [Blk.seeStores_seen, List.foldl_map]
    simp only [Blk.putSeen_takenBy hp]
  rw [hfold, congrArg (b.mem.seen.foldl (Blk.putSeen p)) hset, Blk.putSeen_foldl_setSeen]
  rfl

/-! ### Stores that every observer sees -/

/-- One of the stores that only some see, in turn: if `p` chooses it every observer sees it, and it overwrites those kept so far; else it
is kept. -/
def Blk.seenTurn (p : SeenStore → Bool) (a : Blk × List SeenStore) (e : SeenStore) : Blk × List SeenStore :=
  if p e then (a.1.spPut e.sp e.addr e.data, a.2.flatMap (fun x => x.cut e.sp e.addr e.data.length)) else (a.1, a.2 ++ [e])

theorem Blk.seenAll_seen (b : Blk) (p : SeenStore → Bool) :
    (b.seenAll p).mem.seen = (b.mem.seen.foldl (Blk.seenTurn p) (b, [])).2 := rfl

/-- Where `p` chooses the stores of context `k`, none of them is kept, nor any piece of one. -/
theorem Blk.seenTurn_ctx {k : Nat} {a : Blk × List SeenStore} (ha : ∀ e ∈ a.2, e.ctx ≠ k) (f : SeenStore) :
    ∀ e ∈ (Blk.seenTurn (fun e => e.ctx == k) a f).2, e.ctx ≠ k := by
  intro e he
  by_cases hf : f.ctx = k
  · rw [Blk.seenTurn, if_pos (by simpa using hf)] at he
    obtain ⟨g, hg, hcut⟩ := List.mem_flatMap.1 he
    rw [g.cut_ctx _ _ _ e hcut]
    exact ha g hg
  · rw [Blk.seenTurn, if_neg (by simpa using hf)] at he
    rcases List.mem_append.1 he with he | he
    · exact ha e he
    · rwa [List.mem_singleton.1 he]

theorem Blk.seenTurns_ctx (k : Nat) (l : List SeenStore) (a : Blk × List SeenStore) (ha : ∀ e ∈ a.2, e.ctx ≠ k) :
    ∀ e ∈ (l.foldl (Blk.seenTurn (fun e => e.ctx == k)) a).2, e.ctx ≠ k := by
  induction l generalizing a with
  | nil => exact ha
  | cons f t ih => exact ih _ (Blk.seenTurn_ctx ha f)

/-- Of the stores of a context that every observer sees none is left among those that only some see. -/
theorem Blk.drainAll_ctx {b : Blk} {k : Nat} {x : Ctx} (hlook : Store.look b.ctxs k = some x) :
    ∀ e ∈ (b.drainAll k).mem.seen, e.ctx ≠ k := by
  rw [Blk.drainAll, hlook]
  dsimp only
  rw [Blk.seenAll_seen]
  exact Blk.seenTurns_ctx k _ _ (by simp)

/-! ### FENCE -/

theorem actFence_of_room {b : Blk} {k : Nat} {x y : Ctx} (w : Word) (hroom : b.xmRoom x.xmLines.length = true)
    (hlook : Store.look (b.drainAll k).ctxs k = some y) : actFence b k x w =
      .next (if (b.drainAll k).writing k = true then (b.drainAll k).dxBlock k y .fence else (b.drainAll k).dxDone k y) := by
  simp only [actFence, hroom, hlook, Bool.not_true, Bool.false_eq_true, if_false]

theorem becomes_fenceDone {s : State} {k : Nat} {x y : Ctx} (hrun : s.blk.inReset = false) (hlook : Store.look s.blk.ctxs k = some x)
    (hblocked : x.blocked = .fence) (hup : s.blk.engUp x = true) (hroom : s.blk.xmRoom x.xmLines.length = true)
    (hy : Store.look (s.blk.drainAll k).ctxs k = some y) (hdone : (s.blk.drainAll k).writing k = false) :
    Becomes (.fenceDone k) s ((s.blk.drainAll k).dxDone k y) :=
  .of_lift _ (show execFenceDone k s = lift _ s from rfl) hrun (by simp [hlook, hblocked, hup, hroom, hy, hdone])

/-! ### Credit timeout -/

theorem becomes_creditTimeout_send {s : State} {k i since : Nat} {x : Ctx} {sl : Slot} (hrun : s.blk.inReset = false)
    (hlook : Store.look s.blk.ctxs k = some x) (hblocked : x.blocked = .send i since) (hup : s.blk.engUp x = true)
    (hslot : Store.look x.slots i = some sl) (htmo : sl.tmo ≠ 0) (hpassed : s.blk.passed since (s.blk.us sl.tmo) = true)
    (hready : s.blk.slotReady x i sl.q = false) : Becomes (.creditTimeout k) s (s.blk.creditOver k x 1 i) :=
  .of_lift _ (show execCreditTimeout k s = lift _ s from rfl) hrun (by simp [hlook, hblocked, hup, hslot, htmo, hpassed, hready])

theorem traceOnly_traceExc (b : Blk) (x : Ctx) (a : Nat) : TraceOnly b (b.traceExc x a) := by
  unfold Blk.traceExc
  dsimp only
  split
  · exact (traceOnly_tbPrep _ _).trans (traceOnly_tbFlow _ _ _ _ _ _)
  · exact .refl b

/-- A context with a handler, not in it, takes the timeout there, the pc and the cause saved. -/
theorem Blk.look_creditOver (b : Blk) (k : Nat) {x : Ctx} {h : Nat} (hhandler : x.handler = some h) (hin : x.inHandler = false)
    (sub slot : Nat) : Store.look (b.creditOver k x sub slot).ctxs k = some (x.handle h (w32 (4 <<< 28 + sub <<< 24 + slot))) := by
  simp only [Blk.creditOver, hhandler, hin, Bool.false_eq_true, if_false, Blk.emitAt_ctxs]
  rw [(traceOnly_traceExc _ _ _).ctxs_eq, Blk.modCtxs_ctxs, Store.look_put, if_pos rfl]

/-! ### The obligation -/

/-- Settles O15: what another observer and a third one see, what a fence leaves, FENCE, its end, and the timeout of a SEND. -/
theorem fenceAndTimeoutInstructions : Obligations.FenceAndTimeoutInstructions := by
  refine ⟨fun b k o ho => ?sent, fun b o k n => ⟨fun e he hctx hn => ?taken, fun p hp => b.seenBy_seeStores hp k n⟩,
    fun b k x hlook => Blk.drainAll_ctx hlook, fun s k x y w h hroom hy => ?fence,
    fun s k x y hrun hlook hblocked hup hroom hy hdone => ?done,
    fun s k i since h x sl hrun hlook hblocked hup hslot htmo hpassed hready hhandler hin => ?timeout⟩
  case sent =>
    obtain ⟨hpool, -, hcsm, -, hxm, -⟩ := b.seenBy_drainStores ho
    exact ⟨hpool, hcsm, hxm⟩
  case taken =>
    refine ⟨e.takenBy o k n, ?_, SeenStore.mem_seen_takenBy hctx hn, e.takenBy_eq o k n⟩
    rw [Blk.seeStores_seen]
    exact List.mem_map_of_mem he
  case fence =>
    have hexec : exec (.fence k) s = lift (fun b => b.dxStep k [eFence] actFence) s := rfl
    have hact := actFence_of_room w hroom hy
    refine ⟨fun hdone hno => ?_, fun hwriting => ?_⟩
    · rw [if_neg (by simp [hdone]), Blk.dxDone] at hact
      rw [Gives, hexec]
      exact gives_retired_from h actFence [eFence] h.find (s.blk.drainAll k) y (hno.trans h.no.symm) (y.pc + 4) false _ (.refl _)
        (fun _ => rfl) hact
    · rw [if_pos hwriting] at hact
      exact ⟨_, h.exec_next hexec hact, (look_settle_ctxs _ k).trans ((s.blk.drainAll k).look_dxBlock k y .fence)⟩
  case done =>
    exact (becomes_fenceDone hrun hlook hblocked hup hroom hy hdone).gives ((look_settle_ctxs _ k).trans (Blk.look_dxDone _ k y))
  case timeout =>
    exact (becomes_creditTimeout_send hrun hlook hblocked hup hslot htmo hpassed hready).gives
      ((look_settle_ctxs _ k).trans (s.blk.look_creditOver k hhandler hin 1 i))

end Sys2Proof.Machine
end

section
/-!
PROOFS. The register files (R154, R155): a mark of a poison map after one is written, each file's value and poison after a write, and the
obligation put together from that.
-/

namespace Sys2Proof.Machine

/-- Writing one mark of a poison map leaves the others. -/
theorem getLsbD_setPoi {n : Nat} (m : BitVec n) {r : Nat} (hr : r < n) (p : Bool) (q : Nat) :
    (setPoi m r p).getLsbD q = if q = r then p else m.getLsbD q := by
  have hbit : (BitVec.ofNat n (2 ^ r)).getLsbD q = decide (q = r) := by
    rw [BitVec.getLsbD_ofNat, Nat.testBit_two_pow]
    by_cases hq : q = r
    · simp [hq, hr]
    · simp [hq, Ne.symm hq]
  cases p
  · have hge : n ≤ q → m.getLsbD q = false := m.getLsbD_of_ge q
    rw [setPoi, if_neg Bool.false_ne_true, BitVec.getLsbD_and, BitVec.getLsbD_not, hbit]
    by_cases hq : q = r
    · simp [hq]
    · rcases Nat.lt_or_ge q n with hqn | hqn
      · simp [hq, hqn]
      · simp [hq, hge hqn]
  · rw [setPoi, if_pos rfl, BitVec.getLsbD_or, hbit]
    by_cases hq : q = r <;> simp [hq]

/-! ### Scalars and masks -/

theorem Ctx.setS_of_ne {r : Nat} (hr : r ≠ 0) (x : Ctx) (v : Dword) (p : Bool) :
    x.setS r v p = { x with sreg := Store.set 0 x.sreg r v, spoi := setPoi x.spoi r p } := by
  rw [Ctx.setS, if_neg hr]
  rfl

theorem Ctx.s_setS (x : Ctx) (r q : Nat) (v : Dword) (p : Bool) : (x.setS r v p).s q = if q = r ∧ r ≠ 0 then v else x.s q := by
  rcases eq_or_ne r 0 with rfl | hr
  · simp [Ctx.setS]
  · rw [Ctx.setS_of_ne hr]
    rcases eq_or_ne q 0 with rfl | hq
    · simp [Ctx.s, hr.symm]
    · simp [Ctx.s, hq, hr]

theorem Ctx.sp_setS (x : Ctx) {r : Nat} (hr : r < 32) (q : Nat) (v : Dword) (p : Bool) :
    (x.setS r v p).sp q = if q = r ∧ r ≠ 0 then p else x.sp q := by
  rcases eq_or_ne r 0 with rfl | hne
  · simp [Ctx.setS]
  · rw [Ctx.setS_of_ne hne]
    rcases eq_or_ne q 0 with rfl | hq
    · simp [Ctx.sp, hne.symm]
    · simp [Ctx.sp, getLsbD_setPoi _ hr, bne_iff_ne.2 hq, hne]

theorem Ctx.p_setP (x : Ctx) (r q : Nat) (v : BitVec 16) (p : Bool) :
    (x.setP r v p).p q = if q = r ∧ r ≠ 0 then v else x.p q := by
  rcases eq_or_ne r 0 with rfl | hr
  · simp [Ctx.setP]
  · rcases eq_or_ne q 0 with rfl | hq
    · simp [Ctx.p, hr.symm]
    · simp [Ctx.setP, Ctx.p, hq, hr]

theorem Ctx.pp_setP (x : Ctx) {r : Nat} (hr : r < 8) (q : Nat) (v : BitVec 16) (p : Bool) :
    (x.setP r v p).pp q = if q = r ∧ r ≠ 0 then p else x.pp q := by
  rcases eq_or_ne r 0 with rfl | hne
  · simp [Ctx.setP]
  · rcases eq_or_ne q 0 with rfl | hq
    · simp [Ctx.setP, Ctx.pp, hne.symm, hne]
    · simp [Ctx.setP, Ctx.pp, getLsbD_setPoi _ hr, bne_iff_ne.2 hq, hne]

/-! ### Lanes and wide registers -/

/-- A lane's place in the vector file is its own. -/
theorem lanePlace_inj {r q i j : Nat} (hi : i < 16) (hj : j < 16) : 16 * q + j = 16 * r + i ↔ q = r ∧ j = i := by omega

theorem Ctx.v_setV (x : Ctx) (r q : Nat) {i j : Nat} (hi : i < 16) (hj : j < 16) (v : Word) (p : Bool) :
    (x.setV r i v p).v q j = if q = r ∧ j = i then v else x.v q j := by
  simp [Ctx.v, Ctx.setV, lanePlace_inj hi hj]

theorem Ctx.vp_setV (x : Ctx) {r : Nat} (q : Nat) {i j : Nat} (hr : r < 16) (hi : i < 16) (hj : j < 16) (v : Word) (p : Bool) :
    (x.setV r i v p).vp q j = if q = r ∧ j = i then p else x.vp q j := by
  simp [Ctx.vp, Ctx.setV, getLsbD_setPoi _ (show 16 * r + i < 256 by omega), lanePlace_inj hi hj]

theorem Ctx.w_setW (x : Ctx) (r q : Nat) (v : W320) (p : Bool) : (x.setW r v p).w q = if q = r then v else x.w q := by
  simp [Ctx.w, Ctx.setW]

theorem Ctx.wp_setW (x : Ctx) {r : Nat} (hr : r < 8) (q : Nat) (v : W320) (p : Bool) :
    (x.setW r v p).wp q = if q = r then p else x.wp q := by
  simp [Ctx.wp, Ctx.setW, getLsbD_setPoi _ hr]

/-- Writing lanes `l` of a vector register one after the other: each of them receives its value and poison. -/
theorem Ctx.lanes_foldl (x : Ctx) {r : Nat} (hr : r < 16) (f : Nat → Word × Bool) (q : Nat) {j : Nat} (hj : j < 16) (l : List Nat)
    (hl : ∀ i ∈ l, i < 16) :
    (l.foldl (fun x i => x.setV r i (f i).1 (f i).2) x).v q j = (if q = r ∧ j ∈ l then (f j).1 else x.v q j) ∧
    (l.foldl (fun x i => x.setV r i (f i).1 (f i).2) x).vp q j = (if q = r ∧ j ∈ l then (f j).2 else x.vp q j) := by
  induction l generalizing x with
  | nil => simp
  | cons i t ih =>
    have hi : i < 16 := hl i (List.mem_cons_self ..)
    obtain ⟨hv, hp⟩ := ih (x.setV r i (f i).1 (f i).2) (fun a ha => hl a (List.mem_cons_of_mem _ ha))
    rw [List.foldl_cons, hv, hp, x.v_setV r q hi hj, x.vp_setV q hr hi hj]
    by_cases hq : q = r <;> by_cases hji : j = i <;> by_cases hjt : j ∈ t <;> simp [hq, hji, hjt]

theorem mem_lanesOf {m : BitVec 16} {j : Nat} (hj : j < 16) : j ∈ lanesOf m ↔ m.getLsbD j = true := by simp [lanesOf, hj]

theorem Ctx.lanes_setLanes (x : Ctx) {r : Nat} (hr : r < 16) (m : BitVec 16) (f : Nat → Word × Bool) (q : Nat) {j : Nat} (hj : j < 16) :
    (x.setLanes r m f).v q j = (if q = r ∧ m.getLsbD j = true then (f j).1 else x.v q j) ∧
    (x.setLanes r m f).vp q j = (if q = r ∧ m.getLsbD j = true then (f j).2 else x.vp q j) := by
  have hlanes := x.lanes_foldl hr f q hj (lanesOf m) (fun i hi => List.mem_range.1 (List.mem_filter.1 hi).1)
  simp only [mem_lanesOf hj] at hlanes
  exact hlanes

/-! ### The obligation -/

/-- Settles O17: scalars, masks, lanes, wide registers, and the lanes that a mask enables. -/
theorem registerFiles : Obligations.RegisterFiles := by
  refine ⟨fun x r q v p hr _ => ?scalar, fun x r q v p hr _ => ?mask, fun x r i q j v p hr _ hi hj => ?lane, fun x r q v p hr _ => ?wide,
    fun x r q j m f hr _ hj => ?lanes⟩
  case scalar => exact ⟨x.s_setS r q v p, x.sp_setS hr q v p, rfl, rfl⟩
  case mask => exact ⟨x.p_setP r q v p, x.pp_setP hr q v p, rfl, rfl⟩
  case lane => exact ⟨x.v_setV r q hi hj v p, x.vp_setV q hr hi hj v p⟩
  case wide => exact ⟨x.w_setW r q v p, x.wp_setW hr q v p⟩
  case lanes => exact x.lanes_setLanes hr m f q hj

end Sys2Proof.Machine
end

section
/-!
PROOFS. XM (R150, R151, R357): what a write leaves of the bytes and of the marks of lines, what a read gives, and the obligation put
together from that.
-/

namespace Sys2Proof.Machine

/-- Marking lines writes no byte. -/
theorem Blk.markLines_xm (v : Bool) (l : List Nat) (b : Blk) :
    (l.foldl (fun s l => s.modMem (fun m => { m with xmPoi := Store.set false m.xmPoi l v })) b).mem.xm = b.mem.xm := by
  induction l generalizing b with
  | nil => rfl
  | cons a t ih => exact ih _

/-- The lines marked with `v` are so marked, and every other line is as before. -/
theorem Blk.markLines_xmPoi (v : Bool) (l : List Nat) (b : Blk) (n : Nat) :
    Store.get false (l.foldl (fun s l => s.modMem (fun m => { m with xmPoi := Store.set false m.xmPoi l v })) b).mem.xmPoi n =
      if n ∈ l then v else Store.get false b.mem.xmPoi n := by
  induction l generalizing b with
  | nil => simp
  | cons a t ih =>
    rw [List.foldl_cons, ih, Blk.modMem_mem, Store.get_set]
    by_cases ht : n ∈ t <;> by_cases ha : n = a <;> simp [ht, ha]

theorem Blk.xmWrite_xm (b : Blk) (a : Nat) (bs : List Byte) (poi : Bool) :
    (b.xmWrite a bs poi).mem.xm = Mem.wrN b.mem.xm a bs := by
  cases poi
  · exact Blk.markLines_xm false _ _
  · exact Blk.markLines_xm true _ _

theorem Blk.xmWrite_xmPoi_poisoned (b : Blk) (a : Nat) (bs : List Byte) (l : Nat) :
    Store.get false (b.xmWrite a bs true).mem.xmPoi l = (Store.get false b.mem.xmPoi l || (linesOf a bs.length).contains l) := by
  refine (Blk.markLines_xmPoi true _ _ l).trans ?_
  by_cases hl : l ∈ linesOf a bs.length <;> simp [hl]

theorem Blk.xmWrite_xmPoi_clean (b : Blk) (a : Nat) (bs : List Byte) (l : Nat) :
    Store.get false (b.xmWrite a bs false).mem.xmPoi l = (Store.get false b.mem.xmPoi l &&
      !((linesOf a bs.length).contains l && decide (a ≤ 64 * l ∧ 64 * l + 64 ≤ a + bs.length))) := by
  refine (Blk.markLines_xmPoi false _ _ l).trans ?_
  by_cases hl : l ∈ linesOf a bs.length <;> by_cases hfull : a ≤ 64 * l ∧ 64 * l + 64 ≤ a + bs.length <;>
    simp [List.mem_filter, hl, hfull]

/-- Counting the poisoned lines that a read touches leaves the memories. -/
theorem Blk.poiEvents_mem (c : Nat) (l : List Nat) (b : Blk) :
    (l.foldl (fun s l => (s.count (.err .ERR_XM_POI_IN) 1).emit 0xD 0x0E04 (64 * l) c) b).mem = b.mem := by
  induction l generalizing b with
  | nil => rfl
  | cons a t ih => exact ih _

theorem Blk.xmRead_bytes (b : Blk) (c a n : Nat) : (b.xmRead c a n).1 = Mem.rdN b.mem.xm a n :=
  congrArg (fun m : MemState => Mem.rdN m.xm a n) (Blk.poiEvents_mem c _ b)

theorem Blk.xmRead_poi (b : Blk) (c a n : Nat) :
    (b.xmRead c a n).2.1 = true ↔ ∃ l ∈ linesOf a n, Store.get false b.mem.xmPoi l = true := by
  simp [Blk.xmRead, List.filter_eq_nil_iff]

/-- Settles O46: canonical form, the bytes written, the bytes beside them, the marks of lines, and a read. -/
theorem externalMemory : Obligations.ExternalMemory := by
  refine fun b a bs poi => ⟨fun hwf => ?form, ?written, fun j hj => ?beside, fun l => ?marks, fun c n => ?read⟩
  case form =>
    rw [b.xmWrite_xm]
    exact Memory.wf_wrN _ _ _ hwf
  case written =>
    rw [b.xmWrite_xm]
    exact Mem.rdN_wrN _ _ _
  case beside =>
    rw [b.xmWrite_xm]
    exact Mem.rd_wrN_out _ _ _ _ hj
  case marks =>
    cases poi
    · exact b.xmWrite_xmPoi_clean a bs l
    · exact b.xmWrite_xmPoi_poisoned a bs l
  case read => exact ⟨b.xmRead_bytes c a n, b.xmRead_poi c a n⟩

end Sys2Proof.Machine
end

section
/-!
PROOFS. The jobs of sketch, tree and compression units (R171, R172, R299, R305, R329): what each of their commands comes to, which waiting
job starts and what its start leaves, and the obligation put together from that.
-/

namespace Sys2Proof.Machine

/-! ### Jobs that end -/

theorem becomes_sketchJobDone {s : State} {k : Nat} (hrun : s.blk.inReset = false) (hjobs : Store.get [] s.blk.sk.jobs k ≠ []) :
    Becomes (.sketchJobDone k) s ((Blk.jobEnded (s.blk.skJobEnd k)).redPump.redFaults.idleNow k) :=
  .of_lift _ (show execSketchJobDone k s = lift _ s from rfl) hrun (if_neg (by simpa using hjobs))

theorem becomes_tscoreJobDone {s : State} {k : Nat} (hrun : s.blk.inReset = false) (hjobs : Store.get [] s.blk.tre.jobs k ≠ []) :
    Becomes (.tscoreJobDone k) s ((Blk.jobEnded (s.blk.treJobEnd k)).idleNow k) :=
  .of_lift _ (show execTscoreJobDone k s = lift _ s from rfl) hrun (if_neg (by simpa using hjobs))

theorem becomes_fullerJobDone_program {s : State} {e : Nat} {j : Job} (hrun : s.blk.inReset = false)
    (hjob : (s.blk.fulEngine e).job = some j) (hist : j.hist = none) :
    Becomes (.fullerJobDone e) s (Blk.jobEnded (s.blk.fulJobEnd e)) :=
  .of_lift _ (show execFullerJobDone e s = lift _ s from rfl) hrun (by simp only [hjob, hist])

theorem becomes_fullerJobDone_history {s : State} {e : Nat} {j : Job} {n : Word} {data : List (Byte × Bool)}
    (hrun : s.blk.inReset = false) (hjob : (s.blk.fulEngine e).job = some j) (hist : j.hist = some (n, data)) :
    Becomes (.fullerJobDone e) s ((s.blk.engineFree e (s.blk.fulEngine e)).histWrite j.coll e j.gen n data) :=
  .of_lift _ (show execFullerJobDone e s = lift _ s from rfl) hrun (by simp only [hjob, hist])

theorem becomes_alarmEnqueue {s : State} {k : Nat} (hrun : s.blk.inReset = false) (halarms : Store.get [] s.blk.tre.alarms k ≠ []) :
    Becomes (.alarmEnqueue k) s ((s.blk.enqAlarm k).idleNow k) :=
  .of_lift _ (show execAlarmEnqueue k s = lift _ s from rfl) hrun (if_neg (by simpa using halarms))

section
variable {b : Blk} {k : Nat} {j : Job} {l : List Job}

/-- The sketch unit of cluster `k` without its oldest job, which leaves `l`. -/
def Blk.skLeft (b : Blk) (k : Nat) (l : List Job) : Blk := b.modSk (fun m => { m with jobs := Store.set [] m.jobs k l })

/-- A job of a collection torn down is counted, and ends with neither completion nor fault. -/
theorem Blk.skJobEnd_of_dead (hjobs : Store.get [] b.sk.jobs k = j :: l) (hdead : j.dead = true) :
    b.skJobEnd k = (none, (b.skLeft k l).count (.sku .SKU_JOB_CNT) 1) := by
  simp only [Blk.skJobEnd, hjobs, hdead, if_true]
  rfl

theorem Blk.skJobEnd_of_refused {d : JobFault} (hjobs : Store.get [] b.sk.jobs k = j :: l) (hdead : j.dead = false)
    (hrefused : (b.skLeft k l).skRun j = .error d) : b.skJobEnd k = (some (j, d), b.skLeft k l) := by
  rw [Blk.skLeft] at hrefused
  simp only [Blk.skJobEnd, hjobs, hdead, Bool.false_eq_true, if_false, hrefused]
  rfl

end

/-! ### The start of a compression job (R329) -/

/-- The first waiting job that may start stands behind those that may not. -/
theorem Blk.fulNext_eq {b : Blk} {j : Job} {l m : List Job} (hqueue : b.ful.queue = l ++ j :: m)
    (hheld : ∀ i ∈ l, i.hist.isSome = true ∧ fld (b.reg (.ful .FUL_CTRL)) 11 8 ≤ b.histHeld)
    (hmay : j.hist = none ∨ b.histHeld < fld (b.reg (.ful .FUL_CTRL)) 11 8) : b.fulNext = some l.length := by
  rw [Blk.fulNext, hqueue, List.findIdx?_append]
  have hl : l.findIdx? (fun j => j.hist.isNone || decide (b.histHeld < fld (b.reg (.ful .FUL_CTRL)) 11 8)) = none := by
    rw [List.findIdx?_eq_none_iff]
    intro i hi
    obtain ⟨hsome, hfull⟩ := hheld i hi
    obtain ⟨_, hhist⟩ := Option.isSome_iff_exists.1 hsome
    simp [hhist, Nat.not_lt.2 hfull]
  have hj : (j.hist.isNone || decide (b.histHeld < fld (b.reg (.ful .FUL_CTRL)) 11 8)) = true := by
    rcases hmay with hprog | hroom
    · simp [hprog]
    · simp [hroom]
  rw [hl, List.findIdx?_cons, hj]
  simp

/-- Job `j`, the `i`th that waits, has taken engine `e`. -/
def Blk.fulStarted (b : Blk) (e i : Nat) (j : Job) : Blk :=
  (b.modFul (fun m => { m with queue := m.queue.eraseIdx i, starts := m.starts + 1 })).setEngine e
    { job := some j, since := b.tclk, ord := b.ful.starts, clash := b.areaClash j }

theorem Blk.fulEngine_fulStarted (b : Blk) (e i : Nat) (j : Job) (n : Nat) : (b.fulStarted e i j).fulEngine n =
    if n = e then { job := some j, since := b.tclk, ord := b.ful.starts, clash := b.areaClash j } else b.fulEngine n := by
  simp [Blk.fulStarted, Blk.setEngine, Blk.fulEngine]

theorem becomes_fullerJobStart {s : State} {e i : Nat} {j : Job} (hrun : s.blk.inReset = false) (hnext : s.blk.fulNext = some i)
    (hfree : (List.range 8).find? (fun e => (s.blk.fulEngine e).job.isNone) = some e) (hj : s.blk.ful.queue[i]? = some j)
    (hhas : s.blk.hasFuller = true) (hen : bit (s.blk.reg (.ful .FUL_CTRL)) 0 = true) :
    Becomes .fullerJobStart s (s.blk.fulStarted e i j) :=
  .of_lift _ (show execFullerJobStart s = lift _ s from rfl) hrun (by
    simp only [hnext, hfree, hj, hhas, hen, Bool.not_true, Bool.false_eq_true, or_self, if_false]
    rfl)

/-- The end of a command leaves the engines. -/
theorem settle_fulEngine (s : State) (e : Nat) : (settle s).blk.fulEngine e = s.blk.fulEngine e := by
  rw [Blk.fulEngine, settle_ful]
  rfl

/-! ### The load of a model (R305) -/

@[simp] theorem Blk.slot_setSlot (b : Blk) (n : Nat) (v : EnsSlot) : (b.setSlot n v).slot n = v := by simp [Blk.slot, Blk.setSlot]

theorem settle_slot (s : State) (n : Nat) : (settle s).blk.slot n = s.blk.slot n := by
  rw [Blk.slot, settle_tre]
  rfl

/-- What a load of slot `n` ends with is noted in the slot; a status other than READY is reported. -/
def Blk.loadNoted (b : Blk) (n st : Nat) (e : Option Ens) : Blk :=
  let c := b.setSlot n { b.slot n with loading := false, staged := e, lstat := st }
  if st = 1 then c else c.emit 9 0x0B04 n st

theorem Blk.slot_loadNoted (b : Blk) (n st : Nat) (e : Option Ens) :
    (b.loadNoted n st e).slot n = { b.slot n with loading := false, staged := e, lstat := st } := by
  have hnoted := b.slot_setSlot n { b.slot n with loading := false, staged := e, lstat := st }
  rw [Blk.loadNoted]
  split
  · exact hnoted
  · exact hnoted

theorem becomes_modelLoadDone {s : State} {n st : Nat} {e : Option Ens} {b : Blk} (hrun : s.blk.inReset = false)
    (hloading : (s.blk.slot n).loading = true)
    (hload : (s.blk.setSlot n { s.blk.slot n with staged := none }).loadImage n = (st, e, b)) :
    Becomes (.modelLoadDone n) s (b.loadNoted n st e) :=
  .of_lift _ (show execModelLoadDone n s = lift _ s from rfl) hrun
    ((if_neg (by simp [hloading])).trans (congrArg (fun r : Nat × Option Ens × Blk => r.2.2.loadNoted n r.1 r.2.1) hload))

/-! ### The obligation -/

/-- Settles O38: the ends of sketch, tree and compression jobs, a sketch job that is dead or refused, the start of a compression job, an
alarm, and the end of a load. -/
theorem unitJobs : Obligations.UnitJobs := by
  refine ⟨fun s k hrun hjobs => becomes_sketchJobDone hrun hjobs, fun s k hrun hjobs => becomes_tscoreJobDone hrun hjobs,
    fun s e j hrun hjob => ⟨becomes_fullerJobDone_program hrun hjob, fun n data => becomes_fullerJobDone_history hrun hjob⟩,
    fun s k j l b _ hjobs hb => ?sketch, fun s e j l m hrun hqueue hheld hmay hhas hen hfree => ?start,
    fun s k hrun halarms => becomes_alarmEnqueue hrun halarms, fun s n st e b hrun hloading hload => ?load⟩
  case sketch =>
    subst hb
    exact ⟨Blk.skJobEnd_of_dead hjobs, fun d hdead hrefused => Blk.skJobEnd_of_refused hjobs hdead hrefused⟩
  case start =>
    have hj : s.blk.ful.queue[l.length]? = some j := by simp [hqueue]
    refine (becomes_fullerJobStart hrun (Blk.fulNext_eq hqueue hheld hmay) hfree hj hhas hen).gives ⟨?_, ?_, ?_, fun i hi => ?_⟩
    · rw [settle_ful]
      exact (congrArg (List.eraseIdx · l.length) hqueue).trans (by simp [List.eraseIdx_append_of_length_le])
    · rw [settle_ful]
      rfl
    · rw [settle_fulEngine, Blk.fulEngine_fulStarted, if_pos rfl]
    · rw [settle_fulEngine, Blk.fulEngine_fulStarted, if_neg hi]
  case load =>
    refine (becomes_modelLoadDone hrun hloading hload).gives ?_
    rw [settle_slot]
    exact b.slot_loadNoted n st e

end Sys2Proof.Machine
end

section
/-!
PROOFS. The two forms of a W320 (R203, R222): bytes that read back from their place in a payload, the bits of the header of the sparse
form, the value put together from its limbs, and the obligation put together from that.
-/

namespace Sys2Proof.Machine

/-! ### Bytes in their place -/

@[simp] theorem length_leBytes (n v : Nat) : (leBytes n v).length = n := by
  induction n generalizing v with
  | zero => rfl
  | succ n ih => rw [leBytes, List.length_cons, ih]

theorem leNat_leBytes (n v : Nat) : leNat (leBytes n v) = v % 2 ^ (8 * n) := by
  induction n generalizing v with
  | zero => exact (Nat.mod_one v).symm
  | succ n ih =>
    rw [leBytes, leNat, ih, BitVec.toNat_ofNat, Nat.mul_succ, Nat.add_comm (8 * n), pow_add, Nat.mod_mul]
    rfl

/-- A number written between other bytes is read back from there. -/
theorem leAt_leBytes (before after : List Byte) (n v : Nat) :
    leAt (before ++ leBytes n v ++ after) before.length n = v % 2 ^ (8 * n) := by
  have hslice : slice (before ++ leBytes n v ++ after) before.length n = leBytes n v := by simp [slice]
  rw [leAt, hslice, leNat_leBytes]

/-! ### The memory image (R203) -/

theorem W320.ofImage_image (w : W320) : W320.ofImage w.image = w := by
  have hval : leAt w.image 0 40 = w.val.toNat % 2 ^ (8 * 40) := by
    have h := leAt_leBytes [] (leBytes 1 (b2n w.pinf + 2 * b2n w.ninf + 4 * b2n w.nan) ++ leBytes 7 0) 40 w.val.toNat
    rwa [List.nil_append, ← List.append_assoc] at h
  have hflags : leAt w.image 40 1 = (b2n w.pinf + 2 * b2n w.ninf + 4 * b2n w.nan) % 2 ^ (8 * 1) := by
    have h := leAt_leBytes (leBytes 40 w.val.toNat) (leBytes 7 0) 1 (b2n w.pinf + 2 * b2n w.ninf + 4 * b2n w.nan)
    rwa [length_leBytes] at h
  rw [W320.ofImage, hval, hflags, w.val.toNat_mod_cancel, BitVec.ofNat_toNat, BitVec.setWidth_eq]
  obtain ⟨val, pinf, ninf, nan⟩ := w
  cases pinf <;> cases ninf <;> cases nan <;> simp [b2n]

/-! ### The sparse form (R222) -/

/-- The number whose bits below `n` are those that `p` selects. -/
def bitSum (p : Nat → Bool) (n : Nat) : Nat := (((List.range n).filter p).map (fun j => 2 ^ j)).sum

theorem bitSum_succ (p : Nat → Bool) (n : Nat) : bitSum p (n + 1) = 2 ^ n * b2n (p n) + bitSum p n := by
  cases hp : p n <;> simp [bitSum, List.range_succ, List.filter_append, hp, b2n, Nat.add_comm]

theorem bitSum_lt (p : Nat → Bool) (n : Nat) : bitSum p n < 2 ^ n := by
  induction n with
  | zero => exact Nat.one_pos
  | succ n ih =>
    rw [bitSum_succ, pow_succ]
    cases p n <;> simp only [b2n, Bool.false_eq_true, if_true, if_false] <;> omega

theorem testBit_b2n (b : Bool) (i : Nat) : (b2n b).testBit i = (decide (i = 0) && b) := by
  cases b <;> cases i <;> simp [b2n, Nat.testBit_succ]

theorem testBit_bitSum (p : Nat → Bool) (n j : Nat) : (bitSum p n).testBit j = (decide (j < n) && p j) := by
  induction n with
  | zero => simp [bitSum]
  | succ n ih =>
    rw [bitSum_succ, Nat.testBit_two_pow_mul_add _ (bitSum_lt p n), ih, testBit_b2n]
    rcases lt_trichotomy j n with hlt | rfl | hgt
    · simp [hlt, Nat.lt_succ_of_lt hlt]
    · simp
    · simp [show ¬ j < n by omega, show ¬ j < n + 1 by omega, show j - n ≠ 0 by omega]

/-- The bits of the header: a limb that is not zero for each of the first ten, then the three flags. -/
def W320.headBit (w : W320) (j : Nat) : Bool :=
  if j < 10 then w.limb j ≠ 0 else if j = 10 then w.pinf else if j = 11 then w.ninf else w.nan

theorem W320.filter_headBit (w : W320) : (List.range 10).filter w.headBit = (List.range 10).filter (fun j => w.limb j ≠ 0) :=
  List.filter_congr fun _ hj => if_pos (List.mem_range.1 hj)

theorem W320.headD_pack (w : W320) : w.pack.headD 0 = w32 (bitSum w.headBit 13) := by
  have hlimbs : bitSum w.headBit 10 = (((List.range 10).filter (fun j => w.limb j ≠ 0)).map (fun j => 2 ^ j)).sum := by
    rw [bitSum, w.filter_headBit]
  have hflags : bitSum w.headBit 13 = bitSum w.headBit 10 + 1024 * b2n w.pinf + 2048 * b2n w.ninf + 4096 * b2n w.nan := by
    have hpinf : w.headBit 10 = w.pinf := rfl
    have hninf : w.headBit 11 = w.ninf := rfl
    have hnan : w.headBit 12 = w.nan := rfl
    rw [bitSum_succ, bitSum_succ, bitSum_succ, hpinf, hninf, hnan]
    omega
  rw [hflags, hlimbs]
  rfl

theorem W320.bit_headD_pack (w : W320) {j : Nat} (hj : j < 13) : bit (w.pack.headD 0) j = w.headBit j := by
  rw [w.headD_pack, bit, w32, BitVec.getLsbD_ofNat, testBit_bitSum]
  simp [hj, show j < 32 by omega]

/-- The limbs that the header names are those that the form holds. -/
theorem W320.filter_bit_headD_pack (w : W320) :
    (List.range 10).filter (fun j => bit (w.pack.headD 0) j) = (List.range 10).filter (fun j => w.limb j ≠ 0) := by
  rw [← w.filter_headBit]
  exact List.filter_congr fun j hj => w.bit_headD_pack ((List.mem_range.1 hj).trans (by decide))

/-- Limbs below `n`, without those that are zero, put together. -/
theorem W320.sum_limbs (w : W320) (n : Nat) :
    (((List.range n).filter (fun j => w.limb j ≠ 0)).map (fun j => (w.limb j).toNat <<< (32 * j))).sum =
      w.val.toNat % 2 ^ (32 * n) := by
  induction n with
  | zero => simp [Nat.mod_one]
  | succ n ih =>
    have hlimb : (w.limb n).toNat <<< (32 * n) = 2 ^ (32 * n) * (w.val.toNat / 2 ^ (32 * n) % 2 ^ 32) := by
      rw [W320.limb, w32, BitVec.toNat_ofNat, Nat.shiftLeft_eq, Nat.shiftRight_eq_div_pow, Nat.mul_comm]
    have hsplit : w.val.toNat % 2 ^ (32 * (n + 1)) = w.val.toNat % 2 ^ (32 * n) + (w.limb n).toNat <<< (32 * n) := by
      rw [hlimb, Nat.mul_succ, pow_add, Nat.mod_mul]
    rw [List.range_succ, List.filter_append, List.map_append, List.sum_append, ih, hsplit]
    by_cases hz : w.limb n = 0#32 <;> simp [hz]

theorem W320.unpack_pack (w : W320) : W320.unpack (w.pack.headD 0) (w.pack.drop 1) = w := by
  have hval : (((List.range 10).filter (fun j => w.limb j ≠ 0)).zip (w.pack.drop 1)).map (fun p => p.2.toNat <<< (32 * p.1)) =
      ((List.range 10).filter (fun j => w.limb j ≠ 0)).map (fun j => (w.limb j).toNat <<< (32 * j)) := by
    rw [W320.pack, List.drop_succ_cons, List.drop_zero, List.map_zip_eq_zipWith, List.zipWith_map_right, List.zipWith_self]
    rfl
  rw [W320.unpack, w.filter_bit_headD_pack, hval, w.sum_limbs 10, w.val.toNat_mod_cancel, BitVec.ofNat_toNat, BitVec.setWidth_eq,
    w.bit_headD_pack (by decide), w.bit_headD_pack (by decide), w.bit_headD_pack (by decide)]
  rfl

theorem W320.length_pack (w : W320) : w.pack.length = formLen (w.pack.headD 0) := by
  rw [formLen, w.filter_bit_headD_pack, W320.pack, List.length_cons, List.length_map, Nat.add_comm]

/-! ### The obligation -/

/-- Settles O33: the image, and the sparse form with its length. -/
theorem wideSumForms : Obligations.WideSumForms :=
  ⟨W320.ofImage_image, fun w => ⟨w.unpack_pack, w.length_pack⟩⟩

end Sys2Proof.Machine
end

section
/-!
PROOFS. More of an issued instruction (R149, R156, R185): one that goes on at a target, one that has had another effect on the units, and
the mask of a vector instruction, each said once.
-/

namespace Sys2Proof.Machine

theorem Ctx.Stands.trans {x y z : Ctx} (h : x.Stands y) (k : y.Stands z) : x.Stands z := by
  obtain ⟨hblocked, hpc, hcluster, hengine⟩ := h
  obtain ⟨kblocked, kpc, kcluster, kengine⟩ := k
  exact ⟨kblocked.trans hblocked, kpc.trans hpc, kcluster.trans hcluster, kengine.trans hengine⟩

theorem Ctx.stands_setP (x : Ctx) (r : Nat) (v : BitVec 16) (p : Bool) : x.Stands (x.setP r v p) := by
  unfold Ctx.setP
  split <;> exact ⟨rfl, rfl, rfl, rfl⟩

theorem Ctx.stands_setW (x : Ctx) (r : Nat) (v : W320) (p : Bool) : x.Stands (x.setW r v p) := ⟨rfl, rfl, rfl, rfl⟩

/-! ### Completion -/

section
variable {s : State} {k : Nat} {x : Ctx} {w : Word} {e : Enc} {i : Instr} {act : Act}

/-- The instruction is complete and the context goes on at `npc`. -/
theorem Issues.gives_jump (h : Issues s k x w e) (hexec : exec i s = lift (fun b => b.dxStep k [e] act) s) {y : Ctx} (hy : x.Stands y)
    {npc : Nat} {taken : Bool} (hact : act s.blk k x w = .next (s.blk.dxJump k y npc taken)) :
    Gives i s (fun t => Retired s t k y npc) := by
  obtain ⟨hblocked, -⟩ := hy
  rw [Gives, hexec]
  exact gives_retired h act [e] h.find y hblocked npc taken s.blk (.refl s.blk) (fun _ => rfl) hact

/-- The instruction is complete, its other effect on the units having made them `b`. -/
theorem Issues.gives_done_from (h : Issues s k x w e) (hexec : exec i s = lift (fun b => b.dxStep k [e] act) s) {y : Ctx}
    (hy : x.Stands y) {b : Blk} (hact : act s.blk k x w = .next (b.dxDone k y)) :
    Gives i s (fun t => Retired { s with blk := b } t k y (x.pc + 4)) := by
  obtain ⟨hblocked, hpc, -⟩ := hy
  rw [Blk.dxDone, hpc] at hact
  rw [Gives, hexec]
  exact gives_retired_from h act [e] h.find b y hblocked (x.pc + 4) false b (.refl b) (fun _ => rfl) hact

end

/-! ### Masks (R156, R197) -/

theorem withMask_of_clean {r : Nat} {x : Ctx} (hmask : x.pp r = false) (f : BitVec 16 → DxRes) : withMask r x f = f (x.p r) := by
  simp [withMask, hmask]

theorem withMask_of_poisoned {r : Nat} {x : Ctx} (hmask : x.pp r = true) (f : BitVec 16 → DxRes) :
    withMask r x f = .fault 1 3 0 0 := by simp [withMask, hmask]

/-! ### Lanes (R194) -/

section
variable {s : State} {k : Nat} {x : Ctx} {w : Word} {e : Enc} {i : Instr}

theorem Issues.gives_lanes2 (h : Issues s k x w e) {f : Word → Word → Word → Word}
    (hexec : exec i s = lift (fun b => b.dxStep k [e] (actLanes2 f)) s) (hmask : x.pp (fPm w) = false) :
    Gives i s (fun t => Retired s t k (x.setLanes (fRd w) (x.p (fPm w)) (fun i =>
      (f w (x.v (fRa w) i) (x.v (fRb w) i), x.vp (fRa w) i || x.vp (fRb w) i))) (x.pc + 4)) :=
  h.gives_done hexec (x.stands_setLanes _ _ _) (withMask_of_clean hmask _)

theorem Issues.gives_lanes1 (h : Issues s k x w e) {f : Word → Word → Word}
    (hexec : exec i s = lift (fun b => b.dxStep k [e] (actLanes1 f)) s) (hmask : x.pp (fPm w) = false) :
    Gives i s (fun t => Retired s t k (x.setLanes (fRd w) (x.p (fPm w)) (fun i => (f w (x.v (fRa w) i), x.vp (fRa w) i))) (x.pc + 4)) :=
  h.gives_done hexec (x.stands_setLanes _ _ _) (withMask_of_clean hmask _)

end

end Sys2Proof.Machine
end

section
/-!
PROOFS. Scalar instructions, of three registers and with an immediate (R190, R192, Table 6-6): the effect of each command in terms of the
tables of forms, and the obligations put together from that.
-/

namespace Sys2Proof.Machine

/-- The command of a scalar instruction of three registers. -/
theorem exec_scalarForm {row : (Nat → Instr) × Nat × (Dword → Dword → Dword)} (hrow : row ∈ scalarForms) (k : Nat) (s : State) :
    exec (row.1 k) s = lift (fun b => b.dxStep k [eScalar row.2.1] (actScalar row.2.2)) s := by
  simp only [scalarForms, List.mem_cons, List.not_mem_nil, or_false] at hrow
  rcases hrow with rfl | rfl | rfl | rfl | rfl | rfl | rfl | rfl | rfl | rfl | rfl <;> rfl

/-- Settles O1: the instruction retires with the result of its form. -/
theorem scalarInstructions : Obligations.ScalarInstructions := fun _ hrow s k x _ h =>
  h.gives_done (exec_scalarForm hrow k s) (x.stands_setS _ _ _) rfl

/-! ### Immediates -/

/-- The immediate is the low half of the word. -/
theorem fImm_eq (w : Word) : fImm w = (w.setWidth 16).toNat := by simp [fImm, fld]

/-- The command of an instruction with an immediate, and its result as the table gives it. -/
theorem exec_immForm {row : (Nat → Instr) × Enc × (Dword → BitVec 16 → Dword)} (hrow : row ∈ immForms) (k : Nat) (s : State) :
    ∃ f, exec (row.1 k) s = lift (fun b => b.dxStep k [row.2.1] (actImm f)) s ∧ ∀ a (i : BitVec 16), f a i.toNat = row.2.2 a i := by
  simp only [immForms, List.mem_cons, List.not_mem_nil, or_false] at hrow
  rcases hrow with rfl | rfl | rfl | rfl | rfl | rfl | rfl | rfl <;>
    exact ⟨_, rfl, fun a i => by simp [sext16]⟩

/-- Settles O2: the instruction retires with the result of its form on the low half of its word. -/
theorem immediateInstructions : Obligations.ImmediateInstructions := by
  intro row hrow s k x w h
  obtain ⟨f, hexec, hf⟩ := exec_immForm hrow k s
  rw [← hf, ← fImm_eq]
  exact h.gives_done hexec (x.stands_setS _ _ _) rfl

end Sys2Proof.Machine
end

section
/-!
PROOFS. Vector instructions (R190, R194 to R196): the command of each form, integer, floating-point or conversion, and the obligations put
together from that.
-/

namespace Sys2Proof.Machine

/-- The command of an integer vector instruction. -/
theorem exec_vintForm {row : (Nat → Instr) × Nat × (Word → Word → Word)} (hrow : row ∈ vintForms) (k : Nat) (s : State) :
    exec (row.1 k) s = lift (fun b => b.dxStep k [eVint row.2.1] (actLanes2 (fun _ => row.2.2))) s := by
  simp only [vintForms, List.mem_cons, List.not_mem_nil, or_false] at hrow
  rcases hrow with rfl | rfl | rfl | rfl | rfl | rfl | rfl | rfl | rfl | rfl | rfl <;> rfl

/-- Settles O3: the lanes under a clean mask, and a poisoned mask. -/
theorem vectorIntegerInstructions : Obligations.VectorIntegerInstructions := fun _ hrow s k _ _ h =>
  ⟨fun hmask => h.gives_lanes2 (exec_vintForm hrow k s) hmask,
    fun hmask => h.exec_fault (exec_vintForm hrow k s) (withMask_of_poisoned hmask _)⟩

/-- The command of a floating-point instruction of two sources. -/
theorem exec_vflForm {row : (Nat → Instr) × Nat × (Fmt → Nat → Nat → Nat)} (hrow : row ∈ vflForms) (k : Nat) (s : State) :
    exec (row.1 k) s = lift (fun b => b.dxStep k [eVfl row.2.1] (actLanes2 (flop2 row.2.2))) s := by
  simp only [vflForms, List.mem_cons, List.not_mem_nil, or_false] at hrow
  rcases hrow with rfl | rfl | rfl | rfl | rfl <;> rfl

theorem actFma_of_clean {b : Blk} {k : Nat} {x : Ctx} {w : Word} (hmask : x.pp (fPm w) = false) : actFma b k x w =
    .next (b.dxDone k (x.setLanes (fRd w) (x.p (fPm w)) (fun i =>
      (fma2 w (x.v (fRd w) i) (x.v (fRa w) i) (x.v (fRb w) i), x.vp (fRd w) i || x.vp (fRa w) i || x.vp (fRb w) i)))) :=
  withMask_of_clean hmask _

/-- The command of a conversion of one source. -/
theorem exec_cvtForm {row : (Nat → Instr) × Enc × (Word → Word → Word)} (hrow : row ∈ cvtForms) (k : Nat) (s : State) :
    exec (row.1 k) s = lift (fun b => b.dxStep k [row.2.1] (actLanes1 row.2.2)) s := by
  simp only [cvtForms, List.mem_cons, List.not_mem_nil, or_false] at hrow
  rcases hrow with rfl | rfl | rfl | rfl <;> rfl

/-- Settles O4: two sources, VFMA, VNARR, and the conversions of one source. -/
theorem vectorFloatInstructions : Obligations.VectorFloatInstructions := by
  refine ⟨fun row hrow s k x w h hmask => ?two, fun s k x w h hmask => ?fma, fun s k x w h hmask => ?narrow,
    fun row hrow s k x w h hmask => ?convert⟩
  case two =>
    have hdone := h.gives_lanes2 (exec_vflForm hrow k s) hmask
    simp only [flop2] at hdone
    exact hdone
  case fma =>
    have hdone := h.gives_done (show exec (.vfma k) s = lift _ s from rfl) (x.stands_setLanes _ _ _) (actFma_of_clean hmask)
    simp only [fma2] at hdone
    exact hdone
  case narrow => exact (h.gives_lanes2 (show exec (.vnarr k) s = lift _ s from rfl) hmask :)
  case convert => exact h.gives_lanes1 (exec_cvtForm hrow k s) hmask

end Sys2Proof.Machine
end

section
/-!
PROOFS. Compares, masks, and moves between scalars, lanes and masks (R190, R197): the bits of a compare, the command of each form, and the
obligation put together from that.
-/

namespace Sys2Proof.Machine

/-- Bits set one after the other: those of the list are set, the others as before. -/
theorem getLsbD_setBits_foldl {n : Nat} (l : List Nat) (v : BitVec n) {j : Nat} (hj : j < n) :
    (l.foldl (fun (v : BitVec n) i => v ||| BitVec.ofNat n (2 ^ i)) v).getLsbD j = (v.getLsbD j || decide (j ∈ l)) := by
  induction l generalizing v with
  | nil => simp
  | cons i t ih =>
    have hbit : (BitVec.ofNat n (2 ^ i)).getLsbD j = decide (j = i) := by
      rw [BitVec.getLsbD_ofNat, Nat.testBit_two_pow]
      simp [hj, eq_comm]
    rw [List.foldl_cons, ih, BitVec.getLsbD_or, hbit]
    simp [Bool.or_assoc]

/-- The bits of a compare. -/
def cmpBits (f : Word → Word → Bool) (x : Ctx) (w : Word) : BitVec 16 :=
  ((lanesOf (x.p (fPm w))).filter (fun i => f (x.v (fRa w) i) (x.v (fRb w) i))).foldl (fun v i => v ||| BitVec.ofNat 16 (2 ^ i)) 0

theorem getLsbD_cmpBits (f : Word → Word → Bool) (x : Ctx) (w : Word) {i : Nat} (hi : i < 16) :
    (cmpBits f x w).getLsbD i = ((x.p (fPm w)).getLsbD i && f (x.v (fRa w) i) (x.v (fRb w) i)) := by
  rw [cmpBits, getLsbD_setBits_foldl _ _ hi]
  simp [List.mem_filter, mem_lanesOf hi]

/-- The command of a compare. -/
theorem exec_cmpForm {row : (Nat → Instr) × Nat × (Word → Word → Bool)} (hrow : row ∈ cmpForms) (k : Nat) (s : State) :
    exec (row.1 k) s = lift (fun b => b.dxStep k [eCmp row.2.1] (actCmp row.2.2)) s := by
  simp only [cmpForms, List.mem_cons, List.not_mem_nil, or_false] at hrow
  rcases hrow with rfl | rfl | rfl | rfl | rfl | rfl <;> rfl

/-- The command of a mask operation. -/
theorem exec_maskForm {row : (Nat → Instr) × Nat × (BitVec 16 → BitVec 16 → BitVec 16)} (hrow : row ∈ maskForms) (k : Nat) (s : State) :
    exec (row.1 k) s = lift (fun b => b.dxStep k [ePlog row.2.1] (actMask row.2.2)) s := by
  simp only [maskForms, List.mem_cons, List.not_mem_nil, or_false] at hrow
  rcases hrow with rfl | rfl | rfl <;> rfl

/-- Settles O5: compares, mask operations, MOVSP, MOVPS, VSPLAT, VEXT and VRSUM. -/
theorem maskAndLaneInstructions : Obligations.MaskAndLaneInstructions := by
  refine ⟨fun row hrow s k x w h hmask => ?compare, fun row hrow s k x w h => ?logic, fun s k x w h => ?movsp, fun s k x w h => ?movps,
    fun s k x w h hmask => ?splat, fun s k x w h => ?extract, fun s k x w h hmask => ?sum⟩
  case compare =>
    exact ⟨cmpBits row.2.2 x w, fun i hi => getLsbD_cmpBits row.2.2 x w hi,
      h.gives_done (exec_cmpForm hrow k s) (x.stands_setP _ _ _) (withMask_of_clean hmask _)⟩
  case logic => exact h.gives_done (exec_maskForm hrow k s) (x.stands_setP _ _ _) rfl
  case movsp => exact h.gives_done (show exec (.movsp k) s = lift _ s from rfl) (x.stands_setP _ _ _) rfl
  case movps => exact h.gives_done (show exec (.movps k) s = lift _ s from rfl) (x.stands_setS _ _ _) rfl
  case splat =>
    exact h.gives_done (show exec (.vsplat k) s = lift _ s from rfl) (x.stands_setLanes _ _ _) (withMask_of_clean hmask _)
  case extract => exact h.gives_done (show exec (.vext k) s = lift _ s from rfl) (x.stands_setS _ _ _) rfl
  case sum => exact h.gives_done (show exec (.vrsum k) s = lift _ s from rfl) (x.stands_setS _ _ _) (withMask_of_clean hmask _)

end Sys2Proof.Machine
end

section
/-!
PROOFS. Jumps and branches (R192, R193): the effect of each by its operand, and the obligation put together from that.
-/

namespace Sys2Proof.Machine

/-! ### Effects -/

section
variable {b : Blk} {k : Nat} {x : Ctx} {w : Word}

theorem actJr_of_aligned (hpoi : x.sp (fRa w) = false) (ha : (x.s (fRa w)).toNat % 4 = 0) : actJr b k x w =
    .next (b.dxJump k (x.setS (fRd w) (BitVec.ofNat 64 (x.pc + 4)) false) (x.s (fRa w)).toNat true) := by
  simp only [actJr, addrFault_of_aligned hpoi ha]

theorem actJr_of_addrFault {r : DxRes} (hf : addrFault (x.sp (fRa w)) (x.s (fRa w)).toNat 4 = some r) : actJr b k x w = r := by
  simp only [actJr, hf]

variable {cond poi : Ctx → Nat → Bool}

theorem actBranch_of_clean (hpoi : poi x (fRd w) = false) : actBranch cond poi b k x w =
    .next (b.dxJump k x (if cond x (fRd w) then x.target w else x.pc + 4) (cond x (fRd w))) := by
  rw [actBranch, if_neg (by simp [hpoi])]
  cases cond x (fRd w) <;> rfl

theorem actBranch_of_poisoned (hpoi : poi x (fRd w) = true) : actBranch cond poi b k x w = .fault 1 1 0 0 := by
  simp [actBranch, hpoi]

end

/-- The command of a branch, and its condition as the table gives it. -/
theorem exec_branchForm {row : (Nat → Instr) × Enc × (Ctx → Nat → Bool) × (Ctx → Nat → Bool)} (hrow : row ∈ branchForms) (k : Nat)
    (s : State) : exec (row.1 k) s = lift (fun b => b.dxStep k [row.2.1] (actBranch row.2.2.1 row.2.2.2)) s := by
  have hneg : (fun (x : Ctx) r => decide ((x.s r).toInt < 0)) = fun x r => (x.s r).msb := by
    funext x r
    exact BitVec.msb_eq_toInt.symm
  have hpos : (fun (x : Ctx) r => decide (0 ≤ (x.s r).toInt)) = fun x r => !(x.s r).msb := by
    funext x r
    simp [BitVec.msb_eq_toInt, ← decide_not]
  simp only [branchForms, List.mem_cons, List.not_mem_nil, or_false] at hrow
  rcases hrow with rfl | rfl | rfl | rfl | rfl | rfl
  · rfl
  · rfl
  · rw [← hneg]; rfl
  · rw [← hpos]; rfl
  · rfl
  · rfl

/-! ### The obligation -/

/-- Settles O6: BRA, JAL, JR by its address, and a branch by its condition or its poison. -/
theorem transferInstructions : Obligations.TransferInstructions := by
  refine ⟨fun s k x w h => ?bra, fun s k x w h => ?jal, fun s k x w h => ?jr, fun row hrow s k x w h => ?branch⟩
  case bra => exact h.gives_jump (show exec (.bra k) s = lift _ s from rfl) x.stands_refl rfl
  case jal => exact h.gives_jump (show exec (.jal k) s = lift _ s from rfl) (x.stands_setS _ _ _) rfl
  case jr =>
    have hexec : exec (.jr k) s = lift (fun b => b.dxStep k [eJr] actJr) s := rfl
    exact ⟨fun hpoi ha => h.gives_jump hexec (x.stands_setS _ _ _) (actJr_of_aligned hpoi ha),
      fun hpoi ha => h.exec_fault hexec (actJr_of_addrFault (addrFault_of_misaligned hpoi ha)),
      fun hpoi => h.exec_fault hexec (actJr_of_addrFault (addrFault_of_poisoned _ _ hpoi))⟩
  case branch =>
    have hexec := exec_branchForm hrow k s
    exact ⟨fun hpoi => h.gives_jump hexec x.stands_refl (actBranch_of_clean hpoi),
      fun hpoi => h.exec_fault hexec (actBranch_of_poisoned hpoi)⟩

end Sys2Proof.Machine
end

section
/-!
PROOFS. The wide-sum instructions (R202 to R205): the encoding that a WSADD has, the effect of those that access memory and of WSRND, and
the obligation put together from that.
-/

namespace Sys2Proof.Machine

/-! ### The two encodings of WSADD -/

theorem Issues.is {s : State} {k : Nat} {x : Ctx} {w : Word} {e : Enc} (h : Issues s k x w e) : e.is w = true := by
  obtain ⟨_, _, _, _, _, his, _⟩ := h
  exact his

/-- A word of the vector encoding is none of the scalar one. -/
theorem eWsaddS_is_of_eWsaddV {w : Word} (h : eWsaddV.is w = true) : eWsaddS.is w = false := by
  simp only [Enc.is, eWsaddV, eWsaddS, Bool.and_eq_true, List.contains_iff_mem, List.mem_cons, List.not_mem_nil, or_false] at h ⊢
  obtain ⟨-, hsel⟩ := h
  rcases hsel with hsel | hsel | hsel | hsel <;> simp [hsel]

/-- Issued under either of its encodings, the command of WSADD is that of the one. -/
theorem Issues.exec_wsadd {s : State} {k : Nat} {x : Ctx} {w : Word} {e : Enc} (h : Issues s k x w e) (he : e = eWsaddS ∨ e = eWsaddV) :
    exec (.wsadd k) s = lift (fun b => b.dxStep k [e] actWsadd) s := by
  have hfind : [eWsaddS, eWsaddV].find? (fun e => e.is w) = some e := by
    rcases he with rfl | rfl
    · simp [h.is]
    · simp [h.is, eWsaddS_is_of_eWsaddV h.is]
  have hstep := (dxStep_issues h [eWsaddS, eWsaddV] hfind actWsadd).trans (dxStep_issues h [e] h.find actWsadd).symm
  obtain ⟨hrun, -⟩ := h
  change lift (fun b => b.dxStep k [eWsaddS, eWsaddV] actWsadd) s = _
  rw [lift_next _ s hrun, lift_next _ s hrun, hstep]

/-! ### Effects -/

section
variable {b : Blk} {k : Nat} {x : Ctx} {w : Word}

theorem actWsrnd_eq : actWsrnd b k x w = .next (b.dxDone k (x.setS (fRd w)
    (if fRc w = 0 then BitVec.ofNat 64 ((x.w (fRa w)).toFmt f32)
     else if fRc w = 1 then BitVec.ofNat 64 ((x.w (fRa w)).toFmt f64) else (x.w (fRa w)).toI64) (x.wp (fRa w)))) := by
  rw [actWsrnd]
  rcases fRc w with _ | _ | n <;> rfl

theorem actWsld_of_read {bs : List (Byte × Bool)} (hpoi : x.sp (fRa w) = false) (ha : (x.s (fRa w)).toNat % 8 = 0)
    (hread : b.dxRead k x (x.s (fRa w)).toNat 48 = .ok bs) : actWsld b k x w =
      .next ((b.traceAccess x false 48 (x.s (fRa w)).toNat (valOf bs).1).dxDone k
        (x.setW (fRd w) (W320.ofImage (bs.map Prod.fst)) (bs.any Prod.snd))) := by
  simp only [actWsld, addrFault_of_aligned hpoi ha, hread]
  rfl

theorem actWsst_of_write {sp : Space} {o : Nat} (hpoi : x.sp (fRa w) = false) (ha : (x.s (fRa w)).toNat % 8 = 0)
    (hwrite : b.dxWrite k x (x.s (fRa w)).toNat 48 = .ok (sp, o)) : actWsst b k x w =
      .next ((b.traceAccess x true 48 (x.s (fRa w)).toNat (leNat (x.w (fRd w)).image)).dxDone k
        (x.store sp o (bytesPoi (x.w (fRd w)).image (x.wp (fRd w))))) := by
  simp only [actWsst, addrFault_of_aligned hpoi ha, hwrite]

theorem actWspk_of_write {sp : Space} {o : Nat} (hpoi : x.sp (fRa w) = false) (ha : (x.s (fRa w)).toNat % 4 = 0)
    (hwrite : b.dxWrite k x (x.s (fRa w)).toNat 44 = .ok (sp, o)) : ∃ n v, actWspk b k x w =
      .next ((b.traceAccess x true n (x.s (fRa w)).toNat v).dxDone k
        ((x.store sp o (bytesPoi (wordsBytes (x.w (fRd w)).pack) (x.wp (fRd w)))).setS (fRb w)
          (BitVec.ofNat 64 (x.w (fRd w)).pack.length) (x.wp (fRd w)))) := by
  simp only [actWspk, addrFault_of_aligned hpoi ha, hwrite]
  exact ⟨_, _, rfl⟩

theorem actWsupk_of_read {bs : List (Byte × Bool)} (hpoi : x.sp (fRa w) = false) (ha : (x.s (fRa w)).toNat % 4 = 0)
    (hread : b.dxRead k x (x.s (fRa w)).toNat 44 = .ok bs) : actWsupk b k x w =
      .next ((b.traceAccess x false 44 (x.s (fRa w)).toNat (valOf bs).1).dxDone k
        (x.setW (fRd w) (W320.unpack (lanesIn bs 0).1 (((wordsOf bs).drop 1).map Prod.fst))
          (((wordsOf bs).take (formLen (lanesIn bs 0).1)).any Prod.snd))) := by
  simp only [actWsupk, addrFault_of_aligned hpoi ha, hread]

end

/-! ### The obligation -/

/-- Settles O9: WSADD in both encodings, WSMRG, WSZ, WSRND, and the two pairs that load and store. -/
theorem wideSumInstructions : Obligations.WideSumInstructions := by
  refine ⟨fun s k x w h hmask => ?add, fun s k x w h => ?merge, fun s k x w h => ?zero, fun s k x w h => ?round,
    fun s k x w bs h hpoi ha hread => ?load, fun s k x w sp o h hpoi ha hwrite => ?store,
    fun s k x w sp o h hpoi ha hwrite => ?pack, fun s k x w bs h hpoi ha hread => ?unpack⟩
  case add =>
    have hact := withMask_of_clean hmask
    rcases h with h | h
    · exact h.gives_done (h.exec_wsadd (.inl rfl)) (x.stands_setW _ _ _) (hact _)
    · exact h.gives_done (h.exec_wsadd (.inr rfl)) (x.stands_setW _ _ _) (hact _)
  case merge => exact h.gives_done (show exec (.wsmrg k) s = lift _ s from rfl) (x.stands_setW _ _ _) rfl
  case zero => exact h.gives_done (show exec (.wsz k) s = lift _ s from rfl) (x.stands_setW _ _ _) rfl
  case round => exact h.gives_done (show exec (.wsrnd k) s = lift _ s from rfl) (x.stands_setS _ _ _) actWsrnd_eq
  case load =>
    exact h.gives_accessed (show exec (.wsld k) s = lift _ s from rfl) (x.stands_setW _ _ _) (actWsld_of_read hpoi ha hread)
  case store =>
    exact h.gives_accessed (show exec (.wsst k) s = lift _ s from rfl) (x.stands_store _ _ _) (actWsst_of_write hpoi ha hwrite)
  case pack =>
    obtain ⟨n, v, hact⟩ := actWspk_of_write hpoi ha hwrite
    exact h.gives_accessed (show exec (.wspk k) s = lift _ s from rfl) ((x.stands_store _ _ _).trans (Ctx.stands_setS _ _ _ _)) hact
  case unpack =>
    exact h.gives_accessed (show exec (.wsupk k) s = lift _ s from rfl) (x.stands_setW _ _ _) (actWsupk_of_read hpoi ha hread)

end Sys2Proof.Machine
end

section
/-!
PROOFS. FLD and FST (R211, R212): the row that their operands name or the exception that they take, and the obligation put together from
that.
-/

namespace Sys2Proof.Machine

theorem withRow_of_clean {x : Ctx} {w : Word} (ha : x.sp (fRa w) = false) (hb : x.sp (fRb w) = false) (hmask : x.pp (fPm w) = false)
    (f : Nat → Nat → BitVec 16 → DxRes) :
    withRow x w f = f ((x.s (fRa w)).toNat % 2 ^ 48) ((x.s (fRb w)).toNat % 256) (x.p (fPm w)) := by
  rw [withRow, if_neg (by simp [ha, hb])]
  exact withMask_of_clean hmask _

/-- A poisoned operand faults, whatever the mask. -/
theorem withRow_of_poisoned {x : Ctx} {w : Word} (h : x.sp (fRa w) = true ∨ x.sp (fRb w) = true) (f : Nat → Nat → BitVec 16 → DxRes) :
    withRow x w f = .fault 1 2 (x.s (fRa w)).toNat 0 := by
  rw [withRow, if_pos (by simpa using h)]

/-- An FST counts its misses and takes no time. -/
theorem Blk.fstWrites_tclk (b : Blk) (c e ty : Nat) (l : List (Nat × Word × Bool)) : (b.fstWrites c e ty l).2.tclk = b.tclk := by
  unfold Blk.fstWrites
  split
  · rfl
  · split <;> rfl

theorem actFst_of_clean {b c : Blk} {k : Nat} {x : Ctx} {w : Word} {ws : List (Nat × Word × Bool)} (ha : x.sp (fRa w) = false)
    (hb : x.sp (fRb w) = false) (hmask : x.pp (fPm w) = false)
    (hws : b.fstWrites x.coll ((x.s (fRa w)).toNat % 2 ^ 48) (fTyp w) ((lanesOf (x.p (fPm w))).map (fun i =>
      ((x.s (fRb w)).toNat % 256 + i, x.v (fRd w) i, x.vp (fRd w) i))) = (ws, c)) :
    actFst b k x w = .next (c.dxDone k { x with fbuf := x.fbuf ++ ws.map (fun v => (v.1, v.2.1, v.2.2, b.tclk)) }) := by
  have htclk : c.tclk = b.tclk := by rw [← b.fstWrites_tclk, hws]
  rw [actFst, withRow_of_clean ha hb hmask, hws, ← htclk]

/-- Settles O10: FLD, FST, and a poisoned operand of either. -/
theorem featureInstructions : Obligations.FeatureInstructions := by
  refine ⟨fun s k x w h ha hb hmask => ?load, fun s k x w ws b h ha hb hmask hws => ?store, fun s k x w => ?poisoned⟩
  case load =>
    exact h.gives_done_from (show exec (.fld k) s = lift _ s from rfl) (x.stands_setLanes _ _ _) (withRow_of_clean ha hb hmask _)
  case store =>
    have hstands : x.Stands { x with fbuf := x.fbuf ++ ws.map (fun v => (v.1, v.2.1, v.2.2, s.blk.tclk)) } := ⟨rfl, rfl, rfl, rfl⟩
    exact h.gives_done_from (show exec (.fst k) s = lift _ s from rfl) hstands (actFst_of_clean ha hb hmask hws)
  case poisoned =>
    exact ⟨fun h hpoi => h.exec_fault (show exec (.fld k) s = lift _ s from rfl) (withRow_of_poisoned hpoi _),
      fun h hpoi => h.exec_fault (show exec (.fst k) s = lift _ s from rfl) (withRow_of_poisoned hpoi _)⟩

end Sys2Proof.Machine
end

section
/-!
PROOFS. State words, STAMP, EVT and SNAP (R201, R213, R214, R216): the effect of MTS and of SNAP by what they may do, and the obligation
put together from that.
-/

namespace Sys2Proof.Machine

section
variable {b : Blk} {k : Nat} {x : Ctx} {w : Word}

theorem actMts_of_hstat (hword : fImm w = 8) (hzero : (x.s (fRa w)).getLsbD 0 = false) :
    actMts b k x w = .next (b.dxDone k { x with inHandler := false }) := by
  rw [actMts, if_neg (not_or.2 ⟨not_not.2 hword, ne_true_of_eq_false hzero⟩)]

theorem actMts_of_denied (h : fImm w ≠ 8 ∨ (x.s (fRa w)).getLsbD 0 = true) : actMts b k x w = .fault 2 7 0 0 := by
  rw [actMts, if_pos h]

theorem actSnap_of_right (hright : (b.coll x.coll).snap = true) :
    actSnap b k x w = .next ((b.snapReq 4 ((x.s (fRa w)).setWidth 32)).dxDone k x) := by simp [actSnap, hright]

theorem actSnap_of_no_right (hright : (b.coll x.coll).snap = false) : actSnap b k x w = .fault 2 2 0 0 := by simp [actSnap, hright]

end

/-- Settles O11: MFS, MTS on HSTAT or not, STAMP, EVT, and SNAP with the right or without. -/
theorem stateAndEventInstructions : Obligations.StateAndEventInstructions := by
  refine ⟨fun s k x w h => ?mfs, fun s k x w h => ?mts, fun s k x w h => ?stamp, fun s k x w h => ?evt, fun s k x w h => ?snap⟩
  case mfs => exact h.gives_done (show exec (.mfs k) s = lift _ s from rfl) (x.stands_setS _ _ _) rfl
  case mts =>
    have hexec : exec (.mts k) s = lift (fun b => b.dxStep k [eMts] actMts) s := rfl
    have hstands : x.Stands { x with inHandler := false } := ⟨rfl, rfl, rfl, rfl⟩
    exact ⟨fun hword hzero => h.gives_done hexec hstands (actMts_of_hstat hword hzero),
      fun hdenied => h.exec_fault hexec (actMts_of_denied hdenied)⟩
  case stamp =>
    exact h.gives_done (show exec (.stamp k) s = lift _ s from rfl) ((x.stands_setS _ _ _).trans (Ctx.stands_setS _ _ _ _)) rfl
  case evt => exact h.gives_done_from (show exec (.evt k) s = lift _ s from rfl) x.stands_refl rfl
  case snap =>
    have hexec : exec (.snap k) s = lift (fun b => b.dxStep k [eSnap] actSnap) s := rfl
    exact ⟨fun hright => h.gives_done_from hexec x.stands_refl (actSnap_of_right hright),
      fun hright => h.exec_fault hexec (actSnap_of_no_right hright)⟩

end Sys2Proof.Machine
end

section
/-!
PROOFS. Illegal words (R187, R188): the issue of a word that has no entry and of one that fails the encoding check, what that check answers,
and the obligation put together from that.
-/

namespace Sys2Proof.Machine

/-! ### Issue -/

theorem Blk.dxStep_of_undef {b : Blk} {k : Nat} {x : Ctx} (hlook : Store.look b.ctxs k = some x) (hmay : b.mayIssue k x = true)
    (hundef : undefWord x.word = true) (es : List Enc) (act : Act) :
    b.dxStep k es act = b.dxFault k x 3 1 (if x.pc / 4 < x.im.length then 0 else x.pc) 0 := by
  simp [Blk.dxStep, hlook, hmay, hundef]

theorem Blk.dxStep_of_encFault {b : Blk} {k : Nat} {x : Ctx} {e : Enc} {sub : Nat} (hlook : Store.look b.ctxs k = some x)
    (hmay : b.mayIssue k x = true) (hundef : undefWord x.word = false) (his : e.is x.word = true)
    (hfault : b.encFault e x.word = some sub) (act : Act) : b.dxStep k [e] act = b.dxFault k x 3 sub 0 0 := by
  simp [Blk.dxStep, Blk.dxRun, hlook, hmay, hundef, his, hfault]

/-! ### The encoding check -/

section
variable {b : Blk} {e : Enc} {w : Word}

theorem Blk.encFault_of_reserved (hzero : w &&& e.zero ≠ 0) : b.encFault e w = some 2 := by rw [Blk.encFault, if_pos hzero]

theorem Blk.encFault_of_register (hzero : w &&& e.zero = 0) (hreg : ∃ r ∈ e.regs, r.2 ≤ fld w (r.1 + 4) r.1) :
    b.encFault e w = some 5 := by
  rw [Blk.encFault, if_neg (not_not.2 hzero), if_pos (.inl (by simpa using hreg))]

theorem Blk.encFault_of_unit {u : Nat} (hzero : w &&& e.zero = 0) (hregs : ∀ r ∈ e.regs, fld w (r.1 + 4) r.1 < r.2)
    (hpair : ¬ (eStamp.is w = true ∧ fRd w = 31)) (hunit : e.unit = some u) (habsent : b.unitHere u = false) :
    b.encFault e w = some 3 := by
  have hany : e.regs.any (fun r => decide (r.2 ≤ fld w (r.1 + 4) r.1)) = false := by simpa using hregs
  rw [Blk.encFault, if_neg (not_not.2 hzero), hany, if_neg (by simpa using hpair), hunit]
  simp [habsent]

end

/-! ### The obligation -/

/-- Settles O16: a word without an entry, one that fails the encoding check, and the subcode of the first check that fails. -/
theorem illegalInstructions : Obligations.IllegalInstructions := by
  refine ⟨fun row hrow s k x hrun hlook hmay hundef => ?undef, fun row hrow s k x sub hrun hlook hmay hundef his hfault => ?encoding,
    fun b e w => ⟨Blk.encFault_of_reserved, Blk.encFault_of_register, fun u => Blk.encFault_of_unit⟩⟩
  case undef => rw [exec_scalarForm hrow, lift_next _ s hrun, Blk.dxStep_of_undef hlook hmay hundef]
  case encoding => rw [exec_launchForm hrow, lift_next _ s hrun, Blk.dxStep_of_encFault hlook hmay hundef his hfault]

end Sys2Proof.Machine
end

section
/-!
PROOFS. Exact sums (R219, R220): addition, the value and the flags of the sum of a list, a bound under which such a sum is exact, the value
of a finite binary32 number, and the obligation put together from that.
-/

namespace Sys2Proof.Machine

/-! ### Addition -/

theorem W320.add_comm (a b : W320) : a.add b = b.add a := by
  simp only [W320.add, BitVec.add_comm, Bool.or_comm]

theorem W320.add_assoc (a b c : W320) : (a.add b).add c = a.add (b.add c) := by
  simp only [W320.add, BitVec.add_assoc, Bool.or_assoc]

theorem W320.add_right_comm (a b c : W320) : (a.add b).add c = (a.add c).add b := by
  rw [a.add_assoc b c, b.add_comm c, ← a.add_assoc c b]

/-! ### The sum of a list -/

theorem W320.foldl_add_perm {l m : List W320} (h : l.Perm m) (a : W320) : l.foldl W320.add a = m.foldl W320.add a :=
  h.foldl_eq' (fun x _ y _ z => z.add_right_comm x y) a

theorem W320.val_foldl_add (l : List W320) (a : W320) :
    (l.foldl W320.add a).val = BitVec.ofInt 320 (a.val.toInt + (l.map (fun w => w.val.toInt)).sum) := by
  induction l generalizing a with
  | nil => simp
  | cons w l ih =>
    rw [List.foldl_cons, ih, List.map_cons, List.sum_cons]
    simp only [W320.add, BitVec.ofInt_add, BitVec.ofInt_toInt, BitVec.add_assoc]

/-- A sum has a flag when one of its terms has it. -/
theorem W320.flag_foldl_add {flag : W320 → Bool} (hflag : ∀ a b : W320, flag (a.add b) = (flag a || flag b)) (l : List W320) (a : W320) :
    flag (l.foldl W320.add a) = (flag a || l.any flag) := by
  induction l generalizing a with
  | nil => simp
  | cons w l ih => rw [List.foldl_cons, ih, hflag, List.any_cons, Bool.or_assoc]

/-- The value of the 320 bits of an integer within their signed range. -/
theorem toInt_ofInt_320 {n : Int} (hlow : -(2 ^ 319) ≤ n) (hhigh : n < 2 ^ 319) : (BitVec.ofInt 320 n).toInt = n :=
  BitVec.toInt_ofInt_eq_self (by decide) hlow hhigh

theorem W320.val_sum (l : List W320) :
    (l.foldl W320.add W320.zero).val = BitVec.ofInt 320 (l.map (fun w => w.val.toInt)).sum := by
  have hzero : W320.zero.val.toInt = 0 := BitVec.toInt_zero
  rw [W320.val_foldl_add, hzero, Int.zero_add]

/-- A sum is exact when the number of its terms times a bound on their magnitude is in range. -/
theorem W320.toInt_sum_of_bounded {l : List W320} {k : Nat} {m : Int} (hlen : l.length ≤ k)
    (hterm : ∀ w ∈ l, -m ≤ w.val.toInt ∧ w.val.toInt ≤ m) (hm : 0 ≤ m) (hrange : k * m < 2 ^ 319) :
    (l.foldl W320.add W320.zero).val.toInt = (l.map (fun w => w.val.toInt)).sum := by
  have hall : (l.length : Int) * m ≤ k * m := Int.mul_le_mul_of_nonneg_right (by exact_mod_cast hlen) hm
  have hhigh := List.sum_le_card_nsmul (l.map (fun w => w.val.toInt)) m (by simpa using fun w hw => (hterm w hw).2)
  have hlow := List.card_nsmul_le_sum (l.map (fun w => w.val.toInt)) (-m) (by simpa using fun w hw => (hterm w hw).1)
  rw [List.length_map, nsmul_eq_mul] at hhigh hlow
  rw [Int.mul_neg] at hlow
  rw [W320.val_sum]
  exact toInt_ofInt_320 (by omega) (by omega)

/-! ### Numbers as W320 -/

/-- A finite binary32 number: its fraction is below 2^24, its exponent from −149 to 104. -/
theorem f32_val_fin {v m : Nat} {n : Bool} {e : Int} (h : f32.val v = .fin n m e) : m < 2 ^ 24 ∧ -149 ≤ e ∧ e ≤ 104 := by
  have hfrac : v % 2 ^ 23 < 2 ^ 23 := Nat.mod_lt _ (by decide)
  have hexp : v >>> 23 % 2 ^ 8 < 2 ^ 8 := Nat.mod_lt _ (by decide)
  unfold Fmt.val at h
  dsimp only at h
  split_ifs at h with hmax hnan hsub
  · obtain ⟨-, rfl, rfl⟩ := FVal.fin.inj h
    simp only [f32, Fmt.bias]
    omega
  · obtain ⟨-, rfl, rfl⟩ := FVal.fin.inj h
    simp only [f32, Fmt.bias] at hmax hsub ⊢
    omega

/-- A value whose exponent is at least that of the lowest bit converts without loss but for the wrap. -/
theorem W320.val_ofVal_fin (n : Bool) (m : Nat) {e : Int} (he : -160 ≤ e) : (W320.ofVal (.fin n m e)).val =
    BitVec.ofInt 320 ((if n then -1 else 1) * ((m : Int) * 2 ^ (e + 160).toNat)) := by
  have hnone : (-(e + 160)).toNat = 0 := by omega
  cases n <;> simp only [W320.ofVal, hnone] <;> simp

theorem mul_two_pow_lt {m k a b : Nat} (hm : m < 2 ^ a) (hab : k + a ≤ b) : m * 2 ^ k < 2 ^ b :=
  calc m * 2 ^ k < 2 ^ a * 2 ^ k := Nat.mul_lt_mul_of_pos_right hm (Nat.two_pow_pos k)
    _ = 2 ^ (k + a) := by rw [Nat.mul_comm, Nat.pow_add]
    _ ≤ 2 ^ b := Nat.pow_le_pow_right Nat.two_pos hab

theorem W320.toInt_ofVal_f32 {v m : Nat} {n : Bool} {e : Int} (h : f32.val v = .fin n m e) :
    (W320.ofVal (f32.val v)).val.toInt = (if n then -1 else 1) * ((m : Int) * 2 ^ (e + 160).toNat) ∧
    (W320.ofVal (f32.val v)).val.toInt.natAbs < 2 ^ 288 := by
  obtain ⟨hm, hlow, hhigh⟩ := f32_val_fin h
  have hmag : m * 2 ^ (e + 160).toNat < 2 ^ 288 := mul_two_pow_lt hm (by omega)
  have hcast : ((m * 2 ^ (e + 160).toNat : Nat) : Int) = (m : Int) * 2 ^ (e + 160).toNat := by push_cast; rfl
  have hval : (W320.ofVal (f32.val v)).val.toInt = (if n then -1 else 1) * ((m : Int) * 2 ^ (e + 160).toNat) := by
    rw [h, W320.val_ofVal_fin n m (by omega), ← hcast]
    generalize m * 2 ^ (e + 160).toNat = x at hmag
    refine toInt_ofInt_320 ?_ ?_ <;> split <;> omega
  refine ⟨hval, ?_⟩
  rw [hval, ← hcast]
  generalize m * 2 ^ (e + 160).toNat = x at hmag
  split <;> omega

theorem W320.toInt_ofInt {i : Int} (hlow : -(2 ^ 63) ≤ i) (hhigh : i < 2 ^ 63) : (W320.ofInt i).val.toInt = i * 2 ^ 160 :=
  toInt_ofInt_320 (by omega) (by omega)

/-! ### The obligation -/

/-- Settles O32: addition, its laws, the order of a sum, its value and flags, a binary32 number, and the two kinds of sum that stay in
range. -/
theorem exactSums : Obligations.ExactSums := by
  refine ⟨fun a b => ⟨rfl, rfl, rfl, rfl⟩, fun a b c => ⟨a.add_comm b, a.add_assoc b c⟩,
    fun l m h => W320.foldl_add_perm h _, fun l r n hr hn => ?sum, fun v m n e _ h => ?binary32, fun l hlen hfin => ?sum32,
    fun l hlen hrange => ?sumInt⟩
  case sum =>
    subst hr hn
    refine ⟨W320.val_sum l, fun ⟨hlow, hhigh⟩ => ?_, W320.flag_foldl_add (flag := W320.pinf) (fun _ _ => rfl) l _,
      W320.flag_foldl_add (flag := W320.ninf) (fun _ _ => rfl) l _, W320.flag_foldl_add (flag := W320.nan) (fun _ _ => rfl) l _⟩
    rw [W320.val_sum, toInt_ofInt_320 hlow hhigh]
  case binary32 => exact ⟨(f32_val_fin h).2.1, W320.toInt_ofVal_f32 h⟩
  case sum32 =>
    have hterm : ∀ w ∈ l.map (fun v => W320.ofVal (f32.val v)), -(2 ^ 288 - 1) ≤ w.val.toInt ∧ w.val.toInt ≤ 2 ^ 288 - 1 := by
      intro w hw
      obtain ⟨v, hv, rfl⟩ := List.mem_map.1 hw
      obtain ⟨-, n, m, e, hval⟩ := hfin v hv
      have hmag := (W320.toInt_ofVal_f32 hval).2
      omega
    have hsum := W320.toInt_sum_of_bounded (by simpa using hlen) hterm (by omega) (by omega)
    simpa only [List.foldl_map, List.map_map, Function.comp_def] using hsum
  case sumInt =>
    have hterm : ∀ w ∈ l.map W320.ofInt, -(2 ^ 223) ≤ w.val.toInt ∧ w.val.toInt ≤ 2 ^ 223 := by
      intro w hw
      obtain ⟨i, hi, rfl⟩ := List.mem_map.1 hw
      obtain ⟨hlow, hhigh⟩ := hrange i hi
      rw [W320.toInt_ofInt hlow hhigh]
      omega
    have hsum := W320.toInt_sum_of_bounded (by simpa using hlen) hterm (by omega) (by omega)
    rw [List.foldl_map, List.map_map, Function.comp_def] at hsum
    rw [hsum, List.map_congr_left fun i hi => W320.toInt_ofInt (hrange i hi).1 (hrange i hi).2, List.sum_map_mul_right, List.map_id']

end Sys2Proof.Machine
end

section
/-!
PROOFS. Partial sums on their way up (R229, R230, R233, R235 to R237, R240): what becomes of a REDUCE frame at a tray, what each command
comes to, and the obligation put together from that.
-/

namespace Sys2Proof.Machine

/-! ### Commands that leave the units as they are -/

/-- A command that leaves the units as they are ends as every command does. -/
theorem Becomes.exec_self {i : Instr} {s : State} (h : Becomes i s s.blk) : exec i s = .next (settle s) := h

/-- A command that acts on what is due leaves the units as they are when nothing is. -/
theorem Becomes.of_due {α : Type} {i : Instr} {s : State} {b : Blk} {due : List α}
    (h : Becomes i s (if due.isEmpty = true then s.blk else b)) :
    (due ≠ [] → Becomes i s b) ∧ (due = [] → exec i s = .next (settle s)) := by
  cases due with
  | nil => exact ⟨fun hne => absurd rfl hne, fun _ => h.exec_self⟩
  | cons p l => exact ⟨fun _ => h, fun hnil => absurd hnil (List.cons_ne_nil p l)⟩

/-! ### REDUCE frames at a tray -/

/-- A frame waits behind its credits. -/
def Blk.holdFrame (b : Blk) (tk : Taken) : Blk := b.modRed (fun m => { m with wait := m.wait ++ [(tk.f, tk.fc)] })

section
variable {b c : Blk} {tk : Taken}

theorem Blk.reduceIn_behind (h : b.red.wait.any (fun e => e.1.src == tk.f.src && decide (e.1.coll = tk.f.coll)) = true) :
    b.reduceIn tk = (b.holdFrame tk).redEnd := by
  simp only [Blk.reduceIn, h, if_true]
  rfl

theorem Blk.reduceIn_first (h : b.red.wait.any (fun e => e.1.src == tk.f.src && decide (e.1.coll = tk.f.coll)) = false) :
    b.reduceIn tk = (if (b.takeReduce tk.f tk.fc).1 = true then (b.takeReduce tk.f tk.fc).2
      else (b.takeReduce tk.f tk.fc).2.holdFrame tk).redEnd := by
  simp only [Blk.reduceIn, h, Bool.false_eq_true, if_false]
  rcases b.takeReduce tk.f tk.fc with ⟨_ | _, c⟩ <;> rfl

end

/-- The payload of a whole message is what was gathered of it before, then the words of the frame. -/
theorem Blk.gather_eq_some {b c : Blk} {tk : Taken} {ws : List PWord} (h : b.gather tk false = (some ws, c)) :
    ws = b.chain (chainKey tk.f.coll tk.f.src tk.f.srole false) ++ tk.f.words := by
  simp only [Blk.gather, Bool.false_eq_true, if_false, Nat.zero_add, List.drop_zero] at h
  split_ifs at h with hwhole hmore <;> simp only [Prod.mk.injEq, Option.some.injEq, reduceCtorEq, false_and] at h
  exact h.1.symm

section
variable {b c : Blk} {f : Frame} {fc : Option Nat} {ws : List PWord}

/-- A whole half-partial of a child, whose turn may be opened, is taken (R233). -/
theorem Blk.takeHalfFrame_of_half {x : HalfIn} (hen : b.redEn = true) (hgather : b.gather ⟨f, fc⟩ false = (some ws, c))
    (hread : b.readHalf f.coll ws = some x) (hopen : b.mustWait f.coll x.rid x.turn = false) :
    b.takeHalfFrame f fc = (true, c.halfPartialIn f.coll f.src x) := by
  have hws := Blk.gather_eq_some hgather
  simp [Blk.takeHalfFrame, ← hws, hen, hgather, hread, hopen]

/-- A whole message that is no half-partial is malformed (R228). -/
theorem Blk.takeHalfFrame_of_malformed (hen : b.redEn = true) (hgather : b.gather ⟨f, fc⟩ false = (some ws, c))
    (hread : b.readHalf f.coll ws = none) : b.takeHalfFrame f fc = (true, c.malformed f.coll) := by
  have hws := Blk.gather_eq_some hgather
  simp [Blk.takeHalfFrame, ← hws, hen, hgather, hread]

end

/-! ### Meanings -/

section
variable {s : State} {f : RxFrame} {b : Blk} {tk : Taken}

theorem becomes_contributionReceive (hrole : s.blk.role = .tray)
    (h : HearsIf s f ftReduce (fun g => decide (g.srole = 1)) b tk) : Becomes (.contributionReceive f) s (b.reduceIn tk) := by
  obtain ⟨hrun, htake⟩ := h
  refine .of_lift _ (show execContributionReceive f s = lift _ s from rfl) hrun ?_
  simp only [hrole, htake, ne_eq, not_true, if_false]

theorem becomes_halfPartialReceive (hrole : s.blk.role = .tray)
    (h : HearsIf s f ftReduce (fun g => decide (g.srole ≠ 1) && decide (s.blk.headLevel g = 0)) b tk) :
    Becomes (.halfPartialReceive f) s (b.reduceIn tk) := by
  obtain ⟨hrun, htake⟩ := h
  refine .of_lift _ (show execHalfPartialReceive f s = lift _ s from rfl) hrun ?_
  simp only [hrole, htake, ne_eq, not_true, if_false]

/-- Where a site half of a turn may come from (R240, R241): a crown of the own site, or another site's primary. -/
def Blk.siteSource (c : Blk) (f : Frame) (x : HalfIn) : Bool :=
  if f.srole = 2 then crownIn (c.treeOf f.coll x.turn) x.b == some f.src else decide (siteOf f.src ≠ siteOf c.place)

theorem becomes_siteHalfReceive {c : Blk} {ws : List PWord} {x : HalfIn} (hrole : s.blk.role = .span) (h : Hears s f ftReduce b tk)
    (hgather : b.gather tk false = (some ws, c)) (hread : c.readHalf tk.f.coll ws = some x) (hlevel : x.level = 2) :
    Becomes (.siteHalfReceive f) s (if c.siteSource tk.f x = true then
      ((if tk.f.srole = 2 then c.fromBelow x.turn else c).siteHalfIn tk.f.coll x (siteOf tk.f.src) (decide (tk.f.srole = 2)) ws).redEnd
      else c) := by
  obtain ⟨hrun, htake⟩ := h
  refine .of_lift _ (show execSiteHalfReceive f s = lift _ s from rfl) hrun ?_
  simp only [hrole, htake, hgather, hread, hlevel, ne_eq, not_true, if_false, false_or, decide_eq_true_eq]
  change (if (!c.siteSource tk.f x) = true then c else _) = _
  cases c.siteSource tk.f x <;> rfl

end

/-- The turns without a tray result whose die cut has passed. -/
def Blk.dieDue (b : Blk) (c r : Nat) (v : Reduction) : List (Word × Nat) :=
  (b.withBase c r (fun _ t => t.tray.isNone)).filter (fun p => b.cutPast (b.cuts c v p.1 p.2).1)

/-- The turns without the half of a tree whose cut for it has passed. -/
def Blk.treeDue (b : Blk) (c r : Nat) (v : Reduction) (treeB : Bool) : List (Word × Nat) :=
  (b.withBase c r (fun n t => b.inTree c n && (if treeB then t.halfB else t.halfA).isNone)).filter (fun p =>
    b.cutPast (if treeB then (b.cuts c v p.1 p.2).2.2 else (b.cuts c v p.1 p.2).2.1))

section
variable {s : State} {c r : Nat} {v : Reduction}

theorem becomes_dieCut (hrun : s.blk.inReset = false) (hred : s.blk.reduction c r = some v) : Becomes (.dieCut c r) s
    (if (s.blk.dieDue c r v).isEmpty = true then s.blk
      else ((s.blk.dieDue c r v).foldl (fun b p => b.tryTray c r p.1 true) s.blk).redEnd) := by
  refine .of_lift _ (show execDieCut c r s = lift _ s from rfl) hrun ?_
  simp only [hred]
  rfl

theorem becomes_treeCut (treeB : Bool) (hrun : s.blk.inReset = false) (hred : s.blk.reduction c r = some v) (hscope : v.scope ≠ 1) :
    Becomes (.treeCut c r treeB) s (if (s.blk.treeDue c r v treeB).isEmpty = true then s.blk
      else ((s.blk.treeDue c r v treeB).foldl (fun b p => (b.tryTray c r p.1 true).tryHalf c r p.1 treeB true) s.blk).redEnd) := by
  refine .of_lift _ (show execTreeCut c r treeB s = lift _ s from rfl) hrun ?_
  simp only [hred, hscope, if_false]
  rfl

end

/-! ### The obligation -/

/-- Settles O35: the frames for a tray, what becomes of one, a child's message, the two kinds of cut, and a site half by its source. -/
theorem partialsUp : Obligations.PartialsUp := by
  refine ⟨fun s f b tk hrole => ⟨becomes_contributionReceive hrole, becomes_halfPartialReceive hrole⟩,
    fun b c tk => ⟨Blk.reduceIn_behind, fun hfirst => ?first⟩, fun b c f fc ws hen hgather =>
      ⟨fun x => Blk.takeHalfFrame_of_half hen hgather, Blk.takeHalfFrame_of_malformed hen hgather⟩,
    fun s c r v due hrun hred hdue => ?dieCut, fun s c r b v due hrun hred hscope hdue => ?treeCut,
    fun s f b c tk ws x hrole h hgather hread hlevel => ?site⟩
  case first =>
    have htake : b.takeReduce tk.f tk.fc = if tk.f.srole = 1 then b.takeContribution tk.f tk.fc else b.takeHalfFrame tk.f tk.fc := rfl
    rw [Blk.reduceIn_first hfirst, htake]
    exact ⟨fun hc => by rw [hc]; rfl, fun hc => by rw [hc]; rfl⟩
  case dieCut =>
    subst hdue
    exact (becomes_dieCut hrun hred).of_due
  case treeCut =>
    subst hdue
    exact (becomes_treeCut b hrun hred hscope).of_due
  case site =>
    have hb := becomes_siteHalfReceive hrole h hgather hread hlevel
    refine ⟨fun htray hcrown => ?_, fun hspan hother => ?_, fun htray hcrown => ?_⟩
    · rwa [if_pos (by simp [Blk.siteSource, htray, hcrown]), if_pos htray, decide_eq_true htray] at hb
    · rwa [if_pos (by simp [Blk.siteSource, hspan, hother]), if_neg hspan, decide_eq_false hspan] at hb
    · rwa [if_neg (by simp [Blk.siteSource, htray, hcrown])] at hb

end Sys2Proof.Machine
end

section
/-!
PROOFS. The span combine (R241, R242, R245): what each of its commands comes to, and the obligation put together from that.
-/

namespace Sys2Proof.Machine

/-! ### The lead -/

theorem Blk.leadReady_of_not_lead {b : Blk} {c : Nat} (h : b.isLead c = false) : b.leadReady c = false := by
  rw [Blk.leadReady, h, Bool.false_and]

/-- A lead that took the role from another waits from then on (R243). -/
theorem Blk.leadReady_of_taken {b : Blk} {c l : Nat} (hlook : Store.look b.red.leadOf c = some l) (hlead : b.isLead c = true)
    (htaken : (b.coll c).firstLead = false) : b.leadReady c = b.passed l (b.us (b.reg (.wsr .WSR_SPAN_WAIT)).toNat) := by
  rw [Blk.leadReady, hlead, htaken, hlook, Bool.true_and, Bool.false_or]

/-! ### Meanings -/

section
variable {s : State} {f : RxFrame} {b : Blk} {tk : Taken}

theorem becomes_leadWaitExpire {c r a : Nat} {n : Word} {t : RTurn} (hrun : s.blk.inReset = false)
    (hturn : s.blk.rturn c r n = some t) (hat : t.siteAt = some a) : Becomes (.leadWaitExpire c r n) s
      (if s.blk.leadReady c = true ∧
          (s.blk.passed a (s.blk.us (s.blk.reg (.wsr .WSR_SPAN_WAIT)).toNat) = true ∨ s.blk.sitesFull c t = true)
        then (s.blk.formList c r n).redEnd else s.blk) := by
  refine .of_lift _ (show execLeadWaitExpire c r n s = lift _ s from rfl) hrun ?_
  simp only [hturn, hat]

theorem becomes_listReceive (h : Hears s f ftList b tk) (hrole : (b.frameDone tk).role = .span) (hlen : 16 ≤ tk.f.payload.length) :
    Becomes (.listReceive f) s
      ((b.frameDone tk).listIn tk.f.coll (fld (wordAt tk.f.payload 0) 3 0) (wordAt tk.f.payload 1)
        (fld (wordAt tk.f.payload 2) 7 0, fld (wordAt tk.f.payload 3) 7 0)).redEnd := by
  obtain ⟨hrun, htake⟩ := h
  refine .of_lift _ (show execListReceive f s = lift _ s from rfl) hrun ?_
  simp only [htake]
  exact if_neg (by simp [hrole, hlen])

theorem becomes_spanHoldExpire {c r : Nat} {n : Word} {t : RTurn} {l : Nat × Nat} (hrun : s.blk.inReset = false)
    (hturn : s.blk.rturn c r n = some t) (hlist : t.list = some l) (hopen : t.handed = false) (hask : t.askedSpan = false)
    (habsent : t.listHeld l = false) : Becomes (.spanHoldExpire c r n) s
      (if s.blk.passed t.listAt (s.blk.us (s.blk.reg (.wsr .WSR_SPAN_HOLD)).toNat) = true then s.blk.askLead c r n t l else s.blk) := by
  refine .of_lift _ (show execSpanHoldExpire c r n s = lift _ s from rfl) hrun ?_
  simp only [hturn, hlist, hopen, hask, habsent, Bool.false_eq_true, false_or]
  cases s.blk.passed t.listAt (s.blk.us (s.blk.reg (.wsr .WSR_SPAN_HOLD)).toNat) <;> rfl

/-- A tray answers a request for a half by what it holds of the broadcast (R245). -/
theorem becomes_fetchRequest_tray (h : HearsSub s f ftFetch 1 b tk) (hlen : 8 ≤ tk.f.payload.length)
    (hhalf : fld (wordAt tk.f.payload 0) 9 8 = 1 ∨ fld (wordAt tk.f.payload 0) 9 8 = 2) (hrole : (b.frameDone tk).role = .tray)
    (hlevel : 2 ≤ fld (wordAt tk.f.payload 0) 31 30) : Becomes (.fetchRequest f) s
      ((b.frameDone tk).requestIn tk.f.coll (fld (wordAt tk.f.payload 0) 19 16) (fld (wordAt tk.f.payload 0) 31 30)
        (decide (fld (wordAt tk.f.payload 0) 9 8 = 2)) (wordAt tk.f.payload 1) tk.f.src tk.f.srole) := by
  obtain ⟨hrun, htake⟩ := h
  refine .of_lift _ (show execFetchRequest f s = lift _ s from rfl) hrun ?_
  simp only [htake, hrole]
  rw [if_neg (by omega), if_neg (by omega)]

/-- At a span a request for a half is answered with the listed site halves (R242). -/
theorem becomes_fetchRequest_span (h : HearsSub s f ftFetch 1 b tk) (hlen : 8 ≤ tk.f.payload.length)
    (hhalf : fld (wordAt tk.f.payload 0) 9 8 = 1 ∨ fld (wordAt tk.f.payload 0) 9 8 = 2) (hrole : (b.frameDone tk).role = .span) :
    Becomes (.fetchRequest f) s
      ((b.frameDone tk).answerSites tk.f.coll (fld (wordAt tk.f.payload 0) 19 16) (wordAt tk.f.payload 1)
        (decide (fld (wordAt tk.f.payload 0) 9 8 = 2)) tk.f.src) := by
  obtain ⟨hrun, htake⟩ := h
  refine .of_lift _ (show execFetchRequest f s = lift _ s from rfl) hrun ?_
  simp only [htake, hrole]
  rw [if_neg (by omega)]

/-- The frames that FETCH_REPLY takes: a reply, or what goes on with one. -/
def Blk.replyFrame (b : Blk) (g : Frame) : Bool :=
  decide (fld (wordAt g.payload 0) 7 0 = 2) || !(b.chain (chainKey g.coll g.src g.srole true)).isEmpty

section
variable {c : Blk} {ws : List PWord} {x : HalfIn}

theorem becomes_fetchReply_span (h : HearsIf s f ftFetch s.blk.replyFrame b tk) (hgather : b.gather tk true = (some ws, c))
    (hread : c.readHalf tk.f.coll (ws.drop 2) = some x) (hrole : c.role = .span) :
    Becomes (.fetchReply f) s (c.siteReply tk.f.coll x).redEnd := by
  obtain ⟨hrun, htake⟩ := h
  refine .of_lift _ (show execFetchReply f s = lift _ s from rfl) hrun ?_
  unfold Blk.replyFrame at htake
  simp only [htake, hgather, hread, hrole]

theorem becomes_fetchReply_tray {k : RTurn} (h : HearsIf s f ftFetch s.blk.replyFrame b tk)
    (hgather : b.gather tk true = (some ws, c)) (hread : c.readHalf tk.f.coll (ws.drop 2) = some x) (hrole : c.role = .tray)
    (hlevel : 2 ≤ x.level) (hturn : c.rturn tk.f.coll x.rid x.turn = some k) (hopen : (k.bcast x.level).done = false) :
    Becomes (.fetchReply f) s
      ((c.count (.wsr .WSR_REREACH_CNT) 1).bcastIn tk.f.coll x.rid x.turn x.level x.b x.half x.sites x.exp).redEnd := by
  obtain ⟨hrun, htake⟩ := h
  refine .of_lift _ (show execFetchReply f s = lift _ s from rfl) hrun ?_
  unfold Blk.replyFrame at htake
  simp only [htake, hgather, hread, hrole, hturn, hopen]
  exact if_neg (by simp [Nat.lt_of_succ_le hlevel])

end

end

/-! ### The obligation -/

/-- Settles O36: the wait for the lead, when it may form lists, a list received, a listed half that is absent, a request and a reply. -/
theorem spanCombine : Obligations.SpanCombine := by
  refine ⟨fun s c r a n t hrun hturn hat => ?wait, fun b c l hlook => ⟨Blk.leadReady_of_not_lead, Blk.leadReady_of_taken hlook⟩,
    fun s f b tk => becomes_listReceive, fun s c r n t l hrun hturn hlist hopen hask habsent => ?hold,
    fun s f b tk h hlen hhalf =>
      ⟨becomes_fetchRequest_tray h hlen hhalf, becomes_fetchRequest_span h hlen hhalf⟩, fun s f b c tk ws x h hgather hread =>
      ⟨becomes_fetchReply_span h hgather hread, fun k hrole hlevel => becomes_fetchReply_tray h hgather hread hrole hlevel⟩⟩
  case wait =>
    have hb := becomes_leadWaitExpire hrun hturn hat
    refine ⟨fun hready hdue => by rwa [if_pos ⟨hready, hdue⟩] at hb, fun hwait => Becomes.exec_self ?_⟩
    rwa [if_neg (by rcases hwait with hready | ⟨htime, hfull⟩ <;> simp [*])] at hb
  case hold =>
    have hb := becomes_spanHoldExpire hrun hturn hlist hopen hask habsent
    exact ⟨fun hpast => by rwa [if_pos hpast] at hb, fun hbefore => Becomes.exec_self (by rwa [if_neg (by simp [hbefore])] at hb)⟩

end Sys2Proof.Machine
end

section
/-!
PROOFS. Results on their way down (R243 to R246, R262): what each command comes to, and the obligation put together from that.
-/

namespace Sys2Proof.Machine

/-! ### Halves down the trees -/

section
variable {b : Blk} {c r l : Nat} {n : Word} {t : RTurn}

theorem Blk.bcWaitAt_of_wants (hturn : b.rturn c r n = some t) {h : Bool} (hwants : (t.bcast l).wants = some h) :
    b.bcWaitAt c r n l = if b.passed (t.bcast l).at_ (b.us (b.reg (.wsr .WSR_BC_WAIT)).toNat) = true then b.bcastAsk c r n l h
      else b := by
  simp only [Blk.bcWaitAt, hturn, hwants]

theorem Blk.bcWaitAt_of_not_wants (hturn : b.rturn c r n = some t) (hwants : (t.bcast l).wants = none) :
    b.bcWaitAt c r n l = b := by
  simp only [Blk.bcWaitAt, hturn, hwants]

theorem Blk.bcHoldAt_of_turn (hturn : b.rturn c r n = some t) : b.bcHoldAt c r n l =
    if (t.bcast l).wants.isSome = true ∧ b.passed (t.bcast l).at_ (b.us (b.reg (.wsr .WSR_BC_HOLD)).toNat) = true
      then b.bcastDone c r n l else b := by
  simp only [Blk.bcHoldAt, hturn, Bool.and_eq_true]

end

/-- The frames that BROADCAST_HALF_RECEIVE takes: at a die all, at a tray those of no die that carry a level. -/
def Blk.downFrame (b : Blk) (g : Frame) : Bool :=
  decide (b.role = .die) || (decide (g.srole ≠ 1) && decide (b.headLevel g ≠ 0))

section
variable {s : State} {f : RxFrame} {b c : Blk} {tk : Taken} {ws : List PWord}

theorem becomes_broadcastHalfReceive_die (hrole : s.blk.role ≠ .span) (h : HearsIf s f ftReduce s.blk.downFrame b tk)
    (hgather : b.gather tk false = (some ws, c)) (hdie : c.role = .die) :
    Becomes (.broadcastHalfReceive f) s (c.dieResult tk.f.coll ws) := by
  obtain ⟨hrun, htake⟩ := h
  refine .of_lift _ (show execBroadcastHalfReceive f s = lift _ s from rfl) hrun ?_
  unfold Blk.downFrame at htake
  simp only [if_neg hrole, htake, hgather, if_pos hdie]

theorem becomes_broadcastHalfReceive_tray {x : HalfIn} {v : Reduction} (hrole : s.blk.role ≠ .span)
    (h : HearsIf s f ftReduce s.blk.downFrame b tk) (hgather : b.gather tk false = (some ws, c)) (htray : c.role ≠ .die)
    (hread : c.readHalf tk.f.coll ws = some x) (hlevel : 2 ≤ x.level) (hred : c.reduction tk.f.coll x.rid = some v)
    (hopen : v.closed = none) (hstart : 0 ≤ sdiff x.turn (c.coll tk.f.coll).start)
    (habove : c.fromAboveTree tk.f.coll x tk.f.src tk.f.srole = true) : Becomes (.broadcastHalfReceive f) s
      (c.bcastIn tk.f.coll x.rid x.turn x.level x.b x.half x.sites x.exp).redEnd := by
  obtain ⟨hrun, htake⟩ := h
  refine .of_lift _ (show execBroadcastHalfReceive f s = lift _ s from rfl) hrun ?_
  unfold Blk.downFrame at htake
  simp only [if_neg hrole, htake, hgather, if_neg htray, hread, hred, Option.bind_some, hopen]
  exact if_neg (by simp [Nat.lt_of_succ_le hlevel, hstart, habove])

end

/-! ### Delivery and lateness cuts -/

section
variable {s : State} {c : Nat}

theorem becomes_resultDeliver_whole {r : Nat} {x : RResult} {b : Blk} (hrun : s.blk.inReset = false)
    (hcoll : s.blk.collRuns c = true) (hdeliver : s.blk.deliverResult c r = (some x, b)) :
    Becomes (.resultDeliver c r) s (Blk.ackRun 64 (b.lateResult c r x) c).redEnd := by
  refine .of_lift _ (show execResultDeliver c r s = lift _ s from rfl) hrun ?_
  simp only [hcoll, hdeliver, Bool.not_true, Bool.false_eq_true, if_false]

theorem becomes_resultDeliver_part {r : Nat} {b : Blk} (hrun : s.blk.inReset = false) (hcoll : s.blk.collRuns c = true)
    (hdeliver : s.blk.deliverResult c r = (none, b)) : Becomes (.resultDeliver c r) s b := by
  refine .of_lift _ (show execResultDeliver c r s = lift _ s from rfl) hrun ?_
  simp only [hcoll, hdeliver, Bool.not_true, Bool.false_eq_true, if_false]

theorem becomes_latenessCut_of_no_config (hrun : s.blk.inReset = false) (hlate : (s.blk.coll c).late = none) :
    Becomes (.latenessCut c) s s.blk := by
  refine .of_lift _ (show execLatenessCut c s = lift _ s from rfl) hrun ?_
  simp only [hlate]

/-- A lateness cut that has passed forms the turn that it is of (R262). -/
theorem becomes_latenessCut {k : Nat} {g : LateCfg} {x : LateTurn} {mx : Dword} (hrun : s.blk.inReset = false)
    (hlate : (s.blk.coll c).late = some g) (hone : s.blk.sk.late.filter (fun p => p.1 / 2 ^ 32 = c) = [(k, x)])
    (hmarker : x.mx = some mx) (hpast : 0 ≤ (s.blk.t64 - g.cutAt mx).toInt) :
    Becomes (.latenessCut c) s (s.blk.lateForm c (w32 k) true) := by
  refine .of_lift _ (show execLatenessCut c s = lift _ s from rfl) hrun ?_
  simp only [hlate, hone, List.foldl_cons, List.foldl_nil, hmarker, if_pos hpast]

end

/-! ### The obligation -/

/-- Settles O37: a half or a result from above, the two waits for the other half, the delivery of a result, and the lateness cut. -/
theorem resultsDown : Obligations.ResultsDown := by
  refine ⟨fun s f b c tk ws hrole h hgather => ⟨becomes_broadcastHalfReceive_die hrole h hgather, fun x v =>
      becomes_broadcastHalfReceive_tray hrole h hgather⟩, fun s c r n hrun => ⟨?wait, ?hold⟩, fun b c r l n t hturn => ?halves,
    fun s c r b hrun hcoll =>
      ⟨fun x => becomes_resultDeliver_whole hrun hcoll, becomes_resultDeliver_part hrun hcoll⟩,
    fun s c hrun hlate => (becomes_latenessCut_of_no_config hrun hlate).exec_self,
    fun s c k g x mx => becomes_latenessCut⟩
  case wait => exact .of_lift _ (show execBcWaitExpire c r n s = lift _ s from rfl) hrun rfl
  case hold => exact .of_lift _ (show execBcHoldExpire c r n s = lift _ s from rfl) hrun rfl
  case halves =>
    refine ⟨fun h hwants hpast => ?_, fun h hwants hpast => ?_, fun hbefore => ?_, fun hbefore => ?_, fun hwants => ⟨?_, ?_⟩⟩
    · rw [Blk.bcWaitAt_of_wants hturn hwants, if_pos hpast]
    · rw [Blk.bcHoldAt_of_turn hturn, if_pos ⟨by simp [hwants], hpast⟩]
    · cases hwants : (t.bcast l).wants with
      | none => exact Blk.bcWaitAt_of_not_wants hturn hwants
      | some h => rw [Blk.bcWaitAt_of_wants hturn hwants, if_neg (by simp [hbefore])]
    · rw [Blk.bcHoldAt_of_turn hturn, if_neg (by simp [hbefore])]
    · exact Blk.bcWaitAt_of_not_wants hturn hwants
    · rw [Blk.bcHoldAt_of_turn hturn, if_neg (by simp [hwants])]

end Sys2Proof.Machine
end

section
/-!
PROOFS. The queue scheduler's own commands (R334, R337, R340 to R342, R345): what closing a frame, a strict pick, a turn of the wheels and
a sample come to, each said once and tied to `exec`, and the obligation put together from that.
-/

namespace Sys2Proof.Machine

/-- A command that acts once a time has passed leaves the units as they are before. -/
theorem Becomes.of_passed {i : Instr} {s : State} {b : Blk} {past : Bool} (h : Becomes i s (if past = true then b else s.blk)) :
    (past = true → Becomes i s b) ∧ (past = false → exec i s = .next (settle s)) := by
  cases past with
  | true => exact ⟨fun _ => h, nofun⟩
  | false => exact ⟨nofun, fun _ => h.exec_self⟩

/-! ### Queues -/

/-- The end of a command leaves every queue. -/
@[simp] theorem settle_q (s : State) (q : Nat) : (settle s).blk.q q = s.blk.q q := Blk.q_congr (by rw [settle_qsc]) q

/-- The open frame of a queue closes as a token frame of its tokens, for the queue's peer, which is then its last entry (R334). -/
theorem Blk.closeFrame_eq (s : Blk) (q : Nat) (h : (s.q q).openToks ≠ []) : ∃ f : Frame,
    s.closeFrame q = (s.modQ q (fun v => { v with openToks := [] })).putFrame q f ∧ f.ftype = ftToken ∧
      f.payload = (s.q q).openToks.flatMap Token.wire ∧ f.dst = (s.q q).peer ∧ f.dq = (s.q q).dq ∧ f.cls = s.qCls q :=
  ⟨_, if_neg (by simpa using h), rfl, rfl, rfl, rfl, rfl⟩

/-- A sample notes the present depth, the highest yet, and its own time (R342). -/
theorem Blk.qSample_q (s : Blk) (q : Nat) (since : Option Int) :
    ((s.qSample q since).q q).depth = (s.q q).depthNow ∧
      ((s.qSample q since).q q).hwmDepth = max (s.q q).hwmDepth (s.q q).depthNow ∧
      ((s.qSample q since).q q).sampAt = s.tclk ∧ ∀ p, p ≠ q → (s.qSample q since).q p = s.q p := by
  have hq : (s.qSample q since).q q = _ := (Blk.q_modQ s q q _).trans (if_pos rfl)
  refine ⟨?_, ?_, ?_, fun p hp => (Blk.q_modQ s q p _).trans (if_neg hp)⟩ <;> rw [hq]

/-! ### Picks -/

/-- The highest strict class with members sends: in a class but C1, which has its credit frames first, the member at which the round
stops (R337, R338). -/
theorem Blk.pick_of_strict {b c d : Blk} {p k q : Nat} (hc : c = [0, 1, 2].foldl (fun s k => s.refresh p k) b) (hk : k < 3)
    (hcredit : k ≠ 1) (hempty : ∀ j, j < k → Store.get [] c.qsc.active (8 * p + j) = [])
    (hlive : Store.get [] c.qsc.active (8 * p + k) ≠ [])
    (hround : Blk.roundHead (roundFuel (Store.get [] c.qsc.active (8 * p + k)).length) c (8 * p + k) = (some q, d)) :
    b.pick p = d.sendHead p q := by
  have hstrict : [0, 1, 2].find? (fun j => !(Store.get [] c.qsc.active (8 * p + j)).isEmpty) = some k :=
    List.find?_range_eq_some (n := 3).2 ⟨by simpa using hlive, by simpa using hk, fun j hj => by simp [hempty j hj]⟩
  simp only [Blk.pick, ← hc, hstrict, if_pos hcredit, hround]

/-! ### The wheels -/

/-- What a slot boundary does to a queue on a wheel (R341). -/
theorem Blk.wheelTurn_of_wheel {b : Blk} {q n : Nat} {e : Int} {coarse : Bool} (helig : (b.q q).elig = some e)
    (hwheel : (b.q q).wheel = some (coarse, n)) : b.wheelTurn q =
      if b.calOk q = true then b.modQ q (fun v => { v with wheel := none })
      else if coarse = true ∧ e / 4194304 ≤ b.cal / 4194304 then
        b.modQ q (fun v => { v with wheel := some (false, (e / 1024 % 4096).toNat) })
      else b := by
  simp only [Blk.wheelTurn, helig, hwheel]

/-! ### Meanings -/

section
variable {s : State} (hrun : s.blk.inReset = false)
include hrun

theorem becomes_tokenFrameClose {q : Nat} (hen : s.blk.qEn q = true) (hegress : s.blk.qEgress q = true)
    (hopen : (s.blk.q q).openToks ≠ []) : Becomes (.tokenFrameClose q) s
      (if s.blk.passed (s.blk.q q).openAt (s.blk.ns (fld (s.blk.reg (.qsc .QSC_PACK_NS)) 15 0)) = true then s.blk.closeFrame q
        else s.blk) :=
  .of_lift _ (show execTokenFrameClose q s = lift _ s from rfl) hrun (if_congr (by simp [hen, hegress, hopen]) rfl rfl)

theorem becomes_schedulerPick (p : Nat) :
    Becomes (.schedulerPick p) s (if s.blk.conf.pairs ≤ p then s.blk else s.blk.pick p) :=
  .of_lift _ (show execSchedulerPick p s = lift _ s from rfl) hrun rfl

theorem becomes_shaperSlot : Becomes .shaperSlot s (s.blk.qList.foldl Blk.wheelTurn s.blk).refreshAll :=
  .of_lift _ (show execShaperSlot s = lift _ s from rfl) hrun rfl

theorem becomes_queueSample {q : Nat} (hen : s.blk.qEn q = true) (hcls : 3 ≤ s.blk.qCls q) : Becomes (.queueSample q) s
    (if s.blk.passed (s.blk.q q).sampAt (s.blk.us 10) = true then s.blk.qSample q (s.blk.q q).headAt else s.blk) :=
  .of_lift _ (show execQueueSample q s = lift _ s from rfl) hrun (if_congr (by simp [hen, hcls]) rfl rfl)

/-- A credit frame is due after 100 µs, or earlier where LIMIT has advanced by a quarter of the grant (R345). -/
theorem becomes_creditAdvertise {i : Nat} {x : Flow} (hflow : Store.look s.blk.qsc.flows i = some x) (hrecv : x.recv = true) :
    Becomes (.creditAdvertise i) s
      (if s.blk.passed x.advAt (s.blk.us 100) = true ∨
          (x.grant ≤ 4 * (x.limitNow - x.advLimit).toNat ∧ 0 ≤ sdiff x.limitNow x.advLimit ∧
            s.blk.passed x.advAt (s.blk.ns (fld (s.blk.reg (.qsc .QSC_CRED_NS)) 15 0)) = true) then
        (s.blk.sendCredit x).modFlow i (fun x => { x with advLimit := x.limitNow, advAt := s.blk.tclk })
      else s.blk) := by
  refine .of_lift _ (show execCreditAdvertise i s = lift _ s from rfl) hrun ?_
  simp only [hflow]
  exact if_congr (by simp [hrecv, or_comm, and_assoc]) rfl rfl

end

/-! ### The obligation -/

/-- Settles O42: an open frame by its age, a pair that exists, the strict classes, the wheels, a sample by its age, a credit frame by
what LIMIT has gained and its age. -/
theorem queueScheduling : Obligations.QueueScheduling := by
  refine ⟨fun s q hrun hen hegress hopen => ?close, fun s p hrun => ?pick,
    fun b c d p k q hc hk hempty hlive hround => Blk.pick_of_strict hc (by omega) (by omega) hempty hlive hround,
    fun s b hrun hb => ?slot, fun b q e c n helig hwheel => ?wheel, fun s q hrun hen hcls => ?sample,
    fun s i x hrun hflow hrecv => ?credit⟩
  case close =>
    obtain ⟨hpast, hbefore⟩ := (becomes_tokenFrameClose hrun hen hegress hopen).of_passed
    refine ⟨fun h => (hpast h).gives ?_, hbefore⟩
    obtain ⟨f, hclose, htype, hpayload, hdst, hdq, hcls⟩ := s.blk.closeFrame_eq q hopen
    obtain ⟨sp, bs, u, hq, hother⟩ := (s.blk.modQ q (fun v => { v with openToks := [] })).putFrame_q q f
    rw [Blk.q_modQ, if_pos rfl] at hq
    refine ⟨{ f with spilled := sp, banks := bs }, ?_, ?_, htype, hpayload, hdst, hdq, hcls, fun p hp => ?_⟩ <;>
      rw [settle_q, hclose]
    · rw [hq]
    · rw [hq]
    · rw [hother p hp, Blk.q_modQ, if_neg hp]
  case pick =>
    have hb := becomes_schedulerPick hrun p
    exact ⟨fun hp => by rwa [if_neg (by omega)] at hb, fun hp => by rw [if_pos hp] at hb; exact hb.exec_self⟩
  case slot =>
    subst hb
    exact becomes_shaperSlot hrun
  case wheel =>
    rw [Blk.wheelTurn_of_wheel helig hwheel]
    refine ⟨fun hok => ?_, fun hok hcoarse hbegun => ?_, fun hok hwait => ?_⟩
    · rw [if_pos hok, Blk.q_modQ, if_pos rfl]
    · rw [if_neg (by simp [hok]), if_pos ⟨hcoarse, hbegun⟩, Blk.q_modQ, if_pos rfl]
    · rw [if_neg (by simp [hok]), if_neg]
      rintro ⟨rfl, hbegun⟩
      exact hwait.elim nofun hbegun.not_gt
  case sample =>
    obtain ⟨hpast, hbefore⟩ := (becomes_queueSample hrun hen hcls).of_passed
    refine ⟨fun h => (hpast h).gives ?_, hbefore⟩
    simp only [settle_q]
    exact s.blk.qSample_q q _
  case credit =>
    have hb := becomes_creditAdvertise hrun hflow hrecv
    refine ⟨fun hdue => by rwa [if_pos hdue] at hb, fun hlong hshort => ?_⟩
    rw [if_neg (by simp [hlong, hshort])] at hb
    exact hb.exec_self

end Sys2Proof.Machine
end

section
/-!
PROOFS. Frames that are taken and frames that are not (R17, R25, R37, R345, R346, R349, R475): what each check of a frame leaves, that
every command on a frame begins by taking it, and the obligation put together from that.
-/

namespace Sys2Proof.Machine

/-! ### Frames that are dropped -/

/-- A frame from a fenced sender, with a place that is none in its payload, or, at a die, from another die, or of collection control or
time that is not of its tray, is barred (R17, R25, R37). -/
theorem Blk.frameBarred_of (s : Blk) (g : Frame)
    (h : g.placesOk = false ∨ s.hlt.fenced.contains g.src = true ∨ (s.role = .die ∧ g.srole = 1) ∨
      (s.role = .die ∧ (g.ftype = ftCollctl ∨ g.ftype = ftTime) ∧ (g.src ≠ trayOf s.place ∨ g.srole ≠ 2))) :
    s.frameBarred g = true := by
  simp only [Blk.frameBarred]
  rcases h with hplaces | hfenced | ⟨hdie, hsrc⟩ | ⟨hdie, htype, hsrc⟩
  · simp [hplaces]
  · have hmem : g.src ∈ s.hlt.fenced := by simpa using hfenced
    simp [hmem]
  · simp [hdie, hsrc]
  · simp [hdie, htype, hsrc]

section
variable {s : Blk} {f : RxFrame} (hpair : f.pair < s.conf.pairs) (hcrd : Store.get 0 s.qsc.fiCrd f.pair ≠ 0)
include hpair hcrd

theorem Blk.takeFrame_of_bad {cause : Nat} {src : Word} (ty : Nat) (hparse : parseFrame f = .bad cause src) :
    s.takeFrame f ty = (s.frameBad f.pair src cause, none) := by
  simp only [Blk.takeFrame, if_neg hpair.not_ge, if_neg hcrd, hparse]

variable {g : Frame} (hparse : parseFrame f = .ok g)
include hparse

theorem Blk.takeFrame_of_misaddressed (hdst : g.dst ≠ s.place ∨ g.drole ≠ roleCode s.role) :
    s.takeFrame f g.ftype = (s.frameBad f.pair g.src 5, none) := by
  simp only [Blk.takeFrame, if_neg hpair.not_ge, if_neg hcrd, hparse, if_neg (not_not_intro rfl), if_pos hdst]

theorem Blk.takeFrame_of_barred (hdst : g.dst = s.place) (hrole : g.drole = roleCode s.role) (hbarred : s.frameBarred g = true) :
    s.takeFrame f g.ftype = (s.otherDrop, none) := by
  have haddressed : ¬ (g.dst ≠ s.place ∨ g.drole ≠ roleCode s.role) := by simp [hdst, hrole]
  simp only [Blk.takeFrame, if_neg hpair.not_ge, if_neg hcrd, hparse, if_neg (not_not_intro rfl), if_neg haddressed, if_pos hbarred]

end

/-! ### Commands on frames -/

/-- What a command does with the frame that is taken; without one, what the check left stands. -/
def afterTake (k : Blk → Taken → Blk) : Blk × Option Taken → Blk
  | (b, none) => b
  | (b, some tk) => k b tk

/-- A command on every frame of a type begins by taking it. -/
theorem WholeFrame.exec_eq {row : (RxFrame → Instr) × Nat} (h : WholeFrame row) (f : RxFrame) :
    ∃ k, ∀ s, exec (row.1 f) s = lift (fun b => afterTake k (b.takeFrame f row.2)) s := by
  rw [WholeFrame] at h
  fin_cases h <;> exact ⟨_, fun _ => rfl⟩

/-- A command on the frames of a type with one SUB begins by taking it. -/
theorem SubFrame.exec_eq {row : (RxFrame → Instr) × Nat × Nat} (h : SubFrame row) (f : RxFrame) :
    ∃ k, ∀ s, exec (row.1 f) s = lift (fun b => afterTake k (b.takeSub f row.2.1 row.2.2)) s := by
  rw [SubFrame] at h
  fin_cases h <;> exact ⟨_, fun _ => rfl⟩

theorem becomes_tokenFrameReceive {s : State} {f : RxFrame} {b : Blk} {tk : Taken} (h : Hears s f ftToken b tk) :
    Becomes (.tokenFrameReceive f) s (b.deliver tk) := by
  obtain ⟨hrun, htake⟩ := h
  refine .of_lift _ (show execTokenFrameReceive f s = lift _ s from rfl) hrun ?_
  simp only [htake]

theorem becomes_creditReceive {s : State} {f : RxFrame} {b : Blk} {tk : Taken} (h : Hears s f ftCredit b tk) :
    Becomes (.creditReceive f) s b.tdPollAll := by
  obtain ⟨hrun, htake⟩ := h
  refine .of_lift _ (show execCreditReceive f s = lift _ s from rfl) hrun ?_
  simp only [htake]

/-! ### The obligation -/

/-- Settles O43: a token frame, a credit frame, a frame that its command does not take, and why a frame is not taken. -/
theorem framesTaken : Obligations.FramesTaken := by
  refine ⟨fun s f b tk => becomes_tokenFrameReceive, fun s f b tk => becomes_creditReceive,
    fun row hrow s f b hrun htake => ?whole, fun row hrow s f b hrun htake => ?sub,
    fun s f ty cause src hpair hcrd hparse => Blk.takeFrame_of_bad hpair hcrd ty hparse,
    fun s f ty g hpair hcrd hparse htype => ?checks⟩
  case whole =>
    obtain ⟨k, hexec⟩ := hrow.exec_eq f
    exact .of_lift _ (hexec s) hrun (congrArg (afterTake k) htake)
  case sub =>
    obtain ⟨k, hexec⟩ := hrow.exec_eq f
    exact .of_lift _ (hexec s) hrun (congrArg (afterTake k) htake)
  case checks =>
    subst htype
    exact ⟨Blk.takeFrame_of_misaddressed hpair hcrd hparse, fun hdst hrole hbarred =>
      Blk.takeFrame_of_barred hpair hcrd hparse hdst hrole (s.blk.frameBarred_of g hbarred)⟩

end Sys2Proof.Machine
end

section
/-!
PROOFS. Re-keying and the skew detector (R350, R351): what a re-key and the end of a window leave, each said once and tied to `exec`, and
the obligation put together from that.
-/

namespace Sys2Proof.Machine

/-! ### Re-keying -/

/-- Without the security core a re-key is put off, and the first cause stays (Table 14-4). -/
theorem Blk.rekey_of_lost {s : Blk} (cause : Nat) (h : s.secLost = true) :
    s.rekey cause = s.modFwc (fun m => { m with deferRekey := some (m.deferRekey.getD cause) }) := if_pos h

/-- A re-key draws the salt and begins both intervals anew; the epoch counts (R350). -/
theorem Blk.rekey_of_present {s : Blk} (cause : Nat) (h : s.secLost = false) :
    (s.rekey cause).qsc = { s.qsc with salt := BitVec.ofNat 64 (Config.free s.draws), rekeyAt := s.tclk, rekeyBounds := 0 } ∧
      (s.rekey cause).reg (.qsc .QSC_SALT_EPOCH) = s.reg (.qsc .QSC_SALT_EPOCH) + 1 := by
  rw [Blk.rekey, if_neg (by simp [h])]
  exact ⟨rfl, Blk.reg_setReg _ _ _⟩

theorem becomes_rekeyMaxt {s : State} (hrun : s.blk.inReset = false) (hstage : 3 ≤ s.blk.boot.stage) : Becomes .rekeyMaxt s
    (if s.blk.passed s.blk.qsc.rekeyAt (s.blk.sec (s.blk.reg (.qsc .QSC_REKEY_MAXT)).toNat) = true then s.blk.rekey 1 else s.blk) :=
  .of_lift _ (show execRekeyMaxt s = lift _ s from rfl) hrun (if_congr (and_iff_left hstage) rfl rfl)

/-! ### Skew -/

/-- Banks of the queue store (R349). -/
def Blk.bankNum (s : Blk) : Nat := match s.conf with | .d => 16 | .a64 => 256

theorem Blk.bankNum_eq (s : Blk) : s.bankNum = if s.conf = .d then 16 else 256 := by
  unfold Blk.bankNum
  cases s.conf <;> rfl

/-- Whether a bank has had more than twice the mean of the banks in the window (R351). -/
def Blk.skewed (s : Blk) : Bool :=
  decide (2 * (s.qsc.banks.map Prod.snd).sum < (topBank s.qsc.banks).2 * s.bankNum)

/-- The window is booked, and the next begins (R351). -/
def Blk.nextWindow (s : Blk) : Blk :=
  s.modQsc (fun m => { m with banks := [], skewWin := s.cal / (tkSec : Nat), skew := s.skewed })

/-- Ratio of the busiest bank to the mean, in sixteenths (Table 11-3). -/
def Blk.skewRatio (s : Blk) : Nat := 16 * (topBank s.qsc.banks).2 * s.bankNum / (s.qsc.banks.map Prod.snd).sum

/-- A skewed window is booked and reported: its busiest bank, and the ratio to the mean (R351). -/
def Blk.skewReported (s : Blk) : Blk :=
  ((s.nextWindow.setReg (.qsc .QSC_SKEW_STAT) (w32 ((topBank s.qsc.banks).1 % 256 + (s.skewRatio % 65536) <<< 16))).count
    (.qsc .QSC_SKEW_CNT) 1).emit 0xC 0x0D01 (topBank s.qsc.banks).1 s.skewRatio

@[simp] theorem Blk.skewReported_qsc (s : Blk) : s.skewReported.qsc = s.nextWindow.qsc := rfl

@[simp] theorem Blk.nextWindow_reg (s : Blk) (r : Reg) : s.nextWindow.reg r = s.reg r := rfl

/-- A report of skew counts. -/
theorem Blk.skewReported_reg_cnt (s : Blk) : s.skewReported.reg (.qsc .QSC_SKEW_CNT) = satAdd (s.reg (.qsc .QSC_SKEW_CNT)) 1 := by
  have hstat : ∀ cf, (Reg.qsc .QSC_SKEW_CNT).addr cf ≠ (Reg.qsc .QSC_SKEW_STAT).addr cf := by rintro (_ | _) <;> decide
  rw [Blk.skewReported, Blk.emit_reg, Blk.count_reg, Blk.reg_setReg_ne _ _ _ _ (hstat _), Blk.nextWindow_reg]

/-- A report of skew leaves the scheduler's control. -/
theorem Blk.skewReported_reg_ctrl (s : Blk) : s.skewReported.reg (.qsc .QSC_CTRL) = s.reg (.qsc .QSC_CTRL) := by
  have hcnt : ∀ cf, (Reg.qsc .QSC_CTRL).addr cf ≠ (Reg.qsc .QSC_SKEW_CNT).addr cf := by rintro (_ | _) <;> decide
  have hstat : ∀ cf, (Reg.qsc .QSC_CTRL).addr cf ≠ (Reg.qsc .QSC_SKEW_STAT).addr cf := by rintro (_ | _) <;> decide
  rw [Blk.skewReported, Blk.emit_reg, Blk.reg_count_ne _ _ _ _ (hcnt _), Blk.reg_setReg_ne _ _ _ _ (hstat _), Blk.nextWindow_reg]

/-- What the end of a window comes to: nothing before it, a booking, a report of skew, and a re-key where QSC_CTRL asks for it (R351). -/
theorem becomes_skewWindowEnd {s : State} (hrun : s.blk.inReset = false) : Becomes .skewWindowEnd s
    (if s.blk.cal / (tkSec : Nat) ≤ s.blk.qsc.skewWin then s.blk
      else if (!s.blk.skewed) = true then s.blk.nextWindow
      else if bit (s.blk.skewReported.reg (.qsc .QSC_CTRL)) 1 = true then s.blk.skewReported.rekey 2
      else s.blk.skewReported) :=
  .of_lift _ (show execSkewWindowEnd s = lift _ s from rfl) hrun rfl

/-! ### The obligation -/

/-- Settles O44: a re-key by its age and by the security core, and a window by its end and by its busiest bank. -/
theorem rekeying : Obligations.Rekeying := by
  refine ⟨fun s hrun hstage => ?rekey, fun s n hrun hn => ?skew⟩
  case rekey =>
    obtain ⟨hpast, hbefore⟩ := (becomes_rekeyMaxt hrun hstage).of_passed
    refine ⟨fun h => ⟨fun hpresent => (hpast h).gives ?_, fun hlost => (hpast h).gives ?_⟩, hbefore⟩
    · obtain ⟨hqsc, hepoch⟩ := Blk.rekey_of_present 1 hpresent
      rw [settle_qsc, hqsc]
      exact ⟨(settle_reg _ _).trans hepoch, rfl, rfl, rfl⟩
    · simp [Blk.rekey_of_lost 1 hlost]
  case skew =>
    obtain rfl : n = s.blk.bankNum := hn.trans s.blk.bankNum_eq.symm
    have hb := becomes_skewWindowEnd hrun
    refine ⟨fun hrunning => ?_, fun hover heven => ?_, fun hover hctrl hhot => ?_⟩
    · rw [if_pos hrunning] at hb
      exact hb.exec_self
    · have hskewed : s.blk.skewed = false := decide_eq_false heven.not_gt
      rwa [if_neg hover.not_ge, if_pos (by simp [hskewed]), Blk.nextWindow, hskewed] at hb
    · have hskewed : s.blk.skewed = true := decide_eq_true hhot
      rw [if_neg hover.not_ge, if_neg (by simp [hskewed]), Blk.skewReported_reg_ctrl, if_neg (by simp [hctrl])] at hb
      refine hb.gives ?_
      rw [settle_qsc, Blk.skewReported_qsc]
      exact ⟨hskewed, rfl, (settle_reg _ _).trans s.blk.skewReported_reg_cnt⟩

end Sys2Proof.Machine
end

section
/-!
PROOFS. The recorder's invariant (R373 to R380): each change that a command makes to the recorder or to the snapshot network keeps them
well formed, so the control port and the end of a command do, and with them every command; the obligation put together from that.
-/

namespace Sys2Proof.Machine

/-! ### The recorder -/

theorem EvrState.good_reset : EvrState.reset.good := ⟨rfl, fun k => (decide_eq_false (by simp [EvrState.reset])).symm, rfl, nofun⟩

section
variable {v w : EvrState} (h : v.good)
include h

/-- A running flush covers records that have been written, and at most the ring (R377). -/
theorem EvrState.good.flush_within : ∀ f, v.flush = some f → f.first ≤ f.next ∧ f.next ≤ v.wcount ∧ f.next ≤ f.first + 8192 := by
  obtain ⟨_, _, _, hflush⟩ := h
  exact hflush

/-- The ring, the count of records and the buckets stand: only the running flush has to be looked at. -/
theorem EvrState.good.of_flush (hring : w.ring = v.ring) (hcount : w.wcount = v.wcount) (hbuckets : w.buckets = v.buckets)
    (hflush : ∀ f, w.flush = some f → f.first ≤ f.next ∧ f.next ≤ v.wcount ∧ f.next ≤ f.first + 8192) : w.good := by
  obtain ⟨hsorted, hlook, hwf, _⟩ := h
  refine ⟨hring ▸ hsorted, ?_, hbuckets ▸ hwf, hcount ▸ hflush⟩
  rwa [hring, hcount]

theorem EvrState.good.set_bucket (i : Nat) (b : Bucket) :
    { v with buckets := Store.set Bucket.full v.buckets i b }.good := by
  obtain ⟨hsorted, hlook, hwf, hflush⟩ := h
  exact ⟨hsorted, hlook, Store.wf_set _ _ _ _ hwf, hflush⟩

/-- One more record takes the place of its count, or that of the oldest one (R374). -/
theorem EvrState.good.push (r : BitVec 256) : (v.push r).good := by
  obtain ⟨hsorted, hlook, hwf, hflush⟩ := h
  refine ⟨Store.sorted_put _ _ _ hsorted, fun k => ?_, hwf, fun f hf => ?_⟩
  · show (Store.look (Store.put v.ring (v.wcount % 8192) r) k).isSome = decide (k < 8192 ∧ k < v.wcount + 1)
    rw [Store.look_put]
    split
    next hk => exact (decide_eq_true (by omega)).symm
    next hk => rw [hlook, decide_eq_decide]; omega
  · obtain ⟨hle, hwritten, hring⟩ := hflush f hf
    exact ⟨hle, hwritten.trans (Nat.le_succ _), hring⟩

/-- A flush that starts covers what the ring holds (R377). -/
theorem EvrState.good.start (c : BitVec 4) (k : BitVec 16) (t : Dword) (pw : Bool) (a : Nat) (err : Bool) :
    { v with flush := some ⟨c, k, t, v.wcount - 8192, v.wcount, pw, a, err⟩ }.good :=
  h.of_flush rfl rfl rfl (by rintro _ ⟨⟩; exact ⟨Nat.sub_le _ _, le_rfl, by simp only; omega⟩)

end

/-! ### The recorder and the snapshot network of a state -/

/-- A frozen set exists, and a latched one is that of a well-formed recorder and no younger than the count (R380). -/
def SnapState.good (n : SnapState) : Prop :=
  (n.frozen = true → n.set.isSome = true) ∧ ∀ l, n.set = some l → l.evr.good ∧ l.blk.raised = [] ∧ l.cnt ≤ n.cnt

theorem SnapState.good_reset : SnapState.reset.good := by simp [SnapState.good, SnapState.reset]

/-- The recorder and the snapshot network are well formed, whatever has been raised, and the commands `p` wait. -/
def State.Sound (p : List Instr) (s : State) : Prop := s.pending = p ∧ s.evr.good ∧ s.snap.good

theorem recorderInv_iff (s : State) : RecorderInv s ↔ s.blk.raised = [] ∧ s.Sound s.pending :=
  ⟨fun ⟨hraised, hevr, hsnap⟩ => ⟨hraised, rfl, hevr, hsnap⟩, fun ⟨hraised, _, hevr, hsnap⟩ => ⟨hraised, hevr, hsnap⟩⟩

variable {p : List Instr} {s : State}

theorem sound_modBlk (f : Blk → Blk) : (s.modBlk f).Sound p ↔ s.Sound p := Iff.rfl

theorem State.Sound.modEvr (h : s.Sound p) {f : EvrState → EvrState} (hf : s.evr.good → (f s.evr).good) : (s.modEvr f).Sound p := by
  obtain ⟨hpending, hevr, hsnap⟩ := h
  exact ⟨hpending, hf hevr, hsnap⟩

theorem State.Sound.modSnap (h : s.Sound p) {f : SnapState → SnapState} (hf : s.snap.good → (f s.snap).good) : (s.modSnap f).Sound p := by
  obtain ⟨hpending, hevr, hsnap⟩ := h
  exact ⟨hpending, hevr, hf hsnap⟩

/-- Records of a flush are written to XM. -/
theorem State.Sound.flushRecords (h : s.Sound p) (f a n : Nat) : (s.flushRecords f a n).Sound p := by
  obtain ⟨hpending, hevr, hsnap⟩ := h
  obtain ⟨_, _, hquiet⟩ := quiet_flushRecords s f a n
  exact ⟨hquiet.trans hpending, s.flushRecords_evr f a n ▸ hevr, s.flushRecords_snap f a n ▸ hsnap⟩

/-- A flush that starts leaves the snapshot network and covers what the ring holds. -/
theorem State.Sound.flushStart (h : s.Sound p) (c : BitVec 4) (k : BitVec 16) (t : Dword) : (s.flushStart c k t).Sound p := by
  obtain ⟨hpending, hevr, hsnap⟩ := h
  obtain ⟨a, heq⟩ := s.flushStart_evr c k t
  obtain ⟨_, _, hquiet⟩ := quiet_flushStart s c k t
  exact ⟨hquiet.trans hpending, heq ▸ hevr.start _ _ _ _ _ _, (s.flushStart_snap c k t).symm ▸ hsnap⟩

/-- What a running flush has not yet covered is written too, as far as the ring still holds it (R378). -/
theorem State.Sound.flushTrigger (h : s.Sound p) (c : BitVec 4) (k : BitVec 16) : (s.flushTrigger c k).Sound p := by
  unfold State.flushTrigger
  split
  · exact h
  split
  · exact h.flushStart _ _ _
  next f hf =>
    split
    · refine (h.flushRecords _ _ _).modEvr (fun hv => hv.of_flush rfl rfl rfl ?_)
      obtain ⟨_, hevr, _⟩ := h
      obtain ⟨hle, hwritten, hring⟩ := hevr.flush_within f hf
      rintro _ ⟨⟩
      simp only [State.flushRecords_evr]
      omega
    · exact h.modEvr (fun hv => hv.of_flush rfl rfl rfl hv.flush_within)

theorem State.Sound.latch (h : s.Sound p) (src : Nat) (arg : Word) : (s.latch src arg).2.Sound p := by
  unfold State.latch
  split
  · exact h
  split
  · exact h.modSnap id
  · obtain ⟨hpending, hevr, hsnap⟩ := h
    exact ⟨hpending, hevr, fun _ => rfl, by rintro _ ⟨⟩; exact ⟨hevr, rfl, le_rfl⟩⟩

/-- Every part of the recorder and of the snapshot network keeps them well formed. -/
theorem kept_sound (p : List Instr) : Kept (State.Sound p) where
  flush _ c k h := h.flushTrigger c k
  latch _ src arg h := h.latch src arg
  pass _ i _ h _ := ((sound_modBlk _).2 h).modEvr (fun hv => (hv.push _).set_bucket i _)
  supp _ i h := h.modEvr (fun hv => (hv.set_bucket i _).of_flush rfl rfl rfl hv.flush_within)
  tot _ _ h := h.modEvr (fun hv => hv.of_flush rfl rfl rfl hv.flush_within)

theorem State.Sound.settle (h : s.Sound p) : (settle s).Sound p := (kept_sound p).settle s (fun _ => id) h

/-- At the end of a command that has left them well formed the invariant holds. -/
theorem State.Sound.recorderInv_settle (h : s.Sound p) :
    (Machine.settle s).pending = p ∧ RecorderInv (Machine.settle s) :=
  ⟨h.settle.1, (recorderInv_iff _).2 ⟨settle_raised s, h.settle.1 ▸ h.settle⟩⟩

/-! ### The control port -/

section
variable (h : s.Sound p)
include h

theorem State.Sound.answer (r : Resp) (v : Word) (poi : Bool) : (s.answer r v poi).Sound p := by
  unfold State.answer
  exact (sound_modBlk _).2 h

theorem State.Sound.unhold (a : Access) : (s.unhold a).Sound p := by
  unfold State.unhold
  exact (sound_modBlk _).2 h

theorem State.Sound.nak (a : Access) (x : Nat) (we al : Bool) (r : Resp) : (s.nak a x we al r).Sound p := by
  unfold State.nak
  exact ((sound_modBlk _).2 h).answer _ _ _

theorem State.Sound.clearWord (a : Nat) : (s.clearWord a).Sound p := by
  unfold State.clearWord
  exact (sound_modBlk _).2 h

/-- A write of a code slot fills its bucket or leaves the recorder (R373). -/
theorem State.Sound.writeSlot (i : Nat) (r : Reg) (m : Word) : (s.writeSlot i r m).Sound p := by
  unfold State.writeSlot
  exact iteInduction (motive := State.Sound p)
    (fun _ => ((sound_modBlk _).2 h).modEvr (f := fun v => { v with buckets := Store.set Bucket.full v.buckets i _ })
      (fun hv => hv.set_bucket i _)) (fun _ => (sound_modBlk _).2 h)

/-- Of all writes only those of code slots reach the recorder. -/
theorem State.Sound.writeReg (a : Access) (r : Reg) (v : Word) : (s.writeReg a r v).Sound p := by
  unfold State.writeReg
  split
  iterate 3 exact h
  · exact (sound_modBlk _).2 h
  · split
    · exact h.writeSlot _ _ _
    · exact h.writeSlot _ _ _
    · exact (sound_modBlk _).2 h

/-- A unit reset takes the recorder or the snapshot network back to its reset state (R360). -/
theorem State.Sound.wrUnitReset (v : Word) : (s.wrUnitReset v).Sound p := by
  unfold State.wrUnitReset
  exact iteInduction (motive := State.Sound p)
    (fun _ => ((sound_modBlk _).2 h).modEvr (fun _ => EvrState.good_reset))
    (fun _ => iteInduction (motive := State.Sound p)
      (fun _ => ((sound_modBlk _).2 h).modSnap (fun _ => SnapState.good_reset)) (fun _ => (sound_modBlk _).2 h))

/-- A release unfreezes the set, which stays latched (R380). -/
theorem State.Sound.wrRelease (v : Word) : (s.wrRelease v).Sound p := by
  unfold State.wrRelease
  split
  · exact h.modSnap (fun ⟨_, hset⟩ => ⟨nofun, hset⟩)
  · exact h

theorem State.Sound.guardApply (r : Reg) (v : Word) : (s.guardApply r v).Sound p := by
  unfold State.guardApply
  split
  case h_2 => exact h.wrUnitReset _
  case h_8 => exact ((sound_modBlk _).2 h).wrRelease _
  case h_9 => exact h
  all_goals exact (sound_modBlk _).2 h

theorem State.Sound.readClear (r : Reg) : (s.readClear r).Sound p := by
  unfold State.readClear
  split
  case h_6 => exact h.modEvr (fun hv => hv.of_flush rfl rfl rfl hv.flush_within)
  case h_7 => exact h.modSnap id
  all_goals exact (sound_modBlk _).2 h

theorem State.Sound.clearRead (t : Target) : (s.clearRead t).Sound p := by
  unfold State.clearRead
  split
  · split
    · exact (h.readClear _).clearWord _
    · exact h
  · exact h

theorem State.Sound.give (x w : Nat) (v : Word) : (s.give x w v).Sound p := by
  unfold State.give
  split
  · exact ((sound_modBlk _).2 h).answer _ _ _
  · exact h.answer _ _ _

theorem State.Sound.aliasWrite (a : Access) (x : Nat) (v : Word) : (s.aliasWrite a x v).Sound p := by
  unfold State.aliasWrite
  have hu := h.unhold a
  dsimp only
  split
  · exact hu.nak _ _ _ _ _
  split
  · exact hu.nak _ _ _ _ _
  split
  · split
    · exact hu.nak _ _ _ _ _
    · exact hu.answer _ _ _
    · exact hu.answer _ _ _
    · exact State.Sound.answer (iteInduction (fun _ => hu) (fun _ => hu.writeReg _ _ _)) _ _ _
    · split
      · exact hu.nak _ _ _ _ _
      · exact iteInduction (motive := State.Sound p) (fun _ => ((sound_modBlk _).2 hu).answer _ _ _)
          (fun _ => (hu.writeReg _ _ _).answer _ _ _)
  · exact hu.answer _ _ _

theorem State.Sound.cpWrite (a : Access) (x : Nat) (v : Word) : (s.cpWrite a x v).Sound p := by
  unfold State.cpWrite
  have hu := h.unhold a
  dsimp only
  split
  · exact hu.nak _ _ _ _ _
  split
  · exact h.aliasWrite _ _ _
  split
  next w _ =>
    split
    · split
      next r _ =>
        split
        · exact hu.nak _ _ _ _ _
        split
        · exact hu.nak _ _ _ _ _
        · exact ((hu.guardApply r w.value).clearWord w.addr).answer _ _ _
      next => exact hu.answer _ _ _
    · exact iteInduction (fun _ => hu.nak _ _ _ _ _) (fun _ =>
        iteInduction (fun _ => hu.nak _ _ _ _ _) (fun _ => hu.nak _ _ _ _ _))
  next =>
    refine iteInduction (fun _ => h.nak _ _ _ _ _) (fun _ => iteInduction (fun _ => h.nak _ _ _ _ _) (fun _ => ?_))
    split
    · split
      · exact ((sound_modBlk _).2 h).answer _ _ _
      split
      · exact h.nak _ _ _ _ _
      · exact ((h.writeReg _ _ _).clearWord _).answer _ _ _
    · exact h.answer _ _ _
    · exact iteInduction (fun _ => h.nak _ _ _ _ _) (fun _ => h.answer _ _ _)

theorem State.Sound.cpRead (a : Access) (x : Nat) : (s.cpRead a x).Sound p := by
  unfold State.cpRead
  have hu := h.unhold a
  refine iteInduction (fun _ => hu.nak _ _ _ _ _) (fun _ => ?_)
  dsimp only
  refine iteInduction (fun _ => hu.nak _ _ _ _ _) (fun _ => iteInduction (fun _ => hu.nak _ _ _ _ _) (fun _ => ?_))
  exact State.Sound.give (iteInduction (fun _ => hu) (fun _ => hu.clearRead _)) _ _ _

theorem State.Sound.cpReg (a : Access) (r : Reg) (v : Word) : (s.cpReg a r v).Sound p := by
  unfold State.cpReg
  dsimp only
  split
  · exact iteInduction (fun _ => h.cpWrite _ _ _) (fun _ => h)
  · exact h.cpWrite _ _ _

/-! ### Flushes -/

theorem State.Sound.flushHeld : s.flushHeld.Sound p := by
  unfold State.flushHeld
  split
  · split
    · exact h
    · exact (h.modEvr (fun hv => hv.of_flush rfl rfl rfl hv.flush_within)).flushStart _ _ _
  · exact h

end

/-! ### Commands -/

/-- A meaning answers a next state, with the commands that wait as they were, and keeps the recorder's invariant. -/
def KeepsRecorder (m : State → Host.Outcome State Fault Refusal) : Prop :=
  ∀ s, RecorderInv s → ∃ t, m s = .next t ∧ t.pending = s.pending ∧ RecorderInv t

/-- A command on more than the units has to leave the recorder and the snapshot network well formed. -/
theorem keepsRecorder_liftS {f : State → State} (hf : ∀ p s, s.Sound p → (f s).Sound p) : KeepsRecorder (liftS f) := by
  intro s h
  unfold liftS
  split
  · exact ⟨s, rfl, rfl, h⟩
  · obtain ⟨_, hsound⟩ := (recorderInv_iff s).1 h
    exact ⟨_, rfl, (hf _ s hsound).recorderInv_settle⟩

/-- A command on the units cannot do otherwise. -/
theorem keepsRecorder_lift (f : Blk → Blk) : KeepsRecorder (lift f) :=
  keepsRecorder_liftS (f := fun s => { s with blk := f s.blk }) (fun _ _ h => h)

/-- A frame of collection control acts on the units alone. -/
theorem keepsRecorder_takeCtl (sub : Nat) (r : RxFrame) (f : Blk → Frame → Blk) : KeepsRecorder (takeCtl sub r f) :=
  keepsRecorder_lift _

theorem keepsRecorder_cpReg (a : Access) (r : Reg) (v : Word) : KeepsRecorder (liftS fun s => s.cpReg a r v) :=
  keepsRecorder_liftS (fun _ _ h => h.cpReg a r v)

theorem keepsRecorder_cpPair (a : Access) (r : Reg) (v : Word) : KeepsRecorder (liftS fun s => s.cpPair a r v) :=
  keepsRecorder_liftS (fun _ s h => h.cpWrite a (r.addr s.blk.conf + 0x800) (~~~v))

theorem keepsRecorder_cpWrite (a : Access) (x : Nat) (v : Word) : KeepsRecorder (liftS fun s => s.cpWrite a x v) :=
  keepsRecorder_liftS (fun _ _ h => h.cpWrite a x v)

theorem keepsRecorder_cpRead (a : Access) (x : Nat) : KeepsRecorder (liftS fun s => s.cpRead a x) :=
  keepsRecorder_liftS (fun _ _ h => h.cpRead a x)

theorem keepsRecorder_resetAssert : KeepsRecorder execResetAssert := fun _ h => ⟨_, rfl, rfl, h⟩

/-- At the release of reset the recorder and the snapshot network are empty. -/
theorem keepsRecorder_resetRelease : KeepsRecorder execResetRelease := by
  intro s h
  unfold execResetRelease
  dsimp only
  split
  · exact ⟨s, rfl, rfl, h⟩
  · exact ⟨_, rfl, rfl, (recorderInv_iff _).2 ⟨rfl, rfl, EvrState.good_reset, SnapState.good_reset⟩⟩

/-- An error is noted in the running flush, whose records stand (R378). -/
theorem keepsRecorder_xmWriteComplete (tag : Nat) (err : Bool) : KeepsRecorder (execXmWriteComplete tag err) := by
  refine keepsRecorder_liftS (fun p s h => ?_)
  have hb : (s.modBlk (fun b => b.xmWritten tag err)).Sound p := h
  refine iteInduction (fun _ => hb.modEvr (fun hv => hv.of_flush rfl rfl rfl (fun f hf => ?_))) (fun _ => hb)
  obtain ⟨g, hg, rfl⟩ := Option.map_eq_some_iff.1 hf
  exact hv.flush_within g hg

theorem keepsRecorder_flushComplete : KeepsRecorder execFlushComplete := by
  refine keepsRecorder_liftS (fun p s h => ?_)
  dsimp only
  split
  · exact h
  · exact State.Sound.flushHeld (State.Sound.settle ((sound_modBlk _).2
      (State.Sound.modEvr ((sound_modBlk _).2 h) (fun hv => hv.of_flush rfl rfl rfl nofun))))

theorem keepsRecorder_tlPwrWarnNHigh : KeepsRecorder execTlPwrWarnNHigh := by
  refine keepsRecorder_liftS (fun p s h => ?_)
  dsimp only
  have hb := h.modEvr (f := fun v => { v with flushedPw := false }) (fun hv => hv.of_flush rfl rfl rfl hv.flush_within)
  split
  · exact State.Sound.flushStart (State.Sound.modEvr ((sound_modBlk _).2 hb)
      (fun hv => hv.of_flush rfl rfl rfl hv.flush_within)) _ _ _
  · exact (sound_modBlk _).2 hb

/-- Every command keeps the recorder's invariant: the writes of one register, the second writes of a pair, the five commands that act on
the recorder or on reset as such, and all others, which act on the units alone. -/
theorem keepsRecorder_exec (c : Instr) : KeepsRecorder (exec c) := by
  cases c
  case bootGo | versionCheck | servoOffsetPost | rateNomWrite | holdEnter | leapAtWrite | leapKindWrite | stampFifoPop |
      triggerArm | trnMark | trackerEnable | trackerDisable | counterWrite | groupClear | probeEnable | probeDisable |
      channelDisable | digestStoreClear | samplerEnable | recordPathEnable | htEnable | localQueueWrite | fwFreeze |
      fwRelease | traceEnable | debugAuthGo | debugGrantRevoke | linkReport | modelLoad | rekeyNow | eventInject | flushNow |
      snapshotTrigger | watchAdd | ceReport | retireConfirm | guardRebuild | updateGo | collectionStartRequest | teardownRequest =>
    exact keepsRecorder_cpReg _ _ _
  case bootRerun | timeStep | unitReset | snapshotRelease | manualStress | hostFence | hostLift | clusterDisable |
      licenceInstall =>
    exact keepsRecorder_cpPair _ _ _
  case registerWrite a x v | bitAliasWrite a x v => exact keepsRecorder_cpWrite a x v
  case registerRead a x | readClear a x => exact keepsRecorder_cpRead a x
  case xmWriteComplete tag err => exact keepsRecorder_xmWriteComplete tag err
  case flushComplete => exact keepsRecorder_flushComplete
  case tlPwrWarnNHigh => exact keepsRecorder_tlPwrWarnNHigh
  case resetAssert => exact keepsRecorder_resetAssert
  case resetRelease => exact keepsRecorder_resetRelease
  case collctlStart | collctlAck | collctlWait | collctlRereach | collctlCommit | collctlAbort | collctlOutcome | collctlEffective |
      collctlTeardown | collctlTdDone =>
    unfold exec
    exact keepsRecorder_takeCtl _ _ _
  all_goals
    unfold exec
    exact keepsRecorder_lift _

/-- A tclk acts on the units alone (log 4). -/
theorem tick_keeps (s : State) (h : RecorderInv s) : s.tick.pending = s.pending ∧ RecorderInv s.tick := by
  unfold State.tick
  split
  · exact ⟨rfl, h⟩
  · obtain ⟨_, hsound⟩ := (recorderInv_iff s).1 h
    exact State.Sound.recorderInv_settle (s := { s with blk := s.blk.tick }) hsound

/-! ### The obligation -/

/-- Settles O60: a step is a tclk or the command at the front, and both keep the invariant. -/
theorem recorderKept : Obligations.RecorderKept := by
  intro s h
  unfold step
  split
  next hp =>
    obtain ⟨hpending, hinv⟩ := tick_keeps s h
    exact ⟨s.tick, rfl, by rw [hpending, hp]; rfl, hinv⟩
  next c rest hp =>
    rw [hp]
    exact keepsRecorder_exec c { s with pending := rest } h

end Sys2Proof.Machine
end

section
/-!
PROOFS. Flushes, snapshots and the power-warning line (R376 to R380): what of the recorder and of the snapshot network the end of a
command cannot change any more, what each command comes to, and the obligation put together from that.
-/

namespace Sys2Proof.Machine

/-! ### What the end of a command leaves of the recorder and of the snapshot network -/

/-- A flush trigger leaves the snapshot network. -/
theorem State.flushTrigger_snap (s : State) (c : BitVec 4) (k : BitVec 16) : (s.flushTrigger c k).snap = s.snap := by
  unfold State.flushTrigger
  split
  · rfl
  split
  · exact s.flushStart_snap _ _ _
  · split
    · exact s.flushRecords_snap _ _ _
    · rfl

/-- A flush trigger changes of the recorder only which flush runs and which is held. -/
theorem State.flushTrigger_evr (s : State) (c : BitVec 4) (k : BitVec 16) :
    ∃ f h, (s.flushTrigger c k).evr = { s.evr with flush := f, held := h } := by
  unfold State.flushTrigger
  split
  · exact ⟨_, _, rfl⟩
  split
  · obtain ⟨a, ha⟩ := s.flushStart_evr c k s.blk.t64
    exact ⟨_, _, ha⟩
  · split
    · simp only [State.modEvr, State.flushRecords_evr]
      exact ⟨_, _, rfl⟩
    · exact ⟨_, _, rfl⟩

/-- A snapshot trigger leaves the recorder. -/
theorem State.latch_evr (s : State) (src : Nat) (arg : Word) : (s.latch src arg).2.evr = s.evr := by
  unfold State.latch
  split
  · rfl
  · split <;> rfl

/-- A flush trigger leaves a running flush running; a power warning marks it as such and extends it (R378). -/
theorem State.flushTrigger_flush (s : State) (c : BitVec 4) (k : BitVec 16) {f : Flush} (hf : s.evr.flush = some f) :
    ∃ g, (s.flushTrigger c k).evr.flush = some g ∧ (g = f ∨ g.pw = true) := by
  unfold State.flushTrigger
  split
  · exact ⟨f, hf, .inl rfl⟩
  rw [hf]
  dsimp only
  split
  · exact ⟨_, rfl, .inr rfl⟩
  · exact ⟨f, hf, .inl rfl⟩

/-- What no flush trigger, no record and no bucket touches stays. -/
theorem kept_evr {α : Type} (g : EvrState → α) (x : α) (hflush : ∀ v f h, g { v with flush := f, held := h } = g v)
    (hpush : ∀ v r, g (v.push r) = g v) (hsupp : ∀ v b n, g { v with buckets := b, suppTot := n } = g v) :
    Kept (fun s => g s.evr = x) where
  flush s c k h := by
    obtain ⟨f, o, heq⟩ := s.flushTrigger_evr c k
    rw [heq, hflush, h]
  latch s src arg h := by rw [State.latch_evr, h]
  pass s i e h _ := (hsupp _ _ _).trans ((hpush _ _).trans h)
  supp s i h := (hsupp _ _ _).trans h
  tot s n h := (hsupp _ _ _).trans h

/-- A running flush keeps running, and a power warning's flush stays one. -/
theorem kept_flushing (q : Flush → Prop) (hpw : ∀ f, f.pw = true → q f) : Kept (fun s => ∃ f, s.evr.flush = some f ∧ q f) where
  flush s c k h := by
    obtain ⟨f, hf, hq⟩ := h
    obtain ⟨g, hg, rfl | hw⟩ := s.flushTrigger_flush c k hf
    · exact ⟨g, hg, hq⟩
    · exact ⟨g, hg, hpw g hw⟩
  latch s src arg h := by rwa [State.latch_evr]
  pass _ _ _ h _ := h
  supp _ _ h := h
  tot _ _ h := h

/-- A frozen set stays whatever triggers come (R380). -/
theorem kept_frozen (o : Option Latched) (n : Nat) :
    Kept (fun s => s.snap.frozen = true ∧ s.snap.set = o ∧ s.snap.cnt = n) where
  flush s c k h := by rwa [State.flushTrigger_snap]
  latch s src arg h := by
    obtain ⟨hfrozen, hset, hcnt⟩ := h
    rw [State.latch, if_pos hfrozen]
    split <;> exact ⟨hfrozen, hset, hcnt⟩
  pass _ _ _ h _ := h
  supp _ _ h := h
  tot _ _ h := h

/-- Flush triggers come first: what holds after the first of the raises, a flush trigger, holds at the end (R376). -/
theorem Kept.takeRaised_flush {P : State → Prop} (hP : Kept P) {s : State} {c : BitVec 4} {k : BitVec 16} (rs : List Raise)
    (h : P (s.flushTrigger c k)) : P (s.takeRaised (.flush c k :: rs)) := by
  unfold State.takeRaised
  exact hP.foldEv _ _ (hP.snapAll _ _ (hP.snapAll _ _ (hP.flushAll _ rs h)))

/-- What holds after the only raise, a snapshot trigger, holds at the end (R379). -/
theorem Kept.takeRaised_snap {P : State → Prop} (hP : Kept P) {s : State} {src : Nat} {arg : Word}
    (h : P (s.latch src arg).2) : P (s.takeRaised [.snap src arg]) := by
  have hall : P (s.snapAll [(src, arg)]).2 := by
    unfold State.snapAll
    split <;> rename_i heq <;> rw [heq] at h <;> exact h
  unfold State.takeRaised
  exact hP.foldEv _ _ (hP.snapAll _ _ hall)

/-- The end of a command that has raised something. -/
theorem settle_of_raised {s : State} {rs : List Raise} (h : s.blk.raised = rs) (hne : rs ≠ []) :
    settle s = (s.modBlk Blk.calm).takeRaised rs := by
  subst h
  rw [settle, if_neg (by simpa using hne)]

/-! ### The end of a flush -/

theorem State.flushHeld_evr (s : State) : ∃ f h, s.flushHeld.evr = { s.evr with flush := f, held := h } := by
  unfold State.flushHeld
  split
  · split
    · exact ⟨_, _, rfl⟩
    · obtain ⟨a, ha⟩ := State.flushStart_evr (s.modEvr (fun v => { v with held := none })) _ _ _
      exact ⟨_, _, ha⟩
  · exact ⟨_, _, rfl⟩

/-- Number of the next flush, FLUSH_ERR, and whether a power warning's flush has completed. -/
def EvrState.flushed (v : EvrState) : Nat × Bool × Bool := (v.flushSeq, v.flushErr, v.flushedPw)

theorem settle_flushed (s : State) : (settle s).evr.flushed = s.evr.flushed :=
  (kept_evr EvrState.flushed s.evr.flushed (fun _ _ _ => rfl) (fun _ _ => rfl) (fun _ _ _ => rfl)).settle s (fun _ => id) rfl

theorem State.flushHeld_flushed (s : State) : s.flushHeld.evr.flushed = s.evr.flushed := by
  obtain ⟨f, h, heq⟩ := s.flushHeld_evr
  rw [heq]
  rfl

/-- Flush `f` is complete: its header is written, it is counted, and EVR_FLUSH is raised (R377, R378). -/
def State.flushEnded (s : State) (f : Flush) : State :=
  ((s.modBlk (fun b => b.xmWrite (b.flushSlot s.evr.flushSeq) (s.flushHeader f) false)).modEvr (fun v => { v with
    flush := none, flushSeq := s.evr.flushSeq + 1, flushErr := f.err, flushedPw := v.flushedPw || f.pw })).modBlk
    (fun b => b.emit 0xE 0x0F01 s.evr.flushSeq (f.cause.toNat + f.code.toNat <<< 16))

theorem State.flushEnded_flushed (s : State) (f : Flush) :
    (s.flushEnded f).evr.flushed = (s.evr.flushSeq + 1, f.err, s.evr.flushedPw || f.pw) := by
  rw [State.flushEnded, State.modBlk_evr, State.modEvr_evr, State.modBlk_evr]
  rfl

/-- FLUSH_COMPLETE ends the running flush, and then a held one starts. -/
theorem exec_flushComplete {s : State} {f : Flush} (hrun : s.blk.inReset = false) (hf : s.evr.flush = some f) :
    exec .flushComplete s = .next (settle (settle (s.flushEnded f)).flushHeld) := by
  refine (show exec .flushComplete s = execFlushComplete s from rfl).trans ?_
  rw [execFlushComplete, liftS_next _ s hrun]
  simp only [hf, State.flushEnded]

theorem exec_flushComplete_of_none {s : State} (hrun : s.blk.inReset = false) (hf : s.evr.flush = none) :
    exec .flushComplete s = .next (settle s) := by
  refine (show exec .flushComplete s = execFlushComplete s from rfl).trans ?_
  rw [execFlushComplete, liftS_next _ s hrun]
  simp only [hf]

/-- The header of a flush is 64 bytes and begins with the FMT word (Table 12-8). -/
theorem State.flushHeader_form (s : State) (f : Flush) : (s.flushHeader f).length = 64 ∧ leAt (s.flushHeader f) 0 4 = 0x45560001 := by
  unfold State.flushHeader
  refine ⟨by simp only [List.length_append, length_leBytes], ?_⟩
  simp only [List.append_assoc]
  exact leAt_leBytes [] _ 4 _

/-! ### Snapshots -/

/-- TL_SNAP asks for a snapshot while TLSNAP_EN is 1. -/
theorem becomes_tlSnap {s : State} (hrun : s.blk.inReset = false) :
    Becomes .tlSnap s (if bit (s.blk.reg (.snp .SNP_CTRL)) 1 then s.blk.snapReq 3 0 else s.blk) :=
  .of_lift _ (show execTlSnap s = lift _ s from rfl) hrun rfl

/-- A latch while no set is frozen (R379): the set is the units and the recorder as they stand. -/
theorem State.latch_of_free {s : State} (src : Nat) (arg : Word) (hen : bit (s.blk.reg (.snp .SNP_CTRL)) 0 = true)
    (hfree : s.snap.frozen = false) : ∃ l : Latched, l.src = src ∧ l.arg = arg ∧ l.t64 = s.blk.t64 ∧ l.evr = s.evr ∧
      l.blk.regs = s.blk.regs ∧ (s.latch src arg).2.snap.frozen = true ∧ (s.latch src arg).2.snap.set = some l ∧
      (s.latch src arg).2.snap.cnt = s.snap.cnt + 1 := by
  rw [State.latch, if_neg (by simp [hen]), if_neg (by simp [hfree])]
  exact ⟨_, rfl, rfl, rfl, rfl, rfl, rfl, rfl, rfl⟩

/-- The end of a command that has asked for a snapshot and raised nothing else. -/
theorem settle_snapReq {s : State} (hcalm : s.blk.raised = []) (src : Nat) (arg : Word) :
    settle { s with blk := s.blk.snapReq src arg } = s.takeRaised [.snap src arg] := by
  rw [settle_of_raised (rs := [.snap src arg]) (by simp [Blk.snapReq, hcalm]) (List.cons_ne_nil _ _)]
  congr 1
  obtain ⟨_, ⟨⟩, _, _⟩ := s
  cases hcalm
  rfl

/-! ### The power-warning line -/

/-- The line has been high for 10 ms (R378, R426). -/
def State.warnOver (s : State) : State :=
  (s.modEvr (fun v => { v with flushedPw := false })).modBlk (fun b => b.modPwr (fun m =>
    { m with warnLow := false, lastCond := if m.warnLow then max m.lastCond (b.tclk - b.ms 10) else m.lastCond }))

/-- TL_PWR_WARN_N_HIGH lets flushes start again, and a held one starts. -/
theorem exec_tlPwrWarnNHigh {s : State} (hrun : s.blk.inReset = false) :
    exec .tlPwrWarnNHigh s = .next (settle s.warnOver.flushHeld) := by
  refine (show exec .tlPwrWarnNHigh s = execTlPwrWarnNHigh s from rfl).trans ?_
  rw [execTlPwrWarnNHigh, liftS_next _ s hrun, State.flushHeld, State.warnOver]
  simp only [State.modBlk_evr, State.modEvr_evr]
  cases s.evr.flush <;> cases s.evr.held <;> simp

theorem quiet_flushHeld (s : State) : Quiet s s.flushHeld := by
  unfold State.flushHeld
  split
  · split
    · exact .refl s
    · exact (quiet_modEvr _ _).trans (quiet_flushStart _ _ _ _)
  · exact .refl s

theorem Quiet.pwr_eq {s t : State} (h : Quiet s t) : t.blk.pwr = s.blk.pwr := by
  obtain ⟨hunits, _, _⟩ := h
  exact congrArg (fun b => b.pwr) hunits

/-- A held flush starts where none runs and no power warning's flush has completed (R378). -/
theorem State.flushHeld_flush {s : State} (hidle : s.evr.flush = none) (hheld : s.evr.held.isSome = true)
    (hagain : s.evr.flushedPw = false) : ∃ f, s.flushHeld.evr.flush = some f := by
  obtain ⟨h, hh⟩ := Option.isSome_iff_exists.1 hheld
  obtain ⟨a, ha⟩ := State.flushStart_evr (s.modEvr (fun v => { v with held := none })) h.cause h.code h.t64
  simp only [State.flushHeld, hidle, hh, hagain, Bool.false_eq_true, if_false]
  exact ⟨_, congrArg EvrState.flush ha⟩

/-- A power warning starts a flush of its own kind, or makes the running one such (R378). -/
theorem State.flushTrigger_pw {s : State} {c : BitVec 4} (k : BitVec 16) (hen : s.blk.flushEn = true)
    (hagain : s.evr.flushedPw = false) (hc : c.getLsbD 1 = true) :
    ∃ f, (s.flushTrigger c k).evr.flush = some f ∧ f.pw = true := by
  rw [State.flushTrigger, if_neg (by simp [hen, hagain])]
  split
  · obtain ⟨a, ha⟩ := s.flushStart_evr c k s.blk.t64
    exact ⟨_, congrArg EvrState.flush ha, hc⟩
  · rw [if_pos hc]
    exact ⟨_, rfl, rfl⟩

theorem Blk.emit_raised (b : Blk) (u c x y : Nat) : (b.emit u c x y).raised = b.raised ++
    [.ev ⟨BitVec.ofNat 16 c, unitSrc 0 u, BitVec.ofNat 64 x, BitVec.ofNat 48 y, false⟩] := rfl

/-- What EMERG sets and what it raises; no register changes (R426). -/
theorem Blk.emergSet_eq (b : Blk) (c : Nat) : (b.emergSet c).pwr.emerg = true ∧ (b.emergSet c).regs = b.regs ∧
    (b.emergSet c).conf = b.conf ∧ ∃ l, (b.emergSet c).raised = b.raised ++ l := by
  unfold Blk.emergSet
  dsimp only
  split
  next h => exact ⟨h, rfl, rfl, [], by simp⟩
  next =>
    generalize hd : Blk.emit _ _ _ _ _ = d
    have hset : d.pwr.emerg = true ∧ d.regs = b.regs ∧ d.conf = b.conf ∧ ∃ l, d.raised = b.raised ++ l := by
      subst hd
      exact ⟨by simp, by simp, by simp, _, Blk.emit_raised _ _ _ _ _⟩
    split <;> exact hset

/-- The units after a power warning: a flush is asked for, EMERG is set and the line is low. -/
def Blk.warned (b : Blk) : Blk := ((b.flushReq 2 0).emergSet 2).modPwr (fun m => { m with warnLow := true })

theorem becomes_powerWarning {s : State} (hrun : s.blk.inReset = false) : Becomes .powerWarning s s.blk.warned :=
  .of_lift _ (show execPowerWarning s = lift _ s from rfl) hrun rfl

theorem Blk.warned_pwr (b : Blk) : b.warned.pwr.emerg = true ∧ b.warned.pwr.warnLow = true := by
  obtain ⟨hemerg, _, _, _⟩ := (b.flushReq 2 0).emergSet_eq 2
  exact ⟨hemerg, rfl⟩

theorem Blk.warned_flushEn (b : Blk) : b.warned.flushEn = b.flushEn := by
  obtain ⟨_, hregs, hconf, _⟩ := (b.flushReq 2 0).emergSet_eq 2
  exact congrArg (bit · 1) (Blk.reg_congr hregs hconf _)

/-- The flush is the first thing that a power warning raises. -/
theorem Blk.warned_raised {b : Blk} (hcalm : b.raised = []) : ∃ l, b.warned.raised = .flush 2 0 :: l := by
  obtain ⟨_, _, _, l, hl⟩ := (b.flushReq 2 0).emergSet_eq 2
  exact ⟨l, hl.trans (by simp [Blk.flushReq, hcalm])⟩

/-! ### The obligation -/

/-- Settles O47: the end of a flush, its header, a snapshot trigger of the pin, the power-warning line high again and low. -/
theorem flushAndSnapshot : Obligations.FlushAndSnapshot := by
  refine ⟨fun s hrun hf => exec_flushComplete_of_none hrun hf, fun s f hrun hf => ?complete, fun s f => s.flushHeader_form f,
    fun s hrun hcalm => ?snap, fun s hrun => ?high, fun s hrun hcalm => ?warning⟩
  case complete =>
    refine ⟨_, exec_flushComplete hrun hf, ?_⟩
    have hflushed : (settle (settle (s.flushEnded f)).flushHeld).evr.flushed = _ :=
      (settle_flushed _).trans ((State.flushHeld_flushed _).trans ((settle_flushed _).trans (s.flushEnded_flushed f)))
    obtain ⟨hseq, hrest⟩ := Prod.mk.inj hflushed
    obtain ⟨herr, hpw⟩ := Prod.mk.inj hrest
    exact ⟨hseq, herr, hpw⟩
  case snap =>
    have hb := becomes_tlSnap hrun
    refine ⟨fun hoff => ?_, fun hon hen hfree => ?_, fun hfrozen => ?_⟩
    · rw [if_neg (by simp [hoff])] at hb
      exact hb.trans (congrArg _ (settle_calm s hcalm))
    · rw [if_pos hon] at hb
      obtain ⟨l, hsrc, harg, ht, hevr, hregs, hlatched⟩ := s.latch_of_free 3 0 hen hfree
      refine hb.gives ?_
      rw [settle_snapReq hcalm]
      obtain ⟨hfrozen, hset, hcnt⟩ := (kept_frozen (some l) (s.snap.cnt + 1)).takeRaised_snap hlatched
      exact ⟨hfrozen, hcnt, l, hset, hsrc, harg, ht, hevr, hregs⟩
    · exact hb.gives ((kept_frozen s.snap.set s.snap.cnt).settle _ (fun _ => id) ⟨hfrozen, rfl, rfl⟩)
  case high =>
    refine ⟨_, exec_tlPwrWarnNHigh hrun, ?_, ?_, fun hidle hheld => ?_⟩
    · have hflushed : (settle s.warnOver.flushHeld).evr.flushed = s.warnOver.evr.flushed :=
        (settle_flushed _).trans (State.flushHeld_flushed _)
      exact congrArg (fun t => t.2.2) hflushed
    · rw [settle_pwr, (quiet_flushHeld _).pwr_eq]
      rfl
    · obtain ⟨f, hf⟩ := State.flushHeld_flush (s := s.warnOver) hidle hheld rfl
      obtain ⟨g, hg, _⟩ := (kept_flushing (fun _ => True) (fun _ _ => trivial)).settle _ (fun _ => id) ⟨f, hf, trivial⟩
      rw [hg]
      rfl
  case warning =>
    obtain ⟨hemerg, hlow⟩ := s.blk.warned_pwr
    refine (becomes_powerWarning hrun).gives ⟨by rwa [settle_pwr], by rwa [settle_pwr], fun hen hagain => ?_⟩
    obtain ⟨l, hl⟩ := Blk.warned_raised hcalm
    rw [settle_of_raised hl (List.cons_ne_nil _ _)]
    exact (kept_flushing (fun f => f.pw = true) (fun _ => id)).takeRaised_flush l
      (State.flushTrigger_pw 0 (s.blk.warned_flushEn.trans hen) hagain rfl)

end Sys2Proof.Machine
end

section
/-!
PROOFS. The block's SRAM and the XM port (R355, R356, R478, R479): what a scrub read and an answer of the port come to, and the obligation
put together from that.
-/

namespace Sys2Proof.Machine

/-! ### Scrub reads -/

/-- The scrub period in which a word is read: past its end the corrections counted are gone (R356). -/
def Blk.scrubbing (b : Blk) : Blk := if b.passed b.scrubAt b.scrubPer then { b with ceHot := [], scrubAt := b.tclk } else b

/-- What the outcome of a codeword comes to (R355). -/
def Blk.eccOutcome (b : Blk) (u i w : Nat) : EccOutcome → Blk
  | .clean => b
  | .corrected n => b.corrected1 u i w n
  | .uncorrectable n => b.uncorrected u i w n

theorem becomes_scrubRead {s : State} (u i w : Nat) (o : EccOutcome) (hrun : s.blk.inReset = false) :
    Becomes (.scrubRead u i w o) s (s.blk.scrubbing.eccOutcome u i w o) :=
  .of_lift _ (show execScrubRead u i w o s = lift _ s from rfl) hrun (by cases o <;> rfl)

/-- Two registers of the error unit at two addresses of the table are two words, whatever the configuration. -/
theorem ErrReg.addr_ne {e f : ErrReg} (h : (e.info .d).addr ≠ (f.info .d).addr) (cf : Conf) :
    (Reg.err e).addr cf ≠ (Reg.err f).addr cf := h

/-- A correction is counted, its source and address are recorded, and ERR_CE is raised (R355). -/
def Blk.ceNoted (b : Blk) (u i w n : Nat) : Blk :=
  (((b.count (.err .ERR_CE_CNT) 1).setReg (.err .ERR_CE_SRC) (eccSrc u i n)).setReg (.err .ERR_CE_ADDR) (w32 w)).emit 0xD 0x0E01 w
    (eccArg u i n)

/-- The key under which the corrections of a word are counted (R356). -/
def ceKey (u i w : Nat) : Nat := (2 ^ 8 * u + i % 256) * 2 ^ 32 + w

/-- The corrections of a word in the scrub period, and whether ERR_CE_HOT has been raised for it. -/
def Blk.ceCount (b : Blk) (u i w : Nat) : Nat × Bool := Store.get (0, false) b.ceHot (ceKey u i w)

/-- Whether one more correction makes a word hot (R356). -/
def Blk.ceHotNow (b : Blk) (u i w : Nat) : Bool :=
  !(b.ceCount u i w).2 && decide (fld (b.reg (.err .ERR_CE_HOT_THR)) 15 0 ≤ (b.ceCount u i w).1 + 1)

/-- The correction is added to those of its word. -/
def Blk.ceAdded (b : Blk) (u i w : Nat) : Blk :=
  { b with
    ceHot := Store.set (0, false) b.ceHot (ceKey u i w) ((b.ceCount u i w).1 + 1, (b.ceCount u i w).2 || b.ceHotNow u i w) }

@[simp] theorem Blk.ceNoted_mem (b : Blk) (u i w n : Nat) : (b.ceNoted u i w n).mem = b.mem := by simp [Blk.ceNoted]
theorem Blk.ceNoted_regPoi (b : Blk) (u i w n : Nat) : (b.ceNoted u i w n).regPoi =
    (b.regPoi.filter (fun p => decide (p.1 ≠ (Reg.err .ERR_CE_SRC).addr b.conf))).filter
      (fun p => decide (p.1 ≠ (Reg.err .ERR_CE_ADDR).addr b.conf)) := by
  simp only [Blk.ceNoted, Blk.emit_regPoi, Blk.setReg_regPoi, Blk.count_regPoi, Blk.setReg_conf, Blk.count_conf]
  rfl
theorem Blk.ceCount_ceNoted (b : Blk) (u i w n : Nat) : (b.ceNoted u i w n).ceCount u i w = b.ceCount u i w := by
  simp [Blk.ceCount, Blk.ceNoted]
@[simp] theorem Blk.ceAdded_mem (b : Blk) (u i w : Nat) : (b.ceAdded u i w).mem = b.mem := rfl
@[simp] theorem Blk.ceAdded_regPoi (b : Blk) (u i w : Nat) : (b.ceAdded u i w).regPoi = b.regPoi := rfl
@[simp] theorem Blk.ceAdded_reg (b : Blk) (u i w : Nat) (r : Reg) : (b.ceAdded u i w).reg r = b.reg r := rfl

theorem Blk.ceCount_ceAdded (b : Blk) (u i w : Nat) : (b.ceAdded u i w).ceCount u i w =
    ((b.ceCount u i w).1 + 1, (b.ceCount u i w).2 || decide (fld (b.reg (.err .ERR_CE_HOT_THR)) 15 0 ≤ (b.ceCount u i w).1 + 1)) := by
  have hget : (b.ceAdded u i w).ceCount u i w = ((b.ceCount u i w).1 + 1, (b.ceCount u i w).2 || b.ceHotNow u i w) := by
    rw [Blk.ceCount, Blk.ceAdded, Store.get_set, if_pos rfl]
  rw [hget, Blk.ceHotNow]
  cases (b.ceCount u i w).2 <;> simp

section
variable (b : Blk) (u i w n : Nat)

theorem Blk.ceNoted_reg_cnt : (b.ceNoted u i w n).reg (.err .ERR_CE_CNT) = satAdd (b.reg (.err .ERR_CE_CNT)) 1 := by
  rw [Blk.ceNoted, Blk.emit_reg, Blk.reg_setReg_ne _ _ _ _ (ErrReg.addr_ne (by decide) _),
    Blk.reg_setReg_ne _ _ _ _ (ErrReg.addr_ne (by decide) _), Blk.count_reg]

theorem Blk.ceNoted_reg_src : (b.ceNoted u i w n).reg (.err .ERR_CE_SRC) = eccSrc u i n := by
  rw [Blk.ceNoted, Blk.emit_reg, Blk.reg_setReg_ne _ _ _ _ (ErrReg.addr_ne (by decide) _), Blk.reg_setReg]

theorem Blk.ceNoted_reg_addr : (b.ceNoted u i w n).reg (.err .ERR_CE_ADDR) = w32 w := by
  rw [Blk.ceNoted, Blk.emit_reg, Blk.reg_setReg]

theorem Blk.ceNoted_reg_thr : (b.ceNoted u i w n).reg (.err .ERR_CE_HOT_THR) = b.reg (.err .ERR_CE_HOT_THR) := by
  rw [Blk.ceNoted, Blk.emit_reg, Blk.reg_setReg_ne _ _ _ _ (ErrReg.addr_ne (by decide) _),
    Blk.reg_setReg_ne _ _ _ _ (ErrReg.addr_ne (by decide) _), Blk.reg_count_ne _ _ _ _ (ErrReg.addr_ne (by decide) _)]

/-- What a correction comes to, but in the tree units, which count it as well: a word that becomes hot raises ERR_CE_HOT (R356). -/
theorem Blk.corrected1_eq (hu : u ≠ 9) : b.corrected1 u i w n =
    if (b.ceNoted u i w n).ceHotNow u i w = true then
      ((b.ceNoted u i w n).ceAdded u i w).emit 0xD 0x0E03 w (eccArg u i n)
    else (b.ceNoted u i w n).ceAdded u i w := by
  unfold Blk.corrected1
  simp only [if_neg hu]
  rfl

/-- Apart from the event, what it comes to is the same for every word. -/
theorem Blk.corrected1_parts (hu : u ≠ 9) : (b.corrected1 u i w n).mem = b.mem ∧
    (b.corrected1 u i w n).ceHot = ((b.ceNoted u i w n).ceAdded u i w).ceHot ∧
    (b.corrected1 u i w n).regPoi = (b.ceNoted u i w n).regPoi ∧
    ∀ r, (b.corrected1 u i w n).reg r = (b.ceNoted u i w n).reg r := by
  rw [Blk.corrected1_eq b u i w n hu]
  split <;> simp

end

/-- An uncorrectable word is counted, its source and address are recorded, and ERR_UE is raised (R355). -/
def Blk.ueNoted (b : Blk) (u i w n : Nat) : Blk :=
  (((b.count (.err .ERR_UE_CNT) 1).setReg (.err .ERR_UE_SRC) (eccSrc u i n)).setReg (.err .ERR_UE_ADDR) (w32 w)).emit 0xD 0x0E02 w
    (eccArg u i n)

section
variable (b : Blk) (u i w n : Nat)

theorem Blk.ueNoted_reg_cnt : (b.ueNoted u i w n).reg (.err .ERR_UE_CNT) = satAdd (b.reg (.err .ERR_UE_CNT)) 1 := by
  rw [Blk.ueNoted, Blk.emit_reg, Blk.reg_setReg_ne _ _ _ _ (ErrReg.addr_ne (by decide) _),
    Blk.reg_setReg_ne _ _ _ _ (ErrReg.addr_ne (by decide) _), Blk.count_reg]

theorem Blk.ueNoted_reg_addr : (b.ueNoted u i w n).reg (.err .ERR_UE_ADDR) = w32 w := by
  rw [Blk.ueNoted, Blk.emit_reg, Blk.reg_setReg]

@[simp] theorem Blk.ueNoted_mem : (b.ueNoted u i w n).mem = b.mem := by simp [Blk.ueNoted]
theorem Blk.ueNoted_ctxPerClu : (b.ueNoted u i w n).ctxPerClu = b.ctxPerClu := by simp [Blk.ueNoted, Blk.ctxPerClu]

/-- Such a word is marked where its structure has a mark (R355, R360). -/
theorem Blk.uncorrected_of_markable (hu : u ≠ 9) (hmark : (b.ueNoted u i w n).stateUsers u i w = none) :
    b.uncorrected u i w n = (b.ueNoted u i w n).markWord u i w := by
  unfold Blk.uncorrected
  simp only [if_neg hu]
  rw [← Blk.ueNoted, hmark]

/-- The words of the engines' data stores have a mark: a key of cluster, context and word (log 23). -/
theorem Blk.markWord_ds (hw : w < 2 ^ 24) (hctx : w / 2 ^ 18 < b.ctxPerClu) : b.markWord 6 i w = b.modMem (fun m => { m with
    dsPoi := Store.set false m.dsPoi (2 ^ 18 * (i * b.ctxPerClu + w / 2 ^ 18) + w % 2 ^ 18) true }) := by
  rw [Blk.markWord, if_pos ⟨rfl, hw.trans (by norm_num)⟩, if_pos hw]
  exact if_neg hctx.not_ge

end

/-! ### The XM port -/

/-- A request that is taken is outstanding under its tag, and then no longer (R478). -/
theorem Blk.xmTake_eq_some {b c : Blk} {tag : Nat} {w : Bool} {r : XmReq} (h : b.xmTake tag w = (some r, c)) :
    r ∈ b.mem.reqs ∧ r.tag = tag ∧ r.write = w ∧
      c = b.modMem (fun m => { m with reqs := m.reqs.filter (fun r => r.tag != tag) }) := by
  unfold Blk.xmTake at h
  split at h
  next => cases h
  next q hq =>
    obtain ⟨⟨⟩, rfl⟩ := Prod.mk.inj h
    obtain ⟨hkey, hmem⟩ := (⟨List.find?_some hq, List.mem_of_find?_eq_some hq⟩ : _ ∧ _)
    simp only [Bool.and_eq_true, beq_iff_eq] at hkey
    exact ⟨hmem, hkey.1, hkey.2, rfl⟩

/-- A request has had no answer for 1 ms: it is late, which is reported (R479). -/
def Blk.xmLate (b : Blk) (tag : Nat) (r : XmReq) : Blk :=
  (b.modMem (fun m => { m with reqs := m.reqs.map (fun r => if r.tag == tag then { r with late := true } else r) })).emitAt 0xD
    (b.xmChan r.line) 0x1504 (64 * r.line) (b.xmChan r.line + 16 * tag)

section
variable {s : State} (hrun : s.blk.inReset = false)
include hrun

theorem becomes_xmReadResponse_of_none {tag : Nat} {b : Blk} (poi err : Bool) (htake : s.blk.xmTake tag false = (none, b)) :
    Becomes (.xmReadResponse tag poi err) s b := by
  refine .of_lift _ (show execXmReadResponse tag poi err s = lift _ s from rfl) hrun ?_
  simp only [htake]

theorem becomes_xmReadResponse {tag : Nat} {b : Blk} {r : XmReq} (poi err : Bool) (htake : s.blk.xmTake tag false = (some r, b)) :
    Becomes (.xmReadResponse tag poi err) s (if r.late = true then b else (b.xmErr r err).xmAnswer r poi err) := by
  refine .of_lift _ (show execXmReadResponse tag poi err s = lift _ s from rfl) hrun ?_
  simp only [htake]

/-- The write is done for the units; an error is noted in a running flush (R378). -/
theorem exec_xmWriteComplete (tag : Nat) (err : Bool) : exec (.xmWriteComplete tag err) s = .next (settle
    (if (err && s.evr.flush.isSome) = true then (s.modBlk (fun b => b.xmWritten tag err)).modEvr (fun v => { v with
        flushErr := true, flush := v.flush.map (fun f => { f with err := true }) })
      else s.modBlk (fun b => b.xmWritten tag err))) := by
  refine (show exec (.xmWriteComplete tag err) s = execXmWriteComplete tag err s from rfl).trans ?_
  rw [execXmWriteComplete, liftS_next _ s hrun]
  rfl

/-- Request `tag` is late from now on (R479). -/
theorem becomes_xmRequestTimeout {tag : Nat} {r : XmReq} (hreq : s.blk.mem.reqs.find? (fun r => r.tag == tag) = some r) :
    Becomes (.xmRequestTimeout tag) s (if r.late = true ∨ (!s.blk.passed r.at_ (s.blk.ms 1)) = true then s.blk
      else if r.write = true then s.blk.xmLate tag r else (s.blk.xmLate tag r).xmAnswer r false true) := by
  refine .of_lift _ (show execXmRequestTimeout tag s = lift _ s from rfl) hrun ?_
  simp only [hreq]
  rfl

end

/-! ### The obligation -/

/-- Settles O45: the outcomes of a codeword and what each leaves, and the answers of the XM port. -/
theorem sramAndXm : Obligations.SramAndXm := by
  refine ⟨fun s u i w n b hrun hb => ?scrub, fun b u i w n hu => ?corrected, fun b u i w n m up hu hget => ?hot,
    fun b i w n hw hctx => ?marked, fun s tag poi err b hrun => ?read, fun s tag err hrun => ?write,
    fun b c tag w r htake => Blk.xmTake_eq_some htake, fun s tag r b hrun hreq hb => ?late⟩
  case scrub =>
    subst hb
    exact ⟨becomes_scrubRead u i w .clean hrun, becomes_scrubRead u i w (.corrected n) hrun,
      becomes_scrubRead u i w (.uncorrectable n) hrun⟩
  case corrected =>
    obtain ⟨hmem, _, hpoi, hreg⟩ := b.corrected1_parts u i w n hu
    exact ⟨(hreg _).trans (b.ceNoted_reg_cnt u i w n), (hreg _).trans (b.ceNoted_reg_src u i w n),
      (hreg _).trans (b.ceNoted_reg_addr u i w n), hmem, hpoi.trans (b.ceNoted_regPoi u i w n)⟩
  case hot =>
    obtain ⟨_, hhot, _, _⟩ := b.corrected1_parts u i w n hu
    have hcount := (b.ceNoted u i w n).ceCount_ceAdded u i w
    have hbefore : b.ceCount u i w = (m, up) := hget
    rw [Blk.ceCount_ceNoted, Blk.ceNoted_reg_thr, hbefore] at hcount
    rw [hhot]
    exact hcount
  case marked =>
    have hmark := (b.ueNoted 6 i w n).markWord_ds i w hw (by rwa [Blk.ueNoted_ctxPerClu])
    rw [Blk.ueNoted_ctxPerClu] at hmark
    rw [Blk.uncorrected_of_markable b 6 i w n (by decide) rfl, hmark]
    exact ⟨b.ueNoted_reg_addr 6 i w n, b.ueNoted_reg_cnt 6 i w n, by simp⟩
  case read =>
    refine ⟨fun htake => becomes_xmReadResponse_of_none hrun poi err htake, fun r htake => ?_⟩
    have hb := becomes_xmReadResponse hrun poi err htake
    exact ⟨fun hlate => by rwa [if_pos hlate] at hb, fun hlate => by rwa [if_neg (by simp [hlate])] at hb⟩
  case write =>
    have hexec := exec_xmWriteComplete hrun tag err
    refine ⟨fun hquiet => ?_, fun f herr hf => ?_⟩
    · rw [if_neg (by rcases hquiet with h | h <;> simp [h])] at hexec
      exact hexec
    · rw [if_pos (by simp [herr, hf])] at hexec
      rw [hexec]
      simp [State.modEvr, State.modBlk, hf]
  case late =>
    subst hb
    have hb := becomes_xmRequestTimeout hrun hreq
    refine ⟨fun hlate hpast => ?_, fun hnot => ?_⟩
    · rw [if_neg (by simp [hlate, hpast])] at hb
      exact ⟨fun hw => by rwa [if_pos hw] at hb, fun hw => by rwa [if_neg (by simp [hw])] at hb⟩
    · rw [if_pos (by simpa using hnot)] at hb
      exact hb.exec_self

end Sys2Proof.Machine
end

section
/-!
PROOFS. The control port (R359, R370, R489 to R501, R504): in which order an access is refused, and what it comes to when it is not;
each said once of `State.cpWrite` and `State.cpRead`, and tied to the commands that are accesses.
-/

namespace Sys2Proof.Machine

/-! ### The first write that an initiator holds -/

section
variable (s : State) (a : Access)

@[simp] theorem State.unhold_conf : (s.unhold a).blk.conf = s.blk.conf := rfl
@[simp] theorem State.unhold_inReset : (s.unhold a).blk.inReset = s.blk.inReset := rfl
@[simp] theorem State.unhold_evr : (s.unhold a).evr = s.evr := rfl
@[simp] theorem State.unhold_snap : (s.unhold a).snap = s.snap := rfl
@[simp] theorem State.unhold_tbSize : (s.unhold a).blk.tbSize = s.blk.tbSize := rfl
@[simp] theorem State.unhold_tbuf (n : Nat) : (s.unhold a).blk.tbuf n = s.blk.tbuf n := rfl
@[simp] theorem State.unhold_aliasOf (b : Access) (x : Nat) : (s.unhold a).aliasOf b x = s.aliasOf b x := rfl

/-- Which writes are held decides nothing about what lies at an address, who may reach it, and whether a domain is busy. -/
theorem State.unhold_windowAt (x : Nat) : (s.unhold a).windowAt x = s.windowAt x := by
  unfold State.windowAt
  rw [State.unhold_conf, State.unhold_evr, State.unhold_snap, State.unhold_tbSize]
  dsimp only
  rw [State.unhold_tbuf]
@[simp] theorem State.unhold_target (x : Nat) : (s.unhold a).target x = s.target x := by
  unfold State.target
  rw [State.unhold_windowAt, State.unhold_conf]
  cases Reg.at s.blk.conf x <;> rfl
@[simp] theorem State.unhold_allows (b : Access) (we : Bool) (r : Reg) : (s.unhold a).blk.allows b we r = s.blk.allows b we r := rfl
@[simp] theorem State.unhold_admits (b : Access) (we : Bool) (t : Target) : (s.unhold a).admits b we t = s.admits b we t := by
  cases t <;> rfl
@[simp] theorem State.unhold_busyFor (r : Reg) : (s.unhold a).blk.busyFor r = s.blk.busyFor r := rfl

theorem State.held_unhold : (s.unhold a).held a = none := by simp [State.held, State.unhold]

end

theorem Store.del_of_look_eq_none {α : Type} {m : Store α} {k : Nat} (h : Store.look m k = none) : Store.del m k = m := by
  induction m with
  | nil => rfl
  | cons p t ih =>
    obtain ⟨j, v⟩ := p
    simp only [Store.look] at h
    split at h
    · cases h
    · next hne =>
      simp only [Store.del, List.filter_cons, bne_iff_ne, ne_eq, hne, not_false_eq_true, if_true]
      exact congrArg _ (ih h)

/-- An initiator that holds no first write has none to lose. -/
theorem State.unhold_of_held_eq_none {s : State} {a : Access} (h : s.held a = none) : s.unhold a = s := by
  unfold State.unhold State.modBlk
  dsimp only
  rw [Store.del_of_look_eq_none h]

/-! ### Writes (R370, R501) -/

/-- Whether a write of `v` at an address is refused for its value, as `State.cpWrite` asks it. -/
def State.valueBad (s : State) (x : Nat) (v : Word) : Bool := match s.target x with | .reg r => s.blk.badValue r v | _ => false

theorem State.valueBad_of_reg {s : State} {x : Nat} {v : Word} {r : Reg} (h : s.target x = .reg r) :
    s.valueBad x v = s.blk.badValue r v := by
  rw [State.valueBad, h]

theorem State.valueBad_eq_false {s : State} {x : Nat} {v : Word} (h : ∀ r, s.target x = .reg r → s.blk.badValue r v = false) :
    s.valueBad x v = false := by
  unfold State.valueBad
  cases ht : s.target x with
  | reg r => exact h r ht
  | win p w => rfl
  | none => rfl

/-- What a direct write of an initiator that holds no first write does, once its value and its level are right: the last case
distinction of `State.cpWrite`. -/
def State.directWrite (s : State) (a : Access) (x : Nat) (v : Word) : State :=
  match s.target x with
  | .reg r =>
    if (r.info s.blk.conf).acc = .wg then
      (s.modBlk (fun b => { b with cp := { b.cp with first := Store.put b.cp.first a.ini ⟨x, v⟩ } })).answer .ack 0 false
    else if s.blk.busyFor r then s.nak a x true false .nakBusy
    else ((s.writeReg a r v).clearWord x).answer .ack 0 false
  | .win .. => s.answer .ack 0 false
  | .none => if (s.guardedAt x).isSome then s.nak a x true false .nakGuard else s.answer .ack 0 false

section
variable {s : State} {a : Access} {x : Nat} {v : Word}

theorem State.cpWrite_of_badAddr (h : s.badAddr x = true) : s.cpWrite a x v = (s.unhold a).nak a x true false .nakAddr := by
  rw [State.cpWrite, if_pos h]

theorem State.cpWrite_of_lt (h : s.badAddr x = false) (hx : x < 0x10000) : s.cpWrite a x v = s.aliasWrite a x v := by
  rw [State.cpWrite, h, if_neg Bool.false_ne_true, if_pos hx]

/-- A direct write that is not the second of a pair: the value, the level and the guard, in this order, and then the word. -/
theorem State.cpWrite_direct (h : s.badAddr x = false) (hx : 0x10000 ≤ x) (hh : ∀ f, s.held a = some f → x ≠ f.addr + 0x800) :
    s.cpWrite a x v = if s.valueBad x v then (s.unhold a).nak a x true false .nakAddr
      else if !s.admits a true (s.target x) then (s.unhold a).nak a x true false .nakPriv
      else if (s.held a).isSome then (s.unhold a).nak a x true false .nakGuard
      else s.directWrite a x v := by
  rw [State.cpWrite, h, if_neg Bool.false_ne_true, if_neg (Nat.not_lt.mpr hx)]
  cases hd : s.held a with
  | some f =>
    dsimp only
    rw [if_neg (hh f hd), State.unhold_admits, if_pos (Option.isSome_some)]
    rfl
  | none =>
    rw [State.unhold_of_held_eq_none hd]
    rfl

/-- The second write of a pair: its level and its complement, and then the value is in force. -/
theorem State.cpWrite_second {r : Reg} {y : Word} (h : s.badAddr (r.addr s.blk.conf + 0x800) = false)
    (hx : 0x10000 ≤ r.addr s.blk.conf) (hd : s.held a = some ⟨r.addr s.blk.conf, y⟩)
    (hr : Reg.at s.blk.conf (r.addr s.blk.conf) = some r) :
    s.cpWrite a (r.addr s.blk.conf + 0x800) v =
      if !s.blk.allows a true r then (s.unhold a).nak a (r.addr s.blk.conf + 0x800) true false .nakPriv
      else if v ≠ ~~~y then (s.unhold a).nak a (r.addr s.blk.conf + 0x800) true false .nakGuard
      else (((s.unhold a).guardApply r y).clearWord (r.addr s.blk.conf)).answer .ack 0 false := by
  rw [State.cpWrite, h, if_neg Bool.false_ne_true, if_neg (by omega), hd]
  dsimp only
  rw [if_pos rfl, State.unhold_conf, hr]
  dsimp only
  rw [State.unhold_allows]

end

/-! ### The bit aliases (R499, R500) -/

/-- What a write of an aliased bit does to the register of its word, once its level is right and no first write is held: the
innermost case distinction of `State.aliasWrite`. -/
def State.aliasReg (s : State) (a : Access) (x n : Nat) (v : Word) (r : Reg) : State :=
  match (r.info s.blk.conf).acc with
  | .wg => s.nak a x true true .nakGuard
  | .ro | .rc => s.answer .ack 0 false
  | .w1c => (if bit v 0 then s else s.writeReg a r (BitVec.ofNat 32 (2 ^ n))).answer .ack 0 false
  | _ =>
    if s.blk.busyFor r then s.nak a x true true .nakBusy else
    let new := if bit v 0 then s.valueFor a r ||| BitVec.ofNat 32 (2 ^ n) else s.valueFor a r &&& ~~~(BitVec.ofNat 32 (2 ^ n))
    if s.blk.badValue r new || s.blk.refusesVal a r new then (s.modBlk (fun b => b.refused r new)).answer .ack 0 false
    else (s.writeReg a r new).answer .ack 0 false

section
variable {s : State} {a : Access} {x w n : Nat} {v : Word} {r : Reg}

theorem State.aliasWrite_eq (ho : s.aliasOf a x = (w, n)) : s.aliasWrite a x v =
    if !s.admits a true (s.target w) then (s.unhold a).nak a x true true .nakPriv
    else if (s.held a).isSome then (s.unhold a).nak a x true true .nakGuard
    else match s.target w with
    | .reg r => (s.unhold a).aliasReg a x n v r
    | _ => (s.unhold a).answer .ack 0 false := by
  rw [State.aliasWrite, ho]
  dsimp only
  rw [State.unhold_target, State.unhold_admits]
  rfl

theorem State.aliasWrite_reg (ho : s.aliasOf a x = (w, n)) (ht : s.target w = .reg r) (hl : s.admits a true (s.target w) = true)
    (hd : s.held a = none) : s.aliasWrite a x v = (s.unhold a).aliasReg a x n v r := by
  rw [State.aliasWrite_eq ho, hl, hd, ht]
  rfl

theorem State.aliasReg_of_wg (h : (r.info s.blk.conf).acc = .wg) : s.aliasReg a x n v r = s.nak a x true true .nakGuard := by
  rw [State.aliasReg, h]

theorem State.aliasReg_of_ro (h : (r.info s.blk.conf).acc = .ro ∨ (r.info s.blk.conf).acc = .rc) :
    s.aliasReg a x n v r = s.answer .ack 0 false := by
  obtain h | h := h <;> rw [State.aliasReg, h]

theorem State.aliasReg_of_w1c (h : (r.info s.blk.conf).acc = .w1c) : s.aliasReg a x n v r =
    (if bit v 0 then s else s.writeReg a r (BitVec.ofNat 32 (2 ^ n))).answer .ack 0 false := by
  rw [State.aliasReg, h]

/-- The bit is changed in the word as it is read, and the word written back. -/
theorem State.aliasReg_of_rw {y : Word}
    (h : (r.info s.blk.conf).acc = .rw ∨ (r.info s.blk.conf).acc = .rwb ∨ (r.info s.blk.conf).acc = .rwp)
    (hy : y = if bit v 0 then s.valueFor a r ||| BitVec.ofNat 32 (2 ^ n)
      else s.valueFor a r &&& ~~~(BitVec.ofNat 32 (2 ^ n))) :
    s.aliasReg a x n v r = if s.blk.busyFor r then s.nak a x true true .nakBusy
      else if s.blk.badValue r y || s.blk.refusesVal a r y then (s.modBlk (fun b => b.refused r y)).answer .ack 0 false
      else (s.writeReg a r y).answer .ack 0 false := by
  subst hy
  obtain h | h | h := h <;> rw [State.aliasReg, h]

end

theorem Blk.acc_of_busyFor {b : Blk} {r : Reg} (h : b.busyFor r = true) : (r.info b.conf).acc = .rwp :=
  beq_iff_eq.mp (Bool.and_eq_true_iff.mp h).1

/-! ### Reads (R359, R496, R499) -/

section
variable {s : State} {a : Access} {x w n : Nat}

theorem State.cpRead_of_badAddr (h : s.badAddr x = true) : s.cpRead a x = (s.unhold a).nak a x false false .nakAddr := by
  rw [State.cpRead, if_pos h]

/-- The word that a read gives of what lies at an address. -/
def State.valueAt (s : State) (a : Access) : Target → Word
  | .reg r => s.valueFor a r
  | .win _ z => z
  | .none => 0

/-- A read that is not refused for its address: the level and the guard, in this order, and then the word. -/
theorem State.cpRead_eq (h : s.badAddr x = false) (hw : (w, n) = if x < 0x10000 then s.aliasOf a x else (x, 0)) : s.cpRead a x =
    if !s.admits a false (s.target w) then (s.unhold a).nak a x false (decide (x < 0x10000)) .nakPriv
    else if (s.held a).isSome then (s.unhold a).nak a x false (decide (x < 0x10000)) .nakGuard
    else if x < 0x10000 then (s.unhold a).give x w (w32 (b2n (bit ((s.unhold a).valueAt a (s.target w)) n)))
    else ((s.unhold a).clearRead (s.target w)).give x w ((s.unhold a).valueAt a (s.target w)) := by
  rw [State.cpRead, h, if_neg Bool.false_ne_true]
  by_cases hx : x < 0x10000
  · rw [if_pos hx] at hw ⊢
    simp only [hx, decide_true, if_true, ← hw, State.unhold_target, State.unhold_admits]
    rfl
  · rw [if_neg hx] at hw ⊢
    obtain ⟨rfl, rfl⟩ := Prod.mk.inj hw
    simp only [hx, decide_false, Bool.false_eq_true, if_false, State.unhold_target, State.unhold_admits]
    rfl

end

/-! ### The commands that are accesses -/

section
variable {s : State} {a : Access}

theorem exec_registerWrite (hrun : s.blk.inReset = false) (x : Nat) (v : Word) :
    exec (.registerWrite a x v) s = .next (settle (s.cpWrite a x v)) :=
  (show exec (.registerWrite a x v) s = liftS (fun s => s.cpWrite a x v) s from rfl).trans (liftS_next _ s hrun)

theorem exec_bitAliasWrite_eq (a : Access) (x : Nat) (v : Word) (s : State) :
    exec (.bitAliasWrite a x v) s = exec (.registerWrite a x v) s := rfl

theorem exec_readClear_eq (a : Access) (x : Nat) (s : State) : exec (.readClear a x) s = exec (.registerRead a x) s := rfl

theorem exec_registerRead (hrun : s.blk.inReset = false) (x : Nat) :
    exec (.registerRead a x) s = .next (settle (s.cpRead a x)) :=
  (show exec (.registerRead a x) s = liftS (fun s => s.cpRead a x) s from rfl).trans (liftS_next _ s hrun)

/-- A row that is a direct write is the write of its register. -/
theorem PortRow.exec_eq {c : Access → Word → Instr} {r : Reg} (h : PortRow c r) (a : Access) (v : Word) (s : State) :
    exec (c a v) s = liftS (fun s => s.cpReg a r v) s := by
  obtain ⟨n, k, hk, h⟩ := h
  -- the 14th row: an index below 8 is that of a counter, and 8 that of the group's fixed counter
  have hcounter : exec (.counterWrite a n k v) s = liftS (fun s => s.cpReg a (.prb (.PRB_Gg_CNTc_LO n k)) v) s := by
    show liftS (fun s => s.cpReg a (.prb (if k = 8 then .PRB_Gg_FIX_LO n else .PRB_Gg_CNTc_LO n k)) v) s = _
    rw [if_neg (Nat.ne_of_lt hk)]
  generalize hp : (c, r) = p at h
  fin_cases h
  all_goals obtain ⟨rfl, rfl⟩ := Prod.mk.inj hp
  pick_goal 14
  · exact hcounter
  all_goals rfl

/-- A row that completes a pair is the second write of the pair of its register. -/
theorem PairRow.exec_eq {c : Access → Word → Instr} {r : Reg} {f : Word → Word} (h : PairRow c r f) (a : Access) (v : Word)
    (s : State) : exec (c a v) s = exec (.registerWrite a (r.addr s.blk.conf + 0x800) (~~~(f v))) s := by
  unfold PairRow at h
  generalize hp : (c, r, f) = p at h
  fin_cases h
  all_goals obtain ⟨rfl, rfl, rfl⟩ := Prod.mk.inj hp
  all_goals rfl

/-- The write of a row acts unless another register lies at the address of its own. -/
theorem State.cpReg_eq_cpWrite {r : Reg} (v : Word)
    (h : Reg.at s.blk.conf (r.addr s.blk.conf) = some r ∨ Reg.at s.blk.conf (r.addr s.blk.conf) = none) :
    s.cpReg a r v = s.cpWrite a (r.addr s.blk.conf) v := by
  unfold State.cpReg
  obtain h | h := h <;> simp only [h, if_true]

theorem State.cpReg_of_ne {r q : Reg} (v : Word) (h : Reg.at s.blk.conf (r.addr s.blk.conf) = some q) (hq : q ≠ r) :
    s.cpReg a r v = s := by
  simp only [State.cpReg, h, if_neg hq]

theorem PortRow.exec_eq_registerWrite {c : Access → Word → Instr} {r : Reg} (h : PortRow c r) (hrun : s.blk.inReset = false)
    (hr : Reg.at s.blk.conf (r.addr s.blk.conf) = some r ∨ Reg.at s.blk.conf (r.addr s.blk.conf) = none) (v : Word) :
    exec (c a v) s = exec (.registerWrite a (r.addr s.blk.conf) v) s := by
  rw [h.exec_eq, liftS_next _ s hrun, exec_registerWrite hrun, State.cpReg_eq_cpWrite v hr]

end

/-! ### O55 -/

theorem Lies.target_eq {s : State} {r : Reg} (h : Lies s r) : s.target (r.addr s.blk.conf) = .reg r := by
  obtain ⟨hat, hserves, -, -⟩ := h
  simp only [State.target, hat, hserves, if_true]

section
variable {s : State} {a : Access} {r : Reg} {v : Word}

/-- A direct write of a register that is not refused for its value, its level or a first write is what the register's word does. -/
theorem State.cpWrite_lies (h : Lies s r) (hd : s.held a = none) (hv : s.blk.badValue r v = false)
    (hl : s.blk.allows a true r = true) : s.cpWrite a (r.addr s.blk.conf) v = s.directWrite a (r.addr s.blk.conf) v := by
  obtain ⟨-, -, hlow, hin⟩ := id h
  have hadm : s.admits a true (s.target (r.addr s.blk.conf)) = true := by rw [h.target_eq]; exact hl
  rw [State.cpWrite_direct hin hlow (by simp [hd]), State.valueBad_of_reg h.target_eq, hv, hadm, hd]
  rfl

/-- An accepted write. -/
theorem Accepts.exec_registerWrite (h : Accepts s a r v) :
    exec (.registerWrite a (r.addr s.blk.conf) v) s = .next (Acked (s.writeReg a r v) (r.addr s.blk.conf)) := by
  obtain ⟨hrun, hlies, hd, hv, hl, hacc, hbusy⟩ := h
  rw [Machine.exec_registerWrite hrun, State.cpWrite_lies hlies hd hv hl]
  simp only [State.directWrite, hlies.target_eq, if_neg hacc, hbusy, Bool.false_eq_true, if_false]
  rfl

/-- The second write of a pair that is accepted. -/
theorem Pairs.exec_registerWrite (h : Pairs s a r v) : exec (.registerWrite a (r.addr s.blk.conf + 0x800) (~~~v)) s =
    .next (Acked ((s.unhold a).guardApply r v) (r.addr s.blk.conf)) := by
  obtain ⟨hrun, ⟨hat, -, hlow, -⟩, hin, hd, hl⟩ := h
  rw [Machine.exec_registerWrite hrun, State.cpWrite_second hin hlow hd hat, hl]
  simp only [Bool.not_true, Bool.false_eq_true, if_false, ne_eq, not_true_eq_false]
  rfl

/-- The first write of a guarded pair is kept, and no register changes. -/
theorem exec_registerWrite_first (hrun : s.blk.inReset = false) (h : Lies s r) (hd : s.held a = none)
    (hv : s.blk.badValue r v = false) (hl : s.blk.allows a true r = true) (hacc : (r.info s.blk.conf).acc = .wg) :
    ∃ t, exec (.registerWrite a (r.addr s.blk.conf) v) s = .next t ∧ t.held a = some ⟨r.addr s.blk.conf, v⟩ ∧
      t.blk.regs = s.blk.regs ∧ t.blk.cp.resp = some .ack := by
  refine ⟨_, exec_registerWrite hrun _ _, ?_⟩
  rw [State.cpWrite_lies h hd hv hl, State.held, settle_cp, settle_regs]
  simp only [State.directWrite, h.target_eq, if_pos hacc]
  exact ⟨by simp [State.answer, State.modBlk, Store.look_put], rfl, rfl⟩

/-- A word without register that completes no pair, and a word of a read-only window, take the write and do nothing. -/
theorem exec_registerWrite_unused {x : Nat} (hrun : s.blk.inReset = false) (hin : s.badAddr x = false) (hlow : 0x10000 ≤ x)
    (hd : s.held a = none) (ht : ∀ r, s.target x ≠ .reg r) (hl : s.admits a true (s.target x) = true) (hg : s.guardedAt x = none) :
    exec (.registerWrite a x v) s = .next (settle (s.answer .ack 0 false)) := by
  rw [exec_registerWrite hrun, State.cpWrite_direct hin hlow (by simp [hd]),
    State.valueBad_eq_false (fun r h => absurd h (ht r)), hl, hd]
  simp only [State.directWrite, hg]
  cases h : s.target x with
  | reg r => exact absurd h (ht r)
  | win p w => rfl
  | none => rfl

/-- A write of an aliased bit that is not refused for its level or a first write is what the bit's register does. -/
theorem exec_bitAliasWrite_reg {x w n : Nat} (hrun : s.blk.inReset = false) (hin : s.badAddr x = false) (hx : x < 0x10000)
    (hd : s.held a = none) (ho : s.aliasOf a x = (w, n)) (ht : s.target w = .reg r) (hl : s.admits a true (s.target w) = true) :
    exec (.bitAliasWrite a x v) s = .next (settle ((s.unhold a).aliasReg a x n v r)) := by
  rw [exec_bitAliasWrite_eq, exec_registerWrite hrun, State.cpWrite_of_lt hin hx, State.aliasWrite_reg ho ht hl hd]

end

/-- Settles O55: each write by the equation of the control port for its kind. -/
theorem portWrites : Obligations.PortWrites := by
  refine ⟨fun c r hrow s a v h => ?_, fun s a r v h => h.exec_registerWrite,
    fun s a r v hrun hlies hd hv hl hacc => exec_registerWrite_first hrun hlies hd hv hl hacc,
    fun c r f hrow s a v h => (hrow.exec_eq a v s).trans h.exec_registerWrite, fun s a r v h => h.exec_registerWrite,
    fun s a x v hrun hin hlow hd ht hl hg => exec_registerWrite_unused hrun hin hlow hd ht hl hg, ?_,
    fun s d hrun => Becomes.of_lift _ (show exec (.postedWriteApply d) s = lift (fun b => b.clearBusy d) s from rfl) hrun rfl⟩
  case refine_1 =>
    obtain ⟨hrun, ⟨hat, -⟩, -⟩ := id h
    exact (hrow.exec_eq_registerWrite hrun (.inl hat) v).trans h.exec_registerWrite
  intro s a x w n v r hrun hin hx hd ho ht hl
  have hexec := exec_bitAliasWrite_reg (v := v) hrun hin hx hd ho ht (by rw [ht]; exact hl)
  refine ⟨fun hacc => ?_, fun hacc => ?_, fun y hacc hbusy hy => ?_⟩
  · rw [hexec, State.aliasReg_of_ro (s := s.unhold a) hacc]
  · rw [hexec, State.aliasReg_of_w1c (s := s.unhold a) hacc]
  · rw [hexec, State.aliasReg_of_rw (s := s.unhold a) hacc hy, State.unhold_busyFor, hbusy, if_neg Bool.false_ne_true]
    refine ⟨fun hv hr => ?_, fun hbad => ?_⟩
    · rw [hv, hr]; rfl
    · rw [if_pos (Bool.or_eq_true_iff.mpr hbad)]

end Sys2Proof.Machine
end

section
/-!
PROOFS. What the control port answers (O56; R359, R370, R489, R492, R496, R499, R501, R504, R508): what a refusal leaves behind, the
order of the refusals, and reads, from the equations of `State.cpWrite` and `State.cpRead`.
-/

namespace Sys2Proof.Machine

/-! ### A refusal -/

/-- Two registers of the control port at two addresses of the table are two words, whatever the configuration. -/
theorem CpiReg.addr_ne {e f : CpiReg} (h : (e.info .d).addr ≠ (f.info .d).addr) (cf : Conf) :
    (Reg.cpi e).addr cf ≠ (Reg.cpi f).addr cf := h

/-- Nothing of the block differs but the control port, the registers, their poison and the events raised. -/
def Logged (b c : Blk) : Prop := c = { b with cp := c.cp, regs := c.regs, regPoi := c.regPoi, raised := c.raised }

theorem Logged.trans {b c d : Blk} (h : Logged b c) (h' : Logged c d) : Logged b d :=
  Eq.trans h' (congrArg (fun u : Blk => { u with cp := d.cp, regs := d.regs, regPoi := d.regPoi, raised := d.raised }) h)

theorem Logged.modCp (b : Blk) (p : CpState) : Logged b { b with cp := p } := rfl
theorem Logged.setReg (b : Blk) (r : Reg) (v : Word) : Logged b (b.setReg r v) := rfl
theorem Logged.count (b : Blk) (r : Reg) (n : Nat) : Logged b (b.count r n) := rfl
theorem Logged.emit (b : Blk) (u c x y : Nat) : Logged b (b.emit u c x y) := rfl

/-- What a refusal leaves in the registers (Table 17-2): the address, the word of the violation and the count, and the event. -/
def Blk.violated (b : Blk) (x info y : Nat) : Blk :=
  (((({ b with cp := { b.cp with viols := b.cp.viols + 1 } } : Blk).setReg (.cpi .CPI_VIOL_ADDR) (w32 (x % 2 ^ 26))).setReg
    (.cpi .CPI_VIOL_INFO) (w32 info)).count (.cpi .CPI_VIOL_CNT) 1).emit 0xD 0x0E09 (x % 2 ^ 26) y

section
variable (b : Blk) (x info y : Nat)

@[simp] theorem Blk.violated_cp : (b.violated x info y).cp = { b.cp with viols := b.cp.viols + 1 } := rfl

theorem Blk.violated_reg_addr : (b.violated x info y).reg (.cpi .CPI_VIOL_ADDR) = w32 (x % 2 ^ 26) := by
  rw [Blk.violated, Blk.emit_reg, Blk.reg_count_ne _ _ _ _ (CpiReg.addr_ne (by decide) _),
    Blk.reg_setReg_ne _ _ _ _ (CpiReg.addr_ne (by decide) _), Blk.reg_setReg]

theorem Blk.violated_reg_info : (b.violated x info y).reg (.cpi .CPI_VIOL_INFO) = w32 info := by
  rw [Blk.violated, Blk.emit_reg, Blk.reg_count_ne _ _ _ _ (CpiReg.addr_ne (by decide) _), Blk.reg_setReg]

/-- A refusal leaves every other register as it was. -/
theorem Blk.violated_reg_ne (q : Reg) (ha : q.addr b.conf ≠ (Reg.cpi .CPI_VIOL_ADDR).addr b.conf)
    (hi : q.addr b.conf ≠ (Reg.cpi .CPI_VIOL_INFO).addr b.conf) (hc : q.addr b.conf ≠ (Reg.cpi .CPI_VIOL_CNT).addr b.conf) :
    (b.violated x info y).reg q = b.reg q := by
  rw [Blk.violated, Blk.emit_reg, Blk.reg_count_ne _ _ _ _ (by exact hc), Blk.reg_setReg_ne _ _ _ _ (by exact hi),
    Blk.reg_setReg_ne _ _ _ _ (by exact ha)]
  rfl

theorem Blk.violated_regPoi : (b.violated x info y).regPoi =
    (b.regPoi.filter (fun p => decide (p.1 ≠ (Reg.cpi .CPI_VIOL_ADDR).addr b.conf))).filter
      (fun p => decide (p.1 ≠ (Reg.cpi .CPI_VIOL_INFO).addr b.conf)) := by
  rw [Blk.violated, Blk.emit_regPoi, Blk.count_regPoi, Blk.setReg_regPoi, Blk.setReg_regPoi, Blk.setReg_conf]

/-- A refusal is one of the steps that only log. -/
theorem Blk.violated_logged : Logged b (b.violated x info y) :=
  (((Logged.modCp b _).trans (Logged.setReg _ _ _)).trans (Logged.setReg _ _ _)).trans
    ((Logged.count _ _ _).trans (Logged.emit _ _ _ _ _))

end

section
variable (s : State) (a : Access) (x : Nat) (we al : Bool) (n : Resp)

/-- The word of a violation (CPI_VIOL_INFO). -/
def State.violInfo : Nat :=
  ((s.blk.cp.viols + 1) % 256) <<< 24 + (b2n al) <<< 11 + (b2n we) <<< 10 + (a.lvl % 4) <<< 8 + n.code <<< 4 + a.ini

theorem State.violInfo_unhold : (s.unhold a).violInfo a we al n = s.violInfo a we al n := rfl

/-- The block after a refusal, but for the answer. -/
def State.refusedBlk : Blk := s.blk.violated x (s.violInfo a we al n) (n.code + a.ini <<< 8)

theorem State.nak_blk : (s.nak a x we al n).blk =
    { s.refusedBlk a x we al n with cp := { (s.refusedBlk a x we al n).cp with resp := some n, rdata := 0, rpoi := false } } := rfl

theorem State.nak_cp : (s.nak a x we al n).blk.cp =
    { s.blk.cp with viols := s.blk.cp.viols + 1, resp := some n, rdata := 0, rpoi := false } := rfl

theorem State.nak_regPoi : (s.nak a x we al n).blk.regPoi = (s.refusedBlk a x we al n).regPoi := rfl

theorem State.nak_reg (q : Reg) : (s.nak a x we al n).blk.reg q = (s.refusedBlk a x we al n).reg q := rfl

end

theorem State.nak_logged (s : State) (a : Access) (x : Nat) (we al : Bool) (n : Resp) :
    Logged s.blk ((s.unhold a).nak a x we al n).blk := by
  rw [State.nak_blk]
  exact ((Logged.modCp _ _).trans (Blk.violated_logged _ _ _ _)).trans (Logged.modCp _ _)

/-- A refusal answers, loses the initiator's first write, and changes nothing else but the log of violations (R370, R501). -/
theorem nak_unhold_effect (s : State) (a : Access) (x : Nat) (we al : Bool) (n : Resp) (t : State)
    (ht : t = (s.unhold a).nak a x we al n) :
    t.blk.cp.resp = some n ∧ t.held a = none ∧ t.blk.cp.viols = s.blk.cp.viols + 1 ∧
    t.blk.reg (.cpi .CPI_VIOL_ADDR) = w32 (x % 2 ^ 26) ∧ t.blk.reg (.cpi .CPI_VIOL_INFO) = w32 (s.violInfo a we al n) ∧
    t.blk = { s.blk with cp := t.blk.cp, regs := t.blk.regs, regPoi := t.blk.regPoi, raised := t.blk.raised } ∧
    t.blk.regPoi = (s.blk.regPoi.filter (fun p => decide (p.1 ≠ (Reg.cpi .CPI_VIOL_ADDR).addr s.blk.conf))).filter
      (fun p => decide (p.1 ≠ (Reg.cpi .CPI_VIOL_INFO).addr s.blk.conf)) ∧
    (∀ q : Reg, q.addr s.blk.conf ≠ (Reg.cpi .CPI_VIOL_ADDR).addr s.blk.conf → q.addr s.blk.conf ≠
      (Reg.cpi .CPI_VIOL_INFO).addr s.blk.conf → q.addr s.blk.conf ≠ (Reg.cpi .CPI_VIOL_CNT).addr s.blk.conf →
      t.blk.reg q = s.blk.reg q) := by
  subst ht
  refine ⟨rfl, ?_, rfl, ?_, ?_, ?_, ?_, fun q ha hi hc => ?_⟩
  · rw [State.held, State.nak_cp]
    exact State.held_unhold s a
  · rw [State.nak_reg, State.refusedBlk, Blk.violated_reg_addr]
  · rw [State.nak_reg, State.refusedBlk, Blk.violated_reg_info, State.violInfo_unhold]
  · exact State.nak_logged s a x we al n
  · rw [State.nak_regPoi, State.refusedBlk, Blk.violated_regPoi]
    rfl
  · rw [State.nak_reg]
    exact Blk.violated_reg_ne (s.unhold a).blk _ _ _ q ha hi hc

/-! ### The order of the refusals of a write -/

section
variable {s : State} {a : Access} {x : Nat} {v : Word}

/-- The state after a refused write. -/
def State.refuseW (s : State) (a : Access) (x : Nat) (al : Bool) (n : Resp) : State := settle ((s.unhold a).nak a x true al n)

theorem exec_registerWrite_nakAddr (hrun : s.blk.inReset = false) (h : s.badAddr x = true) :
    exec (.registerWrite a x v) s = .next (s.refuseW a x false .nakAddr) := by
  rw [exec_registerWrite hrun, State.cpWrite_of_badAddr h]
  rfl

section
variable (hrun : s.blk.inReset = false) (hin : s.badAddr x = false) (hlow : 0x10000 ≤ x)
  (hh : ∀ f, s.held a = some f → x ≠ f.addr + 0x800)
include hrun hin hlow hh

theorem exec_registerWrite_badValue {r : Reg} (ht : s.target x = .reg r) (hv : s.blk.badValue r v = true) :
    exec (.registerWrite a x v) s = .next (s.refuseW a x false .nakAddr) := by
  rw [exec_registerWrite hrun, State.cpWrite_direct hin hlow hh, State.valueBad_of_reg ht, hv]
  rfl

theorem exec_registerWrite_nakPriv (hv : s.valueBad x v = false) (hl : s.admits a true (s.target x) = false) :
    exec (.registerWrite a x v) s = .next (s.refuseW a x false .nakPriv) := by
  rw [exec_registerWrite hrun, State.cpWrite_direct hin hlow hh, hv, hl]
  rfl

theorem exec_registerWrite_nakGuard (hv : s.valueBad x v = false) (hl : s.admits a true (s.target x) = true)
    (hd : (s.held a).isSome = true) : exec (.registerWrite a x v) s = .next (s.refuseW a x false .nakGuard) := by
  rw [exec_registerWrite hrun, State.cpWrite_direct hin hlow hh, hv, hl, hd]
  rfl

end

section
variable (hrun : s.blk.inReset = false) (hin : s.badAddr x = false) (hlow : 0x10000 ≤ x) (hd : s.held a = none)
include hrun hin hlow hd

/-- Where no refusal comes first, a write is what its word does. -/
theorem exec_registerWrite_direct (hv : s.valueBad x v = false) (hl : s.admits a true (s.target x) = true) :
    exec (.registerWrite a x v) s = .next (settle (s.directWrite a x v)) := by
  rw [exec_registerWrite hrun, State.cpWrite_direct hin hlow (by simp [hd]), hv, hl, hd]
  rfl

/-- A write at the complement of a guarded register without a first write (R501). -/
theorem exec_registerWrite_unpaired (ht : s.target x = .none) (hg : (s.guardedAt x).isSome = true) :
    exec (.registerWrite a x v) s = .next (s.refuseW a x false .nakGuard) := by
  rw [exec_registerWrite_direct hrun hin hlow hd (State.valueBad_eq_false (by simp [ht])) (by rw [ht]; rfl), State.refuseW,
    State.unhold_of_held_eq_none hd]
  simp only [State.directWrite, ht, hg, if_true]

theorem exec_registerWrite_nakBusy {r : Reg} (hv : s.blk.badValue r v = false) (hl : s.admits a true (s.target x) = true)
    (ht : s.target x = .reg r) (hacc : (r.info s.blk.conf).acc ≠ .wg) (hb : s.blk.busyFor r = true) :
    exec (.registerWrite a x v) s = .next (s.refuseW a x false .nakBusy) := by
  rw [exec_registerWrite_direct hrun hin hlow hd ((State.valueBad_of_reg ht).trans hv) hl, State.refuseW,
    State.unhold_of_held_eq_none hd]
  simp only [State.directWrite, ht, if_neg hacc, hb, if_true]

end

end

/-- The second write of a pair: its level, and then its complement (R501). -/
theorem exec_registerWrite_second {s : State} {a : Access} {r : Reg} {y v : Word} (hrun : s.blk.inReset = false) (h : Lies s r)
    (hin : s.badAddr (r.addr s.blk.conf + 0x800) = false) (hd : s.held a = some ⟨r.addr s.blk.conf, y⟩) :
    (s.blk.allows a true r = false → exec (.registerWrite a (r.addr s.blk.conf + 0x800) v) s =
      .next (s.refuseW a (r.addr s.blk.conf + 0x800) false .nakPriv)) ∧
    (s.blk.allows a true r = true → v ≠ ~~~y → exec (.registerWrite a (r.addr s.blk.conf + 0x800) v) s =
      .next (s.refuseW a (r.addr s.blk.conf + 0x800) false .nakGuard)) := by
  obtain ⟨hat, -, hlow, -⟩ := h
  refine ⟨fun hl => ?_, fun hl hv => ?_⟩
  · rw [exec_registerWrite hrun, State.cpWrite_second hin hlow hd hat, hl]
    rfl
  · rw [exec_registerWrite hrun, State.cpWrite_second hin hlow hd hat, hl, if_neg (by decide), if_pos hv]
    rfl

section
variable {s : State} {a : Access} {x w n : Nat} {v : Word} (hrun : s.blk.inReset = false) (hin : s.badAddr x = false)
  (hx : x < 0x10000) (ho : s.aliasOf a x = (w, n))
include hrun hin hx ho

theorem exec_bitAliasWrite_nakPriv (hl : s.admits a true (s.target w) = false) :
    exec (.bitAliasWrite a x v) s = .next (s.refuseW a x true .nakPriv) := by
  rw [exec_bitAliasWrite_eq, exec_registerWrite hrun, State.cpWrite_of_lt hin hx, State.aliasWrite_eq ho, hl]
  rfl

theorem exec_bitAliasWrite_nakGuard (hl : s.admits a true (s.target w) = true) (hd : (s.held a).isSome = true) :
    exec (.bitAliasWrite a x v) s = .next (s.refuseW a x true .nakGuard) := by
  rw [exec_bitAliasWrite_eq, exec_registerWrite hrun, State.cpWrite_of_lt hin hx, State.aliasWrite_eq ho, hl, hd]
  rfl

/-- A write of an aliased bit is refused as guarded where its register is guarded, and as busy where its domain is. -/
theorem exec_bitAliasWrite_refused {r : Reg} (hl : s.admits a true (s.target w) = true) (hd : s.held a = none)
    (ht : s.target w = .reg r) :
    ((r.info s.blk.conf).acc = .wg → exec (.bitAliasWrite a x v) s = .next (s.refuseW a x true .nakGuard)) ∧
    (s.blk.busyFor r = true → exec (.bitAliasWrite a x v) s = .next (s.refuseW a x true .nakBusy)) := by
  rw [exec_bitAliasWrite_reg hrun hin hx hd ho ht hl]
  refine ⟨fun hacc => ?_, fun hb => ?_⟩
  · rw [State.aliasReg_of_wg (s := s.unhold a) hacc]
    rfl
  · rw [State.aliasReg_of_rw (s := s.unhold a) (.inr (.inr (Blk.acc_of_busyFor hb))) rfl, State.unhold_busyFor, hb]
    rfl

end

/-! ### Reads -/

theorem exec_registerRead_nakAddr {s : State} {a : Access} {x : Nat} (hrun : s.blk.inReset = false) (h : s.badAddr x = true) :
    exec (.registerRead a x) s = .next (settle ((s.unhold a).nak a x false false .nakAddr)) := by
  rw [exec_registerRead hrun, State.cpRead_of_badAddr h]

/-- The value at a target, from what it is there. -/
theorem State.valueAt_eq {s : State} {a : Access} {y : Word} {t : Target} (hr : ∀ r, t = .reg r → y = s.valueFor a r)
    (hw : ∀ p z, t = .win p z → y = z) (hn : t = .none → y = 0) : s.valueAt a t = y := by
  cases t with
  | reg r => exact (hr r rfl).symm
  | win p z => exact (hw p z rfl).symm
  | none => exact (hn rfl).symm

section
variable {s : State} {a : Access} {x w n : Nat} (hrun : s.blk.inReset = false) (hin : s.badAddr x = false)
  (ho : (w, n) = if x < 0x10000 then s.aliasOf a x else (x, 0))
include hrun hin ho

theorem exec_registerRead_nakPriv (hl : s.admits a false (s.target w) = false) : exec (.registerRead a x) s =
    .next (settle ((s.unhold a).nak a x false (decide (x < 0x10000)) .nakPriv)) := by
  rw [exec_registerRead hrun, State.cpRead_eq hin ho, hl]
  rfl

theorem exec_registerRead_nakGuard (hl : s.admits a false (s.target w) = true) (hd : (s.held a).isSome = true) :
    exec (.registerRead a x) s = .next (settle ((s.unhold a).nak a x false (decide (x < 0x10000)) .nakGuard)) := by
  rw [exec_registerRead hrun, State.cpRead_eq hin ho, hl, hd]
  rfl

/-- A read that is not refused: that of an aliased bit gives the bit and clears nothing, a direct one gives the word and clears an RC register. -/
theorem exec_registerRead_gives {y : Word} (hl : s.admits a false (s.target w) = true) (hd : s.held a = none)
    (hy : s.valueAt a (s.target w) = y) :
    (x < 0x10000 → exec (.registerRead a x) s = .next (settle (s.give x w (w32 (b2n (bit y n)))))) ∧
    (0x10000 ≤ x → exec (.registerRead a x) s = .next (settle ((s.clearRead (s.target w)).give x w y))) := by
  rw [exec_registerRead hrun, State.cpRead_eq hin ho, hl, hd, State.unhold_of_held_eq_none hd, hy, if_neg (by decide),
    if_neg (by decide)]
  exact ⟨fun hx => by rw [if_pos hx], fun hx => by rw [if_neg (Nat.not_lt.mpr hx)]⟩

end

section
variable (s : State) (x w : Nat) (y : Word)

/-- A read of a poisoned word is recorded (R359). -/
theorem State.give_of_poisoned (h : Store.get false s.blk.regPoi w = true) : s.give x w y =
    (s.modBlk (fun b => (b.setReg (.err .ERR_CPI_POI_ADDR) (w32 x)).setBits (.err .ERR_STAT) 2)).answer .ack y true := by
  rw [State.give, if_pos h]

theorem State.give_of_sound (h : Store.get false s.blk.regPoi w = false) : s.give x w y = s.answer .ack y false := by
  rw [State.give, h, if_neg Bool.false_ne_true]

/-- The answer of a read: the value, and whether its word is poisoned; and a poisoned word sets bit 1 of ERR_STAT. -/
theorem State.give_effect :
    (s.give x w y).blk.cp.resp = some .ack ∧ (s.give x w y).blk.cp.rdata = y ∧
    (s.give x w y).blk.cp.rpoi = Store.get false s.blk.regPoi w ∧
    (Store.get false s.blk.regPoi w = true → bit ((s.give x w y).blk.reg (.err .ERR_STAT)) 1 = true) ∧
    (Store.get false s.blk.regPoi w = false → (s.give x w y).blk.regs = s.blk.regs) := by
  cases h : Store.get false s.blk.regPoi w with
  | true =>
    rw [State.give_of_poisoned s x w y h]
    refine ⟨rfl, rfl, rfl, fun _ => ?_, fun h => absurd h (by decide)⟩
    show bit (((s.blk.setReg (.err .ERR_CPI_POI_ADDR) (w32 x)).setBits (.err .ERR_STAT) 2).reg (.err .ERR_STAT)) 1 = true
    rw [Blk.setBits, Blk.reg_putReg]
    exact bit_or_of_bit _ _ _ (by decide)
  | false =>
    rw [State.give_of_sound s x w y h]
    exact ⟨rfl, rfl, rfl, fun h => absurd h (by decide), fun _ => rfl⟩

end

/-! ### O56 -/

/-- A row that is a write is the write of its register, or nothing where another register lies at the address. -/
theorem PortRow.answers {c : Access → Word → Instr} {r : Reg} (h : PortRow c r) (s : State) (a : Access) (v : Word)
    (hrun : s.blk.inReset = false) :
    (Reg.at s.blk.conf (r.addr s.blk.conf) = some r ∨ Reg.at s.blk.conf (r.addr s.blk.conf) = none →
      exec (c a v) s = exec (.registerWrite a (r.addr s.blk.conf) v) s) ∧
    (∀ q, Reg.at s.blk.conf (r.addr s.blk.conf) = some q → q ≠ r → exec (c a v) s = .next (settle s)) := by
  refine ⟨fun hr => h.exec_eq_registerWrite hrun hr v, fun q hq hne => ?_⟩
  rw [h.exec_eq, liftS_next _ s hrun, State.cpReg_of_ne v hq hne]

/-- Settles O56: the commands are the writes and reads of their addresses, and these are answered by the equations of
`State.cpWrite` and `State.cpRead`. -/
theorem portAnswers : Obligations.PortAnswers := by
  refine ⟨fun c r hrow s a v hrun => hrow.answers s a v hrun, fun c r f hrow s a v => hrow.exec_eq a v s,
    fun s a x v => ⟨exec_bitAliasWrite_eq a x v s, exec_readClear_eq a x s⟩,
    fun s a x we al n t ht => nak_unhold_effect s a x we al n t ht, ?_, ?_, State.give_effect⟩
  case refine_1 =>
    intro s a x v c hrun hc
    obtain rfl : c = s.refuseW a x := funext fun al => funext fun n => hc al n
    refine ⟨exec_registerWrite_nakAddr hrun, fun hin hlow hh => ⟨?_, ?_, ?_, ?_, ?_⟩, fun r y hlies hin hd hx => ?_,
      fun w n hin hx ho => ⟨exec_bitAliasWrite_nakPriv hrun hin hx ho, exec_bitAliasWrite_nakGuard hrun hin hx ho,
        fun r hl hd ht => exec_bitAliasWrite_refused hrun hin hx ho hl hd ht⟩⟩
    · exact fun r ht hv => exec_registerWrite_badValue hrun hin hlow hh ht hv
    · exact fun hv hl => exec_registerWrite_nakPriv hrun hin hlow hh (State.valueBad_eq_false hv) hl
    · exact fun hv hl hd => exec_registerWrite_nakGuard hrun hin hlow hh (State.valueBad_eq_false hv) hl hd
    · exact fun hd ht hg => exec_registerWrite_unpaired hrun hin hlow hd ht hg
    · exact fun r hv hl hd ht hacc hb => exec_registerWrite_nakBusy hrun hin hlow hd hv hl ht hacc hb
    · subst hx
      exact exec_registerWrite_second hrun hlies hin hd
  case refine_2 =>
    intro s a x w n y t hrun
    refine ⟨exec_registerRead_nakAddr hrun, fun hin ho ht => ?_⟩
    subst ht
    exact ⟨exec_registerRead_nakPriv hrun hin ho, exec_registerRead_nakGuard hrun hin ho,
      fun hl hd hr hw hn => exec_registerRead_gives hrun hin ho hl hd (State.valueAt_eq hr hw hn)⟩

end Sys2Proof.Machine
end

section
/-!
PROOFS. The control frames of a collection's start (R41, R408, R454 to R459): what every COLLCTL frame that is taken comes to, said once,
and from it what each of them does.
-/

namespace Sys2Proof.Machine

/-! ### A frame that is taken -/

/-- The command of a COLLCTL frame that is taken is its effect where the instance holds tl_ready high; else the frame goes (R41). -/
theorem becomes_of_takeCtl {i : Instr} {s : State} {r : RxFrame} {sub : Nat} {b : Blk} {tk : Taken} (g : Blk → Frame → Blk)
    (hexec : exec i s = takeCtl sub r g s) (h : HearsSub s r ftCollctl sub b tk) :
    Becomes i s (if b.boot.ready = true then g (b.frameDone tk) tk.f else b.frameDone tk) := by
  obtain ⟨hrun, htake⟩ := h
  refine .of_lift _ hexec hrun ?_
  simp only [htake]

/-- An instance that holds tl_ready low lets the frame go (R41). -/
theorem Becomes.of_takeCtl_not_ready {i : Instr} {s : State} {r : RxFrame} {sub : Nat} {b : Blk} {tk : Taken} (g : Blk → Frame → Blk)
    (hexec : exec i s = takeCtl sub r g s) (hready : b.boot.ready = false) (h : HearsSub s r ftCollctl sub b tk) :
    Becomes i s (b.frameDone tk) := by
  simpa only [hready, Bool.false_eq_true, if_false] using becomes_of_takeCtl g hexec h

/-- One that holds tl_ready high does what the frame's rule says. -/
theorem Becomes.of_takeCtl {i : Instr} {s : State} {r : RxFrame} {sub : Nat} {b c d : Blk} {tk : Taken} (g : Blk → Frame → Blk)
    (hexec : exec i s = takeCtl sub r g s) (h : HearsSub s r ftCollctl sub b tk) (hready : b.boot.ready = true)
    (hc : c = b.frameDone tk) (hg : g c tk.f = d) : Becomes i s d := by
  have hb := becomes_of_takeCtl g hexec h
  rwa [if_pos hready, ← hc, hg] at hb

@[simp] theorem Blk.coll_setColl (s : Blk) (c : Nat) (v : Coll) : (s.setColl c v).coll c = v := by
  simp only [Blk.coll, Blk.setColl, Blk.modColls_colls, Store.get_set, if_true]

@[simp] theorem Blk.modColl_role (s : Blk) (c : Nat) (f : Coll → Coll) : (s.modColl c f).role = s.role := rfl

@[simp] theorem Blk.coll_modColl (s : Blk) (c : Nat) (f : Coll → Coll) : (s.modColl c f).coll c = f (s.coll c) := s.coll_setColl c _

/-! ### Acknowledgements (R455, R457, R458) -/

/-- What an acknowledgement notes of its sender, as the reason it gives and the place that refuses, or as the exclusions so far. -/
def CKid.answered (k : CKid) (f : Frame) (now : Nat) : CKid :=
  if k.place ≠ f.src ∨ k.role ≠ f.srole ∨ k.done then k
  else if fld (f.word 1) 7 0 ≠ 0 then
    { k with
      done := true, heard := now
      refusal := some (fld (f.word 1) 7 0, if (f.word 2).toNat = 0 then f.src else f.word 3) }
  else
    { k with
      heard := now, excl := addPlaces k.excl (f.placeList.take (f.word 2).toNat)
      done := decide ((f.word 2).toNat ≤ (addPlaces k.excl (f.placeList.take (f.word 2).toNat)).length) }

/-- The acknowledgement of a start in progress, from a node that has not been re-reached: it is noted of its sender, and the start goes
on where it was the last that was awaited. -/
theorem becomes_collctlAck {s : State} {f : RxFrame} {b c : Blk} {tk : Taken} {cs : CStart} (h : HearsSub s f ftCollctl 2 b tk)
    (hready : b.boot.ready = true) (hc : c = b.frameDone tk) (hstart : c.starting tk.f.coll tk.f.gen = true)
    (hcs : (c.coll tk.f.coll).cs = some cs) (hrelay : cs.relay.contains tk.f.src = false) : Becomes (.collctlAck f) s
      ((c.modCs tk.f.coll (fun cs => { cs with kids := cs.kids.map (fun k => k.answered tk.f c.tclk) })).startAgg tk.f.coll) := by
  refine .of_takeCtl _ (show execCollctlAck f s = takeCtl 2 f _ s from rfl) h hready hc ?_
  simp only [hstart, hcs, hrelay, Bool.not_true, Bool.false_eq_true, if_false]
  rfl

/-- An acknowledgement of a start that is not in progress here: a refusal of the coordinator's reaches the initiator, all else is stale. -/
theorem becomes_collctlAck_of_not_starting {s : State} {f : RxFrame} {b c : Blk} {tk : Taken} (h : HearsSub s f ftCollctl 2 b tk)
    (hready : b.boot.ready = true) (hc : c = b.frameDone tk) (hstart : c.starting tk.f.coll tk.f.gen = false) :
    Becomes (.collctlAck f) s
      (if c.isInit tk.f.coll tk.f.gen = true ∧ fld (tk.f.word 1) 7 0 ≠ 0 then
        c.noteOutcome tk.f.coll tk.f.gen16 (abortWords (fld (tk.f.word 1) 7 0)
          (if (tk.f.word 2).toNat = 0 then tk.f.src else tk.f.word 3))
       else c.ctlStale) :=
  .of_takeCtl _ (show execCollctlAck f s = takeCtl 2 f _ s from rfl) h hready hc (if_pos (by rw [hstart]; rfl))

/-! ### WAIT, re-reach, effective turns (R408, R456, R457) -/

/-- A WAIT of a start in progress at an instance that has re-reached nobody: its sender is heard. -/
theorem becomes_collctlWait {s : State} {f : RxFrame} {b c : Blk} {tk : Taken} (h : HearsSub s f ftCollctl 3 b tk)
    (hready : b.boot.ready = true) (hc : c = b.frameDone tk) (hstart : c.starting tk.f.coll tk.f.gen = true)
    (hrelay : ∀ cs, (c.coll tk.f.coll).cs = some cs → cs.relay = []) : Becomes (.collctlWait f) s
      (c.modCs tk.f.coll (fun cs => { cs with kids := cs.kids.map (fun (k : CKid) =>
        if k.place = tk.f.src ∧ k.role = tk.f.srole then { k with heard := c.tclk } else k) })) := by
  refine .of_takeCtl _ (show execCollctlWait f s = takeCtl 3 f _ s from rfl) h hready hc ?_
  rw [if_neg (by simp [hstart])]
  cases hcs : (c.coll tk.f.coll).cs with
  | none => rfl
  | some cs =>
    cases hcrown : crownIn (atSite (c.coll tk.f.coll).parts (siteOf c.place)) false with
    | none => rfl
    | some a =>
      have hno : cs.relay.contains tk.f.src = false := by rw [hrelay cs hcs]; rfl
      simp only [hno, Bool.false_eq_true, false_and, if_false]

/-- At a span instance of a running collection the place and its turn are added to those that have gone. -/
theorem becomes_collctlEffective_span {s : State} {f : RxFrame} {b c : Blk} {tk : Taken} (h : HearsSub s f ftCollctl 0xA b tk)
    (hready : b.boot.ready = true) (hc : c = b.frameDone tk) (hrole : c.role = .span) (hgen : (c.coll tk.f.coll).gen = tk.f.gen16)
    (hrun : (c.coll tk.f.coll).st = .running) (hnew : (c.coll tk.f.coll).gone.any (fun p => p.1 == tk.f.word 1) = false)
    (hpart : (c.coll tk.f.coll).parts.contains (tk.f.word 1) = true) : Becomes (.collctlEffective f) s
      (c.modColl tk.f.coll (fun v => { v with gone := v.gone ++ [(tk.f.word 1, tk.f.word 2)] })) := by
  refine .of_takeCtl _ (show execCollctlEffective f s = takeCtl 0xA f _ s from rfl) h hready hc ?_
  simp only [hgen, hrun, hnew, hpart, hrole, Blk.modColl_role, ne_eq, not_true_eq_false, false_and, or_self, Bool.not_true,
    Bool.false_eq_true, if_false, reduceCtorEq, not_false_eq_true, if_true]
  rfl

/-! ### The obligation -/

/-- Settles O39: each control frame of a start at an instance that holds tl_ready high, and that one that holds it low lets all ten go. -/
theorem startFrames : Obligations.StartFrames := by
  refine ⟨fun s f b c tk h hready hc => ?start, fun s f b c tk h hready hc hstart => ?ackOther,
    fun s f b c tk cs h hready hc hstart hcs hrelay => ?ack, fun s f b c tk h hready hc => ?wait,
    fun s f b c tk h hready hc => ?rereach, fun s f b c d tk cs h hready hc hstart hd hcs => ?commit,
    fun s f b c tk h hready hc => ?abort, fun s f b c tk h hready hc => ?outcome, fun s f b c tk h hready hc => ?effective,
    fun s f b tk hready => ?low⟩
  case start =>
    have of_start {d : Blk} := Becomes.of_takeCtl (i := .collctlStart f) (d := d) _
      (show execCollctlStart f s = takeCtl 1 f _ s from rfl) h hready hc
    refine ⟨fun hle => of_start (if_pos hle), fun d hlt hd => ?_⟩
    subst hd
    refine ⟨fun ⟨hok, hidle, hway⟩ => ?_, fun hnot => ?_⟩
    · exact of_start ((if_neg (not_le.2 hlt)).trans (if_pos ⟨hok, hidle, by rw [hway]; rfl⟩))
    · exact of_start ((if_neg (not_le.2 hlt)).trans (if_neg (by simpa only [Bool.not_eq_true'] using hnot)))
  case ackOther =>
    have hb := becomes_collctlAck_of_not_starting h hready hc hstart
    exact ⟨fun hno => by rwa [if_neg (by simp [hno])] at hb, fun hinit hreason => by rwa [if_pos ⟨hinit, hreason⟩] at hb⟩
  case ack =>
    have hb := becomes_collctlAck h hready hc hstart hcs hrelay
    refine ⟨fun hok => ?_, fun hrefused => ?_⟩
    · simpa only [CKid.answered, hok, ne_eq, not_true_eq_false, if_false] using hb
    · simpa only [CKid.answered, ne_eq, hrefused, not_false_eq_true, if_true] using hb
  case wait =>
    exact ⟨fun hstart => .of_takeCtl _ (show execCollctlWait f s = takeCtl 3 f _ s from rfl) h hready hc
      (if_pos (by rw [hstart]; rfl)), fun hstart _ hrelay => becomes_collctlWait h hready hc hstart hrelay⟩
  case rereach =>
    have of_rereach {d : Blk} := Becomes.of_takeCtl (i := .collctlRereach f) (d := d) _
      (show execCollctlRereach f s = takeCtl 8 f _ s from rfl) h hready hc
    exact ⟨fun hstart => of_rereach (if_pos (by rw [hstart]; rfl)),
      fun hstart hcrown => of_rereach ((if_neg (by simp [hstart])).trans (if_neg hcrown))⟩
  case commit =>
    have of_commit {e : Blk} (he : (if cs.commitIn.length < (tk.f.word 2).toNat then d
        else d.outcome tk.f.coll (commitWords (tk.f.word 1) cs.commitIn)) = e) : Becomes (.collctlCommit f) s e := by
      refine .of_takeCtl _ (show execCollctlCommit f s = takeCtl 4 f _ s from rfl) h hready hc ?_
      simp only [hstart, Bool.not_true, Bool.false_eq_true, if_false, ← hd, hcs]
      exact he
    exact ⟨fun hall => of_commit (if_neg (not_lt.2 hall)), fun hmore => of_commit (if_pos hmore)⟩
  case abort =>
    have of_abort {d : Blk} := Becomes.of_takeCtl (i := .collctlAbort f) (d := d) _
      (show execCollctlAbort f s = takeCtl 5 f _ s from rfl) h hready hc
    exact ⟨fun hstart => of_abort (if_pos hstart),
      fun hstart hinit => of_abort ((if_neg (by simp [hstart])).trans (if_neg (by simp [hinit])))⟩
  case outcome =>
    have of_outcome {d : Blk} := Becomes.of_takeCtl (i := .collctlOutcome f) (d := d) _
      (show execCollctlOutcome f s = takeCtl 9 f _ s from rfl) h hready hc
    refine ⟨fun hstart => of_outcome (if_pos hstart), fun ws hstart hknown => of_outcome ((if_neg (by simp [hstart])).trans ?_)⟩
    simp only [hknown, if_true]
  case effective =>
    refine ⟨fun hgen => .of_takeCtl _ (show execCollctlEffective f s = takeCtl 0xA f _ s from rfl) h hready hc (if_pos (.inr hgen)),
      fun hrole hgen hrun hnew hpart => (becomes_collctlEffective_span h hready hc hrole hgen hrun hnew hpart).gives ?_⟩
    simp only [Blk.coll, settle_colls]
    exact congrArg Coll.gone (c.coll_modColl _ _)
  case low =>
    exact ⟨.of_takeCtl_not_ready _ (show execCollctlStart f s = takeCtl 1 f _ s from rfl) hready,
      .of_takeCtl_not_ready _ (show execCollctlAck f s = takeCtl 2 f _ s from rfl) hready,
      .of_takeCtl_not_ready _ (show execCollctlWait f s = takeCtl 3 f _ s from rfl) hready,
      .of_takeCtl_not_ready _ (show execCollctlCommit f s = takeCtl 4 f _ s from rfl) hready,
      .of_takeCtl_not_ready _ (show execCollctlAbort f s = takeCtl 5 f _ s from rfl) hready,
      .of_takeCtl_not_ready _ (show execCollctlTeardown f s = takeCtl 6 f _ s from rfl) hready,
      .of_takeCtl_not_ready _ (show execCollctlTdDone f s = takeCtl 7 f _ s from rfl) hready,
      .of_takeCtl_not_ready _ (show execCollctlRereach f s = takeCtl 8 f _ s from rfl) hready,
      .of_takeCtl_not_ready _ (show execCollctlOutcome f s = takeCtl 9 f _ s from rfl) hready,
      .of_takeCtl_not_ready _ (show execCollctlEffective f s = takeCtl 0xA f _ s from rfl) hready⟩

end Sys2Proof.Machine
end

section
/-!
PROOFS. HEALTH frames by role and order (R388, R392, R398): what a die gathers of a pattern set, and who takes the items and records of
the other kinds.
-/

namespace Sys2Proof.Machine

/-! ### Pattern sets (R388) -/

/-- The bytes gathered of a set. -/
def Blk.gathered (c : Blk) (p : List Byte) : Blk := c.modHlt (fun h => { h with patBuf := p })

/-- The set that whole bytes hold, as their header gives it. -/
def setOf (p : List Byte) : PatSet := ⟨leAt p 4 2, leAt p 6 2, leAt p 8 4, w32 (leAt p 12 4), BitVec.ofNat 64 (leAt p 16 8)⟩

/-- A die stores a whole set at HLT_PAT_BASE and holds it. -/
def Blk.storeSet (c : Blk) (p : List Byte) : Blk :=
  ((c.gathered []).xmWrite (c.reg2 (.hlt .HLT_PAT_BASE_HI) (.hlt .HLT_PAT_BASE_LO)) (slice p 0 (64 + leAt p 8 4)) false).modHlt
    (fun h => { h with patSet := some (setOf p) })

/-- What a die does with the bytes `p` that it has of a set: a header that is none, or too long a set, is dropped; a part is kept; a whole
set is stored where it passes its check. -/
def Blk.gatherSet (c : Blk) (p : List Byte) : Blk :=
  if 64 ≤ p.length ∧ (leAt p 0 4 ≠ 0x50530001 ∨ fld (c.reg (.hlt .HLT_PAT_SIZE)) 15 0 * 1024 < 64 + leAt p 8 4) then c.gathered []
  else if p.length < 64 ∨ p.length < 64 + leAt p 8 4 then c.gathered p
  else if crc32c (slice p 64 (leAt p 8 4)) ≠ w32 (leAt p 12 4) then c.gathered [] else c.storeSet p

theorem becomes_patternSetReceive {s : State} {f : RxFrame} {b c : Blk} {tk : Taken} (h : HearsSub s f ftHealth 5 b tk)
    (hc : c = b.frameDone tk) (hkind : leAt tk.f.payload 0 1 = 5) : Becomes (.patternSetReceive f) s
      (if c.role ≠ .die then c else c.gatherSet (c.hlt.patBuf ++ tk.f.payload.drop 4)) := by
  obtain ⟨hrun, htake⟩ := h
  refine .of_lift _ (show execPatternSetReceive f s = lift _ s from rfl) hrun ?_
  simp only [htake, ← hc, hkind, ne_eq, not_true_eq_false, or_false]
  rfl

theorem Blk.gatherSet_of_short (c : Blk) {p : List Byte} (hlen : p.length < 64) : c.gatherSet p = c.gathered p := by
  rw [Blk.gatherSet, if_neg (by omega), if_pos (.inl hlen)]

theorem Blk.gatherSet_of_bad (c : Blk) {p : List Byte} (hlen : 64 ≤ p.length)
    (hbad : leAt p 0 4 ≠ 0x50530001 ∨ fld (c.reg (.hlt .HLT_PAT_SIZE)) 15 0 * 1024 < 64 + leAt p 8 4) : c.gatherSet p = c.gathered [] :=
  if_pos ⟨hlen, hbad⟩

/-- Under a header that is sound, the bytes are kept until the set is whole, and then checked. -/
theorem Blk.gatherSet_of_sound (c : Blk) {p : List Byte} (hlen : 64 ≤ p.length) (hmagic : leAt p 0 4 = 0x50530001)
    (hroom : 64 + leAt p 8 4 ≤ fld (c.reg (.hlt .HLT_PAT_SIZE)) 15 0 * 1024) : c.gatherSet p =
      if p.length < 64 + leAt p 8 4 then c.gathered p
      else if crc32c (slice p 64 (leAt p 8 4)) ≠ w32 (leAt p 12 4) then c.gathered [] else c.storeSet p := by
  rw [Blk.gatherSet, if_neg (by rintro ⟨-, hbad | hbig⟩; exacts [hbad hmagic, by omega])]
  simp only [not_lt.2 hlen, false_or]

theorem Blk.storeSet_hlt (c : Blk) (p : List Byte) : (c.storeSet p).hlt = { c.hlt with patBuf := [], patSet := some (setOf p) } := by
  rw [Blk.storeSet, Blk.modHlt_hlt, (queueOnly_xmWrite _ _ _ _).hlt_eq]
  rfl

/-! ### Engine types and records (R388, R392, R398) -/

theorem becomes_engineTypesReceive {s : State} {f : RxFrame} {b c : Blk} {tk : Taken} (h : HearsSub s f ftHealth 6 b tk)
    (hc : c = b.frameDone tk) (hkind : leAt tk.f.payload 0 1 = 6) : Becomes (.engineTypesReceive f) s
      (if c.role ≠ .tray then c
       else (List.range (tk.f.payload.length / 4 - 1)).foldl (fun s i => s.typeIn tk.f.src (wordAt tk.f.payload (i + 1))) c) := by
  obtain ⟨hrun, htake⟩ := h
  refine .of_lift _ (show execEngineTypesReceive f s = lift _ s from rfl) hrun ?_
  simp only [htake, ← hc, hkind, ne_eq, not_true_eq_false, or_false]

theorem becomes_testResultReceive {s : State} {f : RxFrame} {b c : Blk} {tk : Taken} (h : HearsSub s f ftHealth 1 b tk)
    (hc : c = b.frameDone tk) (hkind : leAt tk.f.payload 0 1 = 1) : Becomes (.testResultReceive f) s
      (if c.role ≠ .tray then c else (healthRecords tk.f.payload).foldl (fun s b => s.resultIn tk.f.srole b) c) := by
  obtain ⟨hrun, htake⟩ := h
  refine .of_lift _ (show execTestResultReceive f s = lift _ s from rfl) hrun ?_
  simp only [htake, ← hc, hkind, ne_eq, not_true_eq_false, or_false]

theorem becomes_historyRecordReceive {s : State} {f : RxFrame} {b c : Blk} {tk : Taken} (h : HearsSub s f ftHealth 1 b tk)
    (hc : c = b.frameDone tk) (hkind : leAt tk.f.payload 0 1 = 1) : Becomes (.historyRecordReceive f) s
      (if c.role ≠ .span then c else (healthRecords tk.f.payload).foldl (fun s b => s.historyIn tk.f.src b) c) := by
  obtain ⟨hrun, htake⟩ := h
  refine .of_lift _ (show execHistoryRecordReceive f s = lift _ s from rfl) hrun ?_
  simp only [htake, ← hc, hkind, ne_eq, not_true_eq_false, or_false]

/-- A record that is not above the last taken from its place is ignored (R398). -/
theorem Blk.historyIn_of_old (b : Blk) {src : Word} {r : List Byte} {n : Word} (hlast : Store.look b.hlt.rseqOf src.toNat = some n)
    (hold : (recRseq r).toNat ≤ n.toNat) : b.historyIn src r = b := by
  simp only [Blk.historyIn, hlast, hold, decide_true, if_true]

/-! ### The obligation -/

/-- Settles O52: a pattern set by its length, header and check; engine types, results and history by role; a record that is old. -/
theorem healthFrames : Obligations.HealthFrames := by
  refine ⟨fun s f b c tk p h hc hkind hp => ?set, fun s f b c tk h hc hkind => ?types, fun s f b c tk h hc hkind => ?records,
    fun b src r n hlast hold => b.historyIn_of_old hlast hold⟩
  case set =>
    have hb := becomes_patternSetReceive h hc hkind
    rw [← hp] at hb
    refine ⟨fun hrole => by rwa [if_pos hrole] at hb, fun hrole hlen => ?short, fun hrole hlen hmagic hroom => ?sound,
      fun hrole hlen hbad => ?bad⟩ <;> rw [if_neg (not_not.2 hrole)] at hb
    case short => rwa [c.gatherSet_of_short hlen] at hb
    case bad => rwa [c.gatherSet_of_bad hlen hbad] at hb
    case sound =>
      rw [c.gatherSet_of_sound hlen hmagic hroom] at hb
      refine ⟨fun hpart => by rwa [if_pos hpart] at hb, fun hwhole hcrc => ?_, fun hwhole hcrc => ?_⟩ <;>
        rw [if_neg (not_lt.2 hwhole)] at hb
      · rwa [if_pos hcrc] at hb
      · rw [if_neg (not_not.2 hcrc)] at hb
        refine hb.gives ?_
        rw [settle_hlt, Blk.storeSet_hlt]
        exact ⟨rfl, rfl⟩
  case types =>
    have hb := becomes_engineTypesReceive h hc hkind
    exact ⟨fun hrole => by rwa [if_pos hrole] at hb, fun hrole => by rwa [if_neg (not_not.2 hrole)] at hb⟩
  case records =>
    have hres := becomes_testResultReceive h hc hkind
    have hhist := becomes_historyRecordReceive h hc hkind
    exact ⟨fun hrole => by rwa [if_pos hrole] at hres, fun hrole => by rwa [if_neg (not_not.2 hrole)] at hres,
      fun hrole => by rwa [if_pos hrole] at hhist, fun hrole => by rwa [if_neg (not_not.2 hrole)] at hhist⟩

end Sys2Proof.Machine
end

section
/-!
PROOFS. Field tests (R388 to R392): how the tray orders a test, how a die places it, and how a test that has been placed ends.
-/

namespace Sys2Proof.Machine

/-! ### The tray's order (R388, R389) -/

/-- The test of an entity that is due stands ordered. -/
def Blk.ordered (s : Blk) (ent : Nat) : Blk :=
  s.modHlt (fun x => { x with due := match Store.look x.due ent with
    | some d => Store.put x.due ent { d with order := true }
    | none => x.due })

/-- The parts of a set go to a die. -/
def Blk.sendSet (s : Blk) (place : Word) (all : List Byte) : Blk :=
  (List.range ((all.length + 4091) / 4092)).foldl (fun s i =>
    s.sendMsg 7 place 1 ftHealth none (leBytes 4 5 ++ (all.drop (4092 * i)).take 4092) 0 none) s

/-- The tray orders a test with set `n` of check `crc`, whose bytes are `all`: the set goes first where the die does not hold it. -/
def Blk.orderTest (s : Blk) (place : Word) (ent n : Nat) (crc : Word) (all : List Byte) : Blk :=
  if Store.look (s.ordered ent).hlt.sent place.toNat = some (n, crc) then s.ordered ent
  else ((s.ordered ent).sendSet place all).modHlt (fun x => { x with sent := Store.put x.sent place.toNat (n, crc) })

theorem Blk.sendSet_hlt (s : Blk) (place : Word) (all : List Byte) : (s.sendSet place all).hlt = s.hlt :=
  (queueOnly_foldl _ (fun _ _ => queueOnly_sendMsg _ _ _ _ _ _ _ _ _) _ s).hlt_eq

/-- An order leaves the die with the set, and of the schedule it changes the test alone. -/
theorem Blk.orderTest_hlt (s : Blk) (place : Word) (ent n : Nat) (crc : Word) (all : List Byte) :
    Store.look (s.orderTest place ent n crc all).hlt.sent place.toNat = some (n, crc) ∧
    (s.orderTest place ent n crc all).hlt.due = (s.ordered ent).hlt.due := by
  unfold Blk.orderTest
  split
  case isTrue hheld => exact ⟨hheld, rfl⟩
  case isFalse =>
    simp only [Blk.modHlt_hlt, Store.look_put, if_true, Blk.sendSet_hlt, and_self]

theorem Blk.ordered_due (s : Blk) {ent : Nat} {d : DueT} (hd : Store.look s.hlt.due ent = some d) :
    Store.look (s.ordered ent).hlt.due ent = some { d with order := true } := by
  simp only [Blk.ordered, Blk.modHlt_hlt, hd, Store.look_put, if_true]

/-- Nothing is ordered by another role, with tests disabled, for an engine that is not tested, or out of turn (R389). -/
theorem exec_testDue_skip {s : State} {p : Word} {c : Nat} (hrun : s.blk.inReset = false)
    (h : s.blk.role ≠ .tray ∨ s.blk.hltCtl 0 = false ∨ Store.get 0 s.blk.hlt.types (512 * p.toNat + c) = 0 ∨
      s.blk.firstDue ≠ some (entity p 2 c)) : exec (.testDue p c) s = .next (settle s) := by
  refine Becomes.of_lift _ (show execTestDue p c s = lift _ s from rfl) hrun (if_pos ?_)
  simpa only [Bool.not_eq_true'] using h

section
variable {s : State} {p : Word} {c e : Nat} (hrun : s.blk.inReset = false)
  (he : e = Store.get 0 s.blk.hlt.types (512 * p.toNat + c)) (hrole : s.blk.role = .tray) (hen : s.blk.hltCtl 0 = true) (hne : e ≠ 0)
  (hfirst : s.blk.firstDue = some (entity p 2 c))
include hrun he hrole hen hne hfirst

/-- Without a set in the directory the test that comes first ends NOSET (R388). -/
theorem becomes_testDue_of_no_set (hset : s.blk.patEntry e 256 (s.blk.reg (.hlt .HLT_PAT_DIR)).toNat = none) :
    Becomes (.testDue p c) s (s.blk.testEnded (entity p 2 c) 6 0) := by
  subst he
  refine .of_lift _ (show execTestDue p c s = lift _ s from rfl) hrun ((if_neg (by simp [hrole, hen, hne, hfirst])).trans ?_)
  simp only [hset]

/-- With a set it is ordered where the set's header is one and its check passes, and else ends NOSET with the number of the set. -/
theorem becomes_testDue {o n : Nat} (hset : s.blk.patEntry e 256 (s.blk.reg (.hlt .HLT_PAT_DIR)).toNat = some (o, n)) :
    Becomes (.testDue p c) s
      (if leAt (Mem.rdN s.blk.mem.flash o 64) 0 4 ≠ 0x50530001 ∨
          crc32c (Mem.rdN s.blk.mem.flash (o + 64) (leAt (Mem.rdN s.blk.mem.flash o 64) 8 4)) ≠
            w32 (leAt (Mem.rdN s.blk.mem.flash o 64) 12 4) then s.blk.testEnded (entity p 2 c) (6 + n <<< 16) 0
       else s.blk.orderTest p (entity p 2 c) n (w32 (leAt (Mem.rdN s.blk.mem.flash o 64) 12 4))
        (Mem.rdN s.blk.mem.flash o 64 ++ Mem.rdN s.blk.mem.flash (o + 64) (leAt (Mem.rdN s.blk.mem.flash o 64) 8 4))) := by
  subst he
  refine .of_lift _ (show execTestDue p c s = lift _ s from rfl) hrun ((if_neg (by simp [hrole, hen, hne, hfirst])).trans ?_)
  simp only [hset]
  rfl

end

/-! ### A die places a test (R390) -/

theorem becomes_testPlace {s : State} {c : Nat} {t : Int} (hrun : s.blk.inReset = false) (hot : s.blk.hotOf c = some t) :
    Becomes (.testPlace c) s
      (if s.blk.mayPlace c = true ∧ s16 (fld (s.blk.reg (.hlt .HLT_HOT)) 15 0) ≤ t then s.blk.placeTest c false else s.blk) := by
  refine .of_lift _ (show execTestPlace c s = lift _ s from rfl) hrun ?_
  simp only [hot]

theorem exec_testPlace_of_no_input {s : State} {c : Nat} (hrun : s.blk.inReset = false) (hot : s.blk.hotOf c = none) :
    exec (.testPlace c) s = .next (settle s) := by
  refine Becomes.of_lift _ (show execTestPlace c s = lift _ s from rfl) hrun ?_
  simp only [hot]

theorem becomes_hotWaitExpire {s : State} (c : Nat) (hrun : s.blk.inReset = false) :
    Becomes (.hotWaitExpire c) s (if s.blk.mayPlace c = true then s.blk.placeTest c true else s.blk) :=
  .of_lift _ (show execHotWaitExpire c s = lift _ s from rfl) hrun rfl

theorem Blk.placeTest_tests (b : Blk) (c : Nat) (cool : Bool) {k : Nat} {p : PatSet} (hset : b.hlt.patSet = some p)
    (hfree : freeKey b.hlt.tests 8 0 = some k) : (b.placeTest c cool).hlt.tests = Store.put b.hlt.tests k
      { chan := c, v := true, f := true, setId := p.setId, exp := p.exp, len := 64 + p.len, cool := cool, at_ := b.tclk,
        gntAt := none } := by
  simp only [Blk.placeTest, hset, hfree, Blk.modHlt_hlt]

/-! ### A test that has been placed (R391, R392) -/

section
variable {s : State} {k : Nat} {t : DieTest} (hrun : s.blk.inReset = false) (ht : Store.look s.blk.hlt.tests k = some t)
include hrun ht

theorem becomes_testGrant : Becomes (.testGrant k) s
    (if t.gntAt.isSome = true then s.blk
     else s.blk.modHlt (fun h => { h with tests := Store.put h.tests k { t with gntAt := some s.blk.tclk } })) := by
  refine .of_lift _ (show execTestGrant k s = lift _ s from rfl) hrun ?_
  simp only [Blk.modHlt, ht]
  cases t.gntAt.isSome <;> rfl

theorem becomes_testDone (sig : Dword) : Becomes (.testDone k sig) s
    (if t.gntAt.isNone = true then s.blk
     else s.blk.endTest k (if sig = t.exp then (if t.cool then 2 else 1) else 3) 0 sig) := by
  refine .of_lift _ (show execTestDone k sig s = lift _ s from rfl) hrun ?_
  simp only [ht]

theorem becomes_testAbort : Becomes (.testAbort k) s (if t.gntAt.isNone = true then s.blk else s.blk.endTest k 4 1 0) := by
  refine .of_lift _ (show execTestAbort k s = lift _ s from rfl) hrun ?_
  simp only [ht]

theorem becomes_grantTimeout : Becomes (.grantTimeout k) s
    (if t.gntAt.isNone = true ∧ s.blk.passed t.at_ (s.blk.ms (s.blk.reg (.hlt .HLT_GNT_TMO)).toNat) = true then
      s.blk.endTest k 5 0 0 else s.blk) := by
  refine .of_lift _ (show execGrantTimeout k s = lift _ s from rfl) hrun ?_
  simp only [ht]

theorem becomes_runTimeout_of_granted {g : Nat} (hg : t.gntAt = some g) : Becomes (.runTimeout k) s
    (if s.blk.passed g (s.blk.ms (s.blk.reg (.hlt .HLT_RUN_TMO)).toNat) = true then s.blk.endTest k 4 2 0 else s.blk) := by
  refine .of_lift _ (show execRunTimeout k s = lift _ s from rfl) hrun ?_
  simp only [ht, hg]

theorem exec_runTimeout_of_not_granted (hg : t.gntAt = none) : exec (.runTimeout k) s = .next (settle s) := by
  refine Becomes.of_lift _ (show execRunTimeout k s = lift _ s from rfl) hrun ?_
  simp only [ht, hg]

end

/-- The slot of a test that has ended is free; where there was none, nothing ends. -/
theorem Blk.endTest_tests (b : Blk) (k r n : Nat) (sig : Dword) :
    (b.endTest k r n sig).hlt.tests = Store.del b.hlt.tests k ∨ Store.look b.hlt.tests k = none := by
  cases ht : Store.look b.hlt.tests k with
  | none => exact .inr rfl
  | some t =>
    left
    simp only [Blk.endTest, ht]
    rw [(queueOnly_sendMsg _ _ _ _ _ _ _ _ _).hlt_eq, Blk.modHlt_hlt]

/-! ### The obligation -/

/-- Settles O51: the order, the placing, the slot it takes, the ends with and without a grant, the slot that is free again. -/
theorem fieldTests : Obligations.FieldTests := by
  refine ⟨fun s p c e hrun he => ?due, fun s c hrun => ?place,
    fun b c k cool p hset hfree => b.placeTest_tests c cool hset hfree, fun s k t hrun ht => ⟨fun hg => ?grant, fun g hg => ?granted,
    fun hg => ?waiting⟩, fun b k r n sig => b.endTest_tests k r n sig⟩
  case due =>
    refine ⟨fun hnot => exec_testDue_skip hrun (by rwa [← he]), fun hrole hen hne hfirst =>
      ⟨becomes_testDue_of_no_set hrun he hrole hen hne hfirst, fun o n hset => ?_⟩⟩
    have hb := becomes_testDue hrun he hrole hen hne hfirst hset
    refine ⟨fun hmagic => by rwa [if_pos (.inl hmagic)] at hb, fun hmagic hcrc => ?_⟩
    rw [if_neg (by simp [hmagic, hcrc])] at hb
    refine hb.gives ?_
    rw [settle_hlt]
    obtain ⟨hsent, hdue⟩ := s.blk.orderTest_hlt p (entity p 2 c) n (w32 (leAt (Mem.rdN s.blk.mem.flash o 64) 12 4))
      (Mem.rdN s.blk.mem.flash o 64 ++ Mem.rdN s.blk.mem.flash (o + 64) (leAt (Mem.rdN s.blk.mem.flash o 64) 8 4))
    exact ⟨hsent, fun d hd => by rw [hdue, s.blk.ordered_due hd]⟩
  case place =>
    have hcool := becomes_hotWaitExpire c hrun
    refine ⟨exec_testPlace_of_no_input hrun, fun t hot => ?_, fun hmay => by rwa [if_pos hmay] at hcool,
      fun hmay => by rwa [if_neg (by simp [hmay])] at hcool⟩
    have hb := becomes_testPlace hrun hot
    refine ⟨fun hmay hhot => by rwa [if_pos ⟨hmay, hhot⟩] at hb, fun hnot => ?_⟩
    rwa [if_neg (by rintro ⟨hmay, hhot⟩; exact hnot.elim (by simp [hmay]) (not_lt.2 hhot))] at hb
  case grant =>
    have hb := becomes_testGrant hrun ht
    rw [hg] at hb
    refine hb.gives ?_
    simp
  case granted =>
    have hgrant := becomes_testGrant hrun ht
    have habort := becomes_testAbort hrun ht
    have hwait := becomes_grantTimeout hrun ht
    have htmo := becomes_runTimeout_of_granted hrun ht hg
    rw [hg] at hgrant habort hwait
    refine ⟨hgrant, fun sig => ?_, habort, fun hpass => by rwa [if_pos hpass] at htmo,
      fun hpass => by rwa [if_neg (by simp [hpass])] at htmo, ?_⟩
    · have hdone := becomes_testDone hrun ht sig
      rw [hg] at hdone
      exact hdone
    · rwa [if_neg (by simp)] at hwait
  case waiting =>
    have habort := becomes_testAbort hrun ht
    have hwait := becomes_grantTimeout hrun ht
    rw [hg] at habort hwait
    refine ⟨fun sig => ?_, habort, exec_runTimeout_of_not_granted hrun ht hg, fun hpass => by rwa [if_pos ⟨rfl, hpass⟩] at hwait,
      fun hpass => by rwa [if_neg (by simp [hpass])] at hwait⟩
    have hdone := becomes_testDone hrun ht sig
    rw [hg] at hdone
    exact hdone

end Sys2Proof.Machine
end

section
/-!
PROOFS. Heartbeats, silence, votes and fences (R403 to R407, R483): what goes out on the management networks, what a heartbeat or a silence
leaves, and what a fence does.
-/

namespace Sys2Proof.Machine

/-! ### What goes out (R403, R404, R407) -/

/-- The networks of the frames that an instance drives, in order. -/
def Blk.nets (s : Blk) : List Nat := s.port.mgmt.map Prod.fst

@[simp] theorem Blk.mgmtSend_hlt (s : Blk) (n : Nat) (p : List Byte) : (s.mgmtSend n p).hlt = s.hlt := rfl

@[simp] theorem Blk.mgmtSend_nets (s : Blk) (n : Nat) (p : List Byte) : (s.mgmtSend n p).nets = s.nets ++ [n] := by
  simp [Blk.nets, Blk.mgmtSend]

/-- A heartbeat goes out on both networks. -/
theorem Blk.mgmtClear_sendHeartbeat_nets (s : Blk) : s.mgmtClear.sendHeartbeat.nets = [0, 1] := rfl

/-- It is numbered, and nothing else of the health unit changes. -/
theorem Blk.mgmtClear_sendHeartbeat_hlt (s : Blk) : s.mgmtClear.sendHeartbeat.hlt = { s.hlt with hseq := s.hlt.hseq + 1 } := rfl

/-- Every notice goes out on both networks. -/
def Blk.sendNotices (s : Blk) (l : List Notice) : Blk :=
  l.foldl (fun s n => (s.mgmtSend 0 (s.noticeBytes n 0)).mgmtSend 1 (s.noticeBytes n 1)) s

theorem Blk.sendNotices_hlt (l : List Notice) (s : Blk) : (s.sendNotices l).hlt = s.hlt := by
  induction l generalizing s with
  | nil => rfl
  | cons n l ih => exact ih _

theorem Blk.sendNotices_nets (l : List Notice) (s : Blk) :
    (s.sendNotices l).nets = (l.flatMap (fun _ => [0, 1])).foldl (fun l x => l ++ [x]) s.nets := by
  induction l generalizing s with
  | nil => rfl
  | cons n l ih =>
    refine (ih _).trans ?_
    simp only [Blk.mgmtSend_nets, List.flatMap_cons, List.foldl_append, List.foldl_cons, List.foldl_nil]

/-- The notices that are left to be sent once those of now have been. -/
def noticesLeft (l : List Notice) : List Notice := (l.filter (fun n => decide (1 < n.left))).map (fun n => { n with left := n.left - 1 })

theorem Logged.ite {b c : Blk} (h : Logged b c) (p : Prop) [Decidable p] : Logged b (if p then c else b) := by
  split
  · exact h
  · exact rfl

/-- A heartbeat period changes only what is known of a peer, and what is counted and raised. -/
theorem Blk.hbPeriod_eq (s : Blk) (pk : Nat) : s.hbPeriod pk = s ∨
    ∃ t p, Logged s t ∧ s.hbPeriod pk = t.modHlt (fun h => { h with peers := Store.put h.peers pk p }) := by
  unfold Blk.hbPeriod
  cases Store.look s.hlt.peers pk with
  | none => exact .inl rfl
  | some p =>
    by_cases hsilent : p.silent = true
    · exact .inl (if_pos hsilent)
    · refine .inr ⟨_, _, ?_, if_neg hsilent⟩
      exact ((((Logged.count _ _ _).ite _).trans ((Logged.count _ _ _).ite _)).trans ((Logged.emit _ _ _ _ _).ite _)).trans
        ((Logged.emit _ _ _ _ _).ite _)

/-- It leaves what has gone out and what is left to go. -/
theorem Blk.hbPeriod_sent (s : Blk) (pk : Nat) : (s.hbPeriod pk).nets = s.nets ∧ (s.hbPeriod pk).hlt.hseq = s.hlt.hseq ∧
    (s.hbPeriod pk).hlt.notices = s.hlt.notices := by
  rcases s.hbPeriod_eq pk with h | ⟨t, p, ht, h⟩ <;> rw [h]
  · exact ⟨rfl, rfl, rfl⟩
  · rw [Logged] at ht
    rw [ht]
    exact ⟨rfl, rfl, rfl⟩

theorem Blk.hbPeriods_sent (l : List Nat) (s : Blk) : (l.foldl Blk.hbPeriod s).nets = s.nets ∧
    (l.foldl Blk.hbPeriod s).hlt.hseq = s.hlt.hseq ∧ (l.foldl Blk.hbPeriod s).hlt.notices = s.hlt.notices := by
  induction l generalizing s with
  | nil => exact ⟨rfl, rfl, rfl⟩
  | cons pk l ih =>
    obtain ⟨hnets, hseq, hnot⟩ := s.hbPeriod_sent pk
    obtain ⟨inets, iseq, inot⟩ := ih (s.hbPeriod pk)
    exact ⟨inets.trans hnets, iseq.trans hseq, inot.trans hnot⟩

/-- The heartbeat and the notices of now have gone out. -/
def Blk.heartbeatSent (s : Blk) : Blk :=
  let s := s.mgmtClear.sendHeartbeat
  let s := s.sendNotices s.hlt.notices
  s.modHlt (fun h => { h with notices := noticesLeft s.hlt.notices })

theorem Blk.heartbeatSent_sent (s : Blk) :
    s.heartbeatSent.nets = (s.hlt.notices.flatMap (fun _ => [0, 1])).foldl (fun l x => l ++ [x]) [0, 1] ∧
    s.heartbeatSent.hlt.hseq = s.hlt.hseq + 1 ∧ s.heartbeatSent.hlt.notices = noticesLeft s.hlt.notices := by
  refine ⟨Blk.sendNotices_nets s.hlt.notices s.mgmtClear.sendHeartbeat, ?_, ?_⟩ <;>
    simp only [Blk.heartbeatSent, Blk.modHlt_hlt, Blk.sendNotices_hlt, Blk.mgmtClear_sendHeartbeat_hlt]

theorem becomes_heartbeatSend {s : State} (hrun : s.blk.inReset = false) : Becomes .heartbeatSend s
    (if s.blk.hltCtl 1 = false ∨ s.blk.role = .die then s.blk
     else (Store.keys s.blk.heartbeatSent.hlt.peers).foldl Blk.hbPeriod s.blk.heartbeatSent) := by
  refine .of_lift _ (show execHeartbeatSend s = lift _ s from rfl) hrun ?_
  simp only [Bool.not_eq_true']
  rfl

/-! ### A heartbeat heard (R403 to R405) -/

/-- What an instance knows of a peer `x` once it has heard the heartbeat of bytes `b` of it on network `n`. -/
def Blk.peerHeard (s : Blk) (n : Nat) (x : Word) (b : List Byte) : Peer :=
  { Store.get Peer.fresh s.hlt.peers x.toNat with
    m0 := if n = 0 then some s.tclk else (Store.get Peer.fresh s.hlt.peers x.toNat).m0
    m1 := if n = 0 then (Store.get Peer.fresh s.hlt.peers x.toNat).m1 else some s.tclk
    role := leAt b 2 1 % 4
    ready := decide (leAt b 2 1 / 4 % 2 = 1)
    fself := decide (leAt b 2 1 / 8 % 2 = 1)
    part := leAt b 8 2 % 4096
    grd := leAt b 10 2 % 4096
    chunks := w32 (leAt b 32 4)
    silent := false }

/-- The peer is known by what has been heard, and no vote of this instance against it stands. -/
def Blk.notePeer (s : Blk) (n : Nat) (x : Word) (b : List Byte) : Blk :=
  s.modHlt (fun h => { h with peers := Store.put h.peers x.toNat (s.peerHeard n x b), own := h.own.filter (· ≠ x) })

/-- What a heartbeat leaves before its votes are booked: the group is checked, and a span instance is heard. -/
def Blk.peerNoted (s : Blk) (n : Nat) (x : Word) (b : List Byte) : Blk :=
  if leAt b 2 1 % 4 = 3 then (s.notePeer n x b).grdCheck.spanHeard x (decide (leAt b 2 1 / 4 % 2 = 1)) else (s.notePeer n x b).grdCheck

/-- The votes of a heartbeat. -/
def votesOf (b : List Byte) : List Word :=
  (if leAt b 2 1 / 16 % 2 = 1 then [w32 (leAt b 24 4)] else []) ++ (if leAt b 2 1 / 32 % 2 = 1 then [w32 (leAt b 28 4)] else [])

section
variable {s : State} {n : Nat} {f : MgmtFrame} {x : Word} (hrun : s.blk.inReset = false) (hx : x = w32 (leAt f.bytes 4 4))
include hrun hx

/-- What is no heartbeat, or the instance's own, changes nothing. -/
theorem exec_heartbeatReceive_skip (h : s.blk.role = .die ∨ mgmtFmt f (fld (s.blk.reg (.hlt .HLT_HB_ETYPE)) 15 0) ≠ some 0x4842 ∨
    (x = s.blk.place ∧ leAt f.bytes 2 1 % 4 = roleCode s.blk.role)) : exec (.heartbeatReceive n f) s = .next (settle s) := by
  subst hx
  refine Becomes.of_lift _ (show execHeartbeatReceive n f s = lift _ s from rfl) hrun ?_
  by_cases hno : s.blk.role = .die ∨ mgmtFmt f (fld (s.blk.reg (.hlt .HLT_HB_ETYPE)) 15 0) ≠ some 0x4842
  · exact if_pos hno
  · exact (if_neg hno).trans (if_pos ((or_assoc.2 h).resolve_left hno))

/-- A peer's heartbeat makes the peer known, and books its votes where it is a member of the group that has not been fenced. -/
theorem becomes_heartbeatReceive {c : Blk} (hrole : s.blk.role ≠ .die)
    (hfmt : mgmtFmt f (fld (s.blk.reg (.hlt .HLT_HB_ETYPE)) 15 0) = some 0x4842)
    (hother : ¬ (x = s.blk.place ∧ leAt f.bytes 2 1 % 4 = roleCode s.blk.role)) (hc : c = s.blk.peerNoted n x f.bytes) :
    Becomes (.heartbeatReceive n f) s
      (if leAt f.bytes 2 1 / 8 % 2 = 1 ∨ c.isFenced x = true ∨ c.grdMem.contains x = false then c
       else c.bookVotes x (votesOf f.bytes)) := by
  subst hx hc
  refine .of_lift _ (show execHeartbeatReceive n f s = lift _ s from rfl) hrun ?_
  rw [if_neg (by simp [hrole, hfmt]), if_neg hother]
  simp only [decide_eq_true_eq, Bool.not_eq_true']
  rfl

end

/-! ### A silent peer (R404, R405) -/

/-- A peer is found silent, and the lead is looked at. -/
def Blk.silenced (s : Blk) (x : Word) (p : Peer) : Blk :=
  (s.modHlt (fun h => { h with peers := Store.put h.peers x.toNat { p with silent := true } })).leadCheck

/-- Whether a tray has to vote against `x`: a member that is not fenced, that it has not voted against, and whose group it can still
vote in. -/
def Blk.mustVote (b : Blk) (x : Word) : Prop :=
  b.hltCtl 2 = true ∧ b.role = .tray ∧ b.grdMem.contains x = true ∧ b.hlt.fencedSelf = false ∧ b.hlt.own.contains x = false ∧
    b.isFenced x = false

theorem Blk.not_mustVote_iff {b : Blk} {x : Word} : ¬ b.mustVote x ↔
    (b.hltCtl 2 = false ∨ b.role ≠ .tray ∨ b.grdMem.contains x = false ∨ b.hlt.fencedSelf = true ∨ b.hlt.own.contains x = true ∨
      b.isFenced x = true) := by
  simp only [Blk.mustVote, not_and_or, Bool.not_eq_true, Bool.not_eq_false, ne_eq]

/-- A vote against `x` goes out with a heartbeat and is booked. -/
def Blk.voteSent (b : Blk) (x : Word) : Blk := (b.modHlt (fun h => { h with own := h.own ++ [x] })).mgmtClear.sendHeartbeat

theorem exec_peerSilent_of_unknown {s : State} {x : Word} (hrun : s.blk.inReset = false)
    (hx : Store.look s.blk.hlt.peers x.toNat = none) : exec (.peerSilent x) s = .next (settle s) := by
  refine Becomes.of_lift _ (show execPeerSilent x s = lift _ s from rfl) hrun ?_
  simp only [hx]

section
variable {s : State} {x : Word} {p : Peer} (hrun : s.blk.inReset = false) (hx : Store.look s.blk.hlt.peers x.toNat = some p)
include hrun hx

/-- A peer that one of the networks has carried within HLT_HB_SILENT is not silent, nor is one silent twice. -/
theorem exec_peerSilent_skip (h : s.blk.hltCtl 1 = false ∨ p.silent = true ∨ s.blk.quiet p.m0 s.blk.silentTime = false ∨
    s.blk.quiet p.m1 s.blk.silentTime = false) : exec (.peerSilent x) s = .next (settle s) := by
  refine Becomes.of_lift _ (show execPeerSilent x s = lift _ s from rfl) hrun ?_
  simp only [hx]
  exact if_pos (by simpa only [Bool.not_eq_true'] using h)

section
variable {b : Blk} (hen : s.blk.hltCtl 1 = true) (hnew : p.silent = false) (hm0 : s.blk.quiet p.m0 s.blk.silentTime = true)
  (hm1 : s.blk.quiet p.m1 s.blk.silentTime = true) (hb : b = s.blk.silenced x p)
include hen hnew hm0 hm1 hb

theorem becomes_peerSilent_of_no_vote (hno : ¬ b.mustVote x ∨ 2 ≤ b.hlt.own.length) : Becomes (.peerSilent x) s b := by
  subst hb
  unfold Blk.silenced at *
  refine .of_lift _ (show execPeerSilent x s = lift _ s from rfl) hrun ?_
  simp only [hx]
  rw [if_neg (by simp [hen, hnew, hm0, hm1])]
  rcases hno with hno | hfull
  · exact if_pos (by simpa only [Bool.not_eq_true'] using Blk.not_mustVote_iff.1 hno)
  · rw [if_pos hfull, ite_self]

theorem becomes_peerSilent {c : Blk} (hmust : b.mustVote x) (hroom : b.hlt.own.length < 2) (hc : c = b.voteSent x) :
    Becomes (.peerSilent x) s (c.bookVotes c.place c.hlt.own) := by
  subst hb hc
  have hvote := mt Blk.not_mustVote_iff.2 (not_not.2 hmust)
  unfold Blk.silenced at *
  refine .of_lift _ (show execPeerSilent x s = lift _ s from rfl) hrun ?_
  simp only [hx]
  rw [if_neg (by simp [hen, hnew, hm0, hm1]), if_neg (by simpa only [Bool.not_eq_true'] using hvote),
    if_neg (not_le.2 hroom)]
  rfl

end
end

/-! ### Fences (R406, R407) -/

section
variable {s : State} (n : Nat) {f : MgmtFrame} (hrun : s.blk.inReset = false)
include hrun

theorem exec_fenceNoticeReceive_skip (h : s.blk.role = .die ∨
    mgmtFmt f (fld (s.blk.reg (.hlt .HLT_HB_ETYPE)) 15 0) ≠ some 0x464E) : exec (.fenceNoticeReceive n f) s = .next (settle s) :=
  Becomes.of_lift _ (show execFenceNoticeReceive n f s = lift _ s from rfl) hrun (if_pos h)

/-- A tray applies the notices of its own partition. -/
theorem becomes_fenceNoticeReceive_tray (hrole : s.blk.role = .tray)
    (hfmt : mgmtFmt f (fld (s.blk.reg (.hlt .HLT_HB_ETYPE)) 15 0) = some 0x464E) : Becomes (.fenceNoticeReceive n f) s
      (if leAt f.bytes 8 2 % 4096 = s.blk.part then
        s.blk.applyFence (decide (leAt f.bytes 2 1 % 2 = 1)) (w32 (leAt f.bytes 24 4)) (decide (leAt f.bytes 2 1 / 2 % 2 = 1))
       else s.blk) := by
  refine .of_lift _ (show execFenceNoticeReceive n f s = lift _ s from rfl) hrun ((if_neg (by simp [hrole, hfmt])).trans ?_)
  simp only [hrole, ne_eq, reduceCtorEq, not_false_eq_true, true_and, false_and, or_false]

end

theorem becomes_fenceFrameReceive {s : State} {f : RxFrame} {b : Blk} {tk : Taken} (h : Hears s f ftFence b tk) :
    Becomes (.fenceFrameReceive f) s
      ((b.frameDone tk).applyFence (bit (wordAt tk.f.payload 0) 0) (wordAt tk.f.payload 1) (bit (wordAt tk.f.payload 2) 0)) := by
  obtain ⟨hrun, htake⟩ := h
  refine .of_lift _ (show execFenceFrameReceive f s = lift _ s from rfl) hrun ?_
  simp only [htake]

/-- A fence or lift already applied is counted and does nothing more. -/
theorem Blk.applyFence_of_applied (b : Blk) {on : Bool} {y : Word} (v : Bool) (h : b.hlt.fenced.contains y = on) :
    b.applyFence on y v = b.count (.hlt .HLT_FENCE_CNT) 1 := if_pos h

/-! ### The obligation -/

/-- Settles O54: what goes out, a heartbeat heard, a peer silent, a notice, a fence frame, a fence applied twice, the network lines. -/
theorem heartbeatsAndFences : Obligations.HeartbeatsAndFences := by
  refine ⟨fun s hrun => ?send,
    fun s n f x hrun hx => ⟨exec_heartbeatReceive_skip hrun hx, fun b c l hrole hfmt hother hl hb hc => ?heard⟩,
    fun s x hrun hx => exec_peerSilent_of_unknown hrun hx,
    fun s x p hrun hx => ⟨exec_peerSilent_skip hrun hx, fun b hen hnew hm0 hm1 hb => ?silent⟩, fun s n f hrun => ?notice,
    fun s f b tk h => becomes_fenceFrameReceive h, fun b on v y h => b.applyFence_of_applied v h, fun s up hrun => ?line⟩
  case send =>
    have hsend := becomes_heartbeatSend hrun
    refine ⟨fun hno => by rwa [if_pos hno] at hsend, fun hen hrole => ?_⟩
    rw [if_neg (by simp [hen, hrole])] at hsend
    obtain ⟨hnets, hseq, hnot⟩ := s.blk.heartbeatSent_sent
    obtain ⟨pnets, pseq, pnot⟩ := Blk.hbPeriods_sent (Store.keys s.blk.heartbeatSent.hlt.peers) s.blk.heartbeatSent
    refine hsend.gives ?_
    rw [settle_hlt, settle_port]
    exact ⟨pseq.trans hseq, pnets.trans hnets, pnot.trans hnot⟩
  case heard =>
    subst hl
    have hbook := becomes_heartbeatReceive (n := n) hrun hx hrole hfmt hother (c := c) (by rw [hc, hb]; rfl)
    refine ⟨fun hno => by rwa [if_pos hno] at hbook, fun hself hfenced hmem => ?_⟩
    rwa [if_neg (by rw [hfenced, hmem]; simp [hself])] at hbook
  case silent =>
    refine ⟨fun hno => becomes_peerSilent_of_no_vote hrun hx hen hnew hm0 hm1 hb ?_, fun hvote hrole hmem hself hown hfenced hroom c hc =>
      becomes_peerSilent hrun hx hen hnew hm0 hm1 hb ⟨hvote, hrole, hmem, hself, hown, hfenced⟩ hroom hc⟩
    simpa only [Blk.not_mustVote_iff, or_assoc] using hno
  case notice =>
    refine ⟨exec_fenceNoticeReceive_skip n hrun, fun hrole hfmt => ?_⟩
    have hb := becomes_fenceNoticeReceive_tray n hrun hrole hfmt
    exact ⟨fun hpart => by rwa [if_pos hpart] at hb, fun hpart => by rwa [if_neg hpart] at hb⟩
  case line =>
    have hline (n : Nat) := Becomes.of_lift (i := .tlMnUpChange n up) _ (show execTlMnUpChange n up s = lift _ s from rfl) hrun rfl
    refine ⟨(hline 0).gives (settle_hlt _), (hline 1).gives (settle_hlt _), fun n hn => ?_⟩
    have hb := hline n
    simp only [show n ≠ 0 by omega, show n ≠ 1 by omega, if_false] at hb
    exact hb

end Sys2Proof.Machine
end

section
/-!
PROOFS. Debug authorisations (R434): what the end of a check and the end of the grants come to, each said once and tied to `exec`, and the
obligation put together from that.
-/

namespace Sys2Proof.Machine

/-! ### The end of a check -/

/-- No authorisation is checked any more. -/
def Blk.authEnded (s : Blk) : Blk := (s.modTrace (fun m => { m with checking := none })).clearBusy .auth

/-- The authorisation that has been checked gives its grants. -/
def Blk.authGranted (s : Blk) (a : AuthCheck) : Blk :=
  (((s.setReg (.ctr .CTR_AUTH_RESULT) 6).setReg2 (.ctr .CTR_AUTH_END_HI) (.ctr .CTR_AUTH_END_LO) a.until_.toNat).modTrace
    (fun m => { m with grants := a.grants, endT := a.until_, serial := a.serial })).emit 5 0x0502 a.serial.toNat (a.grants.toNat + 8)

/-- The end of a check, by its reason; the checks look at nothing that the end of it changes. -/
theorem becomes_debugAuthResult {s : State} {a : AuthCheck} (v : Verdict) (hrun : s.blk.inReset = false)
    (ha : s.blk.trace.checking = some a) : Becomes (.debugAuthResult v) s
      (if s.blk.authReason a (decide (v = .ok)) ≠ 0 then
        s.blk.authEnded.setReg (.ctr .CTR_AUTH_RESULT) (w32 (2 + s.blk.authReason a (decide (v = .ok)) <<< 4))
       else s.blk.authEnded.authGranted a) := by
  refine .of_lift _ (show execDebugAuthResult v s = lift _ s from rfl) hrun ?_
  simp only [ha]
  rfl

@[simp] theorem Blk.authEnded_trace (s : Blk) : s.authEnded.trace = { s.trace with checking := none } := rfl

@[simp] theorem Blk.authGranted_trace (s : Blk) (a : AuthCheck) :
    (s.authGranted a).trace = { s.trace with grants := a.grants, endT := a.until_, serial := a.serial } := rfl

theorem Blk.authGranted_reg_result (s : Blk) (a : AuthCheck) : (s.authGranted a).reg (.ctr .CTR_AUTH_RESULT) = 6 := by
  have hregs : (s.authGranted a).reg (.ctr .CTR_AUTH_RESULT) = ((s.setReg (.ctr .CTR_AUTH_RESULT) 6).setReg2
    (.ctr .CTR_AUTH_END_HI) (.ctr .CTR_AUTH_END_LO) a.until_.toNat).reg (.ctr .CTR_AUTH_RESULT) := Blk.reg_congr rfl rfl _
  rw [hregs, Blk.reg_setReg2_ne _ _ _ _ _ (by simp [Reg.addr, Reg.info, CtrReg.info]) (by simp [Reg.addr, Reg.info, CtrReg.info]),
    Blk.reg_setReg]

/-! ### The reasons, in their order -/

theorem Blk.authReason_of_unsigned (b : Blk) (a : AuthCheck) : b.authReason a false = 1 := rfl

theorem Blk.authReason_of_bad (b : Blk) {a : AuthCheck} (h : a.bad ≠ 0) : b.authReason a true = a.bad := by
  simp [Blk.authReason, h]

/-- An authorisation passes only within its time and once the servo has been in lock. -/
theorem Blk.authReason_eq_zero {b : Blk} {a : AuthCheck} (hbad : a.bad = 0) (h : b.authReason a true = 0) :
    a.from_.toNat ≤ b.t64.toNat ∧ b.t64.toNat < a.until_.toNat ∧ b.boot.lockSeen = true := by
  simp only [Blk.authReason, hbad, Bool.not_true, Bool.false_eq_true, ne_eq, not_true_eq_false, if_false] at h
  split at h
  · cases h
  next htime =>
  split at h
  · cases h
  split at h
  · cases h
  next hlock =>
  exact ⟨by omega, by omega, by simpa using hlock⟩

/-! ### The end of the grants -/

theorem Blk.grantsEnd_trace (s : Blk) : s.grantsEnd.trace = { s.trace with grants := 0 } := by
  unfold Blk.grantsEnd
  split
  next hnone => rw [← hnone]
  next => rfl

theorem becomes_debugGrantExpire {s : State} (hrun : s.blk.inReset = false) : Becomes .debugGrantExpire s
    (if s.blk.trace.endT.toNat ≤ s.blk.t64.toNat then s.blk.grantsEnd else s.blk) :=
  .of_lift _ (show execDebugGrantExpire s = lift _ s from rfl) hrun rfl

/-! ### The obligation -/

/-- Settles O31: an authorisation that passes, one that does not, the order of the reasons, and the end of the grants. -/
theorem debugAuthorisation : Obligations.DebugAuthorisation := by
  refine ⟨fun s a v hrun ha => ⟨fun hpass => ?granted, fun hfail => ?refused⟩,
    fun b a => ⟨b.authReason_of_unsigned a, b.authReason_of_bad, Blk.authReason_eq_zero⟩,
    fun s hrun => ⟨fun hend => ?ended, fun hnot => ?notYet⟩⟩
  case granted =>
    have hb := becomes_debugAuthResult v hrun ha
    rw [if_neg (not_not_intro hpass)] at hb
    refine hb.gives ?_
    rw [settle_trace, settle_reg]
    exact ⟨rfl, rfl, rfl, rfl, Blk.authGranted_reg_result _ a⟩
  case refused =>
    have hb := becomes_debugAuthResult v hrun ha
    rw [if_pos hfail] at hb
    refine hb.gives ?_
    rw [settle_trace, settle_reg]
    exact ⟨rfl, Blk.reg_setReg _ _ _⟩
  case ended =>
    have hb := becomes_debugGrantExpire hrun
    rw [if_pos hend] at hb
    exact hb.gives ((settle_trace _).trans s.blk.grantsEnd_trace)
  case notYet =>
    have hb := becomes_debugGrantExpire hrun
    rw [if_neg (by omega)] at hb
    exact hb.exec_self

end Sys2Proof.Machine
end

section
/-!
PROOFS. The timers of a collection's start (R455 to R459): what each of them comes to, and the obligation put together from that.
-/

namespace Sys2Proof.Machine

/-! ### What each timer does -/

@[simp] theorem Blk.coll_modCs (s : Blk) (c : Nat) (f : CStart → CStart) :
    (s.modCs c f).coll c = { s.coll c with cs := (s.coll c).cs.map f } := s.coll_modColl c _

section
variable {s : State} {c : Nat} {cs : CStart} (hrun : s.blk.inReset = false) (hcs : (s.blk.coll c).cs = some cs)
include hrun hcs

/-- The WAIT of a start whose own work is not done goes up again after 1 ms (R456). -/
theorem becomes_startWaitRepeat {t : Nat} (hwait : cs.waitAt = some t) (hown : cs.own = none) : Becomes (.startWaitRepeat c) s
    (if s.blk.passed t (s.blk.ms 1) = true then s.blk.startWait c else s.blk) := by
  refine .of_lift _ (show execStartWaitRepeat c s = lift _ s from rfl) hrun ?_
  simp only [hcs, hwait, hown, Option.isNone_none, true_and]

/-- BOOT_RR, in tclk. -/
def Blk.rereachTime (b : Blk) : Nat := b.us (fld (b.reg (.boot .BOOT_RR)) 15 0)

/-- What becomes of a child that has been silent, by its role (R455, R457): a die is excluded, a tray is reached again, a span counts as
done. -/
def Blk.kidSilent (b : Blk) (c : Nat) (cs : CStart) (k : CKid) : Blk :=
  if k.role = 1 then b.excludeKid c k [k.place] false
  else if k.role = 3 then b.excludeKid c k [] false
  else b.traySilent c cs k

theorem becomes_rereachTimeout {p : Word} {k : CKid} (hkid : cs.kids.find? (fun k => k.place == p && !k.done) = some k) :
    Becomes (.rereachTimeout c p) s
      (if s.blk.passed k.heard s.blk.rereachTime = true then s.blk.kidSilent c cs k else s.blk) := by
  refine .of_lift _ (show execRereachTimeout c p s = lift _ s from rfl) hrun ?_
  simp only [hcs, hkid]
  change (if (!s.blk.passed k.heard s.blk.rereachTime) = true then s.blk else s.blk.kidSilent c cs k) = _
  cases s.blk.passed k.heard s.blk.rereachTime <;> rfl

/-- The words with which the coordinator gives a start up at its time: the first refusal, or 0x0E (R458). -/
def Blk.timeoutWords (b : Blk) (cs : CStart) : List Word :=
  match b.firstRefusal cs with
  | some (r, p) => abortWords r p
  | none => abortWords 0x0E 0

theorem becomes_startTimeout (hcoord : cs.coord = true) : Becomes (.startTimeout c) s
    (if s.blk.passed cs.at_ (s.blk.ms (s.blk.reg (.boot .BOOT_CS_TMO)).toNat) = true then
      s.blk.outcome c (s.blk.timeoutWords cs) else s.blk) := by
  refine .of_lift _ (show execStartTimeout c s = lift _ s from rfl) hrun ?_
  simp only [hcs, hcoord]
  cases hpassed : s.blk.passed cs.at_ (s.blk.ms (s.blk.reg (.boot .BOOT_CS_TMO)).toNat) with
  | false => simp
  | true =>
    simp only [Bool.not_true, Bool.false_eq_true, or_self, if_false, if_true, Blk.timeoutWords]
    rcases s.blk.firstRefusal cs with _ | ⟨r, p⟩ <;> rfl

/-- Whom an instance asks for the outcome of a start: a tray both its tree parents, where it has one, else the one above (R459). -/
def Blk.outcomeAsked (b : Blk) (c : Nat) (cs : CStart) : List Node :=
  let tree := atSite (b.coll c).parts (siteOf b.place)
  let ps := if b.role ≠ .tray then [] else [false, true].filterMap (fun x => (parentIn tree x b.place).map (fun p => (p, 2)))
  if ps.isEmpty then cs.up.toList else ps.foldl (fun l n => if l.contains n then l else l ++ [n]) []

theorem becomes_outcomeTimeout {t : Nat} (hacked : cs.acked = some t) : Becomes (.outcomeTimeout c) s
    (if s.blk.passed t s.blk.rereachTime = true then
      (s.blk.outcomeAsked c cs).foldl (fun b n => b.ctl c (b.coll c).gen n [9])
        (s.blk.modCs c (fun cs => { cs with acked := some s.blk.tclk }))
     else s.blk) := by
  refine .of_lift _ (show execOutcomeTimeout c s = lift _ s from rfl) hrun ?_
  simp only [hcs, hacked]
  change (if (!s.blk.passed t s.blk.rereachTime) = true then _ else _) = _
  cases s.blk.passed t s.blk.rereachTime <;> rfl

end

/-! ### The obligation -/

/-- Settles O40: the WAIT, a silent child by its role, the coordinator's time, the outcome asked for at a die. -/
theorem startTimers : Obligations.StartTimers := by
  refine ⟨fun s c t cs hrun hcs hwait hown => (becomes_startWaitRepeat hrun hcs hwait hown).of_passed,
    fun s c p cs k hrun hcs hkid => ?child, fun s c cs hrun hcs hcoord => ?start, fun s c t cs n hrun hcs hacked => ?outcome⟩
  case child =>
    obtain ⟨hact, hskip⟩ := (becomes_rereachTimeout hrun hcs hkid).of_passed
    refine ⟨hskip, fun hpassed => ?_⟩
    have hb := hact hpassed
    unfold Blk.kidSilent at hb
    refine ⟨fun hdie => ?_, fun htray => ?_, fun hspan => ?_⟩
    · rwa [if_pos hdie] at hb
    · rwa [if_neg (by omega), if_neg (by omega)] at hb
    · rwa [if_neg (by omega), if_pos hspan] at hb
  case start =>
    obtain ⟨hact, hskip⟩ := (becomes_startTimeout hrun hcs hcoord).of_passed
    refine ⟨fun hpassed => ?_, hskip⟩
    have hb := hact hpassed
    unfold Blk.timeoutWords at hb
    exact ⟨fun r p hfirst => by rwa [hfirst] at hb, fun hnone => by rwa [hnone] at hb⟩
  case outcome =>
    obtain ⟨hact, hskip⟩ := (becomes_outcomeTimeout hrun hcs hacked).of_passed
    refine ⟨hskip, fun hpassed hrole hup => ?_⟩
    have hasked : s.blk.outcomeAsked c cs = [n] := by simp [Blk.outcomeAsked, hrole, hup]
    have hb := hact hpassed
    rwa [hasked, List.foldl_cons, List.foldl_nil, Blk.coll_modCs] at hb

end Sys2Proof.Machine
end

section
/-!
PROOFS. The teardown of a collection (R460): its two frames, the time after which its contexts are closed by force, and the obligation put
together from that.
-/

namespace Sys2Proof.Machine

/-! ### The frames of a teardown -/

section
variable {s : State} {f : RxFrame} {b c : Blk} {tk : Taken} (hready : b.boot.ready = true) (hc : c = b.frameDone tk)
include hready hc

/-- What a running collection makes of a teardown of its generation: one from above is carried out, another goes on to the coordinator. -/
theorem becomes_collctlTeardown_running (h : HearsSub s f ftCollctl 6 b tk) (hgen : (c.coll tk.f.coll).gen = tk.f.gen16)
    (hst : (c.coll tk.f.coll).st = .running) : Becomes (.collctlTeardown f) s
      (if c.fromAbove (c.coll tk.f.coll).parts tk.f.node = false then
        c.relayUp tk.f.coll (c.coll tk.f.coll).gen (c.coll tk.f.coll).parts tk.f.node [6]
       else c.tdIn tk.f.coll
        (if c.coordOf (c.coll tk.f.coll).parts = some (c.place, roleCode c.role) then none else some tk.f.node)) := by
  refine .of_takeCtl _ (show execCollctlTeardown f s = takeCtl 6 f _ s from rfl) h hready hc ?_
  simp only [hgen, hst, ne_eq, not_true_eq_false, false_and, or_self, if_false, reduceCtorEq, Bool.not_eq_true']

/-- A teardown of another generation is stale. -/
theorem becomes_collctlTeardown_stale (h : HearsSub s f ftCollctl 6 b tk) (hgen : (c.coll tk.f.coll).gen ≠ tk.f.gen16) :
    Becomes (.collctlTeardown f) s c.ctlStale :=
  .of_takeCtl _ (show execCollctlTeardown f s = takeCtl 6 f _ s from rfl) h hready hc (if_pos (Or.inr hgen))

/-- One that runs already changes nothing. -/
theorem becomes_collctlTeardown_again (h : HearsSub s f ftCollctl 6 b tk) (hgen : (c.coll tk.f.coll).gen = tk.f.gen16)
    (hst : (c.coll tk.f.coll).st = .tearing) : Becomes (.collctlTeardown f) s c := by
  refine .of_takeCtl _ (show execCollctlTeardown f s = takeCtl 6 f _ s from rfl) h hready hc ?_
  simp only [hgen, hst, ne_eq, not_true_eq_false, and_false, or_self, if_false, if_true]

/-- A child that is done is awaited no longer, and the teardown ends where it was the last. -/
theorem becomes_collctlTdDone (h : HearsSub s f ftCollctl 7 b tk) (hgen : (c.coll tk.f.coll).gen = tk.f.gen16)
    (hst : (c.coll tk.f.coll).st = .tearing) : Becomes (.collctlTdDone f) s
      ((c.modColl tk.f.coll (fun v => { v with
        td := v.td.map (fun t => { t with kids := t.kids.filter (· ≠ tk.f.node) }) })).tdAgg tk.f.coll) := by
  refine .of_takeCtl _ (show execCollctlTdDone f s = takeCtl 7 f _ s from rfl) h hready hc ?_
  simp only [hgen, hst, ne_eq, not_true_eq_false, and_false, or_self, if_false]

end

/-- A teardown does not end at an instance before its own part is done. -/
theorem Blk.tdAgg_of_not_own {b : Blk} {c : Nat} {d : CTear} (htd : (b.coll c).td = some d) (hown : d.own = false) : b.tdAgg c = b := by
  simp only [Blk.tdAgg, htd, hown, Bool.not_false, true_or, if_true]

@[simp] theorem settle_coll (s : State) (c : Nat) : (settle s).blk.coll c = s.blk.coll c := by simp [Blk.coll]

/-! ### Closing by force -/

/-- The send contexts of a collection that have units left which its peer has not freed. -/
def Blk.openSends (b : Blk) (c : Nat) : Nat :=
  (b.qsc.flows.filter (fun p => !p.2.recv && p.2.colls.contains c &&
    decide (sdiff p.2.limit (p.2.sent + w32 p.2.grant) < 0))).length

theorem becomes_teardownForceClose {s : State} {c : Nat} {d : CTear} (hrun : s.blk.inReset = false)
    (htd : (s.blk.coll c).td = some d) (hown : d.own = false) : Becomes (.teardownForceClose c) s
      (if s.blk.passed d.at_ (s.blk.ms (s.blk.reg (.boot .BOOT_TD_TMO)).toNat) = true then
        (s.blk.closeOwn c (s.blk.openSends c)).tdAgg c else s.blk) := by
  refine .of_lift _ (show execTeardownForceClose c s = lift _ s from rfl) hrun ?_
  simp only [htd, hown, Bool.false_eq_true, false_or]
  cases s.blk.passed d.at_ (s.blk.ms (s.blk.reg (.boot .BOOT_TD_TMO)).toNat) <;> rfl

/-! ### The obligation -/

/-- Settles O41: a teardown by its generation and the state of its collection, a child that is done, and the force after BOOT_TD_TMO. -/
theorem teardown : Obligations.Teardown := by
  refine ⟨fun s f b c tk h hready hc => ⟨becomes_collctlTeardown_stale hready hc h, becomes_collctlTeardown_again hready hc h,
      fun hgen hst => ?running⟩,
    fun s f b c tk d h hready hc hgen hst htd hown => ?done,
    fun s c d hrun htd hown => (becomes_teardownForceClose hrun htd hown).of_passed⟩
  case running =>
    have hb := becomes_collctlTeardown_running hready hc h hgen hst
    exact ⟨fun habove => by rwa [if_neg (by simp [habove])] at hb, fun hbelow => by rwa [if_pos hbelow] at hb⟩
  case done =>
    refine (becomes_collctlTdDone hready hc h hgen hst).gives ?_
    have hleft : ((c.modColl tk.f.coll (fun v => { v with
        td := v.td.map (fun t => { t with kids := t.kids.filter (· ≠ tk.f.node) }) })).coll tk.f.coll).td =
          some { d with kids := d.kids.filter (· ≠ tk.f.node) } := by
      rw [Blk.coll_modColl, htd]
      rfl
    rw [settle_coll, Blk.tdAgg_of_not_own hleft hown]
    exact hleft

end Sys2Proof.Machine
end

section
/-!
PROOFS. Port training (R445, R480): which port is asked for next, what an outcome and a timeout come to, and the obligation put together
from that.
-/

namespace Sys2Proof.Machine

/-! ### The state of the ports -/

@[simp] theorem Blk.train_setTrain (s : Blk) (k : Nat) (t : Train) : (s.setTrain k t).train k = t := by
  simp [Blk.train, Blk.setTrain, Store.get]

theorem Blk.train_setTrain_ne (s : Blk) {k j : Nat} (t : Train) (h : j ≠ k) : (s.setTrain k t).train j = s.train j := by
  simp [Blk.train, Blk.setTrain, Store.get, h]

theorem Blk.train_congr {s t : Blk} (h : t.boot.trains = s.boot.trains) (k : Nat) : t.train k = s.train k := by simp [Blk.train, h]

@[simp] theorem settle_train (s : State) (k : Nat) : (settle s).blk.train k = s.blk.train k := Blk.train_congr (by rw [settle_boot]) k

/-- A report leaves the state of every port. -/
theorem Blk.report_train (s : Blk) (r c : Nat) (d : Word) (k : Nat) : (s.report r c d).train k = s.train k := by
  obtain ⟨e, he⟩ := s.report_boot r c d
  exact Blk.train_congr (by rw [he]) k

/-- What is kept of a port that has been trained (R445). -/
def Blk.trained (s : Blk) (k : Nat) (cfg : BitVec 256) : Blk :=
  ((s.setTrain k { s.train k with req := false, done := true }).modBoot
    (fun b => { b with fullAny := b.fullAny || (s.train k).full })).modPort (fun p => { p with cfgo := Store.put p.cfgo k cfg })

theorem Blk.trained_train (s : Blk) (k : Nat) (cfg : BitVec 256) :
    (s.trained k cfg).train k = { s.train k with req := false, done := true } :=
  (Blk.train_congr rfl k).trans (s.train_setTrain k _)

theorem Blk.trained_train_ne (s : Blk) {k j : Nat} (cfg : BitVec 256) (h : j ≠ k) : (s.trained k cfg).train j = s.train j :=
  (Blk.train_congr rfl j).trans (s.train_setTrain_ne _ h)

/-- While a port is left, one that has not been trained is asked for. -/
theorem Blk.trainNext_of_left (s : Blk) {j : Nat} (hport : j ∈ s.trainPorts) (hleft : (s.train j).done = false) :
    ∃ i ∈ s.trainPorts, (s.train i).done = false ∧ s.trainNext = s.trainStart i := by
  cases hfind : s.trainPorts.find? (fun k => !(s.train k).done) with
  | none => exact absurd (List.find?_eq_none.1 hfind j hport) (by simp [hleft])
  | some i =>
    refine ⟨i, List.mem_of_find?_eq_some hfind, by simpa using List.find?_some hfind, ?_⟩
    simp only [Blk.trainNext, hfind]

/-- S5 goes on while a port is left. -/
theorem Blk.runS5_of_left (s : Blk) {j : Nat} (hport : j ∈ s.trainPorts) (hleft : (s.train j).done = false) : s.runS5 = s :=
  if_pos (List.any_eq_true.2 ⟨j, hport, by simp [hleft]⟩)

/-- A port that has been asked for is one that is left. -/
theorem Blk.runS5_trainStart (s : Blk) {k : Nat} (hport : k ∈ s.trainPorts) : (s.trainStart k).runS5 = s.trainStart k :=
  (s.trainStart k).runS5_of_left (j := k) hport (by rw [Blk.trainStart, Blk.train_setTrain])

/-! ### Outcomes -/

section
variable {s : State} {k : Nat} (hrun : s.blk.inReset = false) (hstage : s.blk.boot.stage = 5) (hover : s.blk.stageOver = false)
  (hreq : (s.blk.train k).req = true)
include hrun hstage hover hreq

theorem becomes_trainingDone (cfg : BitVec 256) : Becomes (.trainingDone k cfg) s (s.blk.trained k cfg).trainNext.runS5 := by
  refine .of_lift _ (show execTrainingDone k cfg s = lift _ s from rfl) hrun ?_
  exact if_neg (by simp [hstage, hover, hreq])

theorem becomes_trainingFail : Becomes (.trainingFail k) s (s.blk.trainFailed k) := by
  refine .of_lift _ (show execTrainingFail k s = lift _ s from rfl) hrun ?_
  exact if_neg (by simp [hstage, hover, hreq])

/-- How long a training may take (R480). -/
def Blk.trainTime (b : Blk) (k : Nat) : Nat := b.ms (if (b.train k).full then 250 else 5)

/-- A training that is not answered in its time has failed. -/
theorem becomes_trainingTimeout : Becomes (.trainingTimeout k) s
    (if s.blk.passed (s.blk.train k).at_ (s.blk.trainTime k) = true then s.blk.trainFailed k else s.blk) := by
  refine .of_lift _ (show execTrainingTimeout k s = lift _ s from rfl) hrun ?_
  change (if _ ∨ _ ∨ _ ∨ (!s.blk.passed (s.blk.train k).at_ (s.blk.trainTime k)) = true then _ else _) = _
  simp only [hstage, hover, hreq]
  cases s.blk.passed (s.blk.train k).at_ (s.blk.trainTime k) <;> rfl

end

/-- A fast start that fails is made again as full training. -/
theorem Blk.trainFailed_of_fast (s : Blk) {k : Nat} (hfast : (s.train k).full = false) :
    s.trainFailed k = s.setTrain k { s.train k with req := true, full := true, at_ := s.tclk } := if_pos (by rw [hfast]; rfl)

/-- A full training that fails fails S5 with a code and a detail that name the port. -/
theorem Blk.trainFailed_of_full (s : Blk) {k : Nat} (hfull : (s.train k).full = true) (hstage : s.boot.stage = 5) (hres : s.boot.result ≠ 2) :
    (s.trainFailed k).boot.result = 2 ∧ ((s.trainFailed k).train k).req = false ∧
      Reported (s.trainFailed k) 5 2 (if k < 4 then 0x502 else 0x503) (w32 (if k < 4 then k else k - 4)) := by
  have hrep (c : Nat) (d : Word) : let b := (s.setTrain k { s.train k with req := false }).report 2 c d
      b.boot.result = 2 ∧ (b.train k).req = false ∧ Reported b 5 2 c d := by
    obtain ⟨e, he⟩ := (s.setTrain k { s.train k with req := false }).report_boot 2 c d
    have hsaid := (s.setTrain k { s.train k with req := false }).reported_report 2 c d hres
    refine ⟨by rw [he], ?_, ?_⟩
    · rw [Blk.report_train, Blk.train_setTrain]
    · rwa [show (s.setTrain k { s.train k with req := false }).boot.stage = 5 from hstage] at hsaid
  have hfailed : s.trainFailed k = (s.setTrain k { s.train k with req := false }).report 2 (if k < 4 then 0x502 else 0x503)
      (w32 (if k < 4 then k else k - 4)) := by
    unfold Blk.trainFailed
    rw [if_neg (by simp [hfull])]
    split <;> rfl
  rw [hfailed]
  exact hrep _ _

/-! ### The obligation -/

/-- Settles O23: a port trained while another is left, a fast start that fails, a full training that fails at either kind of port, and the
time of either training. -/
theorem training : Obligations.Training := by
  refine ⟨fun s k j cfg hrun hstage hover hreq hj hne hleft => ?done, fun s k hrun hstage hover hreq => ?failed⟩
  case done =>
    have hleft' : ((s.blk.trained k cfg).train j).done = false := by rwa [Blk.trained_train_ne _ _ hne]
    obtain ⟨i, hi, hnew, hnext⟩ := (s.blk.trained k cfg).trainNext_of_left (j := j) hj hleft'
    have hik : k ≠ i := by
      rintro rfl
      rw [Blk.trained_train] at hnew
      cases hnew
    have hb := becomes_trainingDone hrun hstage hover hreq cfg
    rw [hnext, Blk.runS5_trainStart _ hi] at hb
    refine hb.gives ?_
    simp only [settle_train, settle_boot, settle_port]
    rw [Blk.trainStart, Blk.train_setTrain_ne _ _ hik, Blk.trained_train]
    refine ⟨hstage, rfl, rfl, ?_, i, hi, Blk.train_setTrain _ _ _⟩
    simp [Blk.trained, Blk.setTrain]
  case failed =>
    have hres : s.blk.boot.result ≠ 2 := by
      intro h
      simp [Blk.stageOver, h, fail] at hover
    have hfail := becomes_trainingFail hrun hstage hover hreq
    have htime := becomes_trainingTimeout hrun hstage hover hreq
    refine ⟨fun hfast => ?_, fun hfull hk => ?_, fun hfull hk => ?_, fun hpassed => ?_, fun hnot => htime.of_passed.2 hnot⟩
    · refine hfail.gives ?_
      simp only [settle_train, Blk.trainFailed_of_fast _ hfast, Blk.train_setTrain, hreq]
    · obtain ⟨hres', hreq', hrep⟩ := s.blk.trainFailed_of_full hfull hstage hres
      rw [if_pos hk, if_pos hk] at hrep
      refine hfail.gives ?_
      rw [settle_boot, settle_train]
      exact ⟨hres', hrep.settle, hreq'⟩
    · obtain ⟨hres', hreq', hrep⟩ := s.blk.trainFailed_of_full hfull hstage hres
      rw [if_neg (by omega), if_neg (by omega)] at hrep
      refine hfail.gives ?_
      rw [settle_boot, settle_train]
      exact ⟨hres', hrep.settle, hreq'⟩
    · exact (htime.of_passed.1 hpassed).trans hfail.symm

end Sys2Proof.Machine
end

section
/-!
PROOFS. The stages of bring-up (R441 to R446, R449): what each stage does when its condition holds or does not, and the obligation put
together from that.
-/

namespace Sys2Proof.Machine

/-! ### What the stages leave alone -/

theorem Blk.loseLock_boot (s : Blk) (cause : Nat) : (s.loseLock cause).boot = s.boot := by
  unfold Blk.loseLock
  dsimp only
  split_ifs <;> rfl

theorem Blk.enterHold_boot (s : Blk) (cause : Nat) : (s.enterHold cause).boot = s.boot := by
  unfold Blk.enterHold
  split
  · rfl
  · simp [Blk.applyRate, Blk.loseLock_boot]

/-- The loss of tref at S0 is no matter of bring-up (R46). -/
theorem Blk.loseTref_boot (s : Blk) : s.loseTref.boot = s.boot := by
  unfold Blk.loseTref
  split
  · rfl
  · exact Blk.enterHold_boot _ 3

theorem Blk.enterHold_trefLost (s : Blk) (cause : Nat) : (s.enterHold cause).time.trefLost = s.time.trefLost := by
  cases hhold : s.time.hold with
  | true => rw [s.enterHold_of_hold cause hhold]
  | false =>
    obtain ⟨-, -, -, -, hlost⟩ := s.enterHold_time_of_not_hold cause hhold
    exact hlost

theorem Blk.loseTref_trefLost (s : Blk) : s.loseTref.time.trefLost = true := by
  unfold Blk.loseTref
  split
  next hlost => exact hlost
  next => exact Blk.enterHold_trefLost _ 3

/-- S5 begins, and no register changes. -/
theorem Blk.enterS5_stage (s : Blk) : s.enterS5.boot.stage = 5 ∧ s.enterS5.regs = s.regs ∧ s.enterS5.conf = s.conf := by
  unfold Blk.enterS5 Blk.trainNext
  split <;> exact ⟨rfl, rfl, rfl⟩

/-- No rank is decided at an instance that is no span (R29). -/
theorem Blk.rankCheck_of_not_span (s : Blk) (h : s.role ≠ .span) :
    s.rankCheck.boot.ready = s.boot.ready ∧ s.rankCheck.regs = s.regs ∧ s.rankCheck.conf = s.conf := by
  simp only [Blk.rankCheck, h, ne_eq, not_false_eq_true, true_or, if_true]
  split <;> exact ⟨rfl, rfl, rfl⟩

/-! ### A stage that looks at its condition -/

/-- The stage has neither ended nor stopped, where its result is another than PASS and FAIL. -/
theorem Blk.stageOver_of_open (s : Blk) (h : s.boot.result = 0) : s.stageOver = false := by simp [Blk.stageOver, h, fail, pass]

theorem becomes_stageAdvance {s : State} (hrun : s.blk.inReset = false) : Becomes .stageAdvance s s.blk.runStage :=
  .of_lift _ (show execStageAdvance s = lift _ s from rfl) hrun rfl

/-- A report FAIL stops bring-up (R442). -/
theorem Blk.runStage_of_failed (s : Blk) (h : s.boot.result = 2) : s.runStage = s := if_pos (by simp [Blk.stageOver, h, fail])

theorem Blk.runStage_0 (s : Blk) (hstage : s.boot.stage = 0) (hres : s.boot.result = 0) : s.runStage = s.runS0 := by
  simp [Blk.runStage, s.stageOver_of_open hres, hstage]

theorem Blk.runStage_4 (s : Blk) (hstage : s.boot.stage = 4) (hres : s.boot.result = 0) : s.runStage = s.runS4 := by
  simp [Blk.runStage, s.stageOver_of_open hres, hstage]

theorem Blk.runStage_8 (s : Blk) (hstage : s.boot.stage = 8) (hres : s.boot.result = 0) : s.runStage = s.runS8 := by
  simp [Blk.runStage, s.stageOver_of_open hres, hstage]

/-- What a stage finds of tref at S0. -/
def Blk.trefLooked (s : Blk) : Blk := if s.inst.trefSeen = true then s else s.loseTref

theorem Blk.trefLooked_boot (s : Blk) : s.trefLooked.boot = s.boot := by
  unfold Blk.trefLooked
  split
  · rfl
  · exact s.loseTref_boot

theorem Blk.trefLooked_trefLost (s : Blk) (h : s.time.trefLost = false) : s.trefLooked.time.trefLost = !s.inst.trefSeen := by
  unfold Blk.trefLooked
  split
  next hseen => rw [h, hseen]; rfl
  next hseen => rw [s.loseTref_trefLost, Bool.eq_false_iff.2 hseen]; rfl

/-- A report is no matter of time, and the role stands. -/
theorem Blk.report_time (s : Blk) (r c : Nat) (d : Word) : (s.report r c d).time = s.time := by
  unfold Blk.report
  dsimp only
  split_ifs <;> simp [Blk.stageEv]

theorem Blk.report_role (s : Blk) (r c : Nat) (d : Word) : (s.report r c d).role = s.role := by
  unfold Blk.report
  dsimp only
  split_ifs <;> simp [Blk.stageEv]

/-- S0 passes with the state of tref (R46). -/
theorem Blk.runS0_passes (s : Blk) (hstage : s.boot.stage = 0) (hres : s.boot.result = 0) (hlost : s.time.trefLost = false) :
    s.runS0.boot.stage = 1 ∧ Reported s.runS0 0 1 (if s.inst.trefSeen = true then 0 else 1) 0 ∧
      s.runS0.time.trefLost = !s.inst.trefSeen := by
  have hrun : s.runS0 = (s.trefLooked.report 1 (if s.trefLooked.time.trefLost = true then 1 else 0) 0).setStage 1 := rfl
  have hrep := s.trefLooked.reported_report 1 (if s.trefLooked.time.trefLost = true then 1 else 0) 0
    (by rw [s.trefLooked_boot, hres]; decide)
  rw [s.trefLooked_boot, hstage, s.trefLooked_trefLost hlost] at hrep
  rw [hrun, s.trefLooked_trefLost hlost]
  refine ⟨rfl, ?_, ?_⟩
  · rw [show (if s.inst.trefSeen = true then 0 else 1) = if (!s.inst.trefSeen) = true then 1 else 0 by
      cases s.inst.trefSeen <;> rfl]
    exact hrep.congr rfl rfl
  · exact (congrArg TimeState.trefLost (s.trefLooked.report_time _ _ _)).trans (s.trefLooked_trefLost hlost)

section
variable (s : Blk) (hstage : s.boot.stage = 4) (hres : s.boot.result = 0)
include hstage hres

/-- S4 waits and says for what. -/
theorem Blk.report_waits (c : Nat) (d : Word) : (s.report 3 c d).boot.stage = 4 ∧ Reported (s.report 3 c d) 4 3 c d := by
  obtain ⟨e, he⟩ := s.report_boot 3 c d
  have hrep := s.reported_report 3 c d (by omega)
  rw [hstage] at hrep
  exact ⟨by rw [he]; exact hstage, hrep⟩

/-- S4 ends with a report, and S5 begins. -/
theorem Blk.report_enterS5 (r c : Nat) (hr : r ≠ 0) :
    (s.report r c 0).enterS5.boot.stage = 5 ∧ Reported (s.report r c 0).enterS5 4 r c 0 := by
  obtain ⟨hfive, hregs, hconf⟩ := (s.report r c 0).enterS5_stage
  have hrep := s.reported_report r c 0 (by omega)
  rw [hstage] at hrep
  exact ⟨hfive, hrep.congr hregs hconf⟩

end

/-- S4 by the epoch, the one master of a die, and the lock of the servo (R446). -/
theorem Blk.runS4_eq (s : Blk) : s.runS4 =
    if s.boot.epochSeen = false then s.report 3 0x403 0
    else if s.defers = true then (s.report 4 0x402 0).enterS5
    else if s.time.lock = true then (s.report 1 0x400 0).enterS5
    else s.report 3 0x401 (w32 (min s.time.lastE 0xFFFFFFFF)) := by
  unfold Blk.runS4
  cases s.boot.epochSeen <;> rfl

/-- S8 passes, and tl_ready rises (R449). -/
theorem Blk.runS8_passes (s : Blk) (hstage : s.boot.stage = 8) (hres : s.boot.result = 0) (hrole : s.role ≠ .span) :
    s.runS8.boot.ready = true ∧ Reported s.runS8 8 1 0x800 0 := by
  obtain ⟨hready, hregs, hconf⟩ := ((s.report 1 0x800 0).modBoot (fun b => { b with ready := true })).rankCheck_of_not_span (by
    rwa [Blk.modBoot_role, Blk.report_role])
  have hrep := s.reported_report 1 0x800 0 (by omega)
  rw [hstage] at hrep
  exact ⟨hready, hrep.congr hregs hconf⟩

/-- A core that has been released and has not reported in 100 ms fails S2. -/
theorem becomes_coreReportTimeout {s : State} {x : Nat} (hrun : s.blk.inReset = false) (hstage : s.blk.boot.stage = 2)
    (hres : s.blk.boot.result ≠ 2) (hcore : (s.blk.fcore x).st = .boot)
    (hpassed : s.blk.passed s.blk.boot.stageAt (s.blk.ms 100) = true) :
    Becomes (.coreReportTimeout x) s (s.blk.report 2 0x203 (w32 x)) :=
  .of_lift _ (show execCoreReportTimeout x s = lift _ s from rfl) hrun (if_pos ⟨hstage, hres, hcore, hpassed⟩)

/-! ### The obligation -/

/-- Settles O22: S0, S4 by what it finds, S8, a stage that has failed, and a core that does not report. -/
theorem bringUpStages : Obligations.BringUpStages := by
  refine ⟨fun s hrun hstage hres hlost => ?tref, fun s hrun hstage hres => ?lock, fun s hrun hstage hres hrole => ?ready,
    fun s hrun hres => ?failed, fun s x hrun hstage hres hcore hpassed => ?core⟩
  case tref =>
    have hb := becomes_stageAdvance hrun
    obtain ⟨hone, hrep, htref⟩ := s.blk.runS0_passes hstage hres hlost
    rw [s.blk.runStage_0 hstage hres] at hb
    refine hb.gives ?_
    rw [settle_boot, settle_time]
    exact ⟨hone, hrep.settle, htref⟩
  case lock =>
    have hb := becomes_stageAdvance hrun
    rw [s.blk.runStage_4 hstage hres, Blk.runS4_eq] at hb
    have hsaid {b : Blk} {n r c : Nat} {d : Word} (hb : Becomes .stageAdvance s b) (h : b.boot.stage = n ∧ Reported b 4 r c d) :
        Gives .stageAdvance s (fun t => t.blk.boot.stage = n ∧ Reported t.blk 4 r c d) :=
      hb.gives ⟨by rw [settle_boot]; exact h.1, h.2.settle⟩
    refine ⟨fun hepoch => ?_, fun hepoch hdefers hlock => ?_, fun hepoch hdefers => ?_, fun hepoch hdefers hlock => ?_⟩
    · rw [if_pos hepoch] at hb
      exact hsaid hb (s.blk.report_waits hstage hres _ _)
    · rw [if_neg (by simp [hepoch]), if_neg (by simp [hdefers]), if_pos hlock] at hb
      exact hsaid hb (s.blk.report_enterS5 hstage hres _ _ (by decide))
    · rw [if_neg (by simp [hepoch]), if_pos hdefers] at hb
      exact hsaid hb (s.blk.report_enterS5 hstage hres _ _ (by decide))
    · rw [if_neg (by simp [hepoch]), if_neg (by simp [hdefers]), if_neg (by simp [hlock])] at hb
      exact hsaid hb (s.blk.report_waits hstage hres _ _)
  case ready =>
    have hb := becomes_stageAdvance hrun
    obtain ⟨hready, hrep⟩ := s.blk.runS8_passes hstage hres hrole
    rw [s.blk.runStage_8 hstage hres] at hb
    exact hb.gives ⟨by rw [settle_boot]; exact hready, hrep.settle⟩
  case failed =>
    have hb := becomes_stageAdvance hrun
    rw [s.blk.runStage_of_failed hres] at hb
    exact hb.exec_self
  case core =>
    obtain ⟨e, he⟩ := s.blk.report_boot 2 0x203 (w32 x)
    have hrep := s.blk.reported_report 2 0x203 (w32 x) hres
    rw [hstage] at hrep
    exact (becomes_coreReportTimeout hrun hstage hres hcore hpassed).gives ⟨by rw [settle_boot, he], hrep.settle⟩

end Sys2Proof.Machine
end

section
/-!
PROOFS. The step (log 4) and the machine right after reset (R441, R465): what the front of the queue and a tclk come to, what every
register reads after reset, and the two obligations put together from that.
-/

namespace Sys2Proof.Machine

/-! ### The step -/

theorem step_cons (c : Instr) (s : State) : step { s with pending := c :: s.pending } = exec c s := rfl

theorem step_of_empty {s : State} (h : s.pending = []) : step s = .next s.tick := by simp only [step, h]

theorem State.tick_of_inReset {s : State} (h : s.blk.inReset = true) :
    s.tick = { s with blk := { s.blk with tclk := s.blk.tclk + 1 } } := if_pos h

theorem State.tick_of_running {s : State} (h : s.blk.inReset = false) : s.tick = settle { s with blk := s.blk.tick } :=
  if_neg (by simp [h])

/-- Settles O58: the front of the queue, and a tclk in reset and out of it. -/
theorem stepRunsFront : Obligations.StepRunsFront :=
  ⟨step_cons, fun _ => step_of_empty, fun _ => State.tick_of_inReset, fun _ => State.tick_of_running⟩

/-! ### After reset -/

/-- Every register reads the reset value of its table. -/
theorem State.reset_reg (r : Reg) : State.reset.blk.reg r = (r.info .a64).rst := Blk.reg_of_regs_nil _ rfl r

theorem recorderInv_reset : RecorderInv State.reset :=
  (recorderInv_iff State.reset).2 ⟨rfl, rfl, EvrState.good_reset, SnapState.good_reset⟩

/-- Settles O59: the state after reset, part by part, and the registers by the reset values of their tables. -/
theorem resetValues : Obligations.ResetValues := by
  refine ⟨rfl, rfl, rfl, rfl, State.reset_reg, ?_⟩
  simp only [State.reset_reg]
  refine ⟨rfl, rfl, rfl, fun _ => rfl, fun _ => rfl, rfl, rfl, rfl, rfl, fun _ => rfl, rfl, rfl, fun _ => rfl, rfl, rfl, rfl, rfl, rfl,
    rfl, rfl, fun _ => rfl, rfl, rfl, rfl, rfl, rfl, rfl, rfl, rfl, rfl, rfl, rfl, recorderInv_reset⟩

end Sys2Proof.Machine
end

section
/-!
PROOFS. Emergencies, clamps and supply requests (R422, R423, R425, R426, R481): what a move to a point, a forced point and an emergency
leave of the power unit, what each command comes to, and the obligation put together from that.
-/

namespace Sys2Proof.Machine

/-! ### Folds -/

/-- What every turn of a fold leaves, the fold leaves. -/
theorem Blk.foldl_leaves {α β : Type} (p : Blk → β) {g : Blk → α → Blk} (hg : ∀ b a, p (g b a) = p b) (l : List α) (b : Blk) :
    p (l.foldl g b) = p b := by
  induction l generalizing b with
  | nil => rfl
  | cons a l ih => exact (ih (g b a)).trans (hg b a)

theorem Blk.clu_setClu_ne (s : Blk) {k j : Nat} (v : Clu) (h : j ≠ k) : (s.setClu k v).clu j = s.clu j := by
  simp [Blk.setClu, Blk.clu, h]

theorem Blk.clu_congr {s t : Blk} (h : t.pwr.clus = s.pwr.clus) (k : Nat) : t.clu k = s.clu k := by simp [Blk.clu, h]

/-- A fold that changes one cluster a turn, always in the same way, has so changed the clusters listed. -/
theorem Blk.clu_foldl (now : Nat) (f : Clu → Clu) (hf : ∀ c, f (f c) = f c) {g : Blk → Nat → Blk}
    (hg : ∀ b k, b.tclk = now → (g b k).tclk = now ∧ (g b k).clu k = f (b.clu k) ∧ ∀ j, j ≠ k → (g b k).clu j = b.clu j)
    (l : List Nat) {b : Blk} (hb : b.tclk = now) (j : Nat) :
    (l.foldl g b).tclk = now ∧ (l.foldl g b).clu j = if j ∈ l then f (b.clu j) else b.clu j := by
  induction l generalizing b with
  | nil => exact ⟨hb, rfl⟩
  | cons k l ih =>
    obtain ⟨hnow, hsame, hother⟩ := hg b k hb
    obtain ⟨hend, hclu⟩ := ih hnow
    refine ⟨hend, hclu.trans ?_⟩
    by_cases hjk : j = k
    · subst hjk
      simp [hsame, hf]
    · simp [hother j hjk, hjk]

/-! ### Points -/

/-- A move changes the points and the supply requests alone (R422). -/
theorem Blk.moveTo_pwr (s : Blk) (k opp : Nat) : ∃ c v, (s.moveTo k opp).pwr = { s.pwr with clus := c, vreqs := v } := by
  unfold Blk.moveTo
  dsimp only
  split_ifs <;> exact ⟨_, _, rfl⟩

theorem Blk.clu_vreq (s : Blk) (k opp j : Nat) : (s.vreq k opp).clu j = s.clu j := rfl

/-- A move leaves the clamp of its cluster. -/
theorem Blk.moveTo_clampAt (s : Blk) (k opp : Nat) : ((s.moveTo k opp).clu k).clampAt = (s.clu k).clampAt := by
  unfold Blk.moveTo
  dsimp only
  split_ifs
  · rfl
  · rfl
  · rfl
  · exact (congrArg Clu.clampAt ((Blk.clu_vreq _ k _ k).trans (Blk.clu_setClu _ k _))).trans rfl

/-- A cluster is forced to OPP 0, and what has been asked for it goes. -/
def Blk.forcedOne (s : Blk) (k : Nat) : Blk :=
  (s.modPwr (fun m => { m with vreqs := m.vreqs.filter (fun v => v.cluster ≠ k) })).setClu k { s.clu k with opp := 0 }

theorem Blk.forceSafe_eq (s : Blk) (ks : List Nat) : s.forceSafe ks = ks.foldl Blk.forcedOne s := rfl

/-- Forced clusters run at OPP 0 (R425). -/
theorem Blk.forceSafe_clu (s : Blk) (ks : List Nat) (j : Nat) : (s.forceSafe ks).tclk = s.tclk ∧
    (s.forceSafe ks).clu j = if j ∈ ks then { s.clu j with opp := 0 } else s.clu j := by
  rw [Blk.forceSafe_eq]
  exact Blk.clu_foldl (g := Blk.forcedOne) s.tclk (fun c => { c with opp := 0 }) (fun _ => rfl)
    (fun b k hb => ⟨hb, Blk.clu_setClu _ k _, fun j hj => (Blk.clu_setClu_ne _ _ hj).trans rfl⟩) ks rfl j

/-! ### Emergencies -/

/-- An emergency leaves the points, and its condition holds now (R426). -/
theorem Blk.emergSet_pwr (b : Blk) (c : Nat) : (b.emergSet c).pwr = { b.pwr with lastCond := b.tclk, emerg := true } := by
  unfold Blk.emergSet
  dsimp only
  split
  next h => exact congrArg (fun e => { b.pwr with lastCond := b.tclk, emerg := e }) h
  next => split <;> rfl

theorem Blk.emergSet_role (b : Blk) (c : Nat) : (b.emergSet c).role = b.role := by
  unfold Blk.emergSet
  dsimp only
  split_ifs <;> simp [Blk.setCore]

/-! ### A tick of the power loop (R423, R424, R426) -/

/-- Whether a sensor is above the emergency limit. -/
def Blk.tooHot (b : Blk) (ts : List (Nat × BitVec 16)) : Bool :=
  ts.any (fun p => decide (s16 (fld (b.reg (.pwr .PWR_TEMP_LIM)) 31 16) < p.2.toInt))

/-- The limit as the tick finds it, and the emergency of a sensor above it. -/
def Blk.limitNoted (b : Blk) (above : Bool) : Blk :=
  (if above then b.emergSet 4 else if b.pwr.limit then b.modPwr (fun m => { m with lastCond := b.tclk }) else b).modPwr
    (fun m => { m with limit := above })

/-- The temperature of a cluster, and the point that firmware chooses for it. -/
def Blk.pointChosen (ts : List (Nat × BitVec 16)) (b : Blk) (k : Nat) : Blk :=
  let mine := (ts.filter (fun p => b.conf = .d ∨ p.1 = b.physOf k)).map (fun p => p.2)
  let hot := mine.foldl (fun (a : BitVec 16) v => if a.toInt < v.toInt then v else a) (mine.headD 0)
  let c := b.draw.2.setClu k { b.draw.2.clu k with temp := hot, chosen := b.draw.1 % 8 }
  if (c.clu k).clampAt.isSome ∨ (c.clu k).disabled then c else c.moveTo k (b.draw.1 % 8)

/-- The watched sensors' tags. -/
def Blk.tagged (b : Blk) (ts : List (Nat × BitVec 16)) : Blk := ts.foldl (fun b p => b.tagTick p.1 p.2) b

/-- What a tick does with the watched sensors. -/
def Blk.powerTicked (b : Blk) (ts : List (Nat × BitVec 16)) : Blk :=
  let c := (b.tagged ts).limitNoted ((b.tagged ts).tooHot ts)
  (List.range c.logical).foldl (Blk.pointChosen ts) c

theorem becomes_powerTick {s : State} (ts : List (Nat × BitVec 16)) (hrun : s.blk.inReset = false) : Becomes (.powerTick ts) s
    (if s.blk.pwr.pcLost = true ∨ bit (s.blk.reg (.pwr .PWR_CTRL)) 0 = false then s.blk
     else s.blk.powerTicked (ts.filter (fun p => s.blk.watched p.1))) := by
  refine .of_lift _ (show execPowerTick ts s = lift _ s from rfl) hrun ?_
  simp only [Bool.not_eq_true']
  rfl

theorem tempLim_addr_ne_snsTrans_addr (cf : Conf) (i : Nat) : (Reg.pwr .PWR_TEMP_LIM).addr cf ≠
    (Reg.prb (if i < 32 then .PRB_SNS_TRANS_LO else .PRB_SNS_TRANS_HI)).addr cf := by
  split <;> simp [Reg.addr, Reg.info, PwrReg.info, PrbReg.info]

/-- Tags are no matter of the limit (R424). -/
theorem Blk.setTag_limitReg (b : Blk) (i : Nat) (on : Bool) :
    (b.setTag i on).reg (.pwr .PWR_TEMP_LIM) = b.reg (.pwr .PWR_TEMP_LIM) := by
  refine iteInduction (motive := fun c : Blk => c.reg (.pwr .PWR_TEMP_LIM) = b.reg (.pwr .PWR_TEMP_LIM)) (fun _ => ?_) (fun _ => rfl)
  exact (Blk.reg_setReg_ne _ _ _ _ (tempLim_addr_ne_snsTrans_addr _ i)).trans rfl

theorem Blk.tagTick_limitReg (b : Blk) (i : Nat) (v : BitVec 16) :
    (b.tagTick i v).reg (.pwr .PWR_TEMP_LIM) = b.reg (.pwr .PWR_TEMP_LIM) := by
  unfold Blk.tagTick
  dsimp only
  split_ifs
  · exact Blk.setTag_limitReg _ i true
  · exact Blk.setTag_limitReg _ i false
  · rfl
  · rfl

theorem Blk.tagged_limitReg (b : Blk) (ts : List (Nat × BitVec 16)) :
    (b.tagged ts).reg (.pwr .PWR_TEMP_LIM) = b.reg (.pwr .PWR_TEMP_LIM) :=
  Blk.foldl_leaves (g := fun b (p : Nat × BitVec 16) => b.tagTick p.1 p.2) (fun b => b.reg (.pwr .PWR_TEMP_LIM))
    (fun b p => b.tagTick_limitReg p.1 p.2) ts b

theorem Blk.tagged_tooHot (b : Blk) (ts : List (Nat × BitVec 16)) : (b.tagged ts).tooHot ts = b.tooHot ts := by
  unfold Blk.tooHot
  rw [b.tagged_limitReg]

/-- The limit is what the tick has found, and above it there is an emergency. -/
theorem Blk.limitNoted_pwr (b : Blk) (above : Bool) :
    (b.limitNoted above).pwr.limit = above ∧ (above = true → (b.limitNoted above).pwr.emerg = true) := by
  refine ⟨rfl, ?_⟩
  rintro rfl
  exact congrArg PwrState.emerg (b.emergSet_pwr 4)

/-- Points are no matter of an emergency. -/
theorem Blk.pointChosen_alarm (ts : List (Nat × BitVec 16)) (b : Blk) (k : Nat) :
    (b.pointChosen ts k).pwr.limit = b.pwr.limit ∧ (b.pointChosen ts k).pwr.emerg = b.pwr.emerg := by
  refine iteInduction (motive := fun c : Blk => c.pwr.limit = b.pwr.limit ∧ c.pwr.emerg = b.pwr.emerg) (fun _ => ⟨rfl, rfl⟩)
    (fun _ => ?_)
  obtain ⟨c, v, hmoved⟩ := Blk.moveTo_pwr _ k (b.draw.1 % 8)
  rw [hmoved]
  exact ⟨rfl, rfl⟩

theorem Blk.powerTicked_alarm (b : Blk) (ts : List (Nat × BitVec 16)) : (b.powerTicked ts).pwr.limit = b.tooHot ts ∧
    (b.tooHot ts = true → (b.powerTicked ts).pwr.emerg = true) := by
  obtain ⟨hlimit, hemerg⟩ := (b.tagged ts).limitNoted_pwr ((b.tagged ts).tooHot ts)
  rw [b.tagged_tooHot] at hlimit hemerg
  unfold Blk.powerTicked
  rw [b.tagged_tooHot]
  exact ⟨(Blk.foldl_leaves (fun b => b.pwr.limit) (fun b k => (b.pointChosen_alarm ts k).1) _ _).trans hlimit,
    fun hhot => (Blk.foldl_leaves (fun b => b.pwr.emerg) (fun b k => (b.pointChosen_alarm ts k).2) _ _).trans (hemerg hhot)⟩

/-! ### Clamps (R425) -/

/-- The clusters of a sensor are forced, and their hold starts. -/
def Blk.clampStarted (b : Blk) (ks : List Nat) : Blk :=
  ks.foldl (fun c k => c.setClu k { c.clu k with clampAt := some c.tclk }) (b.forceSafe ks)

/-- What a rise of a sensor does before the tests of a die are aborted. -/
def Blk.tripped (b : Blk) (i : Nat) (rise : Int) : Blk :=
  ((((((b.clampStarted (b.clustersOf i)).setTag i true).modPwr (fun m => { m with quiet := Store.set 0 m.quiet i 0 })).emergSet 1).emit 0x12
    0x1201 i rise.toNat).count (.pwr .PWR_CLAMP_CNT) 1).flushReq 1 0x1201

theorem Blk.setTag_leaves (b : Blk) (i : Nat) (on : Bool) : (b.setTag i on).role = b.role ∧ (b.setTag i on).pwr.clus = b.pwr.clus := by
  refine iteInduction (motive := fun c : Blk => c.role = b.role ∧ c.pwr.clus = b.pwr.clus) (fun _ => ⟨rfl, rfl⟩) (fun _ => ⟨rfl, rfl⟩)

theorem Blk.clampStarted_clu (b : Blk) (ks : List Nat) {k : Nat} (hk : k ∈ ks) :
    ((b.clampStarted ks).clu k).opp = 0 ∧ ((b.clampStarted ks).clu k).clampAt = some b.tclk := by
  obtain ⟨hnow, hsafe⟩ := b.forceSafe_clu ks k
  obtain ⟨-, hclu⟩ := Blk.clu_foldl (g := fun c k => c.setClu k { c.clu k with clampAt := some c.tclk }) b.tclk
    (fun c => { c with clampAt := some b.tclk }) (fun _ => rfl)
    (fun c k hc => ⟨hc, (Blk.clu_setClu c k _).trans (by rw [hc]), fun j hj => Blk.clu_setClu_ne _ _ hj⟩) ks hnow k
  rw [if_pos hk] at hsafe hclu
  unfold Blk.clampStarted
  rw [hclu, hsafe]
  exact ⟨rfl, rfl⟩

theorem Blk.clampStarted_role (b : Blk) (ks : List Nat) : (b.clampStarted ks).role = b.role := by
  refine (Blk.foldl_leaves (g := fun c k => c.setClu k { c.clu k with clampAt := some c.tclk }) Blk.role (fun _ _ => rfl) ks _).trans ?_
  rw [Blk.forceSafe_eq]
  exact Blk.foldl_leaves (g := Blk.forcedOne) Blk.role (fun _ _ => rfl) ks b

theorem Blk.tripped_role (b : Blk) (i : Nat) (rise : Int) : (b.tripped i rise).role = b.role := by
  obtain ⟨htag, -⟩ := (b.clampStarted (b.clustersOf i)).setTag_leaves i true
  simp only [Blk.tripped, Blk.flushReq, Blk.count_role, Blk.emit_role, Blk.emergSet_role, Blk.modPwr_role, htag, Blk.clampStarted_role]

/-- A rise sets EMERG, forces the clusters of the sensor to OPP 0 and starts their hold. -/
theorem Blk.tripped_pwr (b : Blk) (i : Nat) (rise : Int) : (b.tripped i rise).pwr.emerg = true ∧
    ∀ k ∈ b.clustersOf i, ((b.tripped i rise).clu k).opp = 0 ∧ ((b.tripped i rise).clu k).clampAt = some b.tclk := by
  have hpwr := (((b.clampStarted (b.clustersOf i)).setTag i true).modPwr (fun m => { m with quiet := Store.set 0 m.quiet i 0 })).emergSet_pwr 1
  refine ⟨congrArg PwrState.emerg hpwr, fun k hk => ?_⟩
  have hclus : (b.tripped i rise).pwr.clus = (b.clampStarted (b.clustersOf i)).pwr.clus :=
    (congrArg PwrState.clus hpwr).trans (Blk.setTag_leaves _ i true).2
  rw [Blk.clu_congr hclus]
  exact b.clampStarted_clu _ hk

/-- A sample joins the last ten of its sensor. -/
def Blk.sampled (b : Blk) (i : Nat) (v : BitVec 16) : Blk :=
  b.modPwr (fun m => { m with hist := Store.set [] m.hist i ((v :: Store.get [] b.pwr.hist i).take 10) })

theorem becomes_clampSample_calm {s : State} {i : Nat} {v : BitVec 16} (hrun : s.blk.inReset = false) (hwatched : s.blk.watched i = true)
    (hcalm : (Store.get [] s.blk.pwr.hist i)[9]? = none ∨
      ∃ o, (Store.get [] s.blk.pwr.hist i)[9]? = some o ∧ v.toInt - o.toInt ≤ 640) :
    Becomes (.clampSample [(i, v)]) s (s.blk.sampled i v) := by
  refine .of_lift _ (show execClampSample [(i, v)] s = lift _ s from rfl) hrun ?_
  simp only [List.foldl_cons, List.foldl_nil, hwatched, Bool.not_true, Bool.false_eq_true, if_false]
  obtain hnone | ⟨o, ho, hrise⟩ := hcalm
  · simp only [hnone]
    rfl
  · simp only [ho, hrise, if_true]
    rfl

theorem becomes_clampSample_trip {s : State} {i : Nat} {v o : BitVec 16} (hrun : s.blk.inReset = false)
    (hwatched : s.blk.watched i = true) (ho : (Store.get [] s.blk.pwr.hist i)[9]? = some o) (hrise : 640 < v.toInt - o.toInt) :
    Becomes (.clampSample [(i, v)]) s (if s.blk.role = .die then
      ((s.blk.sampled i v).tripped i (v.toInt - o.toInt)).abortTests 3 else (s.blk.sampled i v).tripped i (v.toInt - o.toInt)) := by
  refine .of_lift _ (show execClampSample [(i, v)] s = lift _ s from rfl) hrun ?_
  simp only [List.foldl_cons, List.foldl_nil, hwatched, Bool.not_true, Bool.false_eq_true, if_false, ho]
  rw [if_neg (by omega)]
  change (if ((s.blk.sampled i v).tripped i (v.toInt - o.toInt)).role = .die then _ else _) = _
  rw [Blk.tripped_role]
  rfl

/-! ### The end of a hold, the end of an emergency -/

/-- The hold of a cluster ends now, and the point that firmware has chosen is taken up. -/
def Blk.holdEnded (b : Blk) (k : Nat) : Blk :=
  let c := (b.setClu k { b.clu k with clampAt := none }).modPwr (fun m => { m with lastCond := b.tclk })
  if c.pwr.pcLost = true ∨ (c.clu k).disabled = true then c else c.moveTo k (c.clu k).chosen

theorem becomes_clampHoldEnd {s : State} {k t : Nat} (hrun : s.blk.inReset = false) (hclamp : (s.blk.clu k).clampAt = some t) :
    Becomes (.clampHoldEnd k) s (if s.blk.passed t (s.blk.us (s.blk.reg (.pwr .PWR_CLAMP_HOLD)).toNat) = true then
      s.blk.holdEnded k else s.blk) := by
  refine .of_lift _ (show execClampHoldEnd k s = lift _ s from rfl) hrun ?_
  simp only [hclamp]
  cases s.blk.passed t (s.blk.us (s.blk.reg (.pwr .PWR_CLAMP_HOLD)).toNat) <;> rfl

theorem Blk.holdEnded_pwr (b : Blk) (k : Nat) : ((b.holdEnded k).clu k).clampAt = none ∧ (b.holdEnded k).pwr.lastCond = b.tclk := by
  have hclu : (((b.setClu k { b.clu k with clampAt := none }).modPwr (fun m => { m with lastCond := b.tclk })).clu k).clampAt = none :=
    congrArg Clu.clampAt ((Blk.clu_congr rfl k).trans (Blk.clu_setClu b k { b.clu k with clampAt := none }))
  refine iteInduction (motive := fun c : Blk => (c.clu k).clampAt = none ∧ c.pwr.lastCond = b.tclk) (fun _ => ⟨hclu, rfl⟩) (fun _ => ?_)
  obtain ⟨c, v, hmoved⟩ := Blk.moveTo_pwr ((b.setClu k { b.clu k with clampAt := none }).modPwr (fun m => { m with lastCond := b.tclk })) k
    (((b.setClu k { b.clu k with clampAt := none }).modPwr (fun m => { m with lastCond := b.tclk })).clu k).chosen
  exact ⟨(Blk.moveTo_clampAt _ k _).trans hclu, congrArg PwrState.lastCond hmoved⟩

/-- Whether a condition of an emergency holds, the time since the last one apart (R426). -/
def Blk.alarmed (b : Blk) : Bool := b.clamped || b.pwr.warnLow || b.pwr.supply || b.pwr.limit

theorem becomes_emergCalm {s : State} (hrun : s.blk.inReset = false) : Becomes .emergCalm s
    (if s.blk.pwr.emerg = true ∧ s.blk.pwr.pcLost = false ∧ s.blk.alarmed = false ∧
        s.blk.passed s.blk.pwr.lastCond (s.blk.ms (fld (s.blk.reg (.pwr .PWR_CALM)) 15 0)) = true then
      (s.blk.modPwr (fun m => { m with emerg := false })).emit 0x12 0x1202 0 s.blk.t64.toNat
     else s.blk) := by
  refine .of_lift _ (show execEmergCalm s = lift _ s from rfl) hrun ?_
  simp only [Blk.alarmed, Bool.not_eq_true', Bool.or_eq_false_iff, and_assoc]

/-! ### Supply (R422, R481) -/

theorem becomes_supplyFault {s : State} (hrun : s.blk.inReset = false) : Becomes .supplyFault s (s.blk.emergSet 3) :=
  .of_lift _ (show execSupplyFault s = lift _ s from rfl) hrun rfl

/-- The supply request in front is over, and the next one is presented. -/
def Blk.vreqOver (b : Blk) (l : List Vreq) : Blk := (b.modPwr (fun m => { m with vreqs := l })).vreqNext

theorem Blk.vreqOver_pwr (b : Blk) (l : List Vreq) :
    ∃ m, m.length = l.length ∧ (b.vreqOver l).pwr = { b.pwr with vreqs := m } := by
  cases l with
  | nil => exact ⟨[], rfl, rfl⟩
  | cons v l => exact ⟨{ v with at_ := b.tclk } :: l, rfl, rfl⟩

section
variable {s : State} {v : Vreq} {l : List Vreq} (hrun : s.blk.inReset = false) (hreq : s.blk.pwr.vreqs = v :: l)
include hrun hreq

/-- An acknowledged request moves its cluster up, where nothing keeps it down. -/
theorem becomes_vreqAck (hup : s.blk.oppSlots (s.blk.clu v.cluster).opp < s.blk.oppSlots v.opp)
    (hclamp : (s.blk.clu v.cluster).clampAt = none) (hcore : s.blk.pwr.pcLost = false)
    (hgood : (s.blk.clu v.cluster).disabled = false) (hstage : 6 < s.blk.boot.stage) : Becomes .vreqAck s
      ((s.blk.vreqOver l).setClu v.cluster { s.blk.clu v.cluster with opp := v.opp }) := by
  obtain ⟨m, -, hpwr⟩ := s.blk.vreqOver_pwr l
  have hclu : (s.blk.vreqOver l).clu v.cluster = s.blk.clu v.cluster := Blk.clu_congr ((congrArg PwrState.clus hpwr).trans rfl) _
  have hcore' : (s.blk.vreqOver l).pwr.pcLost = false := (congrArg PwrState.pcLost hpwr).trans hcore
  unfold Blk.vreqOver at hclu hcore' ⊢
  refine .of_lift _ (show execVreqAck s = lift _ s from rfl) hrun ?_
  simp only [hreq, hclu, hcore', hclamp, hgood]
  exact if_pos ⟨hup, rfl, rfl, rfl, hstage⟩

theorem becomes_vreqTimeout : Becomes .vreqTimeout s
    (if s.blk.passed v.at_ (s.blk.ms 1) = true then
      if s.blk.boot.stage = 6 then
        ((s.blk.emitAt 0x12 v.cluster 0x1505 v.cluster v.code.toNat).modPwr
          (fun m => { m with vreqs := { v with at_ := s.blk.tclk } :: l })).report 3 0x602 (w32 v.cluster)
      else (s.blk.emitAt 0x12 v.cluster 0x1505 v.cluster v.code.toNat).vreqOver l
     else s.blk) := by
  refine .of_lift _ (show execVreqTimeout s = lift _ s from rfl) hrun ?_
  simp only [hreq]
  cases s.blk.passed v.at_ (s.blk.ms 1) <;> rfl

end

theorem Blk.report_pwr (b : Blk) (r c : Nat) (d : Word) : (b.report r c d).pwr = b.pwr := by
  unfold Blk.report
  dsimp only
  split_ifs <;> simp [Blk.stageEv]

/-! ### The obligation -/

/-- Settles O49: a tick, a clamp's sample, the end of a hold and of an emergency, a supply fault, and a supply request that is acknowledged,
absent, or not answered. -/
theorem powerEvents : Obligations.PowerEvents := by
  refine ⟨fun s ts hrun => ?tick, fun s i v h hrun hwatched hh => ?sample, fun s k t hrun hclamp => ?hold,
    fun s hrun hemerg hcore hclamp hwarn hsup hlim => ?calm, fun s hrun hnot => ?alarm, fun s hrun => ?fault,
    fun s v l hrun hreq hup hclamp hcore hgood hstage => ?ack, fun s hrun hnone => ?absent, fun s v l hrun hreq => ?late⟩
  case tick =>
    have hb := becomes_powerTick ts hrun
    refine ⟨fun hoff => ?_, fun hcore hon => ?_⟩
    · rw [if_pos hoff] at hb
      exact hb.exec_self
    · rw [if_neg (by simp [hcore, hon])] at hb
      obtain ⟨hlimit, hemerg⟩ := s.blk.powerTicked_alarm (ts.filter (fun p => s.blk.watched p.1))
      refine hb.gives ?_
      rw [settle_pwr]
      refine ⟨?_, fun hlim => hemerg (hlimit.symm.trans hlim)⟩
      refine (Bool.eq_iff_iff.1 hlimit).trans ?_
      simp [Blk.tooHot]
  case sample =>
    subst hh
    refine ⟨becomes_clampSample_calm hrun hwatched, fun o ho hrise => ?_⟩
    obtain ⟨hemerg, hclu⟩ := (s.blk.sampled i v).tripped_pwr i (v.toInt - o.toInt)
    exact ⟨_, becomes_clampSample_trip hrun hwatched ho hrise, hemerg, hclu⟩
  case hold =>
    obtain ⟨hact, hskip⟩ := (becomes_clampHoldEnd hrun hclamp).of_passed
    refine ⟨hskip, fun hpassed => (hact hpassed).gives ?_⟩
    rw [settle_clu, settle_pwr]
    exact s.blk.holdEnded_pwr k
  case calm =>
    have hb := becomes_emergCalm hrun
    have hquiet : s.blk.alarmed = false := by simp [Blk.alarmed, hclamp, hwarn, hsup, hlim]
    exact ⟨fun hpassed => by rwa [if_pos ⟨hemerg, hcore, hquiet, hpassed⟩] at hb,
      fun hnot => by rw [if_neg (by simp [hnot])] at hb; exact hb.exec_self⟩
  case alarm =>
    have hb := becomes_emergCalm hrun
    rw [if_neg ?_] at hb
    · exact hb.exec_self
    · rintro ⟨hemerg, hcore, hquiet, -⟩
      simp only [Blk.alarmed, Bool.or_eq_false_iff] at hquiet
      simp [hemerg, hcore, hquiet] at hnot
  case fault =>
    refine (becomes_supplyFault hrun).gives ?_
    rw [settle_pwr, Blk.emergSet_pwr]
    exact ⟨rfl, rfl⟩
  case ack =>
    obtain ⟨m, hlen, hpwr⟩ := s.blk.vreqOver_pwr l
    refine (becomes_vreqAck hrun hreq hup hclamp hcore hgood hstage).gives ?_
    rw [settle_clu, settle_pwr, Blk.clu_setClu]
    exact ⟨rfl, (congrArg (fun p => p.vreqs.length) hpwr).trans hlen⟩
  case absent =>
    have hack := Becomes.of_lift (i := .vreqAck) (b := s.blk) _ (show execVreqAck s = lift _ s from rfl) hrun (by simp only [hnone])
    have hlate := Becomes.of_lift (i := .vreqTimeout) (b := s.blk) _ (show execVreqTimeout s = lift _ s from rfl) hrun
      (by simp only [hnone])
    exact ⟨hack.exec_self, hlate.exec_self⟩
  case late =>
    obtain ⟨hact, hskip⟩ := (becomes_vreqTimeout hrun hreq).of_passed
    refine ⟨hskip, fun hpassed hstage => ?_, fun hpassed hstage => ?_⟩ <;> have hb := hact hpassed
    · rwa [if_neg hstage] at hb
    · rw [if_pos hstage] at hb
      refine hb.gives ?_
      rw [settle_pwr, Blk.report_pwr]
      rfl

end Sys2Proof.Machine
end

section
/-!
PROOFS. Firmware and licences (R413, R416, R417, R419, R420, R430, R433): what the check of a bundle finds, what a core reads of the
handover block, what each command comes to, and the obligation put together from that.
-/

namespace Sys2Proof.Machine

/-! ### Bundles (R416, R417) -/

/-- The status with which the check of a bundle ends (Table 14-3): the signature's verdict, then format, security version and interface
version, in order. -/
def Blk.stagedCode (b : Blk) (r : Verdict) (ob : Option Bundle) : Nat :=
  match r with
  | .refuse n => n % 16
  | .ok => match ob with
    | none => 4
    | some d => if d.svn.toNat < b.fwc.svnMin.toNat then 5
                else if verOk d.ifver (b.reg (.fwc .FWC_HOST_VER)) = false then 6 else 2

/-- The check of a bundle has ended. -/
def Blk.bundleChecked (b : Blk) (r : Verdict) (ob : Option Bundle) : Blk :=
  (b.clearBusy Domain.update).modFwc (fun m => { m with
    checking := none, upd := b.stagedCode r ob, staged := (if b.stagedCode r ob = 2 then ob else m.staged) })

theorem becomes_updateStaged {s : State} {ob : Option Bundle} (r : Verdict) (hrun : s.blk.inReset = false)
    (hcheck : s.blk.fwc.checking = some ob) : Becomes (.updateStaged r) s (s.blk.bundleChecked r ob) := by
  refine .of_lift _ (show execUpdateStaged r s = lift _ s from rfl) hrun ?_
  simp only [hcheck, Bool.not_eq_true']
  rfl

theorem exec_updateStaged_skip {s : State} (r : Verdict) (hrun : s.blk.inReset = false) (hcheck : s.blk.fwc.checking = none) :
    exec (.updateStaged r) s = .next (settle s) :=
  (Becomes.of_lift (i := .updateStaged r) (b := s.blk) _ (show execUpdateStaged r s = lift _ s from rfl)
    hrun (by simp only [hcheck])).exec_self

theorem Blk.clearBusy_busy (b : Blk) (d : Domain) : (b.clearBusy d).cp.busy.contains d = false := by
  simp [Blk.clearBusy]

theorem becomes_svnRaise {s : State} (hrun : s.blk.inReset = false) : Becomes .svnRaise s
    (if s.blk.passed s.blk.fwc.since (s.blk.sec 86400) = true ∧ s.blk.fwc.upd ≠ 9 ∧
        s.blk.fwc.svnMin.toNat < s.blk.fwc.running.svn.toNat then
      s.blk.modFwc (fun m => { m with svnMin := m.running.svn }) else s.blk) :=
  .of_lift _ (show execSvnRaise s = lift _ s from rfl) hrun rfl

/-! ### The handover block (R420) -/

/-- The components that the image of a core finds in the handover block in a version that it does not accept. -/
def dropped (d : Nat) (tags : List Nat) (rs : List (Nat × Nat)) : List Nat :=
  tags.filter (fun t => match rs.find? (fun r => r.1 = t) with
    | some r => !Config.accepts d r.1 r.2
    | none => false)

/-- The components that start afresh. -/
def startsAfresh (d : Nat) (tags : List Nat) (rs : List (Nat × Nat)) : List Nat :=
  tags.filter (fun t => (dropped d tags rs).contains t || !rs.any (fun r => r.1 = t))

/-- Each component that is dropped raises FWC_HO_DROP. -/
def Blk.dropsRaised (b : Blk) (x : Nat) (l : List Nat) : Blk := l.foldl (fun b t => b.emitCore x 0x1108 x t) b

theorem Blk.hoRead_eq {b c : Blk} (x : Nat) {rs : List (Nat × Nat)} (h : b.hoBlock = (rs, c)) : b.hoRead x =
    (c.draw.2.modFwc (fun m => { m with
      hoFresh := Store.set [] m.hoFresh x (startsAfresh (Config.free c.draws) (Store.get [] b.fwc.hoTags x) rs) })).dropsRaised x
        (dropped (Config.free c.draws) (Store.get [] b.fwc.hoTags x) rs) := by
  unfold Blk.hoRead
  rw [h]
  rfl

theorem Blk.dropsRaised_fwc (b : Blk) (x : Nat) (l : List Nat) : (b.dropsRaised x l).fwc = b.fwc :=
  Blk.foldl_leaves (g := fun b t => b.emitCore x 0x1108 x t) Blk.fwc (fun _ _ => rfl) l b

theorem Blk.dropsRaised_raised (b : Blk) (x : Nat) {l : List Nat} : (b.dropsRaised x l).raised = b.raised ++
    l.map (fun t => Raise.ev ⟨0x1108, coreSrc x, BitVec.ofNat 64 x, BitVec.ofNat 48 t, false⟩) := by
  induction l generalizing b with
  | nil => exact (List.append_nil _).symm
  | cons t l ih =>
    refine (ih (b.emitCore x 0x1108 x t)).trans ?_
    rw [List.map_cons, ← List.singleton_append, ← List.append_assoc]
    rfl

theorem mem_dropped {d t v : Nat} {tags : List Nat} {rs : List (Nat × Nat)} (ht : t ∈ tags)
    (hfind : rs.find? (fun r => r.1 = t) = some (t, v)) : t ∈ dropped d tags rs ↔ Config.accepts d t v = false := by
  simp [dropped, ht, hfind]

theorem mem_startsAfresh {d t v : Nat} {tags : List Nat} {rs : List (Nat × Nat)} (ht : t ∈ tags)
    (hfind : rs.find? (fun r => r.1 = t) = some (t, v)) : t ∈ startsAfresh d tags rs ↔ Config.accepts d t v = false := by
  have hin : rs.any (fun r => r.1 = t) = true := List.any_eq_true.2 ⟨_, List.mem_of_find?_eq_some hfind, by simp⟩
  rw [startsAfresh, List.mem_filter, hin, ← mem_dropped ht hfind]
  simp [ht]

/-- Without a record every component starts afresh. -/
theorem startsAfresh_nil (d : Nat) (tags : List Nat) : startsAfresh d tags [] = tags := by simp [startsAfresh]

theorem Blk.xmRead_fwc (b : Blk) (c a n : Nat) : (b.xmRead c a n).2.2.fwc = b.fwc :=
  Blk.foldl_leaves (g := fun s l => (s.count (.err .ERR_XM_POI_IN) 1).emit 0xD 0x0E04 (64 * l) c) Blk.fwc (fun _ _ => rfl) _ b

theorem Blk.hoBlock_eq {b c d : Blk} {h body : List Byte} {p q : Bool} (hhead : b.xmRead 0x3F b.hoBase 64 = (h, p, c))
    (hbody : c.xmRead 0x3F (c.hoBase + 64) (leAt h 20 4) = (body, q, d)) : b.hoBlock =
      (if slice h 0 4 ≠ leBytes 4 0x48420001 ∨ leAt h 24 4 ≠ (crc32c body).toNat then [] else hoParse (leAt h 16 4) body, d) := by
  unfold Blk.hoBlock
  rw [hhead]
  dsimp only
  rw [hbody]

theorem Blk.hoBlock_fwc (b : Blk) : b.hoBlock.2.fwc = b.fwc := by
  rcases hhead : b.xmRead 0x3F b.hoBase 64 with ⟨h, p, c⟩
  rcases hbody : c.xmRead 0x3F (c.hoBase + 64) (leAt h 20 4) with ⟨body, q, d⟩
  rw [Blk.hoBlock_eq hhead hbody]
  have hc := b.xmRead_fwc 0x3F b.hoBase 64
  have hd := c.xmRead_fwc 0x3F (c.hoBase + 64) (leAt h 20 4)
  rw [hhead] at hc
  rw [hbody] at hd
  exact hd.trans hc

theorem Blk.hoRead_cores (b : Blk) (x : Nat) : (b.hoRead x).fwc.cores = b.fwc.cores := by
  rcases hblock : b.hoBlock with ⟨rs, c⟩
  have hfwc := b.hoBlock_fwc
  rw [hblock] at hfwc
  rw [b.hoRead_eq x hblock, Blk.dropsRaised_fwc]
  refine Eq.trans ?_ (congrArg FwcState.cores hfwc)
  rfl

theorem Blk.hoFresh_hoRead {b c : Blk} (x : Nat) {rs : List (Nat × Nat)} (h : b.hoBlock = (rs, c)) :
    Store.get [] (b.hoRead x).fwc.hoFresh x = startsAfresh (Config.free c.draws) (Store.get [] b.fwc.hoTags x) rs := by
  rw [b.hoRead_eq x h, Blk.dropsRaised_fwc]
  refine (Store.get_set _ _ _ _ _).trans ?_
  rw [if_pos rfl]

/-! ### A core that takes over (R419) -/

theorem Blk.updCheck_cores (b : Blk) : b.updCheck.fwc.cores = b.fwc.cores := by
  unfold Blk.updCheck
  split
  · rfl
  · split <;> rfl

theorem Blk.fcore_congr {b c : Blk} (h : c.fwc.cores = b.fwc.cores) (x : Nat) : c.fcore x = b.fcore x := by simp [Blk.fcore, h]

@[simp] theorem settle_fcore (s : State) (x : Nat) : (settle s).blk.fcore x = s.blk.fcore x := Blk.fcore_congr (by rw [settle_fwc]) x

/-- A core as its next image runs it. -/
def FCore.takenOver (v : FCore) (img : Word) (now : Nat) : FCore :=
  { v with st := .run, prevImg := v.img, img := img, onPrev := false, tookAt := some now }

theorem becomes_handoverComplete {s : State} {x : Nat} {b : Bundle} (hrun : s.blk.inReset = false) (hactive : s.blk.fwc.active = some b)
    (hst : (s.blk.fcore x).st = .handover) : Becomes (.handoverComplete x) s
      ((((s.blk.setCore x ((s.blk.fcore x).takenOver b.fwver s.blk.tclk)).hoRead x).emitCore x 0x1103 b.fwver.toNat x).updCheck) := by
  refine .of_lift _ (show execHandoverComplete x s = lift _ s from rfl) hrun ?_
  simp only [hactive, hst, ne_eq, not_true_eq_false, if_false]
  rfl

theorem exec_handoverComplete_skip {s : State} {x : Nat} (hrun : s.blk.inReset = false)
    (h : s.blk.fwc.active = none ∨ (s.blk.fcore x).st ≠ .handover) : exec (.handoverComplete x) s = .next (settle s) := by
  refine (Becomes.of_lift (i := .handoverComplete x) (b := s.blk) _ (show execHandoverComplete x s = lift _ s from rfl) hrun ?_).exec_self
  cases hactive : s.blk.fwc.active with
  | none => rfl
  | some b => exact if_pos (h.resolve_left (by simp [hactive]))

/-! ### Components, deadlines (R413, R430) -/

theorem becomes_componentFault {s : State} (x n : Nat) (hrun : s.blk.inReset = false) : Becomes (.componentFault x n) s
    (if s.blk.hasCore x = true then s.blk.emitCore x 0x1107 x (n % 65536) else s.blk) :=
  .of_lift _ (show execComponentFault x n s = lift _ s from rfl) hrun rfl

/-- The deadlines of a lost core that are due are taken off it, and each that belongs to a running collection faults it (R413). -/
def Blk.deadlinesPast (b : Blk) (k : Nat) (due : List (Nat × Dword)) : Blk :=
  due.foldl (fun s d => if (s.coll d.1).st = .running then s.faultColl d.1 (w32 (5 <<< 20)) 0 else s)
    (b.setCore (0x40 + k) { b.fcore (0x40 + k) with deadline := (b.fcore (0x40 + k)).deadline.filter (fun d => !due.contains d) })

theorem becomes_ccDeadline {s : State} (k : Nat) (hrun : s.blk.inReset = false) : Becomes (.ccDeadline k) s
    (if s.blk.coreLost (0x40 + k) = true then s.blk.deadlinesPast k
        ((s.blk.fcore (0x40 + k)).deadline.filter (fun d => decide (d.2.toNat ≤ s.blk.t64.toNat)))
      else s.blk) := by
  refine .of_lift _ (show execCcDeadline k s = lift _ s from rfl) hrun ?_
  cases hlost : s.blk.coreLost (0x40 + k) <;> simp only [hlost] <;> rfl

/-! ### Licences (R433) -/

/-- The check of a licence ends with a licence to store, or with the reason why there is none. -/
def Blk.licenceChecked (b : Blk) : Nat → Option Licence → Blk
  | 0, some l =>
    (((b.modLic (fun m => { m with checking := none })).modLic (fun m => { m with stored := some l, newer := true })).setReg
      (.lic .LIC_RESULT) 6).emit 0x13 0x1301 l.serial.toNat (roleCode l.role)
  | n, _ => ((b.modLic (fun m => { m with checking := none })).setReg (.lic .LIC_RESULT) (w32 (2 + n <<< 4))).emit 0x13 0x1302 n 0

theorem becomes_licenceResult {s : State} {why : Nat} {ol : Option Licence} (r : Verdict) (hrun : s.blk.inReset = false)
    (hcheck : s.blk.lic.checking = some (why, ol)) : Becomes (.licenceResult r) s
      (s.blk.licenceChecked (match r with | .refuse n => n % 16 | .ok => why) ol) := by
  refine .of_lift _ (show execLicenceResult r s = lift _ s from rfl) hrun ?_
  simp only [hcheck]
  rfl

theorem exec_licenceResult_skip {s : State} (r : Verdict) (hrun : s.blk.inReset = false) (hcheck : s.blk.lic.checking = none) :
    exec (.licenceResult r) s = .next (settle s) :=
  (Becomes.of_lift (i := .licenceResult r) (b := s.blk) _ (show execLicenceResult r s = lift _ s from rfl)
    hrun (by simp only [hcheck])).exec_self

/-- A licence whose check finds a reason against it leaves the stored one as it is. -/
theorem Blk.licenceChecked_refused (b : Blk) {n : Nat} (ol : Option Licence) (hn : n ≠ 0) : b.licenceChecked n ol =
    ((b.modLic (fun m => { m with checking := none })).setReg (.lic .LIC_RESULT) (w32 (2 + n <<< 4))).emit 0x13 0x1302 n 0 := by
  obtain ⟨m, rfl⟩ := Nat.exists_eq_succ_of_ne_zero hn
  rfl

theorem Blk.licenceChecked_refused_holds (b : Blk) {n : Nat} (ol : Option Licence) (hn : n ≠ 0) :
    (b.licenceChecked n ol).lic.stored = b.lic.stored ∧ (b.licenceChecked n ol).reg (.lic .LIC_RESULT) = w32 (2 + n <<< 4) := by
  rw [b.licenceChecked_refused ol hn, Blk.emit_reg, Blk.reg_setReg]
  exact ⟨rfl, rfl⟩

theorem Blk.licenceChecked_checking (b : Blk) (n : Nat) (ol : Option Licence) : (b.licenceChecked n ol).lic.checking = none := by
  rcases n with _ | n <;> cases ol <;> rfl

theorem Blk.licenceChecked_valid_reg (b : Blk) (l : Licence) : (b.licenceChecked 0 (some l)).reg (.lic .LIC_RESULT) = 6 := by
  rw [Blk.licenceChecked, Blk.emit_reg, Blk.reg_setReg]

/-- Settles O48: each command writes down one outcome of the units; the check of a bundle or of a licence is a case split on what it
found, and a core reads of the handover block which components to drop and which to start afresh. -/
theorem firmwareAndLicence : Obligations.FirmwareAndLicence := by
  unfold Obligations.FirmwareAndLicence
  refine ⟨fun s r hrun => ⟨fun hnone => ?idle, fun ob hcheck => ?staged⟩, fun s hrun => ?svn,
    fun s x hrun => ⟨exec_handoverComplete_skip hrun, fun b hactive hst => ?takeover⟩,
    fun b c d h body p q hhead hbody => ?block, fun b d x rs hblock => ?read, fun s x n hrun => ?component,
    fun s k due hrun hdue => ?deadline, fun s r hrun => ⟨exec_licenceResult_skip r hrun, fun why ol hcheck => ?licence⟩⟩
  case idle => exact exec_updateStaged_skip r hrun hnone
  case staged =>
    refine (becomes_updateStaged r hrun hcheck).gives ?_
    rw [settle_fwc, settle_cp]
    refine ⟨rfl, s.blk.clearBusy_busy _, ?refuse, ?format, ?version, ?interface, ?good, fun hne => if_neg hne⟩
    case refuse =>
      rintro n rfl
      rfl
    case format =>
      rintro rfl rfl
      rfl
    case version =>
      rintro b rfl rfl hlow
      exact if_pos hlow
    case interface =>
      rintro b rfl rfl hsvn hver
      exact (if_neg hsvn.not_gt).trans (if_pos hver)
    case good =>
      rintro b rfl rfl hsvn hver
      have hcode : s.blk.stagedCode .ok (some b) = 2 := (if_neg hsvn.not_gt).trans (if_neg (by simp [hver]))
      exact ⟨hcode, if_pos hcode⟩
  case svn =>
    have hb := becomes_svnRaise hrun
    refine ⟨fun hday hupd hlow => ?_, fun hnot => ?_⟩
    · rw [if_pos ⟨hday, hupd, hlow⟩] at hb
      refine hb.gives ?_
      rw [settle_fwc]
      rfl
    · rw [if_neg (by rintro ⟨hday, hupd, -⟩; simp [hday, hupd] at hnot)] at hb
      exact hb.exec_self
  case takeover =>
    refine (becomes_handoverComplete hrun hactive hst).gives ?_
    rw [settle_fcore, Blk.fcore_congr (Blk.updCheck_cores _)]
    exact (Blk.fcore_congr (Blk.hoRead_cores _ x) x).trans (s.blk.fcore_setCore x _)
  case block =>
    rw [Blk.hoBlock_eq hhead hbody]
    exact ⟨fun hbad => by rw [if_pos hbad], fun hfmt hcrc => by rw [if_neg (by simp [hfmt, hcrc])]⟩
  case read =>
    rw [b.hoFresh_hoRead x hblock]
    refine ⟨?_, fun t v ht hfind => ⟨fun hacc => ⟨(mem_startsAfresh ht hfind).2 hacc, ?_⟩, fun hacc => ?_⟩⟩
    · rintro rfl
      exact startsAfresh_nil _ _
    · rw [b.hoRead_eq x hblock, Blk.dropsRaised_raised]
      exact List.mem_append_right _ (List.mem_map.2 ⟨t, (mem_dropped ht hfind).2 hacc, rfl⟩)
    · rw [mem_startsAfresh ht hfind, hacc]
      exact Bool.noConfusion
  case component => exact (becomes_componentFault x n hrun).of_passed
  case deadline =>
    subst hdue
    exact (becomes_ccDeadline k hrun).of_passed.symm
  case licence =>
    refine (becomes_licenceResult r hrun hcheck).gives ?_
    rw [settle_lic, settle_reg]
    refine ⟨s.blk.licenceChecked_checking _ ol, ?_, ?_, ?_⟩
    · rintro l rfl rfl rfl
      exact ⟨rfl, rfl, s.blk.licenceChecked_valid_reg l⟩
    · rintro rfl hwhy
      exact s.blk.licenceChecked_refused_holds ol hwhy
    · rintro n rfl hn
      exact s.blk.licenceChecked_refused_holds ol hn

end Sys2Proof.Machine
end

section
/-!
PROOFS. What accepted writes do (R492, R498 and the command rows): which function of its unit a write of each register runs, what that
function leaves, and the obligation put together from that.
-/

namespace Sys2Proof.Machine

/-! ### By access code (R492) -/

/-- A write of a read-only register or of one that a read clears leaves everything as it is. -/
theorem State.writeReg_of_readOnly (s : State) (a : Access) (r : Reg) (v : Word)
    (h : (r.info s.blk.conf).acc = .ro ∨ (r.info s.blk.conf).acc = .rc) : s.writeReg a r v = s := by
  rcases h with h | h <;> simp only [State.writeReg, h]

theorem State.writeReg_of_w1c (s : State) (a : Access) (r : Reg) (v : Word) (h : (r.info s.blk.conf).acc = .w1c) :
    s.writeReg a r v = s.modBlk (fun b => b.setReg r (b.reg r &&& ~~~(v &&& (r.info s.blk.conf).mask))) := by
  simp only [State.writeReg, h]

/-- The error unit has no command among its RW registers: a write stores the writable bits. -/
theorem State.writeReg_err_of_rw (s : State) (a : Access) (e : ErrReg) (v : Word) (h : ((Reg.err e).info s.blk.conf).acc = .rw) :
    s.writeReg a (.err e) v = s.modBlk (fun b => b.setReg (.err e) (v &&& ((Reg.err e).info s.blk.conf).mask)) := by
  simp only [State.writeReg, h]
  rfl

/-! ### Which command a write runs -/

section
variable (s : State) (a : Access) (n : Nat) (v : Word)

theorem writeReg_stampPop : s.writeReg a (.tim .TIM_TSF_POP) v = s.modBlk (fun b => b.wrTsfPop v) := rfl

theorem writeReg_triggerTime :
    s.writeReg a (.tim (.TIM_TTn_TIME_LO n)) v = s.modBlk (fun b => (b.wrTtTime n v).setBusy .time) := rfl

theorem writeReg_probeCtrl : s.writeReg a (.prb .PRB_CTRL) v = s.modBlk (fun b => b.wrPrbCtrl v) := rfl

theorem writeReg_fwRelease : s.writeReg a (.rcp .RCP_FW_RELEASE) v = s.modBlk (fun b => b.wrFwRelease v) := rfl

theorem writeReg_authGo : s.writeReg a (.ctr .CTR_AUTH_GO) v = s.modBlk (fun b => b.wrAuthGo v) := rfl

theorem writeReg_treLoad : s.writeReg a (.tre (.TRE_En_LOAD n)) v = s.modBlk (fun b => b.wrTreLoad n v) := rfl

theorem writeReg_inject : s.writeReg a (.evr .EVR_INJ_CODE) v = s.modBlk (fun b => b.wrInject a.ini (v &&& 0xFFFF#32)) := rfl

theorem writeReg_flushNow : s.writeReg a (.evr .EVR_FLUSH_NOW) v = s.modBlk (fun b => b.wrFlushNow v) := rfl

theorem writeReg_snapTrig : s.writeReg a (.snp .SNP_TRIG) v = s.modBlk (fun b => b.wrSnpTrig v) := rfl

theorem writeReg_ceReport : s.writeReg a (.hlt .HLT_CE_REPORT) v = s.modBlk (fun b => b.wrCeReport (v &&& BitVec.allOnes 32)) := rfl

theorem writeReg_bootGo : s.writeReg a (.boot .BOOT_GO) v = s.modBlk (fun b => b.wrBootGo v) := rfl

theorem writeReg_updGo : s.writeReg a (.fwc .FWC_UPD_GO) v = s.modBlk (fun b => b.wrUpdGo v) := rfl

theorem guardApply_snapRelease : s.guardApply (.snp .SNP_RELEASE) v =
    (s.modBlk (fun b => b.setReg (.snp .SNP_RELEASE) (v &&& 1))).wrRelease (v &&& 1) := rfl

theorem guardApply_stress : s.guardApply (.hlt .HLT_STRESS) v =
    s.modBlk (fun b => b.wrStress (v &&& ((Reg.hlt .HLT_STRESS).info s.blk.conf).mask)) := rfl

theorem guardApply_licInstall : s.guardApply (.lic .LIC_INSTALL) v = s.modBlk (fun b => b.wrLicInstall (v &&& 1)) := rfl

end

/-- Bit 0 of a value stands in its one writable bit. -/
theorem bit_and_one (v : Word) : bit (v &&& 1) 0 = bit v 0 := by simp [bit]

/-! ### What each command leaves -/

section
variable (b : Blk)

theorem Blk.setBusy_time (d : Domain) : (b.setBusy d).time = b.time := by
  unfold Blk.setBusy
  split <;> rfl

theorem Blk.setBusy_fwc (d : Domain) : (b.setBusy d).fwc = b.fwc := by
  unfold Blk.setBusy
  split <;> rfl

theorem Blk.wrTsfPop_fifo (v : Word) : (b.wrTsfPop v).time.fifo = if bit v 0 then b.time.fifo.drop 1 else b.time.fifo :=
  apply_ite (fun c : Blk => c.time.fifo) (bit v 0 = true) _ _

theorem Blk.wrTtTime_ttNext (n : Nat) (v : Word) : Store.get 0 (b.wrTtTime n v).time.ttNext n =
    BitVec.ofNat 64 (hiLo ((b.setReg (.tim (.TIM_TTn_TIME_LO n)) v).reg (.tim (.TIM_TTn_TIME_HI n))) v) :=
  (Store.get_set _ _ _ _ _).trans (if_pos rfl)

/-- With DIG_EN at 0 the write empties the digest store, and neither the window of BW_EN nor that of the sensors fills it again. -/
theorem Blk.wrPrbCtrl_digests {v : Word} (hoff : bit v 3 = false) : (b.wrPrbCtrl v).prb.digests = [] := by
  simp only [Blk.wrPrbCtrl, hoff]
  refine iteInduction (motive := fun c : Blk => c.prb.digests = []) (fun _ => ?_) (fun _ => ?_) <;>
    exact iteInduction (motive := fun c : Blk => c.prb.digests = []) (fun _ => rfl) (fun _ => rfl)

theorem Blk.wrFwRelease_frozen {v : Word} (hgo : bit v 0 = true) (hfrozen : b.rcp.fwFrozen = true) : b.wrFwRelease v =
    (b.modRcp (fun r => { r with fwFrozen := false })).emit 4 0x0402 0 (b.fwAlm.toNat % 2 ^ 48) := if_pos ⟨hgo, hfrozen⟩

theorem Blk.wrAuthGo_taken {v : Word} (hgo : bit v 0 = true) :
    (b.wrAuthGo v).reg (.ctr .CTR_AUTH_RESULT) = 1 ∧ (b.wrAuthGo v).trace.checking.isSome = true := by
  simp only [Blk.wrAuthGo, hgo, Bool.not_true, Bool.false_eq_true, ↓reduceIte]
  exact ⟨(Blk.reg_congr (s := b.setReg (.ctr .CTR_AUTH_RESULT) 1) rfl rfl _).trans (b.reg_setReg _ _), rfl⟩

theorem Blk.wrTreLoad_eq (n : Nat) (v : Word) : b.wrTreLoad n v = if bit v 0 then b.setSlot n { b.slot n with
    loading := true, loadAt := b.tclk, loadCtl := b.reg (.tre (.TRE_En_CTRL n))
    loadAddr := b.reg2 (.tre (.TRE_En_ADDR_HI n)) (.tre (.TRE_En_ADDR_LO n)) } else b := by
  unfold Blk.wrTreLoad
  cases hbit : bit v 0 <;> rfl

theorem code_inject (v : Word) : BitVec.ofNat 16 (fld (v &&& 0xFFFF#32) 15 0) = v.setWidth 16 := by
  apply BitVec.eq_of_toNat_eq
  simp [fld, Nat.and_two_pow_sub_one_eq_mod v.toNat 16]

theorem Blk.wrInject_raised (init : Nat) (v : Word) : ∃ e : Ev, e.code = BitVec.ofNat 16 (fld v 15 0) ∧ e.src = hostSrc init ∧
    (b.wrInject init v).raised = b.raised ++ [.ev e] := ⟨_, rfl, rfl, rfl⟩

theorem Blk.wrStress_manual (v : Word) (hdie : b.role = .die) : (b.wrStress v).hlt.manual =
    if bit v 31 then some (fld v 24 16, bit v 0, bit v 1) else none := by
  unfold Blk.wrStress
  exact congrArg (fun c : Blk => c.hlt.manual) (if_neg (fun h => h hdie))

/-- A report adds to the total of its entity, and a total up to HLT_CE_THR puts nothing on the list. -/
theorem Blk.wrCeReport_total {v : Word} {i k : Nat}
    (hi : i = (b.setReg (.hlt .HLT_CE_REPORT) v).pairVal (.hlt .HLT_CE_ENT_HI) (.hlt .HLT_CE_ENT_LO) % 2 ^ 48)
    (hk : k = Store.get 0 b.hlt.ceTot i + v.toNat) (hthr : k ≤ ((b.setReg (.hlt .HLT_CE_REPORT) v).reg (.hlt .HLT_CE_THR)).toNat) :
    Store.get 0 (b.wrCeReport v).hlt.ceTot i = k := by
  subst hi hk
  unfold Blk.wrCeReport
  refine (congrArg (fun c : Blk => Store.get 0 c.hlt.ceTot _) (if_neg (Nat.not_lt.2 hthr))).trans ?_
  exact (Store.get_set _ _ _ _ _).trans (if_pos rfl)

theorem Blk.wrBootGo_passes {v : Word} (hwait : b.boot.waitGo = true) (hstage : b.boot.stage = 2) (hgo : bit v 0 = true) :
    (b.wrBootGo v).boot.stage = 3 ∧ (b.wrBootGo v).boot.waitGo = false := by
  obtain ⟨e, he⟩ := (b.modBoot (fun m => { m with waitGo := false })).report_boot pass 0x200 0
  rw [Blk.wrBootGo, if_neg (by simp [hwait, hstage, hgo])]
  exact ⟨rfl, congrArg BootState.waitGo he⟩

theorem Blk.wrUpdGo_lost {v : Word} (hgo : bit v 0 = true) (hlost : b.secLost = true) :
    b.wrUpdGo v = b.modFwc (fun m => { m with upd := 0xA }) := by simp [Blk.wrUpdGo, hgo, hlost]

theorem Blk.wrUpdGo_checks {v : Word} (hgo : bit v 0 = true) (hlost : b.secLost = false) : (b.wrUpdGo v).fwc.upd = 1 := by
  simp only [Blk.wrUpdGo, hgo, hlost, Bool.not_true, Bool.false_eq_true, ↓reduceIte, Blk.setBusy_fwc, Blk.modFwc_fwc]

theorem Blk.wrLicInstall_checks {v : Word} (hgo : bit v 0 = true) (hlost : b.secLost = false) :
    (b.wrLicInstall v).reg (.lic .LIC_RESULT) = 1 ∧ (b.wrLicInstall v).lic.checking.isSome = true := by
  have hlost' : (b.setReg (.lic .LIC_INSTALL) v).secLost = false := hlost
  simp only [Blk.wrLicInstall, hgo, hlost', Bool.not_true, Bool.false_eq_true, ↓reduceIte]
  exact ⟨Blk.reg_setReg _ _ _, rfl⟩

theorem Blk.wrLicInstall_lost {v : Word} (hgo : bit v 0 = true) (hlost : b.secLost = true) :
    (b.wrLicInstall v).reg (.lic .LIC_RESULT) = 0x52 := by
  have hlost' : (b.setReg (.lic .LIC_INSTALL) v).secLost = true := hlost
  simp only [Blk.wrLicInstall, hgo, hlost', Bool.not_true, Bool.false_eq_true, ↓reduceIte, Blk.emit_reg, Blk.reg_setReg]
  rfl

end

/-- Settles O57: by the access code of the register, and for a command row by what the command of its unit leaves. -/
theorem writeEffects : Obligations.WriteEffects := by
  unfold Obligations.WriteEffects
  refine ⟨fun s a r v => ⟨s.writeReg_of_readOnly a r v, fun hacc => ?w1c⟩, fun s a e v hacc => ?err,
    fun s a v => s.blk.wrTsfPop_fifo v, fun s a n v => ?trigger, fun s a v hoff => s.blk.wrPrbCtrl_digests hoff, fun s a v hgo hfrozen => ?release,
    fun s a v hgo => s.blk.wrAuthGo_taken hgo, fun s a n v => s.blk.wrTreLoad_eq n v, fun s a v => ?inject, fun s a v => ?flush,
    fun s a v => ?snap, fun s v => ?unfreeze, fun s v hdie => s.blk.wrStress_manual _ hdie, fun s a v i k hi hk hthr => ?report,
    fun s a v hwait hstage hgo => s.blk.wrBootGo_passes hwait hstage hgo,
    fun s a v hgo => ⟨s.blk.wrUpdGo_lost hgo, fun hlost => ?update⟩, fun s v hgo => ?install⟩
  case w1c =>
    rw [s.writeReg_of_w1c a r v hacc]
    exact s.blk.reg_setReg r _
  case err =>
    rw [s.writeReg_err_of_rw a e v hacc]
    exact s.blk.reg_setReg (.err e) _
  case trigger =>
    rw [writeReg_triggerTime]
    exact (congrArg (fun t => Store.get 0 t.ttNext n) (Blk.setBusy_time _ _)).trans (s.blk.wrTtTime_ttNext n v)
  case release =>
    have heq : (s.writeReg a (.rcp .RCP_FW_RELEASE) v).blk = _ := s.blk.wrFwRelease_frozen hgo hfrozen
    rw [heq]
    exact ⟨rfl, _, rfl, rfl⟩
  case inject =>
    obtain ⟨e, hcode, hsrc, hraised⟩ := s.blk.wrInject_raised a.ini (v &&& 0xFFFF#32)
    exact ⟨e, hcode.trans (code_inject v), hsrc, hraised⟩
  case flush => exact apply_ite Blk.raised (bit v 0 = true) _ _
  case snap => exact apply_ite Blk.raised (bit v 0 = true) _ _
  case unfreeze =>
    rw [guardApply_snapRelease, State.wrRelease, bit_and_one]
    exact apply_ite State.snap (bit v 0 = true) _ _
  case report =>
    rw [writeReg_ceReport, BitVec.and_allOnes]
    exact s.blk.wrCeReport_total hi hk hthr
  case update =>
    have hupd := s.blk.wrUpdGo_checks hgo hlost
    exact ⟨hupd, decide_eq_true hupd⟩
  case install =>
    rw [← bit_and_one] at hgo
    rw [guardApply_licInstall]
    exact ⟨s.blk.wrLicInstall_checks hgo, s.blk.wrLicInstall_lost hgo⟩

end Sys2Proof.Machine
end
